-- ==== Sys2Proof/Word.lean ====
section
/-!
DEFINITION. The words of the machine and the names of its registers.

R6, R8: bit 0 is the least significant bit; multi-byte values are little-endian (the byte order itself is decided in
Machine/Ops.lean, where bytes are put together).
-/

namespace Sys2Proof

/-- A 64-bit register value (R19). -/
abbrev Word := BitVec 64

/-- One byte of memory. -/
abbrev Byte := BitVec 8

/-- A 16-bit instruction parcel (R14). -/
abbrev Parcel := BitVec 16

/-- An extension register's value (R19). -/
abbrev XWord := BitVec 128

/-- g0 to g7, by number (R19). -/
abbrev Reg := Fin 8

/-- x0 to x15, by number (R19). -/
abbrev XIdx := Fin 16

/-- q0 to q7, by number (R19). -/
abbrev QIdx := Fin 8

/-- The value of a condition as a word: 1 or 0. -/
def Word.ofBool (b : Bool) : Word := if b then 1#64 else 0#64

/-- The two's complement value of a word (R47, Signed). -/
def Word.signed (w : Word) : Int := w.toInt

/-- An integer modulo 2^64 (R47). -/
def Word.ofInt (i : Int) : Word := BitVec.ofInt 64 i

/-- A natural number modulo 2^64 (R47). -/
def Word.ofNat (n : Nat) : Word := BitVec.ofNat 64 n

end Sys2Proof
end

