-- ==== Sys2Proof/Config.lean ====
section
/-!
DEFINITION. What the specification leaves to an implementation, and the free values: constants without a body, so that
nothing can be proved of what they are. Each is named in the assumption log.
-/

namespace Sys2Proof.Config

/-- The byte that a block of flash holds after a failed command (R355: the contents are undefined), by a counter of the
state and the byte's number in the block (log 20). -/
opaque freeByte : Nat → Nat → BitVec 8

/-- A free 64-bit value, by a counter of the state (log 3). -/
opaque freeWord : Nat → BitVec 64

/-- The messages that a core's outbound queue holds beside the one that it accepts when it is empty (R81; log 55). -/
opaque outboundDepth : Nat

/-- A lane of a rim channel is read without a bit error at a tap of its read delay: stack, channel, physical lane, tap (R348,
R349; log 73). -/
opaque readEye : Nat → Nat → Nat → Nat → Bool

/-- A lane of a rim channel is written without a bit error at a tap of its write delay (R348, R349; log 73). -/
opaque writeEye : Nat → Nat → Nat → Nat → Bool

/-- What the hardware reads of, or leaves in, an 8-byte word of a rim channel whose lanes are not right: a counter of the state, the
moment, the address (R354; log 73). -/
opaque lostWord : Nat → Nat → Nat → BitVec 64

/-- The erase of a flash block by a rim wipe fails, by a counter of the state and the block (R301; log 20). -/
opaque eraseFails : Nat → Nat → Bool

/-- SHAKE256 of the bytes, taken to n bytes (R368, R370); the standard is named and not given (log 21). -/
opaque shake256 : Nat → List (BitVec 8) → List (BitVec 8)

/-- ML-DSA-65 verification of a signature over a digest by a public key: key, digest, signature (R368; log 21). -/
opaque mldsaVerify : List (BitVec 8) → List (BitVec 8) → List (BitVec 8) → Bool

/-- ML-DSA-65 signature over the bytes by the device key of a device secret and a loader digest (R370; log 21). -/
opaque deviceSign : List (BitVec 8) → List (BitVec 8) → List (BitVec 8) → List (BitVec 8)

/-- Bits [55:1] of the address at which Flatar's supervisor code is entered (R303; log 46). -/
opaque trapEntry : BitVec 55

end Sys2Proof.Config
end

