-- ==== Sys2Proof/Syntax.lean ====
section
/-!
DEFINITION. The instructions: one constructor for each row of the opcode table.

227 constructors are 32-bit encodings (R35 to R40) and 18 are 16-bit ones (R41, R42). The other 107 are the steps that
have no encoding (arrivals, engine steps, register writes with a behaviour, outside happenings). Such a step has no
operands here: where it happens (a core, a cluster, a region, a packet of the mesh) and what is written stand in the
state, in State.spot, as the issuing fibre of an encoded instruction stands in State.cur. The constructors without
operands come last.
-/

namespace Sys2Proof

/-- The rounding mode named by mod8 of major 0x0C: 0 takes cr.fpmode, 1 to 4 name a mode (R36). -/
inductive RoundSel where
  | fpmode | rne | rtz | rup | rdn
deriving DecidableEq, Repr

/-- The scope of a FENCE (R37, R76). -/
inductive Scope where
  | core | quad | cluster | region | wafer | system
deriving DecidableEq, Repr

/-- The level of a barrier (R37, R125). -/
inductive Level where
  | core | quad | cluster | region | wafer
deriving DecidableEq, Repr

/-- The effective-address mode of a load or store (R23): mode 00 with its scaled displacement, mode 01 with its index
register, mode 10 with post-increment. -/
inductive MemMode where
  | disp (imm : BitVec 11) | index (idx : Reg) | postInc
deriving DecidableEq, Repr

/-- The effective-address mode of an atomic: modes 00 and 10 only (R38). -/
inductive AtomMode where
  | disp (imm : BitVec 11) | postInc
deriving DecidableEq, Repr

/-- The effective-address mode of XLD (R23, R25), with a displacement in units of 16 bytes. -/
inductive XldMode where
  | disp (imm : BitVec 10) | index (idx : Reg) | postInc
deriving DecidableEq, Repr

/-- The operation of ALU.S and ACC.S, named by fn5 (R42). -/
inductive CompactOp where
  | add | sub | and | or | xor | mov | sll | srl | sra | mul | slt | sltu
deriving DecidableEq, Repr

/-- The instructions and steps of the machine, the opcode table's rows. -/
inductive Instr where
  /-- Writes the sum of two g registers modulo 2^64 to rd. (R48) -/
  | add (rd rs1 rs2 : Reg)
  /-- Writes the difference of two g registers modulo 2^64 to rd. (R48) -/
  | sub (rd rs1 rs2 : Reg)
  /-- Writes the bitwise AND of two registers to rd. (R48) -/
  | and (rd rs1 rs2 : Reg)
  /-- Writes the bitwise OR of two registers to rd. (R48) -/
  | or (rd rs1 rs2 : Reg)
  /-- Writes the bitwise XOR of two registers to rd. (R48) -/
  | xor (rd rs1 rs2 : Reg)
  /-- Writes a AND NOT b to rd. (R48) -/
  | andn (rd rs1 rs2 : Reg)
  /-- Writes a OR NOT b to rd. (R48) -/
  | orn (rd rs1 rs2 : Reg)
  /-- Writes NOT (a XOR b) to rd. (R48) -/
  | xnor (rd rs1 rs2 : Reg)
  /-- Writes the low 64 bits of the product to rd. (R48) -/
  | mul (rd rs1 rs2 : Reg)
  /-- Writes the high 64 bits of the signed product to rd. (R48) -/
  | mulh (rd rs1 rs2 : Reg)
  /-- Writes the high 64 bits of the unsigned product to rd. (R48) -/
  | mulhu (rd rs1 rs2 : Reg)
  /-- Writes the signed quotient truncated toward zero, with defined results for division by zero and overflow. (R49) -/
  | div (rd rs1 rs2 : Reg)
  /-- Writes the unsigned quotient, all ones for division by zero. (R49) -/
  | divu (rd rs1 rs2 : Reg)
  /-- Writes the signed remainder taking the dividend's sign. (R49) -/
  | rem (rd rs1 rs2 : Reg)
  /-- Writes the unsigned remainder. (R49) -/
  | remu (rd rs1 rs2 : Reg)
  /-- Writes the signed lesser of two registers. (R48) -/
  | min (rd rs1 rs2 : Reg)
  /-- Writes the signed greater of two registers. (R48) -/
  | max (rd rs1 rs2 : Reg)
  /-- Writes the unsigned lesser of two registers. (R48) -/
  | minu (rd rs1 rs2 : Reg)
  /-- Writes the unsigned greater of two registers. (R48) -/
  | maxu (rd rs1 rs2 : Reg)
  /-- Copies one g register to another. (R48) -/
  | mov (rd rs1 : Reg)
  /-- Shifts left by the low six bits of rs2. (R50) -/
  | sll (rd rs1 rs2 : Reg)
  /-- Shifts right logically by the low six bits of rs2. (R50) -/
  | srl (rd rs1 rs2 : Reg)
  /-- Shifts right arithmetically by the low six bits of rs2. (R50) -/
  | sra (rd rs1 rs2 : Reg)
  /-- Rotates left by the low six bits of rs2. (R50) -/
  | rol (rd rs1 rs2 : Reg)
  /-- Rotates right by the low six bits of rs2. (R50) -/
  | ror (rd rs1 rs2 : Reg)
  /-- Writes 1 if the registers are equal, else 0. (R50) -/
  | seq (rd rs1 rs2 : Reg)
  /-- Writes 1 if the registers differ, else 0. (R50) -/
  | sne (rd rs1 rs2 : Reg)
  /-- Writes 1 if a is signed-less than b. (R50) -/
  | slt (rd rs1 rs2 : Reg)
  /-- Writes 1 if a is unsigned-less than b. (R50) -/
  | sltu (rd rs1 rs2 : Reg)
  /-- Writes 1 if a is signed-less than or equal to b. (R50) -/
  | sle (rd rs1 rs2 : Reg)
  /-- Writes 1 if a is unsigned-less than or equal to b. (R50) -/
  | sleu (rd rs1 rs2 : Reg)
  /-- Writes a if the old rd is non-zero, else b. (R50) -/
  | sel (rd rs1 rs2 : Reg)
  /-- Counts leading zero bits. (R50) -/
  | clz (rd rs1 : Reg)
  /-- Counts trailing zero bits. (R50) -/
  | ctz (rd rs1 : Reg)
  /-- Counts one bits. (R50) -/
  | popc (rd rs1 : Reg)
  /-- Reverses the eight bytes of a register. (R50) -/
  | bswap (rd rs1 : Reg)
  /-- Writes a plus b shifted left by the mod8 count 0 to 3. (R50) -/
  | lea (rd rs1 rs2 : Reg) (shift : BitVec 2)
  /-- Adds a sign-extended 16-bit immediate. (R51) -/
  | addi (rd rs1 : Reg) (imm : BitVec 16)
  /-- ANDs with a sign-extended immediate. (R51) -/
  | andi (rd rs1 : Reg) (imm : BitVec 16)
  /-- ORs with a zero-extended immediate. (R51) -/
  | ori (rd rs1 : Reg) (imm : BitVec 16)
  /-- XORs with a zero-extended immediate. (R51) -/
  | xori (rd rs1 : Reg) (imm : BitVec 16)
  /-- Writes 1 if a is signed-less than the immediate. (R51) -/
  | slti (rd rs1 : Reg) (imm : BitVec 16)
  /-- Writes 1 if a is unsigned-less than the sign-extended immediate. (R51) -/
  | sltiu (rd rs1 : Reg) (imm : BitVec 16)
  /-- Multiplies by a sign-extended immediate modulo 2^64. (R51) -/
  | muli (rd rs1 : Reg) (imm : BitVec 16)
  /-- Shifts left by an immediate count. (R51) -/
  | slli (rd rs1 : Reg) (count : BitVec 6)
  /-- Shifts right logically by an immediate count. (R51) -/
  | srli (rd rs1 : Reg) (count : BitVec 6)
  /-- Shifts right arithmetically by an immediate count. (R51) -/
  | srai (rd rs1 : Reg) (count : BitVec 6)
  /-- Writes 1 if a equals the sign-extended immediate. (R51) -/
  | seqi (rd rs1 : Reg) (imm : BitVec 16)
  /-- Writes 1 if a differs from the sign-extended immediate. (R51) -/
  | snei (rd rs1 : Reg) (imm : BitVec 16)
  /-- Loads a sign-extended 22-bit immediate. (R52) -/
  | li (rd : Reg) (imm : BitVec 22)
  /-- Shifts rd left by 22 and adds a signed 22-bit immediate. (R52) -/
  | lis (rd : Reg) (imm : BitVec 22)
  /-- Writes PC plus twice a signed 22-bit immediate. (R52) -/
  | addpc (rd : Reg) (imm : BitVec 22)
  /-- Writes the link and jumps PC-relative. (R54) -/
  | jal (rd : Reg) (imm : BitVec 22)
  /-- Jumps PC-relative. (R54) -/
  | j (imm : BitVec 22)
  /-- Branches when the registers are equal. (R53) -/
  | beq (rs1 rs2 : Reg) (off : BitVec 16)
  /-- Branches when the registers differ. (R53) -/
  | bne (rs1 rs2 : Reg) (off : BitVec 16)
  /-- Branches when a is signed-less than b. (R53) -/
  | blt (rs1 rs2 : Reg) (off : BitVec 16)
  /-- Branches when a is signed-greater or equal to b. (R53) -/
  | bge (rs1 rs2 : Reg) (off : BitVec 16)
  /-- Branches when a is unsigned-less than b. (R53) -/
  | bltu (rs1 rs2 : Reg) (off : BitVec 16)
  /-- Branches when a is unsigned-greater or equal to b. (R53) -/
  | bgeu (rs1 rs2 : Reg) (off : BitVec 16)
  /-- Decrements the count in rd and branches back while it was above 1. (R56) -/
  | loop (rd : Reg) (off : BitVec 16)
  /-- Jumps to a register plus offset and writes the link, trapping ALIGN on an odd target. (R55) -/
  | jalr (rd rs1 : Reg) (imm : BitVec 16)
  /-- Jumps to a register plus offset without a link. (R55) -/
  | jr (rs1 : Reg) (imm : BitVec 16)
  /-- Adds two FP32 values rounded once in the chosen mode. (R61) -/
  | fadd (rd rs1 rs2 : Reg) (mode : RoundSel)
  /-- Subtracts two FP32 values. (R61) -/
  | fsub (rd rs1 rs2 : Reg) (mode : RoundSel)
  /-- Multiplies two FP32 values. (R61) -/
  | fmul (rd rs1 rs2 : Reg) (mode : RoundSel)
  /-- Divides two FP32 values over three passes. (R61) -/
  | fdiv (rd rs1 rs2 : Reg) (mode : RoundSel)
  /-- Takes the FP32 square root over three passes. (R61) -/
  | fsqrt (rd rs1 : Reg) (mode : RoundSel)
  /-- Computes a times b plus the old rd rounded once. (R61) -/
  | fma (rd rs1 rs2 : Reg) (mode : RoundSel)
  /-- Writes the lesser FP32 operand, returning the non-NaN operand's bits. (R62) -/
  | fmin (rd rs1 rs2 : Reg)
  /-- Writes the greater FP32 operand. (R62) -/
  | fmax (rd rs1 rs2 : Reg)
  /-- Clears bit 31 of the operand. (R62) -/
  | fabs (rd rs1 : Reg)
  /-- Inverts bit 31 of the operand. (R62) -/
  | fneg (rd rs1 : Reg)
  /-- Writes 1 if the FP32 operands are equal. (R62) -/
  | feq (rd rs1 rs2 : Reg)
  /-- Writes 1 if a is less than b, raising NV for any NaN. (R62) -/
  | flt (rd rs1 rs2 : Reg)
  /-- Writes 1 if a is at most b, raising NV for any NaN. (R62) -/
  | fle (rd rs1 rs2 : Reg)
  /-- Writes a one-hot class mask of the FP32 operand. (R62) -/
  | fclass (rd rs1 : Reg)
  /-- Converts FP32 to signed 64-bit with saturation and NV. (R63) -/
  | ftoi (rd rs1 : Reg) (mode : RoundSel)
  /-- Converts FP32 to unsigned 64-bit with saturation and NV. (R63) -/
  | ftou (rd rs1 : Reg) (mode : RoundSel)
  /-- Converts signed 64-bit to FP32. (R63) -/
  | itof (rd rs1 : Reg) (mode : RoundSel)
  /-- Converts unsigned 64-bit to FP32. (R63) -/
  | utof (rd rs1 : Reg) (mode : RoundSel)
  /-- Rounds FP32 to BF16 in bits 15:0. (R63) -/
  | ftob (rd rs1 : Reg) (mode : RoundSel)
  /-- Widens BF16 to FP32 exactly. (R63) -/
  | btof (rd rs1 : Reg)
  /-- Rounds FP32 to FP16 in bits 15:0. (R63) -/
  | ftoh (rd rs1 : Reg) (mode : RoundSel)
  /-- Widens FP16 to FP32 exactly. (R63) -/
  | htof (rd rs1 : Reg)
  /-- Loads a sign-extended byte, locally or by a split-phase ACCESS. (R73) -/
  | ldB (rd base : Reg) (ea : MemMode)
  /-- Loads a sign-extended halfword. (R73) -/
  | ldH (rd base : Reg) (ea : MemMode)
  /-- Loads a sign-extended word. (R73) -/
  | ldW (rd base : Reg) (ea : MemMode)
  /-- Loads a doubleword. (R73) -/
  | ldD (rd base : Reg) (ea : MemMode)
  /-- Loads a zero-extended byte. (R73) -/
  | ldBu (rd base : Reg) (ea : MemMode)
  /-- Loads a zero-extended halfword. (R73) -/
  | ldHu (rd base : Reg) (ea : MemMode)
  /-- Loads a zero-extended word. (R73) -/
  | ldWu (rd base : Reg) (ea : MemMode)
  /-- Stores a byte, locally or as a posted ACCESS. (R73) -/
  | stB (rd base : Reg) (ea : MemMode)
  /-- Stores a halfword. (R73) -/
  | stH (rd base : Reg) (ea : MemMode)
  /-- Stores a word. (R73) -/
  | stW (rd base : Reg) (ea : MemMode)
  /-- Stores a doubleword. (R73) -/
  | stD (rd base : Reg) (ea : MemMode)
  /-- Atomically adds to a 4-byte location and returns the old value. (R75) -/
  | aaddW (rd base op : Reg) (ea : AtomMode)
  /-- Atomically adds to an 8-byte location and returns the old value. (R75) -/
  | aaddD (rd base op : Reg) (ea : AtomMode)
  /-- Atomically swaps a 4-byte location. (R75) -/
  | aswapW (rd base op : Reg) (ea : AtomMode)
  /-- Atomically swaps an 8-byte location. (R75) -/
  | aswapD (rd base op : Reg) (ea : AtomMode)
  /-- Atomically stores the signed minimum in a 4-byte location. (R75) -/
  | aminW (rd base op : Reg) (ea : AtomMode)
  /-- Atomically stores the signed minimum in an 8-byte location. (R75) -/
  | aminD (rd base op : Reg) (ea : AtomMode)
  /-- Atomically stores the signed maximum in a 4-byte location. (R75) -/
  | amaxW (rd base op : Reg) (ea : AtomMode)
  /-- Atomically stores the signed maximum in an 8-byte location. (R75) -/
  | amaxD (rd base op : Reg) (ea : AtomMode)
  /-- Atomically ANDs into a 4-byte location. (R75) -/
  | aandW (rd base op : Reg) (ea : AtomMode)
  /-- Atomically ANDs into an 8-byte location. (R75) -/
  | aandD (rd base op : Reg) (ea : AtomMode)
  /-- Atomically ORs into a 4-byte location. (R75) -/
  | aorW (rd base op : Reg) (ea : AtomMode)
  /-- Atomically ORs into an 8-byte location. (R75) -/
  | aorD (rd base op : Reg) (ea : AtomMode)
  /-- Atomically XORs into a 4-byte location. (R75) -/
  | axorW (rd base op : Reg) (ea : AtomMode)
  /-- Atomically XORs into an 8-byte location. (R75) -/
  | axorD (rd base op : Reg) (ea : AtomMode)
  /-- Atomically compares a 4-byte location with rd and swaps on a match. (R75) -/
  | acasW (rd base op : Reg) (ea : AtomMode)
  /-- Atomically compares an 8-byte location with rd and swaps on a match. (R75) -/
  | acasD (rd base op : Reg) (ea : AtomMode)
  /-- Waits until the fibre's operations within the scope are performed, then raises any owed refusal. (R76) -/
  | fence (scope : Scope)
  /-- Injects a RUN word or record to a rank, posted. (R82) -/
  | send (rs1 rs2 : Reg)
  /-- Injects a COUNT decrement to a counter on another core. (R83) -/
  | sendc (rs1 rs2 : Reg)
  /-- Injects a DEPOSIT of a value through a handle. (R84) -/
  | dep (rs1 rs2 : Reg)
  /-- Writes a handle to a register of the fibre and marks that register pending. (R84) -/
  | bind (rd rs1 : Reg)
  /-- Arms a counter entry of the core with a count and handler. (R83) -/
  | cntset (rs1 rs2 : Reg)
  /-- Starts a fibre on the issuing core or returns all ones when no slot is free. (R85) -/
  | spawn (rd rs1 rs2 : Reg)
  /-- Settles and moves the fibre to another rank as a MIGRATE record. (R87) -/
  | mig (rs1 : Reg)
  /-- Appends a register to a core-local queue, holding while full. (R88) -/
  | qput (q : QIdx) (rs1 : Reg)
  /-- Removes the oldest queue entry into rd, holding while empty. (R88) -/
  | qget (rd : Reg) (q : QIdx)
  /-- Appends to a queue if room and writes a success flag. (R88) -/
  | qputNb (q : QIdx) (rs1 rs2 : Reg)
  /-- Removes a queue entry if any and writes a success flag. (R88) -/
  | qgetNb (rd : Reg) (q : QIdx) (rs2 : Reg)
  /-- Writes the number of entries in a queue. (R88) -/
  | qlen (rd : Reg) (q : QIdx)
  /-- Marks rd pending and latches an arrival at a barrier level. (R129) -/
  | barArv (rd rs1 : Reg) (level : Level)
  /-- Arrives at a barrier and holds the fibre until the status is written. (R129) -/
  | barWt (rd rs1 : Reg) (level : Level)
  /-- Sets the core's excuse bit at a barrier level. (R130) -/
  | barExc (level : Level)
  /-- Clears the core's excuse bit at a barrier level. (R130) -/
  | barRjn (level : Level)
  /-- Starts a bulk copy from a local source to a destination, with optional notice. (R134) -/
  | hodPush (xn : XIdx) (rd rs1 rs2 : Reg)
  /-- Starts a clipped tile copy of a tensor into a dense buffer. (R135) -/
  | hodTile (xn xm : XIdx) (rd rs1 : Reg)
  /-- Starts a multicast copy to a receiver rectangle and raises a free counter. (R136) -/
  | hodMc (xn : XIdx) (ctr : BitVec 4) (rd rs1 rs2 : Reg)
  /-- Sends one free up a multicast tree. (R138) -/
  | hodFree (rs1 : Reg)
  /-- Marks rd pending until a free counter falls to a threshold. (R139) -/
  | hodWt (ctr : BitVec 4) (rd rs1 : Reg)
  /-- Reads a free counter into rd. (R139) -/
  | hodCnt (ctr : BitVec 4) (rd : Reg)
  /-- Adds float vectors memory to memory. (R206) -/
  | vadd (xn : XIdx) (rd rs1 rs2 : Reg)
  /-- Subtracts float vectors. (R206) -/
  | vsub (xn : XIdx) (rd rs1 rs2 : Reg)
  /-- Multiplies float vectors. (R206) -/
  | vmul (xn : XIdx) (rd rs1 rs2 : Reg)
  /-- Fused multiply-adds float vectors into D. (R206) -/
  | vfma (xn : XIdx) (rd rs1 rs2 : Reg)
  /-- Takes element minima of float vectors. (R206) -/
  | vmin (xn : XIdx) (rd rs1 rs2 : Reg)
  /-- Takes element maxima of float vectors. (R206) -/
  | vmax (xn : XIdx) (rd rs1 rs2 : Reg)
  /-- Takes absolute values of a float vector. (R206) -/
  | vabs (xn : XIdx) (rd rs1 : Reg)
  /-- Negates a float vector. (R206) -/
  | vneg (xn : XIdx) (rd rs1 : Reg)
  /-- Computes 2^a per element, in the exponent unit on A clusters holding tokens. (R211) -/
  | vexp2 (xn : XIdx) (rd rs1 : Reg)
  /-- Computes correctly rounded reciprocals per element. (R206) -/
  | vrcp (xn : XIdx) (rd rs1 : Reg)
  /-- Adds integer vectors, optionally saturating. (R207) -/
  | viadd (xn : XIdx) (rd rs1 rs2 : Reg)
  /-- Subtracts integer vectors. (R207) -/
  | visub (xn : XIdx) (rd rs1 rs2 : Reg)
  /-- Multiplies integer vectors. (R207) -/
  | vimul (xn : XIdx) (rd rs1 rs2 : Reg)
  /-- Bitwise AND of integer vectors. (R207) -/
  | vand (xn : XIdx) (rd rs1 rs2 : Reg)
  /-- Bitwise OR of integer vectors. (R207) -/
  | vor (xn : XIdx) (rd rs1 rs2 : Reg)
  /-- Bitwise XOR of integer vectors. (R207) -/
  | vxor (xn : XIdx) (rd rs1 rs2 : Reg)
  /-- Shifts integer elements left. (R207) -/
  | vshl (xn : XIdx) (rd rs1 rs2 : Reg)
  /-- Shifts integer elements right. (R207) -/
  | vshr (xn : XIdx) (rd rs1 rs2 : Reg)
  /-- Writes an equality mask. (R207) -/
  | vceq (xn : XIdx) (rd rs1 rs2 : Reg)
  /-- Writes a less-than mask. (R207) -/
  | vclt (xn : XIdx) (rd rs1 rs2 : Reg)
  /-- Writes a less-or-equal mask. (R207) -/
  | vcle (xn : XIdx) (rd rs1 rs2 : Reg)
  /-- Selects a or b per element by the old D mask. (R207) -/
  | vsel (xn : XIdx) (rd rs1 rs2 : Reg)
  /-- Sums a vector to one element, exact then rounded once. (R208) -/
  | vrsum (xn : XIdx) (rd rs1 : Reg)
  /-- Reduces a vector to its maximum. (R208) -/
  | vrmax (xn : XIdx) (rd rs1 : Reg)
  /-- Reduces a vector to its minimum. (R208) -/
  | vrmin (xn : XIdx) (rd rs1 : Reg)
  /-- Writes index-value pairs for the non-zero elements of a vector on S clusters. (R209) -/
  | vnzs (xn : XIdx) (rd rs1 : Reg)
  /-- Converts FP32 elements to BF16. (R210) -/
  | vcvtBf (xn : XIdx) (rd rs1 : Reg)
  /-- Converts FP32 elements to FP16. (R210) -/
  | vcvtH (xn : XIdx) (rd rs1 : Reg)
  /-- Converts elements to E4M3 with overflow by E4SAT. (R210) -/
  | vcvtE4 (xn : XIdx) (rd rs1 : Reg)
  /-- Converts elements to E5M2. (R210) -/
  | vcvtE5 (xn : XIdx) (rd rs1 : Reg)
  /-- Converts elements to E4M3 with stochastic rounding from SEED. (R210) -/
  | vcvtSr4 (xn : XIdx) (rd rs1 : Reg)
  /-- Converts elements to E5M2 with stochastic rounding. (R210) -/
  | vcvtSr5 (xn : XIdx) (rd rs1 : Reg)
  /-- Widens elements exactly to FP32. (R210) -/
  | vcvtF (xn : XIdx) (rd rs1 : Reg)
  /-- Expands packed INT4 to E4M3. (R210) -/
  | vexpI4 (xn : XIdx) (rd rs1 : Reg)
  /-- Expands packed E2M3 to E4M3. (R210) -/
  | vexpP23 (xn : XIdx) (rd rs1 : Reg)
  /-- Expands packed E3M2 to E5M2. (R210) -/
  | vexpP32 (xn : XIdx) (rd rs1 : Reg)
  /-- Queues an E4M3 by E4M3 matrix command into the station. (R216) -/
  | mmaE4e4 (xn xm : XIdx) (rd rs1 rs2 : Reg)
  /-- Queues an E4M3 by E5M2 matrix command. (R216) -/
  | mmaE4e5 (xn xm : XIdx) (rd rs1 rs2 : Reg)
  /-- Queues an E5M2 by E4M3 matrix command. (R216) -/
  | mmaE5e4 (xn xm : XIdx) (rd rs1 rs2 : Reg)
  /-- Queues an E5M2 by E5M2 matrix command. (R216) -/
  | mmaE5e5 (xn xm : XIdx) (rd rs1 rs2 : Reg)
  /-- Queues an MX-scaled E4M3 matrix command. (R216) -/
  | mmaM8m8 (xn xm : XIdx) (rd rs1 rs2 : Reg)
  /-- Queues an MXFP4 by MXFP4 matrix command. (R216) -/
  | mmaF4f4 (xn xm : XIdx) (rd rs1 rs2 : Reg)
  /-- Queues an MXFP4 by E4M3 matrix command. (R216) -/
  | mmaF4e4 (xn xm : XIdx) (rd rs1 rs2 : Reg)
  /-- Queues a BF16 matrix command. (R216) -/
  | mmaB16 (xn xm : XIdx) (rd rs1 rs2 : Reg)
  /-- Queues an FP16 matrix command. (R216) -/
  | mmaH16 (xn xm : XIdx) (rd rs1 rs2 : Reg)
  /-- Queues an INT8 matrix command accumulating modulo 2^32. (R216) -/
  | mmaI8 (xn xm : XIdx) (rd rs1 rs2 : Reg)
  /-- Queues a command that zeroes a station rectangle. (R221) -/
  | mmz (rd rs1 : Reg)
  /-- Queues a store of a station rectangle to memory. (R221) -/
  | mst (xn : XIdx) (rd rs1 : Reg)
  /-- Queues a load of a station rectangle from memory. (R221) -/
  | mldc (xn : XIdx) (rd rs1 : Reg)
  /-- Queues one ring step on the ACTIVE latch block with optional forward. (R224) -/
  | mring (xn : XIdx) (rd rs1 rs2 : Reg)
  /-- Queues a grouped matrix product over a group block. (R225) -/
  | gmm (xn xm : XIdx) (rd rs1 rs2 : Reg)
  /-- Marks rd pending until the core's outstanding commands fall to a threshold. (R226) -/
  | mwait (rd rs1 : Reg)
  /-- Reads the outstanding count, latch state and level in force. (R226) -/
  | mqry (rd : Reg)
  /-- Pushes a B block into a D core's INCOMING latch via the hod engine. (R223) -/
  | mbpass (xn : XIdx) (rd rs1 rs2 : Reg)
  /-- Sends a token request for a level to the zone broker. (R229) -/
  | tkreq (rd rs1 : Reg)
  /-- Lends tokens above a kept level to the broker for a duration. (R231) -/
  | tklend (rd rs1 : Reg)
  /-- Lowers NEXT at once and returns the cluster's grant to a level. (R230) -/
  | tkret (rd rs1 : Reg)
  /-- Writes the cluster's holdings word. (R232) -/
  | tkq (rd : Reg)
  /-- Sets the fibre's energy class and returns the old one. (R232) -/
  | ecls (rd rs1 : Reg)
  /-- Queues a rotary load of course rows rotated by position. (R270) -/
  | kldRot (xn : XIdx) (rd rs1 rs2 : Reg)
  /-- Queues a rotary operation on query rows at one position. (R270) -/
  | qrot (xn : XIdx) (rd rs1 rs2 : Reg)
  /-- Queues a softmax SCORE, MERGE or FINISH on the exponent unit. (R273) -/
  | smx (xn : XIdx) (rd rs1 rs2 : Reg)
  /-- Indivisibly raises a course descriptor's reference count. (R275) -/
  | cacq (rd rs1 : Reg)
  /-- Releases one course reference, checking locks on the last one. (R276) -/
  | crel (rd rs1 : Reg)
  /-- Indivisibly replaces a course descriptor's pos_base. (R275) -/
  | cpos (rd rs1 rs2 : Reg)
  /-- Copies a gather kernel into the core's kernel store. (R277) -/
  | gkSet (rs1 : Reg)
  /-- Arms the gather unit on a watched TCM range. (R278) -/
  | gkArm (xn : XIdx) (rd rs1 : Reg)
  /-- Stops the gather unit after any run in progress. (R280) -/
  | gkStop (rd : Reg)
  /-- Loads 16 bytes of local memory into an extension register. (R25) -/
  | xld (xn : XIdx) (base : Reg) (ea : XldMode)
  /-- Builds an extension register from two g registers. (R26) -/
  | xset (xn : XIdx) (rs1 rs2 : Reg)
  /-- Copies one extension register to another. (R26) -/
  | xmov (xn xm : XIdx)
  /-- Copies one half of an extension register to a g register. (R26) -/
  | xmovDRead (rd : Reg) (xn : XIdx) (half : BitVec 1)
  /-- Writes one half of an extension register from a g register. (R26) -/
  | xmovDWrite (xn : XIdx) (rs1 : Reg) (half : BitVec 1)
  /-- Writes one 32-bit word of an extension register. (R26) -/
  | xmovW (xn : XIdx) (rs1 : Reg) (word : BitVec 2)
  /-- Reads a control register. (R64) -/
  | crr (rd : Reg) (crn : BitVec 12)
  /-- Writes the writable fields of a control register. (R64) -/
  | crw (crn : BitVec 12) (rs1 : Reg)
  /-- Sets bits in the writable fields of a control register. (R64) -/
  | crset (crn : BitVec 12) (rs1 : Reg)
  /-- Clears bits in the writable fields of a control register. (R64) -/
  | crclr (crn : BitVec 12) (rs1 : Reg)
  /-- Enters supervisor code at cr.tvec, saving the return and code. (R306) -/
  | trap (rs1 : Reg)
  /-- Writes a cluster TLB slot and releases fibres held on misses. (R309) -/
  | tlbW (rd rs1 rs2 : Reg)
  /-- Invalidates cluster TLB entries of one page and PASID. (R310) -/
  | tlbInv (rs1 : Reg)
  /-- Invalidates every cluster TLB entry of a PASID, or all. (R310) -/
  | tlbInva (rs1 : Reg)
  /-- Sends a PRE to pre-empt a target core into a save area. (R312) -/
  | ctxSave (rd rs1 rs2 : Reg)
  /-- Sends a RESUME to restore a target core from a save area. (R312) -/
  | ctxLoad (rd rs1 rs2 : Reg)
  /-- Resumes a frozen fibre in place or migrates it. (R315) -/
  | fres (rd rs1 rs2 : Reg)
  /-- Ends the fibre named by a handle whatever its state. (R316) -/
  | fkill (rd rs1 : Reg)
  /-- Sends a SUPERVISOR word that starts a region's wipe sequencer. (R313) -/
  | wipe (rd rs1 : Reg)
  /-- Sends a SUPERVISOR word that invalidates a cluster's instruction cache. (R314) -/
  | icflush (rd rs1 : Reg)
  /-- A 32-bit hint that advances the PC and changes nothing else. (R28) -/
  | nop (hint : BitVec 25)
  /-- Compact ADDI with a 5-bit signed immediate. (R41) -/
  | addiS (rd rs : Reg) (imm : BitVec 5)
  /-- Compact LI with an 8-bit signed immediate. (R41) -/
  | liS (rd : Reg) (imm : BitVec 8)
  /-- Compact two-operand ALU operation selected by fn5. (R42) -/
  | aluS (rd rs : Reg) (fn : CompactOp)
  /-- Compact ALU operation writing g0 as accumulator. (R42) -/
  | accS (rd rs : Reg) (fn : CompactOp)
  /-- Compact LD.D with a scaled 5-bit offset. (R41) -/
  | ldS (rd rs : Reg) (imm : BitVec 5)
  /-- Compact ST.D with a scaled 5-bit offset. (R41) -/
  | stS (rd rs : Reg) (imm : BitVec 5)
  /-- Compact post-increment load. (R41) -/
  | ldpS (rd rs : Reg) (fn1 : BitVec 1) (size : BitVec 2)
  /-- Compact post-increment store. (R41) -/
  | stpS (rd rs : Reg) (size : BitVec 2)
  /-- Compact short-reach BEQ. (R41) -/
  | beqS (rd rs : Reg) (off : BitVec 5)
  /-- Compact short-reach BNE. (R41) -/
  | bneS (rd rs : Reg) (off : BitVec 5)
  /-- Compact short-reach J. (R41) -/
  | jS (off : BitVec 11)
  /-- Compact SLLI. (R41) -/
  | slliS (rd rs : Reg) (imm : BitVec 5)
  /-- Compact SRLI. (R41) -/
  | srliS (rd rs : Reg) (imm : BitVec 5)
  /-- Compact SRAI. (R41) -/
  | sraiS (rd rs : Reg) (imm : BitVec 5)
  /-- Compact JR with offset 0. (R41) -/
  | jrS (rs1 : Reg)
  /-- A 16-bit hint that advances the PC only. (R28) -/
  | nopS (hint : BitVec 5)
  /-- Settles and ends the fibre, freeing its slot. (R86) -/
  | exit
  /-- Places the fibre last among ready fibres of its level. (R86) -/
  | yield
  /-- Returns from a trap to EPC in user mode. (R307) -/
  | tret
  /-- Compact EXIT. (R41) -/
  | exitS
  /-- Compact YIELD. (R41) -/
  | yieldS
  /-- A passed-over fibre's AGE reaches 512 and its effective priority rises. (R105) -/
  | agingPromotion
  /-- An instruction cache fill completes and releases the fibre held on the miss. (R104) -/
  | icacheFill
  /-- An XLD's data reaches xn, ending the interlock. (R21) -/
  | xldComplete
  /-- A settling instruction's covered operations drain, then it completes or traps with the owed refusal. (R71) -/
  | settle
  /-- A mailbox record reaches the destination router and is placed in mailbox, ring or another place. (R116) -/
  | recordArrival
  /-- The spill engine moves the overflow ring head into a free mailbox entry. (R111) -/
  | spillRefill
  /-- The delivery unit takes the oldest deliverable record and applies or starts it. (R112) -/
  | delivery
  /-- A write of cr.admit closes or opens delivery to the core. (R89) -/
  | crAdmitWrite
  /-- A REPLY reaches its core and writes or refuses the tagged register, or records an owed refusal. (R70) -/
  | replyArrival
  /-- A remote ACCESS is performed at its home and answered with a REPLY. (R154) -/
  | accessPerform
  /-- The hod engine reads and injects one beat of an in-flight operation. (R245) -/
  | hodBeatInject
  /-- A hod beat reaches its destination, registering the lock on the first beat, and is performed. (R246) -/
  | hodBeatArrival
  /-- A destination's completion reaches the hod engine, which writes rd once all have arrived. (R246) -/
  | hodDestCompletion
  /-- A free reaches a router's combining entry and is forwarded when all branches have freed. (R137) -/
  | freeCombine
  /-- A combined free reaches the sender and lowers its counter, satisfying HOD.WT waits. (R137) -/
  | freeCounterDecrement
  /-- An arrival or input change reaches the level's root, which decides the release when all inputs are 1. (R168) -/
  | barrierInputAtRoot
  /-- A release reaches a core and writes the status word into pending registers. (R129) -/
  | barrierRelease
  /-- The quad's vector unit takes the head of a core's dispatch queue and starts its read phase. (R204) -/
  | vectorDispatch
  /-- A vector instruction finishes writing D and its fibre becomes ready. (R204) -/
  | vectorComplete
  /-- The arbiter starts an eligible queue head when the unit is free, fixing its level. (R238) -/
  | matrixCommandStart
  /-- A paced step starts at a slot boundary and accumulates into the station. (R217) -/
  | matrixStep
  /-- A command's last step, store or zeroing ends, releasing locks and writing the completion word. (R220) -/
  | matrixComplete
  /-- The rotary unit takes an operation from a core's queue. (R272) -/
  | rotaryStart
  /-- A paced row slot rotates and writes one row. (R272) -/
  | rotaryRow
  /-- A rotary operation ends, releasing locks and writing its completion word. (R272) -/
  | rotaryComplete
  /-- The exponent unit takes an SMX or VEXP2 while the cluster holds tokens. (R273) -/
  | smxDispatch
  /-- An SMX computation writes its state or outputs and completes. (R274) -/
  | smxComplete
  /-- A remote range-lock table checks a freed course's key range and replies. (R276) -/
  | courseReleaseCheck
  /-- The gather unit starts the kernel on the next triggered line. (R278) -/
  | gatherRunStart
  /-- The gather kernel issues one instruction; EXIT on the last line writes the arming register. (R278) -/
  | gatherKernelStep
  /-- A TKREQ reaches the zone broker, which grants, queues, recalls or sends notices. (R255) -/
  | brokerRequest
  /-- A TKRET reaches the broker, which replies once the tokens are back. (R230) -/
  | brokerReturn
  /-- A TKLEND reaches the broker and starts a lend. (R260) -/
  | brokerLend
  /-- A lend's duration ends and the broker takes the tokens back. (R260) -/
  | lendExpiry
  /-- A notice word lands at a cluster, setting NOTICE and starting the 200 rc period. (R257) -/
  | noticeLands
  /-- The notice period ends and the throttle lowers NEXT to the target. (R233) -/
  | noticePeriodEnd
  /-- The region broker moves free budget from donor zones to an asking zone. (R262) -/
  | regionBrokerMove
  /-- A GO write stops the region's clocks and relocks at a new operating point. (R175) -/
  | ckctlGo
  /-- The generator relocks and every clock restarts with CUR updated. (R175) -/
  | clockChangeDone
  /-- A cluster's input clock fails; it and its subtree are held and a LOSS word is sent. (R179) -/
  | lossOfClock
  /-- A write of a forwarder register requests hold, re-parents or clears the hold request. (R180) -/
  | fwdWrite
  /-- A cluster leaves hold 16 rc after its release conditions are met. (R180) -/
  | clusterLeavesHold
  /-- A droop detector stretches the region's next cycles and counts the event. (R181) -/
  | droopDetected
  /-- A BARCFG write re-parents a barrier segment in the wafer tree. (R172) -/
  | barcfgWrite
  /-- A supervisor write lowering GL acts as a TKRET with no REPLY. (R253) -/
  | tkentGlWrite
  /-- A BUDGET write changes a zone's budget or is refused with BADB. (R254) -/
  | zbrkBudgetWrite
  /-- An RBCTL write sets RCAP, AUTO or REQ140, with the 1.40 GHz cap under R263. (R261) -/
  | rbctlWrite
  /-- A turn-table write sets the exit side for beats to a destination region. (R266) -/
  | turnWrite
  /-- A beat held at a dark link for DARKTO meets its fate. (R267) -/
  | darkLinkTimeout
  /-- A region's regulator group fails and the region goes dark. (R265) -/
  | regulatorFailure
  /-- A FENCEC write fences or unfences cores of a cluster. (R340) -/
  | fencecWrite
  /-- A supervisor store of 0 to word 2 of a range-lock entry releases it. (R164) -/
  | rangeLockRelease
  /-- A trace configuration write enables tracing and clears LOST. (R165) -/
  | trcfgWrite
  /-- A write of cr.skey or cr.sdst changes a forwarding stub at its issue ac. (R296) -/
  | stubWrite
  /-- A write of cr.tknote captures the writer's task and rank. (R259) -/
  | tknoteWrite
  /-- A store moving a task entry from FREE to PLACING starts the placement clear. (R100) -/
  | taskEntryPlace
  /-- A store moving a task entry from PLACING to RUNNING lets fibres run. (R100) -/
  | taskEntryRun
  /-- A store moving a task entry to FREE. (R100) -/
  | taskEntryFree
  /-- The TCM and station clear ends and waiting pushes proceed. (R123) -/
  | placementClearDone
  /-- A MISS word starts a walker fibre on the translation service core. (R321) -/
  | missArrival
  /-- A NOMAP word raises PAGE for every fibre held on that page. (R322) -/
  | nomapArrival
  /-- A SNAP write marks a cluster's system-space operations and clears DRAINED. (R323) -/
  | sysdrnSnap
  /-- The marked system-space operations complete and DRAINED is set. (R323) -/
  | sysdrnDrained
  /-- A FAULT record enters the core's fault inbox or is sent on to Flatar. (R329) -/
  | faultArrival
  /-- An inbox record is delivered ahead of the mailbox into a free slot. (R329) -/
  | faultDelivery
  /-- A refused MIGRATE returns to its source and the fibre is reborn frozen with a kind-8 fault. (R331) -/
  | migrateReturn
  /-- Flatar call 0x0021 maps the faulting page from its pager entry. (R330) -/
  | pagein
  /-- Flatar call 0x0022 replaces one pager table entry. (R330) -/
  | pagerSet
  /-- Flatar call 0x0023 unmaps a page in every cluster of the task. (R330) -/
  | pageout
  /-- An uncorrected SRAM error in x, q, counter, station or queue bank is reported to Flatar. (R332) -/
  | uncorrectedReport
  /-- A PRE lands at a running core, stopping delivery and issue and bringing engines to boundaries. (R333) -/
  | preArrival
  /-- The save area is written, the entry becomes SAVED and the PRE is answered. (R333) -/
  | contextSaved
  /-- A RESUME restores the context, replays the spill queue and sets the core RUNNING. (R337) -/
  | resumeArrival
  /-- A WIPE word starts the region's wipe sequencer. (R313) -/
  | wipeStart
  /-- The wipe completes, WIPES rises and the region becomes Free. (R344) -/
  | wipeDone
  /-- An ICFLUSH word invalidates the target cluster's instruction cache. (R314) -/
  | icflushArrival
  /-- cr.wdog's count reaches LIMIT; EXP is set and a WDOG word is sent. (R339) -/
  | watchdogExpiry
  /-- Flatar writes a region's life-cycle state, possibly starting a wipe. (R344) -/
  | rlcStateWrite
  /-- Release of region reset moves a region from Dark to Wiping. (R344) -/
  | regionResetRelease
  /-- The companion releases module reset and regions begin to boot. (R367) -/
  | moduleResetRelease
  /-- A Bondlink port retrains, holding its traffic without loss. (R359) -/
  | bondlinkRetrain
  /-- A write of RDALL sets the read tap of every lane. (R348) -/
  | rdallWrite
  /-- A write of WDALL sets the write tap of every lane. (R348) -/
  | wdallWrite
  /-- A PCTL write with GO starts a PRBS read or write test. (R350) -/
  | prbsTestGo
  /-- A PRBS test ends, writing PFAIL and setting DONE. (R349) -/
  | prbsTestEnd
  /-- FCMD ERASE starts erasing a flash block. (R355) -/
  | flashErase
  /-- FCMD PROGRAM starts copying 2 MiB into a flash block. (R355) -/
  | flashProgram
  /-- A flash command ends, updating FSTAT and WEAR. (R355) -/
  | flashCommandEnd
  /-- A write of STATE 2 retires a flash erase block. (R300) -/
  | wearRetire
  /-- The stack temperature field is refreshed every 10,000 rc. (R354) -/
  | stkstTempUpdate
  /-- A RIMWIPE GO starts zeroing or erasing a rim range. (R345) -/
  | rimwipeGo
  /-- A rim wipe ends, setting DONE and raising COUNT. (R345) -/
  | rimwipeDone
  /-- A store to a registered ring's producer index kicks the rim push engine. (R358) -/
  | rimPushKick
  /-- The rim engine serves one request slot, pushing data and writing its status. (R358) -/
  | rimPushSlot
  /-- An MXCTL GO starts extending a measurement register. (R370) -/
  | mxctlGo
  /-- A measurement extension ends and BUSY clears. (R370) -/
  | measExtendDone
  /-- A store of the producer index to a kick page is accepted or ignored. (R363) -/
  | eqiKick
  /-- Driver mailbox command creating an EQI queue. (R361) -/
  | qcreate
  /-- Driver mailbox command destroying an EQI queue. (R361) -/
  | qdestroy
  /-- Driver mailbox command returning a lifetime record. (R361) -/
  | liferead
  /-- Driver mailbox command returning a signed measurement report. (R370) -/
  | measure
  /-- Driver mailbox command enrolling or revoking a key slot. (R369) -/
  | keyenroll
  /-- At each interval Flatar appends one lifetime record per live region. (R371) -/
  | lifetimeRecordAppend
  /-- A write to a register with no behaviour of its own sets its writable fields. (R9) -/
  | registerWrite
  /-- An invalidation from the companion's IOMMU reaches the module, and Flatar invalidates and drains every cluster of the task before it sends the invalidation completion. (R323) -/
  | iommuInvalidation
  /-- A SUPERVISOR word such as LOSS, WDOG, EXITED, UNCOR or the boot region's bundle address reaches a region service core and is acted on, or is discarded and counted if its EVENT is reserved. (R338) -/
  | supervisorWordArrival
  /-- A Bondlink port finishes retraining and releases the traffic it held at the wafer side. (R359) -/
  | bondlinkRetrainEnd
deriving DecidableEq, Repr

end Sys2Proof
end

