-- ==== Sys2Proof/WellFormed.lean ====
section
/-!
DEFINITION. Which terms of Instr are instructions of the machine.

Most limits of the encodings are in the types of the operands (a rounding selection, a scope, a level, a compact
operation). What remains are three limits of the 16-bit forms (R27, R38, R41) and one of the barrier forms (R128).
-/

namespace Sys2Proof

/-- Whether a term of Instr is an instruction or step of the machine. -/
def Instr.wellFormed : Instr → Bool
  -- The parcel 0x0000 is ILLEGAL whatever op4 = 0 is assigned to (R27).
  | .addiS rd rs imm => !(rd == 0 && rs == 0 && imm == 0)
  -- In MOV of ACC.S the field rs is 0 (R41).
  | .accS _ rs fn => fn != .mov || rs == 0
  -- An 8-byte zero-extending load is not assigned (R38, R42).
  | .ldpS _ _ fn1 size => !(fn1 == 1 && size == 3)
  -- At levels 1 to 4 the field rs1 of BAR.ARV and BAR.WT is reserved (R128).
  | .barArv _ rs l => l == .core || rs == 0
  | .barWt _ rs l => l == .core || rs == 0
  | _ => true

end Sys2Proof
end

