-- ==== Sys2Proof/Decode.lean ====
section
/-!
DEFINITION. The decoder (R14, R16, R17, R27, R35 to R42, R45), total on any bytes, and the encoder.

A 32-bit word is first cut into its fields (R16), then the major and the family's minor field name the instruction.
An encoding that is not assigned, or that holds a reserved field which is not 0, is rejected by name; the fetching fibre
then traps ILLEGAL (R27).
-/

namespace Sys2Proof

/-- Why a parcel stream is no instruction (R27). Each of these traps ILLEGAL. -/
inductive Reject where
  /-- The parcel 0x0000 in the place of a first parcel. -/
  | zeroParcel
  /-- A major opcode that R35 marks reserved. -/
  | reservedMajor
  /-- A minor8, fn3, fn5, minor4, cond3, size or fn1 value that is not assigned. -/
  | reservedMinor
  /-- A reserved field that is not 0. -/
  | reservedField
  /-- Addressing mode 11, or mode 01 of an atomic. -/
  | reservedMode
  /-- The bytes end before the instruction does. -/
  | truncated
deriving DecidableEq, Repr

/-- The fields that every 32-bit instruction shares (R16): the second parcel, the major and the register fields. -/
structure Fields where
  hi    : BitVec 16
  major : BitVec 6
  rd    : Reg
  rs1   : Reg
  rs2   : Reg
deriving DecidableEq, Repr

/-- The fields of a 32-bit word (R16). -/
def Fields.ofWord (w : BitVec 32) : Fields where
  hi    := w.extractLsb' 16 16
  major := w.extractLsb' 9 6
  rd    := (w.extractLsb' 6 3).toFin
  rs1   := (w.extractLsb' 3 3).toFin
  rs2   := (w.extractLsb' 0 3).toFin

/-- The 32-bit word of the fields: bit 15 is 1 (R14, R16). -/
def Fields.toWord (f : Fields) : BitVec 32 :=
  f.hi ++ 1#1 ++ f.major ++ (BitVec.ofFin f.rd : BitVec 3) ++ (BitVec.ofFin f.rs1 : BitVec 3) ++
    (BitVec.ofFin f.rs2 : BitVec 3)

namespace Fields

/-- I[31:24], the minor of the RR family (R17). -/
def minorRR (f : Fields) : BitVec 8 := f.hi.extractLsb' 8 8
/-- I[23:16] of the RR family (R17). -/
def mod8 (f : Fields) : BitVec 8 := f.hi.extractLsb' 0 8
/-- The 22-bit immediate of the LI family (R17). -/
def imm22 (f : Fields) : BitVec 22 := (BitVec.ofFin f.rs1 : BitVec 3) ++ (BitVec.ofFin f.rs2 : BitVec 3) ++ f.hi
/-- The mode of the MM family, I[31:30] (R17). -/
def modeMM (f : Fields) : BitVec 2 := f.hi.extractLsb' 14 2
/-- The size of the MM family, I[29:28] (R17). -/
def sizeMM (f : Fields) : BitVec 2 := f.hi.extractLsb' 12 2
/-- The bit fn1 of the MM family, I[27] (R17). -/
def fn1 (f : Fields) : BitVec 1 := f.hi.extractLsb' 11 1
/-- The displacement of the MM family, I[26:16] (R17). -/
def imm11 (f : Fields) : BitVec 11 := f.hi.extractLsb' 0 11
/-- The extension register xn of the XM and XE families, I[31:28] (R17). -/
def xn (f : Fields) : XIdx := (f.hi.extractLsb' 12 4).toFin
/-- The extension register xm of the XE family, I[27:24] (R17). -/
def xm (f : Fields) : XIdx := (f.hi.extractLsb' 8 4).toFin
/-- I[27:24] of the XE family as a number: a free counter, or the h or w of an XMOV form. -/
def xmBits (f : Fields) : BitVec 4 := f.hi.extractLsb' 8 4
/-- I[23:16], the minor of the XE family (R17). -/
def minorXE (f : Fields) : BitVec 8 := f.hi.extractLsb' 0 8
/-- The mode of the XM family, I[27:26] (R17). -/
def modeXM (f : Fields) : BitVec 2 := f.hi.extractLsb' 10 2
/-- The displacement of the XM family, I[25:16] (R17). -/
def imm10 (f : Fields) : BitVec 10 := f.hi.extractLsb' 0 10
/-- The control register number of the CR family, I[31:20] (R17). -/
def crn (f : Fields) : BitVec 12 := f.hi.extractLsb' 4 12
/-- The minor of the CR family, I[19:16] (R17). -/
def minorCR (f : Fields) : BitVec 4 := f.hi.extractLsb' 0 4
/-- The bits of a hint other than bit 15 and the major (R28). -/
def hint (f : Fields) : BitVec 25 :=
  f.hi ++ (BitVec.ofFin f.rd : BitVec 3) ++ (BitVec.ofFin f.rs1 : BitVec 3) ++ (BitVec.ofFin f.rs2 : BitVec 3)

end Fields

/-- The instruction, if the reserved fields of its form are 0 (R27). -/
def checked (reservedZero : Bool) (i : Instr) : Except Reject Instr :=
  if reservedZero then .ok i else .error .reservedField

/-- The rounding selection of mod8 (R36): 5 to 255 are not assigned. -/
def RoundSel.ofBits (b : BitVec 8) : Option RoundSel :=
  match b.toNat with
  | 0 => some .fpmode | 1 => some .rne | 2 => some .rtz | 3 => some .rup | 4 => some .rdn | _ => none

/-- The number of a rounding selection in mod8 (R36). -/
def RoundSel.bits : RoundSel → BitVec 8
  | .fpmode => 0#8 | .rne => 1#8 | .rtz => 2#8 | .rup => 3#8 | .rdn => 4#8

/-- The scope that fn3 of FENCE names (R37). -/
def Scope.ofReg (r : Reg) : Option Scope :=
  match r.val with
  | 0 => some .core | 1 => some .quad | 2 => some .cluster | 3 => some .region | 4 => some .wafer | 5 => some .system
  | _ => none

/-- The number of a scope (R37). -/
def Scope.reg : Scope → Reg
  | .core => 0 | .quad => 1 | .cluster => 2 | .region => 3 | .wafer => 4 | .system => 5

/-- The barrier level that imm16[2:0] names (R37). -/
def Level.ofBits (b : BitVec 3) : Option Level :=
  match b.toNat with
  | 0 => some .core | 1 => some .quad | 2 => some .cluster | 3 => some .region | 4 => some .wafer | _ => none

/-- The number of a barrier level (R37). -/
def Level.bits : Level → BitVec 3
  | .core => 0#3 | .quad => 1#3 | .cluster => 2#3 | .region => 3#3 | .wafer => 4#3

/-- The operation that fn5 of ALU.S and ACC.S names (R42). -/
def CompactOp.ofBits (b : BitVec 5) : Option CompactOp :=
  match b.toNat with
  | 0 => some .add | 1 => some .sub | 2 => some .and | 3 => some .or | 4 => some .xor | 5 => some .mov
  | 6 => some .sll | 7 => some .srl | 8 => some .sra | 9 => some .mul | 10 => some .slt | 11 => some .sltu
  | _ => none

/-- The fn5 of a compact operation (R42). -/
def CompactOp.bits : CompactOp → BitVec 5
  | .add => 0#5 | .sub => 1#5 | .and => 2#5 | .or => 3#5 | .xor => 4#5 | .mov => 5#5
  | .sll => 6#5 | .srl => 7#5 | .sra => 8#5 | .mul => 9#5 | .slt => 10#5 | .sltu => 11#5

/-- The addressing mode of a load or store (R23): the fields a mode does not use are reserved. -/
def decodeMemMode (f : Fields) : Except Reject MemMode :=
  match f.modeMM.toNat with
  | 0 => if f.rs2 = 0 then .ok (.disp f.imm11) else .error .reservedField
  | 1 => if f.imm11 = 0 then .ok (.index f.rs2) else .error .reservedField
  | 2 => if f.imm11 = 0 ∧ f.rs2 = 0 then .ok .postInc else .error .reservedField
  | _ => .error .reservedMode

/-- The addressing mode of an atomic (R38): modes 01 and 11 are not assigned; idx names the operand register. -/
def decodeAtomMode (f : Fields) : Except Reject AtomMode :=
  match f.modeMM.toNat with
  | 0 => .ok (.disp f.imm11)
  | 2 => if f.imm11 = 0 then .ok .postInc else .error .reservedField
  | _ => .error .reservedMode

/-- The addressing mode of XLD (R23, R25). -/
def decodeXldMode (f : Fields) : Except Reject XldMode :=
  match f.modeXM.toNat with
  | 0 => if f.rs2 = 0 then .ok (.disp f.imm10) else .error .reservedField
  | 1 => if f.imm10 = 0 then .ok (.index f.rs2) else .error .reservedField
  | 2 => if f.imm10 = 0 ∧ f.rs2 = 0 then .ok .postInc else .error .reservedField
  | _ => .error .reservedMode

/-- A form that rounds (R36): mod8 selects the mode, and a value above 4 is not assigned. -/
def rounding (f : Fields) (reservedZero : Bool) (i : RoundSel → Instr) : Except Reject Instr :=
  match RoundSel.ofBits f.mod8 with
  | some m => checked reservedZero (i m)
  | none => .error .reservedMinor

/-- A load or store form with its addressing mode. -/
def memory (f : Fields) (i : MemMode → Instr) : Except Reject Instr :=
  match decodeMemMode f with
  | .ok m => .ok (i m)
  | .error e => .error e

/-- An atomic form with its addressing mode. -/
def atomic (f : Fields) (i : AtomMode → Instr) : Except Reject Instr :=
  match decodeAtomMode f with
  | .ok m => .ok (i m)
  | .error e => .error e

/-- A barrier form (R37, R128): imm16[2:0] is the level, imm16[15:3] is reserved, and so are the fields that the form does
not use at the level. -/
def barrier (f : Fields) (reservedZero : Level → Bool) (i : Level → Instr) : Except Reject Instr :=
  match Level.ofBits (f.hi.extractLsb' 0 3) with
  | some l => checked (reservedZero l && f.hi.extractLsb' 3 13 == 0) (i l)
  | none => .error .reservedMinor

/-- Major 0x00 (R35 to R40). -/
def decodeIntegerA (f : Fields) : Except Reject Instr :=
  match f.minorRR.toNat with
  | 0x00 => checked (f.mod8 == 0) (.add f.rd f.rs1 f.rs2)
  | 0x01 => checked (f.mod8 == 0) (.sub f.rd f.rs1 f.rs2)
  | 0x02 => checked (f.mod8 == 0) (.and f.rd f.rs1 f.rs2)
  | 0x03 => checked (f.mod8 == 0) (.or f.rd f.rs1 f.rs2)
  | 0x04 => checked (f.mod8 == 0) (.xor f.rd f.rs1 f.rs2)
  | 0x05 => checked (f.mod8 == 0) (.andn f.rd f.rs1 f.rs2)
  | 0x06 => checked (f.mod8 == 0) (.orn f.rd f.rs1 f.rs2)
  | 0x07 => checked (f.mod8 == 0) (.xnor f.rd f.rs1 f.rs2)
  | 0x08 => checked (f.mod8 == 0) (.mul f.rd f.rs1 f.rs2)
  | 0x09 => checked (f.mod8 == 0) (.mulh f.rd f.rs1 f.rs2)
  | 0x0A => checked (f.mod8 == 0) (.mulhu f.rd f.rs1 f.rs2)
  | 0x0B => checked (f.mod8 == 0) (.div f.rd f.rs1 f.rs2)
  | 0x0C => checked (f.mod8 == 0) (.divu f.rd f.rs1 f.rs2)
  | 0x0D => checked (f.mod8 == 0) (.rem f.rd f.rs1 f.rs2)
  | 0x0E => checked (f.mod8 == 0) (.remu f.rd f.rs1 f.rs2)
  | 0x0F => checked (f.mod8 == 0) (.min f.rd f.rs1 f.rs2)
  | 0x10 => checked (f.mod8 == 0) (.max f.rd f.rs1 f.rs2)
  | 0x11 => checked (f.mod8 == 0) (.minu f.rd f.rs1 f.rs2)
  | 0x12 => checked (f.mod8 == 0) (.maxu f.rd f.rs1 f.rs2)
  | 0x13 => checked (f.rs2 == 0 && f.mod8 == 0) (.mov f.rd f.rs1)
  | _ => .error .reservedMinor

/-- Major 0x01 (R35 to R40). -/
def decodeIntegerB (f : Fields) : Except Reject Instr :=
  match f.minorRR.toNat with
  | 0x00 => checked (f.mod8 == 0) (.sll f.rd f.rs1 f.rs2)
  | 0x01 => checked (f.mod8 == 0) (.srl f.rd f.rs1 f.rs2)
  | 0x02 => checked (f.mod8 == 0) (.sra f.rd f.rs1 f.rs2)
  | 0x03 => checked (f.mod8 == 0) (.rol f.rd f.rs1 f.rs2)
  | 0x04 => checked (f.mod8 == 0) (.ror f.rd f.rs1 f.rs2)
  | 0x10 => checked (f.mod8 == 0) (.seq f.rd f.rs1 f.rs2)
  | 0x11 => checked (f.mod8 == 0) (.sne f.rd f.rs1 f.rs2)
  | 0x12 => checked (f.mod8 == 0) (.slt f.rd f.rs1 f.rs2)
  | 0x13 => checked (f.mod8 == 0) (.sltu f.rd f.rs1 f.rs2)
  | 0x14 => checked (f.mod8 == 0) (.sle f.rd f.rs1 f.rs2)
  | 0x15 => checked (f.mod8 == 0) (.sleu f.rd f.rs1 f.rs2)
  | 0x18 => checked (f.mod8 == 0) (.sel f.rd f.rs1 f.rs2)
  | 0x20 => checked (f.rs2 == 0 && f.mod8 == 0) (.clz f.rd f.rs1)
  | 0x21 => checked (f.rs2 == 0 && f.mod8 == 0) (.ctz f.rd f.rs1)
  | 0x22 => checked (f.rs2 == 0 && f.mod8 == 0) (.popc f.rd f.rs1)
  | 0x23 => checked (f.rs2 == 0 && f.mod8 == 0) (.bswap f.rd f.rs1)
  | 0x28 => checked (f.mod8.extractLsb' 2 6 == 0) (.lea f.rd f.rs1 f.rs2 (f.mod8.extractLsb' 0 2))
  | _ => .error .reservedMinor

/-- Major 0x02 (R35 to R40). -/
def decodeImmA (f : Fields) : Except Reject Instr :=
  match f.rs2.val with
  | 0 => .ok (.addi f.rd f.rs1 f.hi)
  | 1 => .ok (.andi f.rd f.rs1 f.hi)
  | 2 => .ok (.ori f.rd f.rs1 f.hi)
  | 3 => .ok (.xori f.rd f.rs1 f.hi)
  | 4 => .ok (.slti f.rd f.rs1 f.hi)
  | 5 => .ok (.sltiu f.rd f.rs1 f.hi)
  | 6 => .ok (.muli f.rd f.rs1 f.hi)
  | _ => .error .reservedMinor

/-- Major 0x03 (R35 to R40). -/
def decodeImmB (f : Fields) : Except Reject Instr :=
  match f.rs2.val with
  | 0 => checked (f.hi.extractLsb' 6 10 == 0) (.slli f.rd f.rs1 (f.hi.extractLsb' 0 6))
  | 1 => checked (f.hi.extractLsb' 6 10 == 0) (.srli f.rd f.rs1 (f.hi.extractLsb' 0 6))
  | 2 => checked (f.hi.extractLsb' 6 10 == 0) (.srai f.rd f.rs1 (f.hi.extractLsb' 0 6))
  | 3 => .ok (.seqi f.rd f.rs1 f.hi)
  | 4 => .ok (.snei f.rd f.rs1 f.hi)
  | _ => .error .reservedMinor

/-- Major 0x09 (R35 to R40). -/
def decodeBranch (f : Fields) : Except Reject Instr :=
  match f.rd.val with
  | 0 => .ok (.beq f.rs1 f.rs2 f.hi)
  | 1 => .ok (.bne f.rs1 f.rs2 f.hi)
  | 2 => .ok (.blt f.rs1 f.rs2 f.hi)
  | 3 => .ok (.bge f.rs1 f.rs2 f.hi)
  | 4 => .ok (.bltu f.rs1 f.rs2 f.hi)
  | 5 => .ok (.bgeu f.rs1 f.rs2 f.hi)
  | _ => .error .reservedMinor

/-- Major 0x0A (R35 to R40). -/
def decodeJump (f : Fields) : Except Reject Instr :=
  match f.rs2.val with
  | 0 => checked (f.rs1 == 0) (.loop f.rd f.hi)
  | 1 => .ok (.jalr f.rd f.rs1 f.hi)
  | 2 => checked (f.rd == 0) (.jr f.rs1 f.hi)
  | _ => .error .reservedMinor

/-- Major 0x0C (R35 to R40). -/
def decodeFloat (f : Fields) : Except Reject Instr :=
  match f.minorRR.toNat with
  | 0x00 => rounding f true (.fadd f.rd f.rs1 f.rs2)
  | 0x01 => rounding f true (.fsub f.rd f.rs1 f.rs2)
  | 0x02 => rounding f true (.fmul f.rd f.rs1 f.rs2)
  | 0x03 => rounding f true (.fdiv f.rd f.rs1 f.rs2)
  | 0x04 => rounding f (f.rs2 == 0) (.fsqrt f.rd f.rs1)
  | 0x05 => rounding f true (.fma f.rd f.rs1 f.rs2)
  | 0x06 => checked (f.mod8 == 0) (.fmin f.rd f.rs1 f.rs2)
  | 0x07 => checked (f.mod8 == 0) (.fmax f.rd f.rs1 f.rs2)
  | 0x08 => checked (f.rs2 == 0 && f.mod8 == 0) (.fabs f.rd f.rs1)
  | 0x09 => checked (f.rs2 == 0 && f.mod8 == 0) (.fneg f.rd f.rs1)
  | 0x0A => checked (f.mod8 == 0) (.feq f.rd f.rs1 f.rs2)
  | 0x0B => checked (f.mod8 == 0) (.flt f.rd f.rs1 f.rs2)
  | 0x0C => checked (f.mod8 == 0) (.fle f.rd f.rs1 f.rs2)
  | 0x0D => checked (f.rs2 == 0 && f.mod8 == 0) (.fclass f.rd f.rs1)
  | 0x10 => rounding f (f.rs2 == 0) (.ftoi f.rd f.rs1)
  | 0x11 => rounding f (f.rs2 == 0) (.ftou f.rd f.rs1)
  | 0x12 => rounding f (f.rs2 == 0) (.itof f.rd f.rs1)
  | 0x13 => rounding f (f.rs2 == 0) (.utof f.rd f.rs1)
  | 0x14 => rounding f (f.rs2 == 0) (.ftob f.rd f.rs1)
  | 0x15 => checked (f.rs2 == 0 && f.mod8 == 0) (.btof f.rd f.rs1)
  | 0x16 => rounding f (f.rs2 == 0) (.ftoh f.rd f.rs1)
  | 0x17 => checked (f.rs2 == 0 && f.mod8 == 0) (.htof f.rd f.rs1)
  | _ => .error .reservedMinor

/-- Major 0x10 (R35 to R40). -/
def decodeLoad (f : Fields) : Except Reject Instr :=
  match f.fn1.toNat, f.sizeMM.toNat with
  | 0, 0 => memory f (.ldB f.rd f.rs1)
  | 0, 1 => memory f (.ldH f.rd f.rs1)
  | 0, 2 => memory f (.ldW f.rd f.rs1)
  | 0, 3 => memory f (.ldD f.rd f.rs1)
  | 1, 0 => memory f (.ldBu f.rd f.rs1)
  | 1, 1 => memory f (.ldHu f.rd f.rs1)
  | 1, 2 => memory f (.ldWu f.rd f.rs1)
  | _, _ => .error .reservedMinor

/-- Major 0x11 (R35 to R40). -/
def decodeStore (f : Fields) : Except Reject Instr :=
  match f.fn1.toNat, f.sizeMM.toNat with
  | 0, 0 => memory f (.stB f.rd f.rs1)
  | 0, 1 => memory f (.stH f.rd f.rs1)
  | 0, 2 => memory f (.stW f.rd f.rs1)
  | 0, 3 => memory f (.stD f.rd f.rs1)
  | _, _ => .error .reservedMinor

/-- Major 0x12 (R35 to R40). -/
def decodeAtomA (f : Fields) : Except Reject Instr :=
  match f.fn1.toNat, f.sizeMM.toNat with
  | 0, 2 => atomic f (.aaddW f.rd f.rs1 f.rs2)
  | 0, 3 => atomic f (.aaddD f.rd f.rs1 f.rs2)
  | 1, 2 => atomic f (.aswapW f.rd f.rs1 f.rs2)
  | 1, 3 => atomic f (.aswapD f.rd f.rs1 f.rs2)
  | _, _ => .error .reservedMinor

/-- Major 0x13 (R35 to R40). -/
def decodeAtomB (f : Fields) : Except Reject Instr :=
  match f.fn1.toNat, f.sizeMM.toNat with
  | 0, 2 => atomic f (.aminW f.rd f.rs1 f.rs2)
  | 0, 3 => atomic f (.aminD f.rd f.rs1 f.rs2)
  | 1, 2 => atomic f (.amaxW f.rd f.rs1 f.rs2)
  | 1, 3 => atomic f (.amaxD f.rd f.rs1 f.rs2)
  | _, _ => .error .reservedMinor

/-- Major 0x14 (R35 to R40). -/
def decodeAtomC (f : Fields) : Except Reject Instr :=
  match f.fn1.toNat, f.sizeMM.toNat with
  | 0, 2 => atomic f (.aandW f.rd f.rs1 f.rs2)
  | 0, 3 => atomic f (.aandD f.rd f.rs1 f.rs2)
  | 1, 2 => atomic f (.aorW f.rd f.rs1 f.rs2)
  | 1, 3 => atomic f (.aorD f.rd f.rs1 f.rs2)
  | _, _ => .error .reservedMinor

/-- Major 0x15 (R35 to R40). -/
def decodeAtomD (f : Fields) : Except Reject Instr :=
  match f.fn1.toNat, f.sizeMM.toNat with
  | 0, 2 => atomic f (.axorW f.rd f.rs1 f.rs2)
  | 0, 3 => atomic f (.axorD f.rd f.rs1 f.rs2)
  | 1, 2 => atomic f (.acasW f.rd f.rs1 f.rs2)
  | 1, 3 => atomic f (.acasD f.rd f.rs1 f.rs2)
  | _, _ => .error .reservedMinor

/-- Major 0x16 (R35 to R40). -/
def decodeFence (f : Fields) : Except Reject Instr :=
  match Scope.ofReg f.rs2 with
  | some s => checked (f.rd == 0 && f.rs1 == 0 && f.hi == 0) (.fence s)
  | none => .error .reservedMinor

/-- Major 0x18 (R35 to R40). -/
def decodeMessage (f : Fields) : Except Reject Instr :=
  match f.minorRR.toNat with
  | 0x00 => checked (f.rd == 0 && f.mod8 == 0) (.send f.rs1 f.rs2)
  | 0x01 => checked (f.rd == 0 && f.mod8 == 0) (.sendc f.rs1 f.rs2)
  | 0x02 => checked (f.rd == 0 && f.mod8 == 0) (.dep f.rs1 f.rs2)
  | 0x03 => checked (f.rs2 == 0 && f.mod8 == 0) (.bind f.rd f.rs1)
  | 0x04 => checked (f.rd == 0 && f.mod8 == 0) (.cntset f.rs1 f.rs2)
  | 0x05 => checked (f.mod8 == 0) (.spawn f.rd f.rs1 f.rs2)
  | 0x06 => checked (f.rd == 0 && f.rs1 == 0 && f.rs2 == 0 && f.mod8 == 0) .exit
  | 0x07 => checked (f.rd == 0 && f.rs1 == 0 && f.rs2 == 0 && f.mod8 == 0) .yield
  | 0x08 => checked (f.rd == 0 && f.rs2 == 0 && f.mod8 == 0) (.mig f.rs1)
  | 0x10 => checked (f.rs2 == 0 && f.mod8 == 0) (.qput f.rd f.rs1)
  | 0x11 => checked (f.rs2 == 0 && f.mod8 == 0) (.qget f.rd f.rs1)
  | 0x12 => checked (f.mod8 == 0) (.qputNb f.rd f.rs1 f.rs2)
  | 0x13 => checked (f.mod8 == 0) (.qgetNb f.rd f.rs1 f.rs2)
  | 0x14 => checked (f.rs2 == 0 && f.mod8 == 0) (.qlen f.rd f.rs1)
  | _ => .error .reservedMinor

/-- Major 0x19 (R35 to R40). -/
def decodeBarrier (f : Fields) : Except Reject Instr :=
  match f.rs2.val with
  | 0 => barrier f (fun l => l == .core || f.rs1 == 0) (.barArv f.rd f.rs1)
  | 1 => barrier f (fun l => l == .core || f.rs1 == 0) (.barWt f.rd f.rs1)
  | 2 => barrier f (fun _ => f.rd == 0 && f.rs1 == 0) .barExc
  | 3 => barrier f (fun _ => f.rd == 0 && f.rs1 == 0) .barRjn
  | _ => .error .reservedMinor

/-- Major 0x1A (R35 to R40). -/
def decodeHod (f : Fields) : Except Reject Instr :=
  match f.minorXE.toNat with
  | 0x00 => checked (f.xm == 0) (.hodPush f.xn f.rd f.rs1 f.rs2)
  | 0x01 => checked (f.rs2 == 0) (.hodTile f.xn f.xm f.rd f.rs1)
  | 0x02 => checked true (.hodMc f.xn f.xmBits f.rd f.rs1 f.rs2)
  | 0x03 => checked (f.rd == 0 && f.rs2 == 0 && f.xn == 0 && f.xm == 0) (.hodFree f.rs1)
  | 0x04 => checked (f.rs2 == 0 && f.xn == 0) (.hodWt f.xmBits f.rd f.rs1)
  | 0x05 => checked (f.rs1 == 0 && f.rs2 == 0 && f.xn == 0) (.hodCnt f.xmBits f.rd)
  | _ => .error .reservedMinor

/-- Major 0x20 (R35 to R40). -/
def decodeVectorFloat (f : Fields) : Except Reject Instr :=
  match f.minorXE.toNat with
  | 0x00 => checked (f.xm == 0) (.vadd f.xn f.rd f.rs1 f.rs2)
  | 0x01 => checked (f.xm == 0) (.vsub f.xn f.rd f.rs1 f.rs2)
  | 0x02 => checked (f.xm == 0) (.vmul f.xn f.rd f.rs1 f.rs2)
  | 0x03 => checked (f.xm == 0) (.vfma f.xn f.rd f.rs1 f.rs2)
  | 0x04 => checked (f.xm == 0) (.vmin f.xn f.rd f.rs1 f.rs2)
  | 0x05 => checked (f.xm == 0) (.vmax f.xn f.rd f.rs1 f.rs2)
  | 0x06 => checked (f.rs2 == 0 && f.xm == 0) (.vabs f.xn f.rd f.rs1)
  | 0x07 => checked (f.rs2 == 0 && f.xm == 0) (.vneg f.xn f.rd f.rs1)
  | 0x08 => checked (f.rs2 == 0 && f.xm == 0) (.vexp2 f.xn f.rd f.rs1)
  | 0x09 => checked (f.rs2 == 0 && f.xm == 0) (.vrcp f.xn f.rd f.rs1)
  | _ => .error .reservedMinor

/-- Major 0x21 (R35 to R40). -/
def decodeVectorInt (f : Fields) : Except Reject Instr :=
  match f.minorXE.toNat with
  | 0x00 => checked (f.xm == 0) (.viadd f.xn f.rd f.rs1 f.rs2)
  | 0x01 => checked (f.xm == 0) (.visub f.xn f.rd f.rs1 f.rs2)
  | 0x02 => checked (f.xm == 0) (.vimul f.xn f.rd f.rs1 f.rs2)
  | 0x03 => checked (f.xm == 0) (.vand f.xn f.rd f.rs1 f.rs2)
  | 0x04 => checked (f.xm == 0) (.vor f.xn f.rd f.rs1 f.rs2)
  | 0x05 => checked (f.xm == 0) (.vxor f.xn f.rd f.rs1 f.rs2)
  | 0x06 => checked (f.xm == 0) (.vshl f.xn f.rd f.rs1 f.rs2)
  | 0x07 => checked (f.xm == 0) (.vshr f.xn f.rd f.rs1 f.rs2)
  | 0x10 => checked (f.xm == 0) (.vceq f.xn f.rd f.rs1 f.rs2)
  | 0x11 => checked (f.xm == 0) (.vclt f.xn f.rd f.rs1 f.rs2)
  | 0x12 => checked (f.xm == 0) (.vcle f.xn f.rd f.rs1 f.rs2)
  | 0x13 => checked (f.xm == 0) (.vsel f.xn f.rd f.rs1 f.rs2)
  | 0x20 => checked (f.rs2 == 0 && f.xm == 0) (.vrsum f.xn f.rd f.rs1)
  | 0x21 => checked (f.rs2 == 0 && f.xm == 0) (.vrmax f.xn f.rd f.rs1)
  | 0x22 => checked (f.rs2 == 0 && f.xm == 0) (.vrmin f.xn f.rd f.rs1)
  | 0x30 => checked (f.rs2 == 0 && f.xm == 0) (.vnzs f.xn f.rd f.rs1)
  | _ => .error .reservedMinor

/-- Major 0x22 (R35 to R40). -/
def decodeVectorConv (f : Fields) : Except Reject Instr :=
  match f.minorXE.toNat with
  | 0x00 => checked (f.rs2 == 0 && f.xm == 0) (.vcvtBf f.xn f.rd f.rs1)
  | 0x01 => checked (f.rs2 == 0 && f.xm == 0) (.vcvtH f.xn f.rd f.rs1)
  | 0x02 => checked (f.rs2 == 0 && f.xm == 0) (.vcvtE4 f.xn f.rd f.rs1)
  | 0x03 => checked (f.rs2 == 0 && f.xm == 0) (.vcvtE5 f.xn f.rd f.rs1)
  | 0x04 => checked (f.rs2 == 0 && f.xm == 0) (.vcvtSr4 f.xn f.rd f.rs1)
  | 0x05 => checked (f.rs2 == 0 && f.xm == 0) (.vcvtSr5 f.xn f.rd f.rs1)
  | 0x06 => checked (f.rs2 == 0 && f.xm == 0) (.vcvtF f.xn f.rd f.rs1)
  | 0x08 => checked (f.rs2 == 0 && f.xm == 0) (.vexpI4 f.xn f.rd f.rs1)
  | 0x09 => checked (f.rs2 == 0 && f.xm == 0) (.vexpP23 f.xn f.rd f.rs1)
  | 0x0A => checked (f.rs2 == 0 && f.xm == 0) (.vexpP32 f.xn f.rd f.rs1)
  | _ => .error .reservedMinor

/-- Major 0x24 (R35 to R40). -/
def decodeMatrix (f : Fields) : Except Reject Instr :=
  match f.minorXE.toNat with
  | 0x00 => checked true (.mmaE4e4 f.xn f.xm f.rd f.rs1 f.rs2)
  | 0x01 => checked true (.mmaE4e5 f.xn f.xm f.rd f.rs1 f.rs2)
  | 0x02 => checked true (.mmaE5e4 f.xn f.xm f.rd f.rs1 f.rs2)
  | 0x03 => checked true (.mmaE5e5 f.xn f.xm f.rd f.rs1 f.rs2)
  | 0x04 => checked true (.mmaM8m8 f.xn f.xm f.rd f.rs1 f.rs2)
  | 0x05 => checked true (.mmaF4f4 f.xn f.xm f.rd f.rs1 f.rs2)
  | 0x06 => checked true (.mmaF4e4 f.xn f.xm f.rd f.rs1 f.rs2)
  | 0x08 => checked true (.mmaB16 f.xn f.xm f.rd f.rs1 f.rs2)
  | 0x09 => checked true (.mmaH16 f.xn f.xm f.rd f.rs1 f.rs2)
  | 0x0A => checked true (.mmaI8 f.xn f.xm f.rd f.rs1 f.rs2)
  | 0x10 => checked (f.rs2 == 0 && f.xn == 0 && f.xm == 0) (.mmz f.rd f.rs1)
  | 0x11 => checked (f.rs2 == 0 && f.xm == 0) (.mst f.xn f.rd f.rs1)
  | 0x12 => checked (f.rs2 == 0 && f.xm == 0) (.mldc f.xn f.rd f.rs1)
  | 0x13 => checked (f.xm == 0) (.mring f.xn f.rd f.rs1 f.rs2)
  | 0x14 => checked true (.gmm f.xn f.xm f.rd f.rs1 f.rs2)
  | 0x15 => checked (f.rs2 == 0 && f.xn == 0 && f.xm == 0) (.mwait f.rd f.rs1)
  | 0x16 => checked (f.rs1 == 0 && f.rs2 == 0 && f.xn == 0 && f.xm == 0) (.mqry f.rd)
  | 0x17 => checked (f.xm == 0) (.mbpass f.xn f.rd f.rs1 f.rs2)
  | _ => .error .reservedMinor

/-- Major 0x26 (R35 to R40). -/
def decodeToken (f : Fields) : Except Reject Instr :=
  match f.minorRR.toNat with
  | 0x00 => checked (f.rs2 == 0 && f.mod8 == 0) (.tkreq f.rd f.rs1)
  | 0x01 => checked (f.rs2 == 0 && f.mod8 == 0) (.tklend f.rd f.rs1)
  | 0x02 => checked (f.rs2 == 0 && f.mod8 == 0) (.tkret f.rd f.rs1)
  | 0x03 => checked (f.rs1 == 0 && f.rs2 == 0 && f.mod8 == 0) (.tkq f.rd)
  | 0x04 => checked (f.rs2 == 0 && f.mod8 == 0) (.ecls f.rd f.rs1)
  | _ => .error .reservedMinor

/-- Major 0x28 (R35 to R40). -/
def decodeAttention (f : Fields) : Except Reject Instr :=
  match f.minorXE.toNat with
  | 0x00 => checked (f.xm == 0) (.kldRot f.xn f.rd f.rs1 f.rs2)
  | 0x01 => checked (f.xm == 0) (.qrot f.xn f.rd f.rs1 f.rs2)
  | 0x02 => checked (f.xm == 0) (.smx f.xn f.rd f.rs1 f.rs2)
  | 0x10 => checked (f.rs2 == 0 && f.xn == 0 && f.xm == 0) (.cacq f.rd f.rs1)
  | 0x11 => checked (f.rs2 == 0 && f.xn == 0 && f.xm == 0) (.crel f.rd f.rs1)
  | 0x12 => checked (f.xn == 0 && f.xm == 0) (.cpos f.rd f.rs1 f.rs2)
  | _ => .error .reservedMinor

/-- Major 0x2A (R35 to R40). -/
def decodeGather (f : Fields) : Except Reject Instr :=
  match f.minorXE.toNat with
  | 0x00 => checked (f.rd == 0 && f.rs2 == 0 && f.xn == 0 && f.xm == 0) (.gkSet f.rs1)
  | 0x01 => checked (f.rs2 == 0 && f.xm == 0) (.gkArm f.xn f.rd f.rs1)
  | 0x02 => checked (f.rs1 == 0 && f.rs2 == 0 && f.xn == 0 && f.xm == 0) (.gkStop f.rd)
  | _ => .error .reservedMinor

/-- Major 0x31 (R35 to R40). -/
def decodeXmov (f : Fields) : Except Reject Instr :=
  match f.minorXE.toNat with
  | 0x00 => checked (f.rd == 0 && f.xm == 0) (.xset f.xn f.rs1 f.rs2)
  | 0x01 => checked (f.rd == 0 && f.rs1 == 0 && f.rs2 == 0) (.xmov f.xn f.xm)
  | 0x02 => checked (f.rs1 == 0 && f.rs2 == 0 && f.xmBits.extractLsb' 1 3 == 0) (.xmovDRead f.rd f.xn (f.xmBits.extractLsb' 0 1))
  | 0x03 => checked (f.rd == 0 && f.rs2 == 0 && f.xmBits.extractLsb' 1 3 == 0) (.xmovDWrite f.xn f.rs1 (f.xmBits.extractLsb' 0 1))
  | 0x04 => checked (f.rd == 0 && f.rs2 == 0 && f.xmBits.extractLsb' 2 2 == 0) (.xmovW f.xn f.rs1 (f.xmBits.extractLsb' 0 2))
  | _ => .error .reservedMinor

/-- Major 0x3C (R35 to R40). -/
def decodeControl (f : Fields) : Except Reject Instr :=
  match f.minorCR.toNat with
  | 0x00 => checked (f.rs1 == 0 && f.rs2 == 0) (.crr f.rd f.crn)
  | 0x01 => checked (f.rd == 0 && f.rs2 == 0) (.crw f.crn f.rs1)
  | 0x02 => checked (f.rd == 0 && f.rs2 == 0) (.crset f.crn f.rs1)
  | 0x03 => checked (f.rd == 0 && f.rs2 == 0) (.crclr f.crn f.rs1)
  | _ => .error .reservedMinor

/-- Major 0x3D (R35 to R40). -/
def decodeSystem (f : Fields) : Except Reject Instr :=
  match f.minorRR.toNat with
  | 0x00 => checked (f.rd == 0 && f.rs2 == 0 && f.mod8 == 0) (.trap f.rs1)
  | 0x01 => checked (f.rd == 0 && f.rs1 == 0 && f.rs2 == 0 && f.mod8 == 0) .tret
  | 0x02 => checked (f.mod8 == 0) (.tlbW f.rd f.rs1 f.rs2)
  | 0x03 => checked (f.rd == 0 && f.rs2 == 0 && f.mod8 == 0) (.tlbInv f.rs1)
  | 0x04 => checked (f.rd == 0 && f.rs2 == 0 && f.mod8 == 0) (.tlbInva f.rs1)
  | 0x05 => checked (f.mod8 == 0) (.ctxSave f.rd f.rs1 f.rs2)
  | 0x06 => checked (f.mod8 == 0) (.ctxLoad f.rd f.rs1 f.rs2)
  | 0x07 => checked (f.mod8 == 0) (.fres f.rd f.rs1 f.rs2)
  | 0x08 => checked (f.rs2 == 0 && f.mod8 == 0) (.fkill f.rd f.rs1)
  | 0x09 => checked (f.rs2 == 0 && f.mod8 == 0) (.wipe f.rd f.rs1)
  | 0x0A => checked (f.rs2 == 0 && f.mod8 == 0) (.icflush f.rd f.rs1)
  | _ => .error .reservedMinor

/-- Major 0x30, XLD (R25). -/
def decodeXld (f : Fields) : Except Reject Instr :=
  match decodeXldMode f with
  | .ok m => checked (f.rd == 0) (.xld f.xn f.rs1 m)
  | .error e => .error e

/-- The instruction of a 32-bit word's fields (R35, R45). -/
def decodeFields (f : Fields) : Except Reject Instr :=
  match f.major.toNat with
  | 0x00 => decodeIntegerA f
  | 0x01 => decodeIntegerB f
  | 0x02 => decodeImmA f
  | 0x03 => decodeImmB f
  | 0x04 => .ok (.li f.rd f.imm22)
  | 0x05 => .ok (.lis f.rd f.imm22)
  | 0x06 => .ok (.addpc f.rd f.imm22)
  | 0x07 => .ok (.jal f.rd f.imm22)
  | 0x08 => checked (f.rd == 0) (.j f.imm22)
  | 0x09 => decodeBranch f
  | 0x0A => decodeJump f
  | 0x0C => decodeFloat f
  | 0x10 => decodeLoad f
  | 0x11 => decodeStore f
  | 0x12 => decodeAtomA f
  | 0x13 => decodeAtomB f
  | 0x14 => decodeAtomC f
  | 0x15 => decodeAtomD f
  | 0x16 => decodeFence f
  | 0x18 => decodeMessage f
  | 0x19 => decodeBarrier f
  | 0x1A => decodeHod f
  | 0x20 => decodeVectorFloat f
  | 0x21 => decodeVectorInt f
  | 0x22 => decodeVectorConv f
  | 0x24 => decodeMatrix f
  | 0x26 => decodeToken f
  | 0x28 => decodeAttention f
  | 0x2A => decodeGather f
  | 0x30 => decodeXld f
  | 0x31 => decodeXmov f
  | 0x3C => decodeControl f
  | 0x3D => decodeSystem f
  | 0x3E => .ok (.nop f.hint)
  | _ => .error .reservedMajor

/-- The instruction of a 32-bit word (R45). -/
def decode32 (w : BitVec 32) : Except Reject Instr := decodeFields (Fields.ofWord w)

/-- The fields that every 16-bit instruction shares (R18). -/
structure CompactFields where
  op  : BitVec 4
  rd  : Reg
  rs  : Reg
  imm : BitVec 5
deriving DecidableEq, Repr

/-- The fields of a 16-bit parcel (R18). -/
def CompactFields.ofParcel (p : Parcel) : CompactFields where
  op  := p.extractLsb' 11 4
  rd  := (p.extractLsb' 8 3).toFin
  rs  := (p.extractLsb' 5 3).toFin
  imm := p.extractLsb' 0 5

/-- The 16-bit parcel of the fields: bit 15 is 0 (R14, R18). -/
def CompactFields.toParcel (f : CompactFields) : Parcel :=
  0#1 ++ f.op ++ (BitVec.ofFin f.rd : BitVec 3) ++ (BitVec.ofFin f.rs : BitVec 3) ++ f.imm

/-- rs and imm5 together, I[7:0] (R41). -/
def CompactFields.imm8 (f : CompactFields) : BitVec 8 := (BitVec.ofFin f.rs : BitVec 3) ++ f.imm

/-- rd, rs and imm5 together, I[10:0] (R41). -/
def CompactFields.imm11 (f : CompactFields) : BitVec 11 :=
  (BitVec.ofFin f.rd : BitVec 3) ++ (BitVec.ofFin f.rs : BitVec 3) ++ f.imm

/-- The instruction of a 16-bit parcel's fields (R41, R42). The parcel 0x0000 is no ADDI.S (R27). -/
def decodeCompact (f : CompactFields) : Except Reject Instr :=
  match f.op.toNat with
  | 0x0 => if f.rd = 0 ∧ f.rs = 0 ∧ f.imm = 0 then .error .zeroParcel else .ok (.addiS f.rd f.rs f.imm)
  | 0x1 => .ok (.liS f.rd f.imm8)
  | 0x2 =>
    match CompactOp.ofBits f.imm with
    | some op => .ok (.aluS f.rd f.rs op)
    | none => .error .reservedMinor
  | 0x3 =>
    match CompactOp.ofBits f.imm with
    | some .mov => checked (f.rs == 0) (.accS f.rd f.rs .mov)
    | some op => .ok (.accS f.rd f.rs op)
    | none => .error .reservedMinor
  | 0x4 => .ok (.ldS f.rd f.rs f.imm)
  | 0x5 => .ok (.stS f.rd f.rs f.imm)
  | 0x6 =>
    if f.imm.extractLsb' 3 2 = 0 then
      if f.imm.extractLsb' 0 3 = 7#3 then .error .reservedMinor
      else .ok (.ldpS f.rd f.rs (f.imm.extractLsb' 2 1) (f.imm.extractLsb' 0 2))
    else .error .reservedField
  | 0x7 => checked (f.imm.extractLsb' 2 3 == 0) (.stpS f.rd f.rs (f.imm.extractLsb' 0 2))
  | 0x8 => .ok (.beqS f.rd f.rs f.imm)
  | 0x9 => .ok (.bneS f.rd f.rs f.imm)
  | 0xA => .ok (.jS f.imm11)
  | 0xB => .ok (.slliS f.rd f.rs f.imm)
  | 0xC => .ok (.srliS f.rd f.rs f.imm)
  | 0xD => .ok (.sraiS f.rd f.rs f.imm)
  | 0xE =>
    match f.imm.toNat with
    | 0 => checked (f.rd == 0 && f.rs == 0) .exitS
    | 1 => checked (f.rd == 0 && f.rs == 0) .yieldS
    | 2 => checked (f.rd == 0) (.jrS f.rs)
    | _ => .error .reservedMinor
  | _ => checked (f.rd == 0 && f.rs == 0) (.nopS f.imm)

/-- The instruction of a 16-bit parcel (R41). -/
def decode16 (p : Parcel) : Except Reject Instr := decodeCompact (CompactFields.ofParcel p)

/-- Whether a first parcel begins a 32-bit instruction: bit 15 (R14). -/
def Parcel.isLong (p : Parcel) : Bool := p.getLsbD 15

/-- The instruction of a stream of parcels and the parcels after it (R14, R45). -/
def decodeParcels : List Parcel → Except Reject (Instr × List Parcel)
  | [] => .error .truncated
  | p0 :: rest =>
    if p0.isLong then
      match rest with
      | [] => .error .truncated
      | p1 :: rest' =>
        match decode32 (p1 ++ p0) with
        | .ok i => .ok (i, rest')
        | .error e => .error e
    else
      match decode16 p0 with
      | .ok i => .ok (i, rest)
      | .error e => .error e

/-- Bytes as little-endian parcels (R14); an odd last byte is left out. -/
def parcelsOfBytes : List Byte → List Parcel
  | b0 :: b1 :: rest => (b1 ++ b0) :: parcelsOfBytes rest
  | _ => []

/-- Parcels as little-endian bytes (R14). -/
def bytesOfParcels : List Parcel → List Byte
  | [] => []
  | p :: rest => p.extractLsb' 0 8 :: p.extractLsb' 8 8 :: bytesOfParcels rest

/-- The instruction that bytes begin with, and the bytes after it. -/
def decode (bs : List Byte) : Except Reject (Instr × List Byte) :=
  match decodeParcels (parcelsOfBytes bs) with
  | .ok (i, rest) => .ok (i, bytesOfParcels rest)
  | .error e => .error e


/-- The RR family (R17). -/
def rrFields (major : BitVec 6) (minor mod : BitVec 8) (rd rs1 rs2 : Reg) : Fields :=
  ⟨minor ++ mod, major, rd, rs1, rs2⟩

/-- The RI family (R17): the minor fn3 stands in the rs2 field. -/
def riFields (major : BitVec 6) (fn3 : Reg) (imm : BitVec 16) (rd rs1 : Reg) : Fields := ⟨imm, major, rd, rs1, fn3⟩

/-- The LI family (R17): imm[21:16] stands in the rs1 and rs2 fields. -/
def liFields (major : BitVec 6) (imm : BitVec 22) (rd : Reg) : Fields :=
  ⟨imm.extractLsb' 0 16, major, rd, (imm.extractLsb' 19 3).toFin, (imm.extractLsb' 16 3).toFin⟩

/-- The BR family (R17): cond3 stands in the rd field. -/
def brFields (cond : Reg) (off : BitVec 16) (rs1 rs2 : Reg) : Fields := ⟨off, 0x09#6, cond, rs1, rs2⟩

/-- The MM family with a load or store mode (R17, R23). -/
def mmFields (major : BitVec 6) (size : BitVec 2) (fn1 : BitVec 1) (rd base : Reg) : MemMode → Fields
  | .disp imm => ⟨0#2 ++ size ++ fn1 ++ imm, major, rd, base, 0⟩
  | .index idx => ⟨1#2 ++ size ++ fn1 ++ 0#11, major, rd, base, idx⟩
  | .postInc => ⟨2#2 ++ size ++ fn1 ++ 0#11, major, rd, base, 0⟩

/-- The MM family with an atomic's mode (R17, R38). -/
def atFields (major : BitVec 6) (size : BitVec 2) (fn1 : BitVec 1) (rd base op : Reg) : AtomMode → Fields
  | .disp imm => ⟨0#2 ++ size ++ fn1 ++ imm, major, rd, base, op⟩
  | .postInc => ⟨2#2 ++ size ++ fn1 ++ 0#11, major, rd, base, op⟩

/-- The XM family (R17, R25). -/
def xmFields (xn : XIdx) (base : Reg) : XldMode → Fields
  | .disp imm => ⟨(BitVec.ofFin xn : BitVec 4) ++ 0#2 ++ imm, 0x30#6, 0, base, 0⟩
  | .index idx => ⟨(BitVec.ofFin xn : BitVec 4) ++ 1#2 ++ 0#10, 0x30#6, 0, base, idx⟩
  | .postInc => ⟨(BitVec.ofFin xn : BitVec 4) ++ 2#2 ++ 0#10, 0x30#6, 0, base, 0⟩

/-- The XE family (R17). -/
def xeFields (major : BitVec 6) (minor : BitVec 8) (xn : BitVec 4) (xm : BitVec 4) (rd rs1 rs2 : Reg) : Fields :=
  ⟨xn ++ xm ++ minor, major, rd, rs1, rs2⟩

/-- The CR family (R17). -/
def crFields (minor : BitVec 4) (crn : BitVec 12) (rd rs1 : Reg) : Fields := ⟨crn ++ minor, 0x3C#6, rd, rs1, 0⟩

/-- The hint block's 32-bit group (R28). -/
def hintFields (h : BitVec 25) : Fields :=
  ⟨h.extractLsb' 9 16, 0x3E#6, (h.extractLsb' 6 3).toFin, (h.extractLsb' 3 3).toFin, (h.extractLsb' 0 3).toFin⟩

/-- The two halves of a 32-bit instruction, first parcel first (R14). -/
def longParcels (f : Fields) : List Parcel := [f.toWord.extractLsb' 0 16, f.toWord.extractLsb' 16 16]

/-- The one parcel of a 16-bit instruction. -/
def shortParcel (op : BitVec 4) (rd rs : Reg) (imm : BitVec 5) : List Parcel := [CompactFields.toParcel ⟨op, rd, rs, imm⟩]

/-- The parcels of an instruction, first parcel first; none for a step that has no encoding. -/
def encode : Instr → List Parcel
  | .add rd rs1 rs2 => longParcels (rrFields 0x00#6 0x00#8 0#8 rd rs1 rs2)
  | .sub rd rs1 rs2 => longParcels (rrFields 0x00#6 0x01#8 0#8 rd rs1 rs2)
  | .and rd rs1 rs2 => longParcels (rrFields 0x00#6 0x02#8 0#8 rd rs1 rs2)
  | .or rd rs1 rs2 => longParcels (rrFields 0x00#6 0x03#8 0#8 rd rs1 rs2)
  | .xor rd rs1 rs2 => longParcels (rrFields 0x00#6 0x04#8 0#8 rd rs1 rs2)
  | .andn rd rs1 rs2 => longParcels (rrFields 0x00#6 0x05#8 0#8 rd rs1 rs2)
  | .orn rd rs1 rs2 => longParcels (rrFields 0x00#6 0x06#8 0#8 rd rs1 rs2)
  | .xnor rd rs1 rs2 => longParcels (rrFields 0x00#6 0x07#8 0#8 rd rs1 rs2)
  | .mul rd rs1 rs2 => longParcels (rrFields 0x00#6 0x08#8 0#8 rd rs1 rs2)
  | .mulh rd rs1 rs2 => longParcels (rrFields 0x00#6 0x09#8 0#8 rd rs1 rs2)
  | .mulhu rd rs1 rs2 => longParcels (rrFields 0x00#6 0x0A#8 0#8 rd rs1 rs2)
  | .div rd rs1 rs2 => longParcels (rrFields 0x00#6 0x0B#8 0#8 rd rs1 rs2)
  | .divu rd rs1 rs2 => longParcels (rrFields 0x00#6 0x0C#8 0#8 rd rs1 rs2)
  | .rem rd rs1 rs2 => longParcels (rrFields 0x00#6 0x0D#8 0#8 rd rs1 rs2)
  | .remu rd rs1 rs2 => longParcels (rrFields 0x00#6 0x0E#8 0#8 rd rs1 rs2)
  | .min rd rs1 rs2 => longParcels (rrFields 0x00#6 0x0F#8 0#8 rd rs1 rs2)
  | .max rd rs1 rs2 => longParcels (rrFields 0x00#6 0x10#8 0#8 rd rs1 rs2)
  | .minu rd rs1 rs2 => longParcels (rrFields 0x00#6 0x11#8 0#8 rd rs1 rs2)
  | .maxu rd rs1 rs2 => longParcels (rrFields 0x00#6 0x12#8 0#8 rd rs1 rs2)
  | .mov rd rs1 => longParcels (rrFields 0x00#6 0x13#8 0#8 rd rs1 0)
  | .sll rd rs1 rs2 => longParcels (rrFields 0x01#6 0x00#8 0#8 rd rs1 rs2)
  | .srl rd rs1 rs2 => longParcels (rrFields 0x01#6 0x01#8 0#8 rd rs1 rs2)
  | .sra rd rs1 rs2 => longParcels (rrFields 0x01#6 0x02#8 0#8 rd rs1 rs2)
  | .rol rd rs1 rs2 => longParcels (rrFields 0x01#6 0x03#8 0#8 rd rs1 rs2)
  | .ror rd rs1 rs2 => longParcels (rrFields 0x01#6 0x04#8 0#8 rd rs1 rs2)
  | .seq rd rs1 rs2 => longParcels (rrFields 0x01#6 0x10#8 0#8 rd rs1 rs2)
  | .sne rd rs1 rs2 => longParcels (rrFields 0x01#6 0x11#8 0#8 rd rs1 rs2)
  | .slt rd rs1 rs2 => longParcels (rrFields 0x01#6 0x12#8 0#8 rd rs1 rs2)
  | .sltu rd rs1 rs2 => longParcels (rrFields 0x01#6 0x13#8 0#8 rd rs1 rs2)
  | .sle rd rs1 rs2 => longParcels (rrFields 0x01#6 0x14#8 0#8 rd rs1 rs2)
  | .sleu rd rs1 rs2 => longParcels (rrFields 0x01#6 0x15#8 0#8 rd rs1 rs2)
  | .sel rd rs1 rs2 => longParcels (rrFields 0x01#6 0x18#8 0#8 rd rs1 rs2)
  | .clz rd rs1 => longParcels (rrFields 0x01#6 0x20#8 0#8 rd rs1 0)
  | .ctz rd rs1 => longParcels (rrFields 0x01#6 0x21#8 0#8 rd rs1 0)
  | .popc rd rs1 => longParcels (rrFields 0x01#6 0x22#8 0#8 rd rs1 0)
  | .bswap rd rs1 => longParcels (rrFields 0x01#6 0x23#8 0#8 rd rs1 0)
  | .lea rd rs1 rs2 shift => longParcels (rrFields 0x01#6 0x28#8 (0#6 ++ shift) rd rs1 rs2)
  | .addi rd rs1 imm => longParcels (riFields 0x02#6 0 imm rd rs1)
  | .andi rd rs1 imm => longParcels (riFields 0x02#6 1 imm rd rs1)
  | .ori rd rs1 imm => longParcels (riFields 0x02#6 2 imm rd rs1)
  | .xori rd rs1 imm => longParcels (riFields 0x02#6 3 imm rd rs1)
  | .slti rd rs1 imm => longParcels (riFields 0x02#6 4 imm rd rs1)
  | .sltiu rd rs1 imm => longParcels (riFields 0x02#6 5 imm rd rs1)
  | .muli rd rs1 imm => longParcels (riFields 0x02#6 6 imm rd rs1)
  | .slli rd rs1 count => longParcels (riFields 0x03#6 0 (0#10 ++ count) rd rs1)
  | .srli rd rs1 count => longParcels (riFields 0x03#6 1 (0#10 ++ count) rd rs1)
  | .srai rd rs1 count => longParcels (riFields 0x03#6 2 (0#10 ++ count) rd rs1)
  | .seqi rd rs1 imm => longParcels (riFields 0x03#6 3 imm rd rs1)
  | .snei rd rs1 imm => longParcels (riFields 0x03#6 4 imm rd rs1)
  | .li rd imm => longParcels (liFields 0x04#6 imm rd)
  | .lis rd imm => longParcels (liFields 0x05#6 imm rd)
  | .addpc rd imm => longParcels (liFields 0x06#6 imm rd)
  | .jal rd imm => longParcels (liFields 0x07#6 imm rd)
  | .j imm => longParcels (liFields 0x08#6 imm 0)
  | .beq rs1 rs2 off => longParcels (brFields 0 off rs1 rs2)
  | .bne rs1 rs2 off => longParcels (brFields 1 off rs1 rs2)
  | .blt rs1 rs2 off => longParcels (brFields 2 off rs1 rs2)
  | .bge rs1 rs2 off => longParcels (brFields 3 off rs1 rs2)
  | .bltu rs1 rs2 off => longParcels (brFields 4 off rs1 rs2)
  | .bgeu rs1 rs2 off => longParcels (brFields 5 off rs1 rs2)
  | .loop rd off => longParcels (riFields 0x0A#6 0 off rd 0)
  | .jalr rd rs1 imm => longParcels (riFields 0x0A#6 1 imm rd rs1)
  | .jr rs1 imm => longParcels (riFields 0x0A#6 2 imm 0 rs1)
  | .fadd rd rs1 rs2 mode => longParcels (rrFields 0x0C#6 0x00#8 mode.bits rd rs1 rs2)
  | .fsub rd rs1 rs2 mode => longParcels (rrFields 0x0C#6 0x01#8 mode.bits rd rs1 rs2)
  | .fmul rd rs1 rs2 mode => longParcels (rrFields 0x0C#6 0x02#8 mode.bits rd rs1 rs2)
  | .fdiv rd rs1 rs2 mode => longParcels (rrFields 0x0C#6 0x03#8 mode.bits rd rs1 rs2)
  | .fsqrt rd rs1 mode => longParcels (rrFields 0x0C#6 0x04#8 mode.bits rd rs1 0)
  | .fma rd rs1 rs2 mode => longParcels (rrFields 0x0C#6 0x05#8 mode.bits rd rs1 rs2)
  | .fmin rd rs1 rs2 => longParcels (rrFields 0x0C#6 0x06#8 0#8 rd rs1 rs2)
  | .fmax rd rs1 rs2 => longParcels (rrFields 0x0C#6 0x07#8 0#8 rd rs1 rs2)
  | .fabs rd rs1 => longParcels (rrFields 0x0C#6 0x08#8 0#8 rd rs1 0)
  | .fneg rd rs1 => longParcels (rrFields 0x0C#6 0x09#8 0#8 rd rs1 0)
  | .feq rd rs1 rs2 => longParcels (rrFields 0x0C#6 0x0A#8 0#8 rd rs1 rs2)
  | .flt rd rs1 rs2 => longParcels (rrFields 0x0C#6 0x0B#8 0#8 rd rs1 rs2)
  | .fle rd rs1 rs2 => longParcels (rrFields 0x0C#6 0x0C#8 0#8 rd rs1 rs2)
  | .fclass rd rs1 => longParcels (rrFields 0x0C#6 0x0D#8 0#8 rd rs1 0)
  | .ftoi rd rs1 mode => longParcels (rrFields 0x0C#6 0x10#8 mode.bits rd rs1 0)
  | .ftou rd rs1 mode => longParcels (rrFields 0x0C#6 0x11#8 mode.bits rd rs1 0)
  | .itof rd rs1 mode => longParcels (rrFields 0x0C#6 0x12#8 mode.bits rd rs1 0)
  | .utof rd rs1 mode => longParcels (rrFields 0x0C#6 0x13#8 mode.bits rd rs1 0)
  | .ftob rd rs1 mode => longParcels (rrFields 0x0C#6 0x14#8 mode.bits rd rs1 0)
  | .btof rd rs1 => longParcels (rrFields 0x0C#6 0x15#8 0#8 rd rs1 0)
  | .ftoh rd rs1 mode => longParcels (rrFields 0x0C#6 0x16#8 mode.bits rd rs1 0)
  | .htof rd rs1 => longParcels (rrFields 0x0C#6 0x17#8 0#8 rd rs1 0)
  | .ldB rd base ea => longParcels (mmFields 0x10#6 0#2 0#1 rd base ea)
  | .ldH rd base ea => longParcels (mmFields 0x10#6 1#2 0#1 rd base ea)
  | .ldW rd base ea => longParcels (mmFields 0x10#6 2#2 0#1 rd base ea)
  | .ldD rd base ea => longParcels (mmFields 0x10#6 3#2 0#1 rd base ea)
  | .ldBu rd base ea => longParcels (mmFields 0x10#6 0#2 1#1 rd base ea)
  | .ldHu rd base ea => longParcels (mmFields 0x10#6 1#2 1#1 rd base ea)
  | .ldWu rd base ea => longParcels (mmFields 0x10#6 2#2 1#1 rd base ea)
  | .stB rd base ea => longParcels (mmFields 0x11#6 0#2 0#1 rd base ea)
  | .stH rd base ea => longParcels (mmFields 0x11#6 1#2 0#1 rd base ea)
  | .stW rd base ea => longParcels (mmFields 0x11#6 2#2 0#1 rd base ea)
  | .stD rd base ea => longParcels (mmFields 0x11#6 3#2 0#1 rd base ea)
  | .aaddW rd base op ea => longParcels (atFields 0x12#6 2#2 0#1 rd base op ea)
  | .aaddD rd base op ea => longParcels (atFields 0x12#6 3#2 0#1 rd base op ea)
  | .aswapW rd base op ea => longParcels (atFields 0x12#6 2#2 1#1 rd base op ea)
  | .aswapD rd base op ea => longParcels (atFields 0x12#6 3#2 1#1 rd base op ea)
  | .aminW rd base op ea => longParcels (atFields 0x13#6 2#2 0#1 rd base op ea)
  | .aminD rd base op ea => longParcels (atFields 0x13#6 3#2 0#1 rd base op ea)
  | .amaxW rd base op ea => longParcels (atFields 0x13#6 2#2 1#1 rd base op ea)
  | .amaxD rd base op ea => longParcels (atFields 0x13#6 3#2 1#1 rd base op ea)
  | .aandW rd base op ea => longParcels (atFields 0x14#6 2#2 0#1 rd base op ea)
  | .aandD rd base op ea => longParcels (atFields 0x14#6 3#2 0#1 rd base op ea)
  | .aorW rd base op ea => longParcels (atFields 0x14#6 2#2 1#1 rd base op ea)
  | .aorD rd base op ea => longParcels (atFields 0x14#6 3#2 1#1 rd base op ea)
  | .axorW rd base op ea => longParcels (atFields 0x15#6 2#2 0#1 rd base op ea)
  | .axorD rd base op ea => longParcels (atFields 0x15#6 3#2 0#1 rd base op ea)
  | .acasW rd base op ea => longParcels (atFields 0x15#6 2#2 1#1 rd base op ea)
  | .acasD rd base op ea => longParcels (atFields 0x15#6 3#2 1#1 rd base op ea)
  | .fence scope => longParcels (riFields 0x16#6 scope.reg 0#16 0 0)
  | .send rs1 rs2 => longParcels (rrFields 0x18#6 0x00#8 0#8 0 rs1 rs2)
  | .sendc rs1 rs2 => longParcels (rrFields 0x18#6 0x01#8 0#8 0 rs1 rs2)
  | .dep rs1 rs2 => longParcels (rrFields 0x18#6 0x02#8 0#8 0 rs1 rs2)
  | .bind rd rs1 => longParcels (rrFields 0x18#6 0x03#8 0#8 rd rs1 0)
  | .cntset rs1 rs2 => longParcels (rrFields 0x18#6 0x04#8 0#8 0 rs1 rs2)
  | .spawn rd rs1 rs2 => longParcels (rrFields 0x18#6 0x05#8 0#8 rd rs1 rs2)
  | .exit => longParcels (rrFields 0x18#6 0x06#8 0#8 0 0 0)
  | .yield => longParcels (rrFields 0x18#6 0x07#8 0#8 0 0 0)
  | .mig rs1 => longParcels (rrFields 0x18#6 0x08#8 0#8 0 rs1 0)
  | .qput q rs1 => longParcels (rrFields 0x18#6 0x10#8 0#8 q rs1 0)
  | .qget rd q => longParcels (rrFields 0x18#6 0x11#8 0#8 rd q 0)
  | .qputNb q rs1 rs2 => longParcels (rrFields 0x18#6 0x12#8 0#8 q rs1 rs2)
  | .qgetNb rd q rs2 => longParcels (rrFields 0x18#6 0x13#8 0#8 rd q rs2)
  | .qlen rd q => longParcels (rrFields 0x18#6 0x14#8 0#8 rd q 0)
  | .barArv rd rs1 level => longParcels (riFields 0x19#6 0 (0#13 ++ level.bits) rd rs1)
  | .barWt rd rs1 level => longParcels (riFields 0x19#6 1 (0#13 ++ level.bits) rd rs1)
  | .barExc level => longParcels (riFields 0x19#6 2 (0#13 ++ level.bits) 0 0)
  | .barRjn level => longParcels (riFields 0x19#6 3 (0#13 ++ level.bits) 0 0)
  | .hodPush xn rd rs1 rs2 => longParcels (xeFields 0x1A#6 0x00#8 (BitVec.ofFin xn) 0#4 rd rs1 rs2)
  | .hodTile xn xm rd rs1 => longParcels (xeFields 0x1A#6 0x01#8 (BitVec.ofFin xn) (BitVec.ofFin xm) rd rs1 0)
  | .hodMc xn ctr rd rs1 rs2 => longParcels (xeFields 0x1A#6 0x02#8 (BitVec.ofFin xn) ctr rd rs1 rs2)
  | .hodFree rs1 => longParcels (xeFields 0x1A#6 0x03#8 0#4 0#4 0 rs1 0)
  | .hodWt ctr rd rs1 => longParcels (xeFields 0x1A#6 0x04#8 0#4 ctr rd rs1 0)
  | .hodCnt ctr rd => longParcels (xeFields 0x1A#6 0x05#8 0#4 ctr rd 0 0)
  | .vadd xn rd rs1 rs2 => longParcels (xeFields 0x20#6 0x00#8 (BitVec.ofFin xn) 0#4 rd rs1 rs2)
  | .vsub xn rd rs1 rs2 => longParcels (xeFields 0x20#6 0x01#8 (BitVec.ofFin xn) 0#4 rd rs1 rs2)
  | .vmul xn rd rs1 rs2 => longParcels (xeFields 0x20#6 0x02#8 (BitVec.ofFin xn) 0#4 rd rs1 rs2)
  | .vfma xn rd rs1 rs2 => longParcels (xeFields 0x20#6 0x03#8 (BitVec.ofFin xn) 0#4 rd rs1 rs2)
  | .vmin xn rd rs1 rs2 => longParcels (xeFields 0x20#6 0x04#8 (BitVec.ofFin xn) 0#4 rd rs1 rs2)
  | .vmax xn rd rs1 rs2 => longParcels (xeFields 0x20#6 0x05#8 (BitVec.ofFin xn) 0#4 rd rs1 rs2)
  | .vabs xn rd rs1 => longParcels (xeFields 0x20#6 0x06#8 (BitVec.ofFin xn) 0#4 rd rs1 0)
  | .vneg xn rd rs1 => longParcels (xeFields 0x20#6 0x07#8 (BitVec.ofFin xn) 0#4 rd rs1 0)
  | .vexp2 xn rd rs1 => longParcels (xeFields 0x20#6 0x08#8 (BitVec.ofFin xn) 0#4 rd rs1 0)
  | .vrcp xn rd rs1 => longParcels (xeFields 0x20#6 0x09#8 (BitVec.ofFin xn) 0#4 rd rs1 0)
  | .viadd xn rd rs1 rs2 => longParcels (xeFields 0x21#6 0x00#8 (BitVec.ofFin xn) 0#4 rd rs1 rs2)
  | .visub xn rd rs1 rs2 => longParcels (xeFields 0x21#6 0x01#8 (BitVec.ofFin xn) 0#4 rd rs1 rs2)
  | .vimul xn rd rs1 rs2 => longParcels (xeFields 0x21#6 0x02#8 (BitVec.ofFin xn) 0#4 rd rs1 rs2)
  | .vand xn rd rs1 rs2 => longParcels (xeFields 0x21#6 0x03#8 (BitVec.ofFin xn) 0#4 rd rs1 rs2)
  | .vor xn rd rs1 rs2 => longParcels (xeFields 0x21#6 0x04#8 (BitVec.ofFin xn) 0#4 rd rs1 rs2)
  | .vxor xn rd rs1 rs2 => longParcels (xeFields 0x21#6 0x05#8 (BitVec.ofFin xn) 0#4 rd rs1 rs2)
  | .vshl xn rd rs1 rs2 => longParcels (xeFields 0x21#6 0x06#8 (BitVec.ofFin xn) 0#4 rd rs1 rs2)
  | .vshr xn rd rs1 rs2 => longParcels (xeFields 0x21#6 0x07#8 (BitVec.ofFin xn) 0#4 rd rs1 rs2)
  | .vceq xn rd rs1 rs2 => longParcels (xeFields 0x21#6 0x10#8 (BitVec.ofFin xn) 0#4 rd rs1 rs2)
  | .vclt xn rd rs1 rs2 => longParcels (xeFields 0x21#6 0x11#8 (BitVec.ofFin xn) 0#4 rd rs1 rs2)
  | .vcle xn rd rs1 rs2 => longParcels (xeFields 0x21#6 0x12#8 (BitVec.ofFin xn) 0#4 rd rs1 rs2)
  | .vsel xn rd rs1 rs2 => longParcels (xeFields 0x21#6 0x13#8 (BitVec.ofFin xn) 0#4 rd rs1 rs2)
  | .vrsum xn rd rs1 => longParcels (xeFields 0x21#6 0x20#8 (BitVec.ofFin xn) 0#4 rd rs1 0)
  | .vrmax xn rd rs1 => longParcels (xeFields 0x21#6 0x21#8 (BitVec.ofFin xn) 0#4 rd rs1 0)
  | .vrmin xn rd rs1 => longParcels (xeFields 0x21#6 0x22#8 (BitVec.ofFin xn) 0#4 rd rs1 0)
  | .vnzs xn rd rs1 => longParcels (xeFields 0x21#6 0x30#8 (BitVec.ofFin xn) 0#4 rd rs1 0)
  | .vcvtBf xn rd rs1 => longParcels (xeFields 0x22#6 0x00#8 (BitVec.ofFin xn) 0#4 rd rs1 0)
  | .vcvtH xn rd rs1 => longParcels (xeFields 0x22#6 0x01#8 (BitVec.ofFin xn) 0#4 rd rs1 0)
  | .vcvtE4 xn rd rs1 => longParcels (xeFields 0x22#6 0x02#8 (BitVec.ofFin xn) 0#4 rd rs1 0)
  | .vcvtE5 xn rd rs1 => longParcels (xeFields 0x22#6 0x03#8 (BitVec.ofFin xn) 0#4 rd rs1 0)
  | .vcvtSr4 xn rd rs1 => longParcels (xeFields 0x22#6 0x04#8 (BitVec.ofFin xn) 0#4 rd rs1 0)
  | .vcvtSr5 xn rd rs1 => longParcels (xeFields 0x22#6 0x05#8 (BitVec.ofFin xn) 0#4 rd rs1 0)
  | .vcvtF xn rd rs1 => longParcels (xeFields 0x22#6 0x06#8 (BitVec.ofFin xn) 0#4 rd rs1 0)
  | .vexpI4 xn rd rs1 => longParcels (xeFields 0x22#6 0x08#8 (BitVec.ofFin xn) 0#4 rd rs1 0)
  | .vexpP23 xn rd rs1 => longParcels (xeFields 0x22#6 0x09#8 (BitVec.ofFin xn) 0#4 rd rs1 0)
  | .vexpP32 xn rd rs1 => longParcels (xeFields 0x22#6 0x0A#8 (BitVec.ofFin xn) 0#4 rd rs1 0)
  | .mmaE4e4 xn xm rd rs1 rs2 => longParcels (xeFields 0x24#6 0x00#8 (BitVec.ofFin xn) (BitVec.ofFin xm) rd rs1 rs2)
  | .mmaE4e5 xn xm rd rs1 rs2 => longParcels (xeFields 0x24#6 0x01#8 (BitVec.ofFin xn) (BitVec.ofFin xm) rd rs1 rs2)
  | .mmaE5e4 xn xm rd rs1 rs2 => longParcels (xeFields 0x24#6 0x02#8 (BitVec.ofFin xn) (BitVec.ofFin xm) rd rs1 rs2)
  | .mmaE5e5 xn xm rd rs1 rs2 => longParcels (xeFields 0x24#6 0x03#8 (BitVec.ofFin xn) (BitVec.ofFin xm) rd rs1 rs2)
  | .mmaM8m8 xn xm rd rs1 rs2 => longParcels (xeFields 0x24#6 0x04#8 (BitVec.ofFin xn) (BitVec.ofFin xm) rd rs1 rs2)
  | .mmaF4f4 xn xm rd rs1 rs2 => longParcels (xeFields 0x24#6 0x05#8 (BitVec.ofFin xn) (BitVec.ofFin xm) rd rs1 rs2)
  | .mmaF4e4 xn xm rd rs1 rs2 => longParcels (xeFields 0x24#6 0x06#8 (BitVec.ofFin xn) (BitVec.ofFin xm) rd rs1 rs2)
  | .mmaB16 xn xm rd rs1 rs2 => longParcels (xeFields 0x24#6 0x08#8 (BitVec.ofFin xn) (BitVec.ofFin xm) rd rs1 rs2)
  | .mmaH16 xn xm rd rs1 rs2 => longParcels (xeFields 0x24#6 0x09#8 (BitVec.ofFin xn) (BitVec.ofFin xm) rd rs1 rs2)
  | .mmaI8 xn xm rd rs1 rs2 => longParcels (xeFields 0x24#6 0x0A#8 (BitVec.ofFin xn) (BitVec.ofFin xm) rd rs1 rs2)
  | .mmz rd rs1 => longParcels (xeFields 0x24#6 0x10#8 0#4 0#4 rd rs1 0)
  | .mst xn rd rs1 => longParcels (xeFields 0x24#6 0x11#8 (BitVec.ofFin xn) 0#4 rd rs1 0)
  | .mldc xn rd rs1 => longParcels (xeFields 0x24#6 0x12#8 (BitVec.ofFin xn) 0#4 rd rs1 0)
  | .mring xn rd rs1 rs2 => longParcels (xeFields 0x24#6 0x13#8 (BitVec.ofFin xn) 0#4 rd rs1 rs2)
  | .gmm xn xm rd rs1 rs2 => longParcels (xeFields 0x24#6 0x14#8 (BitVec.ofFin xn) (BitVec.ofFin xm) rd rs1 rs2)
  | .mwait rd rs1 => longParcels (xeFields 0x24#6 0x15#8 0#4 0#4 rd rs1 0)
  | .mqry rd => longParcels (xeFields 0x24#6 0x16#8 0#4 0#4 rd 0 0)
  | .mbpass xn rd rs1 rs2 => longParcels (xeFields 0x24#6 0x17#8 (BitVec.ofFin xn) 0#4 rd rs1 rs2)
  | .tkreq rd rs1 => longParcels (rrFields 0x26#6 0x00#8 0#8 rd rs1 0)
  | .tklend rd rs1 => longParcels (rrFields 0x26#6 0x01#8 0#8 rd rs1 0)
  | .tkret rd rs1 => longParcels (rrFields 0x26#6 0x02#8 0#8 rd rs1 0)
  | .tkq rd => longParcels (rrFields 0x26#6 0x03#8 0#8 rd 0 0)
  | .ecls rd rs1 => longParcels (rrFields 0x26#6 0x04#8 0#8 rd rs1 0)
  | .kldRot xn rd rs1 rs2 => longParcels (xeFields 0x28#6 0x00#8 (BitVec.ofFin xn) 0#4 rd rs1 rs2)
  | .qrot xn rd rs1 rs2 => longParcels (xeFields 0x28#6 0x01#8 (BitVec.ofFin xn) 0#4 rd rs1 rs2)
  | .smx xn rd rs1 rs2 => longParcels (xeFields 0x28#6 0x02#8 (BitVec.ofFin xn) 0#4 rd rs1 rs2)
  | .cacq rd rs1 => longParcels (xeFields 0x28#6 0x10#8 0#4 0#4 rd rs1 0)
  | .crel rd rs1 => longParcels (xeFields 0x28#6 0x11#8 0#4 0#4 rd rs1 0)
  | .cpos rd rs1 rs2 => longParcels (xeFields 0x28#6 0x12#8 0#4 0#4 rd rs1 rs2)
  | .gkSet rs1 => longParcels (xeFields 0x2A#6 0x00#8 0#4 0#4 0 rs1 0)
  | .gkArm xn rd rs1 => longParcels (xeFields 0x2A#6 0x01#8 (BitVec.ofFin xn) 0#4 rd rs1 0)
  | .gkStop rd => longParcels (xeFields 0x2A#6 0x02#8 0#4 0#4 rd 0 0)
  | .xld xn base ea => longParcels (xmFields xn base ea)
  | .xset xn rs1 rs2 => longParcels (xeFields 0x31#6 0x00#8 (BitVec.ofFin xn) 0#4 0 rs1 rs2)
  | .xmov xn xm => longParcels (xeFields 0x31#6 0x01#8 (BitVec.ofFin xn) (BitVec.ofFin xm) 0 0 0)
  | .xmovDRead rd xn half => longParcels (xeFields 0x31#6 0x02#8 (BitVec.ofFin xn) (0#3 ++ half) rd 0 0)
  | .xmovDWrite xn rs1 half => longParcels (xeFields 0x31#6 0x03#8 (BitVec.ofFin xn) (0#3 ++ half) 0 rs1 0)
  | .xmovW xn rs1 word => longParcels (xeFields 0x31#6 0x04#8 (BitVec.ofFin xn) (0#2 ++ word) 0 rs1 0)
  | .crr rd crn => longParcels (crFields 0#4 crn rd 0)
  | .crw crn rs1 => longParcels (crFields 1#4 crn 0 rs1)
  | .crset crn rs1 => longParcels (crFields 2#4 crn 0 rs1)
  | .crclr crn rs1 => longParcels (crFields 3#4 crn 0 rs1)
  | .trap rs1 => longParcels (rrFields 0x3D#6 0x00#8 0#8 0 rs1 0)
  | .tret => longParcels (rrFields 0x3D#6 0x01#8 0#8 0 0 0)
  | .tlbW rd rs1 rs2 => longParcels (rrFields 0x3D#6 0x02#8 0#8 rd rs1 rs2)
  | .tlbInv rs1 => longParcels (rrFields 0x3D#6 0x03#8 0#8 0 rs1 0)
  | .tlbInva rs1 => longParcels (rrFields 0x3D#6 0x04#8 0#8 0 rs1 0)
  | .ctxSave rd rs1 rs2 => longParcels (rrFields 0x3D#6 0x05#8 0#8 rd rs1 rs2)
  | .ctxLoad rd rs1 rs2 => longParcels (rrFields 0x3D#6 0x06#8 0#8 rd rs1 rs2)
  | .fres rd rs1 rs2 => longParcels (rrFields 0x3D#6 0x07#8 0#8 rd rs1 rs2)
  | .fkill rd rs1 => longParcels (rrFields 0x3D#6 0x08#8 0#8 rd rs1 0)
  | .wipe rd rs1 => longParcels (rrFields 0x3D#6 0x09#8 0#8 rd rs1 0)
  | .icflush rd rs1 => longParcels (rrFields 0x3D#6 0x0A#8 0#8 rd rs1 0)
  | .nop hint => longParcels (hintFields hint)
  | .addiS rd rs imm => shortParcel 0#4 rd rs imm
  | .liS rd imm => shortParcel 1#4 rd (imm.extractLsb' 5 3).toFin (imm.extractLsb' 0 5)
  | .aluS rd rs fn => shortParcel 2#4 rd rs fn.bits
  | .accS rd rs fn => shortParcel 3#4 rd rs fn.bits
  | .ldS rd rs imm => shortParcel 4#4 rd rs imm
  | .stS rd rs imm => shortParcel 5#4 rd rs imm
  | .ldpS rd rs fn1 size => shortParcel 6#4 rd rs (0#2 ++ fn1 ++ size)
  | .stpS rd rs size => shortParcel 7#4 rd rs (0#3 ++ size)
  | .beqS rd rs off => shortParcel 8#4 rd rs off
  | .bneS rd rs off => shortParcel 9#4 rd rs off
  | .jS off => shortParcel 10#4 (off.extractLsb' 8 3).toFin (off.extractLsb' 5 3).toFin (off.extractLsb' 0 5)
  | .slliS rd rs imm => shortParcel 11#4 rd rs imm
  | .srliS rd rs imm => shortParcel 12#4 rd rs imm
  | .sraiS rd rs imm => shortParcel 13#4 rd rs imm
  | .exitS => shortParcel 14#4 0 0 0#5
  | .yieldS => shortParcel 14#4 0 0 1#5
  | .jrS rs => shortParcel 14#4 0 rs 2#5
  | .nopS hint => shortParcel 15#4 0 0 hint
  | .agingPromotion => []
  | .icacheFill => []
  | .xldComplete => []
  | .settle => []
  | .recordArrival => []
  | .spillRefill => []
  | .delivery => []
  | .crAdmitWrite => []
  | .replyArrival => []
  | .accessPerform => []
  | .hodBeatInject => []
  | .hodBeatArrival => []
  | .hodDestCompletion => []
  | .freeCombine => []
  | .freeCounterDecrement => []
  | .barrierInputAtRoot => []
  | .barrierRelease => []
  | .vectorDispatch => []
  | .vectorComplete => []
  | .matrixCommandStart => []
  | .matrixStep => []
  | .matrixComplete => []
  | .rotaryStart => []
  | .rotaryRow => []
  | .rotaryComplete => []
  | .smxDispatch => []
  | .smxComplete => []
  | .courseReleaseCheck => []
  | .gatherRunStart => []
  | .gatherKernelStep => []
  | .brokerRequest => []
  | .brokerReturn => []
  | .brokerLend => []
  | .lendExpiry => []
  | .noticeLands => []
  | .noticePeriodEnd => []
  | .regionBrokerMove => []
  | .ckctlGo => []
  | .clockChangeDone => []
  | .lossOfClock => []
  | .fwdWrite => []
  | .clusterLeavesHold => []
  | .droopDetected => []
  | .barcfgWrite => []
  | .tkentGlWrite => []
  | .zbrkBudgetWrite => []
  | .rbctlWrite => []
  | .turnWrite => []
  | .darkLinkTimeout => []
  | .regulatorFailure => []
  | .fencecWrite => []
  | .rangeLockRelease => []
  | .trcfgWrite => []
  | .stubWrite => []
  | .tknoteWrite => []
  | .taskEntryPlace => []
  | .taskEntryRun => []
  | .taskEntryFree => []
  | .placementClearDone => []
  | .missArrival => []
  | .nomapArrival => []
  | .sysdrnSnap => []
  | .sysdrnDrained => []
  | .faultArrival => []
  | .faultDelivery => []
  | .migrateReturn => []
  | .pagein => []
  | .pagerSet => []
  | .pageout => []
  | .uncorrectedReport => []
  | .preArrival => []
  | .contextSaved => []
  | .resumeArrival => []
  | .wipeStart => []
  | .wipeDone => []
  | .icflushArrival => []
  | .watchdogExpiry => []
  | .rlcStateWrite => []
  | .regionResetRelease => []
  | .moduleResetRelease => []
  | .bondlinkRetrain => []
  | .rdallWrite => []
  | .wdallWrite => []
  | .prbsTestGo => []
  | .prbsTestEnd => []
  | .flashErase => []
  | .flashProgram => []
  | .flashCommandEnd => []
  | .wearRetire => []
  | .stkstTempUpdate => []
  | .rimwipeGo => []
  | .rimwipeDone => []
  | .rimPushKick => []
  | .rimPushSlot => []
  | .mxctlGo => []
  | .measExtendDone => []
  | .eqiKick => []
  | .qcreate => []
  | .qdestroy => []
  | .liferead => []
  | .measure => []
  | .keyenroll => []
  | .lifetimeRecordAppend => []
  | .registerWrite => []
  | .iommuInvalidation => []
  | .supervisorWordArrival => []
  | .bondlinkRetrainEnd => []

/-- The bytes of an instruction, lowest address first. -/
def encodeBytes (i : Instr) : List Byte := bytesOfParcels (encode i)

/-- The length in bytes of an instruction: 2 or 4 (R14), 0 for a step that has no encoding. -/
def Instr.length (i : Instr) : Nat := (encodeBytes i).length

/-- The little-endian bytes of the low `n` bytes of a number. -/
def littleBytes : Nat → Nat → List Byte
  | 0, _ => []
  | n + 1, v => BitVec.ofNat 8 v :: littleBytes n (v / 256)

/-- The instruction that the decoder reads from bits numbered as the opcode table numbers them; the bits above are 0. -/
def decodeTableWord (nbits w : Nat) : Option Instr :=
  match decode (littleBytes 4 (w % 2 ^ nbits)) with
  | .ok (i, _) => some i
  | .error _ => none

end Sys2Proof
end

