-- ==== Sys2Proof/Machine/Tab.lean ====
section
/-!
DEFINITION. Sparse tables: a list of key and value pairs with rising keys. What a table does not list reads as the
default that the reader names (for the tables of the machine: the reset value).
-/

namespace Sys2Proof

/-- A sparse table, keys rising. -/
abbrev Tab (α : Type) := List (Nat × α)

namespace Tab

variable {α : Type}

/-- The value at a key, if the table lists it. -/
def look : Tab α → Nat → Option α
  | [], _ => none
  | (k, v) :: t, n => if n = k then some v else look t n

/-- The value at a key, or the default. -/
def read (t : Tab α) (dflt : α) (n : Nat) : α := (look t n).getD dflt

/-- The table with a value written at a key. -/
def put : Tab α → Nat → α → Tab α
  | [], n, x => [(n, x)]
  | (k, v) :: t, n, x =>
    if n < k then (n, x) :: (k, v) :: t
    else if n = k then (n, x) :: t
    else (k, v) :: put t n x

/-- The table without a key. -/
def remove : Tab α → Nat → Tab α
  | [], _ => []
  | (k, v) :: t, n => if n = k then remove t n else (k, v) :: remove t n

/-- The keys rise strictly. -/
def Rising : Tab α → Prop
  | [] => True
  | [_] => True
  | (a, _) :: (b, v) :: t => a < b ∧ Rising ((b, v) :: t)

end Tab

end Sys2Proof
end

