-- ==== Sys2Proof/Machine/Flags.lean ====
section
/-!
DEFINITION. The floating-point exceptions and their sticky flags in cr.fpmode (R58, R59, R195).
-/

namespace Sys2Proof.Machine

/-- The exceptions that one operation reports (R58, R195). -/
structure FpFlags where
  nv : Bool := false
  dz : Bool := false
  ovf : Bool := false
  unf : Bool := false
  nx : Bool := false
deriving DecidableEq, Repr

/-- No exception. -/
def FpFlags.none : FpFlags := {}

/-- Invalid operation alone. -/
def FpFlags.invalid : FpFlags := { nv := true }

/-- The exceptions of two operations together. -/
def FpFlags.join (a b : FpFlags) : FpFlags where
  nv := a.nv || b.nv
  dz := a.dz || b.dz
  ovf := a.ovf || b.ovf
  unf := a.unf || b.unf
  nx := a.nx || b.nx

/-- The exceptions at their bits of cr.fpmode: NV 8, DZ 9, OF 10, UF 11, NX 12 (R59). -/
def FpFlags.bits (f : FpFlags) : Word :=
  (Word.ofBool f.nv <<< 8) ||| (Word.ofBool f.dz <<< 9) ||| (Word.ofBool f.ovf <<< 10) |||
    (Word.ofBool f.unf <<< 11) ||| (Word.ofBool f.nx <<< 12)

/-- cr.fpmode after an operation: its exceptions are ORed in (R58, R60). -/
def raiseFlags (fpmode : Word) (f : FpFlags) : Word := fpmode ||| f.bits

end Sys2Proof.Machine
end

