-- ==== Sys2Proof/Machine/Float.lean ====
section
/-!
DEFINITION. Number formats and rounding (R186 to R199), on exact numbers.

A finite number is a sign, a natural number and a power of two. A result that is no such number (a quotient, a root, a
power of two with a fraction) is given by the greatest multiple of a small unit that does not exceed it and a bit that
says that something is left; the unit is always far below the quantum of the rounding, so the rounding is exact.
-/

namespace Sys2Proof.Machine

/-- The rounding modes of R193, in the order of the field RM (R59). -/
inductive RMode where
  | rne | rtz | rup | rdn
deriving DecidableEq, Repr

/-- The mode that a value of RM names (R59). -/
def RMode.ofRM (n : Nat) : RMode :=
  match n % 4 with
  | 0 => .rne | 1 => .rtz | 2 => .rup | _ => .rdn

/-- The mode of a form that rounds: the one mod8 names, or RM (R36, R61). -/
def RMode.select (sel : RoundSel) (fpmode : Word) : RMode :=
  match sel with
  | .fpmode => RMode.ofRM (fpmode.toNat % 4)
  | .rne => .rne | .rtz => .rtz | .rup => .rup | .rdn => .rdn

/-- Which patterns of a format are special (R186). -/
inductive Special where
  /-- Exponent all ones: infinity with fraction 0, else NaN. -/
  | ieee
  /-- Only exponent and fraction all ones: a quiet NaN (E4M3). -/
  | nanOnly
  /-- None. -/
  | finite
deriving DecidableEq, Repr

/-- A float format (R186): widths of exponent and fraction, bias, special patterns. -/
structure Fmt where
  ebits   : Nat
  mbits   : Nat
  bias    : Nat
  special : Special
deriving DecidableEq, Repr

namespace Fmt

def fp32 : Fmt := ⟨8, 23, 127, .ieee⟩
def fp16 : Fmt := ⟨5, 10, 15, .ieee⟩
def bf16 : Fmt := ⟨8, 7, 127, .ieee⟩
def e5m2 : Fmt := ⟨5, 2, 15, .ieee⟩
def e4m3 : Fmt := ⟨4, 3, 7, .nanOnly⟩
def e2m3 : Fmt := ⟨2, 3, 1, .finite⟩
def e3m2 : Fmt := ⟨3, 2, 3, .finite⟩
def e2m1 : Fmt := ⟨2, 1, 1, .finite⟩

/-- EMIN, the exponent of the least normal number (R186). -/
def emin (F : Fmt) : Int := 1 - (F.bias : Int)

/-- The width in bits without the sign. -/
def body (F : Fmt) : Nat := F.ebits + F.mbits

/-- The pattern of the greatest finite number, sign 0 (R187). -/
def maxBits (F : Fmt) : Nat :=
  match F.special with
  | .ieee => (2 ^ F.ebits - 1) * 2 ^ F.mbits - 1
  | .nanOnly => 2 ^ F.body - 2
  | .finite => 2 ^ F.body - 1

/-- The pattern of +infinity in a format that has one. -/
def infBits (F : Fmt) : Nat := (2 ^ F.ebits - 1) * 2 ^ F.mbits

/-- The canonical NaN (R196): sign 0, quiet bit 1, payload 0; in E4M3 its only NaN. -/
def canonNaN (F : Fmt) : Nat :=
  match F.special with
  | .ieee => F.infBits + 2 ^ (F.mbits - 1)
  | _ => 2 ^ F.body - 1

/-- A pattern with a sign put before it. -/
def withSign (F : Fmt) (neg : Bool) (b : Nat) : Nat := if neg then b + 2 ^ F.body else b

end Fmt

/-- An exact finite number: (-1)^neg * num * 2^exp; a zero keeps its sign. -/
structure Dyadic where
  neg : Bool
  num : Nat
  exp : Int
deriving DecidableEq, Repr

/-- A value of a float format (R186). -/
inductive FVal where
  | nan (signalling : Bool)
  | inf (neg : Bool)
  | fin (d : Dyadic)
deriving DecidableEq, Repr

/-- The value of a pattern (R186). Bits above the format's width are ignored (R58). -/
def Fmt.value (F : Fmt) (bits : Nat) : FVal :=
  let neg := bits / 2 ^ F.body % 2 == 1
  let e := bits / 2 ^ F.mbits % 2 ^ F.ebits
  let t := bits % 2 ^ F.mbits
  let number : FVal :=
    if e = 0 then .fin ⟨neg, t, F.emin - F.mbits⟩
    else .fin ⟨neg, 2 ^ F.mbits + t, (e : Int) - F.bias - F.mbits⟩
  match F.special with
  | .finite => number
  | .nanOnly => if e = 2 ^ F.ebits - 1 ∧ t = 2 ^ F.mbits - 1 then .nan false else number
  | .ieee =>
    if e = 2 ^ F.ebits - 1 then (if t = 0 then .inf neg else .nan (t < 2 ^ (F.mbits - 1)))
    else number

namespace FVal

/-- Whether the value is a NaN. -/
def isNaN : FVal → Bool
  | .nan _ => true
  | _ => false

/-- Whether the value is a signalling NaN. -/
def isSNaN : FVal → Bool
  | .nan s => s
  | _ => false

/-- Whether the value is a zero. -/
def isZero : FVal → Bool
  | .fin d => d.num == 0
  | _ => false

/-- The sign of the value; a NaN has none. -/
def isNeg : FVal → Bool
  | .nan _ => false
  | .inf n => n
  | .fin d => d.neg

end FVal

namespace Dyadic

/-- Zero with a sign. -/
def zero (neg : Bool) : Dyadic := ⟨neg, 0, 0⟩

/-- The signed integer of the number in units of 2^e, for e not above its exponent. -/
def inUnits (d : Dyadic) (e : Int) : Int :=
  let n : Int := (d.num * 2 ^ (d.exp - e).toNat : Nat)
  if d.neg then -n else n

/-- The number of an integer times 2^e; zero is positive. -/
def ofInt (i : Int) (e : Int) : Dyadic := ⟨decide (i < 0), i.natAbs, e⟩

/-- The exact product. -/
def mul (a b : Dyadic) : Dyadic := ⟨a.neg != b.neg, a.num * b.num, a.exp + b.exp⟩

/-- The exact sum; an exact zero sum is +0, but of two zeros of one sign it keeps the sign (R61). -/
def add (a b : Dyadic) : Dyadic :=
  if a.num = 0 ∧ b.num = 0 then ⟨a.neg && b.neg, 0, 0⟩
  else
    let e := min a.exp b.exp
    ofInt (a.inUnits e + b.inUnits e) e

/-- The number with the opposite sign. -/
def negate (a : Dyadic) : Dyadic := { a with neg := !a.neg }

/-- a < b as real numbers. -/
def lt (a b : Dyadic) : Bool :=
  let e := min a.exp b.exp
  decide (a.inUnits e < b.inUnits e)

/-- a = b as real numbers. -/
def eq (a b : Dyadic) : Bool :=
  let e := min a.exp b.exp
  decide (a.inUnits e = b.inUnits e)

end Dyadic

/-- A rounded result: the pattern and the exceptions reported (R195). -/
structure Rounded where
  bits  : Nat
  flags : FpFlags
deriving DecidableEq, Repr

/-- Away(m, s) of R193. -/
def away (m : RMode) (neg : Bool) : Bool :=
  match m with
  | .rne => true
  | .rtz => false
  | .rup => !neg
  | .rdn => neg

/-- The pattern of an overflow (R194). -/
def overflowBits (F : Fmt) (e4sat neg isAway : Bool) : Nat :=
  match F.special with
  | .ieee => F.withSign neg (if isAway then F.infBits else F.maxBits)
  | .nanOnly => if isAway && !e4sat then F.canonNaN else F.withSign neg F.maxBits
  | .finite => F.withSign neg F.maxBits

/-- How a number between two neighbours of a lattice lies: the lower neighbour in units, and the part above it compared
with half a unit. -/
structure Between where
  lo    : Nat
  exact : Bool
  half  : Ordering
deriving DecidableEq, Repr

/-- The number num * 2^exp, with something left below 2^exp when rest is set, between two multiples of 2^q. -/
def between (num : Nat) (exp : Int) (rest : Bool) (q : Int) : Between :=
  if q ≤ exp then ⟨num * 2 ^ (exp - q).toNat, !rest, .lt⟩
  else
    let sh := (q - exp).toNat
    let lo := num / 2 ^ sh
    let r := num % 2 ^ sh
    let h := 2 ^ (sh - 1)
    ⟨lo, r == 0 && !rest, if r < h then .lt else if r = h ∧ rest = false then .eq else .gt⟩

/-- Whether a mode rounds up, away from zero in magnitude (R193). -/
def roundsUp (m : RMode) (neg : Bool) (b : Between) : Bool :=
  !b.exact &&
    (match m with
     | .rne => b.half == .gt || (b.half == .eq && b.lo % 2 == 1)
     | .rtz => false
     | .rup => !neg
     | .rdn => neg)

/-- The exponent Floor(Log2(num * 2^exp)) of a number that is not zero. -/
def expOf (num : Nat) (exp : Int) : Int := (Nat.log2 num : Int) + exp

/-- Underflow (R195): rounded to M + 1 significant bits with no exponent limit, the magnitude is below 2^EMIN. -/
def isTiny (F : Fmt) (m : RMode) (neg : Bool) (num : Nat) (exp : Int) (rest : Bool) : Bool :=
  let e := expOf num exp
  if e ≥ F.emin then false
  else
    let b := between num exp rest (e - F.mbits)
    let r := b.lo + (if roundsUp m neg b then 1 else 0)
    !(e == F.emin - 1 && r == 2 ^ (F.mbits + 1))

/-- Round of R193 for a magnitude that is not zero, with the exceptions of R195. -/
def roundMag (F : Fmt) (m : RMode) (e4sat neg : Bool) (num : Nat) (exp : Int) (rest : Bool) : Rounded :=
  let e := max (expOf num exp) F.emin
  let b := between num exp rest (e - F.mbits)
  let r := b.lo + (if roundsUp m neg b then 1 else 0)
  let bits := (e - F.emin).toNat * 2 ^ F.mbits + r
  if bits > F.maxBits then ⟨overflowBits F e4sat neg (away m neg), { ovf := true, nx := true }⟩
  else ⟨F.withSign neg bits, { nx := !b.exact, unf := !b.exact && isTiny F m neg num exp rest }⟩

/-- An infinite input to a rounding (R194, R195). -/
def roundInf (F : Fmt) (e4sat neg : Bool) : Rounded :=
  match F.special with
  | .ieee => ⟨F.withSign neg F.infBits, {}⟩
  | .nanOnly => if e4sat then ⟨F.withSign neg F.maxBits, { nx := true }⟩ else ⟨F.canonNaN, { nv := true }⟩
  | .finite => ⟨F.withSign neg F.maxBits, { nx := true }⟩

/-- Round(v, F, m) of R193, with the exceptions of R195. -/
def roundVal (F : Fmt) (m : RMode) (e4sat : Bool) : FVal → Rounded
  | .nan s => ⟨F.canonNaN, { nv := s }⟩
  | .inf neg => roundInf F e4sat neg
  | .fin d => if d.num = 0 then ⟨F.withSign d.neg 0, {}⟩ else roundMag F m e4sat d.neg d.num d.exp false

/-- Round of an exact finite number. -/
def roundDyadic (F : Fmt) (m : RMode) (d : Dyadic) : Rounded := roundVal F m false (.fin d)

/-- RoundNE of R31, the pattern only. -/
def roundNE (F : Fmt) (d : Dyadic) : Nat := (roundDyadic F .rne d).bits

/-- RoundSR of R199 for a 32-bit word w. -/
def roundSR (F : Fmt) (e4sat : Bool) (w : Nat) : FVal → Rounded
  | .nan s => ⟨F.canonNaN, { nv := s }⟩
  | .inf neg => roundInf F e4sat neg
  | .fin d =>
    if d.num = 0 then ⟨F.withSign d.neg 0, {}⟩
    else
      let e := max (expOf d.num d.exp) F.emin
      let q := e - F.mbits
      let b := between d.num d.exp false q
      let t := if q ≤ d.exp then 0 else (d.num % 2 ^ (q - d.exp).toNat) * 2 ^ 32 / 2 ^ (q - d.exp).toNat
      let up := !b.exact && decide (t + w ≥ 2 ^ 32)
      let bits := (e - F.emin).toNat * 2 ^ F.mbits + (b.lo + if up then 1 else 0)
      if bits > F.maxBits then ⟨overflowBits F e4sat d.neg true, { ovf := true, nx := true }⟩
      else ⟨F.withSign d.neg bits, { nx := !b.exact, unf := !b.exact && isTiny F .rne d.neg d.num d.exp false }⟩

/-- The generator step of R198. -/
def xorshift (x : BitVec 32) : BitVec 32 :=
  let a := x ^^^ (x <<< 13)
  let b := a ^^^ (a >>> 17)
  b ^^^ (b <<< 5)

/-- The seed after a stochastic conversion (R198). -/
def nextSeed (seed : BitVec 32) : BitVec 32 := xorshift (seed ^^^ 0x9E3779B9#32)

/-- The state of lane l at the start of a stochastic conversion (R198). -/
def laneSeed (base : BitVec 32) (l : Nat) : BitVec 32 :=
  let x := base ^^^ (BitVec.ofNat 32 (l + 1) * 0x85EBCA6B#32)
  if x = 0#32 then 0xFFFFFFFF#32 else x

/-- NaN result of an operation with a NaN operand: canonical, NV for a signalling one (R61, R196). -/
def nanResult (F : Fmt) (vs : List FVal) : Rounded := ⟨F.canonNaN, { nv := vs.any FVal.isSNaN }⟩

/-- The sum or difference of two values (R61). -/
def fadd (F : Fmt) (m : RMode) (a b : FVal) : Rounded :=
  match a, b with
  | .nan _, _ | _, .nan _ => nanResult F [a, b]
  | .inf x, .inf y => if x = y then ⟨F.withSign x F.infBits, {}⟩ else ⟨F.canonNaN, .invalid⟩
  | .inf x, .fin _ | .fin _, .inf x => ⟨F.withSign x F.infBits, {}⟩
  | .fin x, .fin y =>
    let s := x.add y
    if s.num = 0 then
      -- R61: an exact zero sum of operands of opposite sign is +0, except in RDN, where it is -0.
      let neg := if x.num = 0 ∧ y.num = 0 ∧ x.neg = y.neg then x.neg else m == .rdn
      ⟨F.withSign neg 0, {}⟩
    else roundDyadic F m s

/-- A value with its sign changed. -/
def FVal.negate : FVal → FVal
  | .nan s => .nan s
  | .inf n => .inf (!n)
  | .fin d => .fin d.negate

/-- The product of two values, not yet rounded; none where it is 0 times infinity (R61). -/
def exactMul (a b : FVal) : Option FVal :=
  match a, b with
  | .nan s, .nan t => some (.nan (s || t))
  | .nan s, _ => some (.nan s)
  | _, .nan s => some (.nan s)
  | .inf x, .inf y => some (.inf (x != y))
  | .inf x, .fin y => if y.num = 0 then none else some (.inf (x != y.neg))
  | .fin x, .inf y => if x.num = 0 then none else some (.inf (x.neg != y))
  | .fin x, .fin y => some (.fin (x.mul y))

/-- The product of two values (R61). -/
def fmul (F : Fmt) (m : RMode) (a b : FVal) : Rounded :=
  match exactMul a b with
  | none => ⟨F.canonNaN, .invalid⟩
  | some v => roundVal F m false v

/-- a * b + d rounded once (R61): 0 times infinity is invalid whatever d is. -/
def ffma (F : Fmt) (m : RMode) (a b d : FVal) : Rounded :=
  match exactMul a b with
  | none => ⟨F.canonNaN, .invalid⟩
  | some v => fadd F m v d

/-- The quotient of two values (R61). -/
def fdiv (F : Fmt) (m : RMode) (a b : FVal) : Rounded :=
  match a, b with
  | .nan _, _ | _, .nan _ => nanResult F [a, b]
  | .inf _, .inf _ => ⟨F.canonNaN, .invalid⟩
  | .inf x, .fin y => ⟨F.withSign (x != y.neg) F.infBits, {}⟩
  | .fin x, .inf y => ⟨F.withSign (x.neg != y) 0, {}⟩
  | .fin x, .fin y =>
    let neg := x.neg != y.neg
    if y.num = 0 then
      if x.num = 0 then ⟨F.canonNaN, .invalid⟩ else ⟨F.withSign neg F.infBits, { dz := true }⟩
    else if x.num = 0 then ⟨F.withSign neg 0, {}⟩
    else
      -- The quotient has at least mbits + 4 bits, so the unit lies far below the quantum.
      let up := F.mbits + 4 + Nat.log2 y.num
      let n := x.num * 2 ^ up
      roundMag F m false neg (n / y.num) (x.exp - y.exp - up) (n % y.num != 0)

/-- The integer square root, by its binary digits from digit k - 1 down. -/
def isqrtFrom : Nat → Nat → Nat → Nat
  | 0, _, r => r
  | k + 1, n, r =>
    let c := r + 2 ^ k
    if c * c ≤ n then isqrtFrom k n c else isqrtFrom k n r

/-- The greatest r with r * r ≤ n. -/
def isqrt (n : Nat) : Nat := isqrtFrom (Nat.log2 n / 2 + 1) n 0

/-- The square root of a value (R61). -/
def fsqrt (F : Fmt) (m : RMode) (a : FVal) : Rounded :=
  match a with
  | .nan _ => nanResult F [a]
  | .inf neg => if neg then ⟨F.canonNaN, .invalid⟩ else ⟨F.infBits, {}⟩
  | .fin d =>
    if d.num = 0 then ⟨F.withSign d.neg 0, {}⟩
    else if d.neg then ⟨F.canonNaN, .invalid⟩
    else
      -- An even exponent, and enough digits that the root has at least mbits + 4 bits.
      let k := 2 * (F.mbits + 4) + (d.exp % 2).toNat
      let n := d.num * 2 ^ k
      let r := isqrt n
      roundMag F m false false r ((d.exp - k) / 2) (r * r != n)

/-- The lesser or greater operand, with -0 below +0 (R62): the pattern chosen, and NV for a signalling NaN. -/
def fminmax (F : Fmt) (greater : Bool) (x y : Nat) : Rounded :=
  let a := F.value x
  let b := F.value y
  let flags : FpFlags := { nv := a.isSNaN || b.isSNaN }
  let below : Bool :=
    match a, b with
    | .inf p, .inf q => p && !q
    | .inf p, _ => p
    | _, .inf q => !q
    | .fin p, .fin q => p.lt q || (p.num == 0 && q.num == 0 && p.neg && !q.neg)
    | _, _ => false
  if a.isNaN && b.isNaN then ⟨F.canonNaN, flags⟩
  else if a.isNaN then ⟨y, flags⟩
  else if b.isNaN then ⟨x, flags⟩
  else ⟨if below != greater then x else y, flags⟩

/-- a < b for values that are no NaN. -/
def FVal.lt (a b : FVal) : Bool :=
  match a, b with
  | .inf p, .inf q => p && !q
  | .inf p, .fin _ => p
  | .fin _, .inf q => !q
  | .fin p, .fin q => p.lt q
  | _, _ => false

/-- a = b for values that are no NaN; -0 = +0. -/
def FVal.eq (a b : FVal) : Bool :=
  match a, b with
  | .inf p, .inf q => p == q
  | .fin p, .fin q => p.eq q
  | _, _ => false

/-- FCLASS of R62: the number of the bit that is set. -/
def fclass (F : Fmt) (bits : Nat) : Nat :=
  let sub := bits / 2 ^ F.mbits % 2 ^ F.ebits == 0
  match F.value bits with
  | .inf neg => if neg then 0 else 7
  | .nan s => if s then 8 else 9
  | .fin d =>
    if d.num = 0 then (if d.neg then 3 else 4)
    else if sub then (if d.neg then 2 else 5)
    else if d.neg then 1 else 6

/-- A finite number rounded to an integer, and whether it was one. -/
def roundToInt (m : RMode) (d : Dyadic) : Int × Bool :=
  let b := between d.num d.exp false 0
  let n := b.lo + (if roundsUp m d.neg b then 1 else 0)
  (if d.neg then -(n : Int) else n, b.exact)

/-- FTOI and FTOU (R63): the integer in [lo, hi], NV without NX where the rounded value lies outside. -/
def ftoInt (lo hi : Int) (m : RMode) (v : FVal) : Int × FpFlags :=
  match v with
  | .nan _ => (0, .invalid)
  | .inf neg => (if neg then lo else hi, .invalid)
  | .fin d =>
    let r := roundToInt m d
    if r.1 > hi then (hi, .invalid)
    else if r.1 < lo then (lo, .invalid)
    else (r.1, { nx := !r.2 })

/-- ITOF and UTOF (R63). -/
def intToF (F : Fmt) (m : RMode) (i : Int) : Rounded := roundDyadic F m (.ofInt i 0)

/-- A value of one format as a value of another: an exact widening, or a rounding (R63, R191). -/
def fconv (src dst : Fmt) (m : RMode) (e4sat : Bool) (bits : Nat) : Rounded := roundVal dst m e4sat (src.value bits)

/-- ExpandI4 of R191: the E4M3 encoding of a four-bit two's complement integer. -/
def expandI4 (n : BitVec 4) : BitVec 8 := BitVec.ofNat 8 (roundNE .e4m3 (.ofInt n.toInt 0))

/-- ExpandE2M3 of R191. -/
def expandE2M3 (n : BitVec 6) : BitVec 8 := BitVec.ofNat 8 (fconv .e2m3 .e4m3 .rne false n.toNat).bits

/-- ExpandE3M2 of R191. -/
def expandE3M2 (n : BitVec 6) : BitVec 8 := BitVec.ofNat 8 (fconv .e3m2 .e5m2 .rne false n.toNat).bits

end Sys2Proof.Machine
end

