-- ==== Sys2Proof/Machine/State.lean ====
section
/-!
DEFINITION. The state of the wafer (R1, R2), as plain data.

Cores, clusters and regions stand in sparse tables by number; what a table does not list is as after reset. A region is
r = x + 9 y (R2), a cluster of the wafer is 64 r + c, a core of the wafer is 512 r + 8 c + k, which is also the number of
its TCM port (R151); the service cores of a region stand at c = 63.
-/

namespace Sys2Proof.Machine

/-- Why the model stops. -/
inductive Fault where
  /-- An encoded instruction is run by `exec` though State.cur names no live fibre: no core issues it. `step` never does
  this. Safe: the machine has no such step. -/
  | noFibre
deriving DecidableEq, Repr

/-- Why the model gives no meaning. -/
inductive Refusal where
  /-- An instruction that has no meaning in this model yet, raised by `exec` alone. Safe: nothing is claimed of it. -/
  | notModelled (mnemonic : String)
deriving DecidableEq, Repr

/-! ### Faults of the hardware -/

/-- The fault codes (R325). -/
inductive FaultCode where
  | illegal | engineAbsent | privilege | align | page | rangeLocked | homeFenced | uncorrected | overflowExhausted
  | entryFetch
deriving DecidableEq, Repr

/-- The number of a fault code (R325). -/
def FaultCode.num : FaultCode → Nat
  | .illegal => 1 | .engineAbsent => 2 | .privilege => 3 | .align => 4 | .page => 5 | .rangeLocked => 6
  | .homeFenced => 7 | .uncorrected => 8 | .overflowExhausted => 9 | .entryFetch => 10

/-- What a fault belongs to (R328). -/
inductive FaultKind where
  | fetch | load | store | atomic | engine | message | gather | context | migration | instruction
deriving DecidableEq, Repr

/-- The number of a fault kind (R328). -/
def FaultKind.num : FaultKind → Nat
  | .fetch => 0 | .load => 1 | .store => 2 | .atomic => 3 | .engine => 4 | .message => 5 | .gather => 6
  | .context => 7 | .migration => 8 | .instruction => 9

/-- A refused g register (R70): the refusal's code and the kind of the refused access (R328). The register itself holds
the effective address. -/
structure Refused where
  code : FaultCode
  kind : FaultKind
deriving DecidableEq, Repr

/-- An owed refusal (R71): its code, the PC of the refused instruction, its address or destination rank, the kind of the
access, and the count of refusals, which holds at 255. -/
structure Owed where
  code  : FaultCode
  pc    : Word
  place : Word
  kind  : FaultKind
  count : Nat
deriving DecidableEq, Repr

/-! ### Translation -/

/-- An entry of a cluster TLB (R308): tag word and entry word. -/
structure TlbEntry where
  tag   : Word
  entry : Word
deriving DecidableEq, Repr

/-- A micro-TLB entry (R320): the copied entry and the cluster slot it came from. -/
structure MicroEntry where
  slot : Nat
  copy : TlbEntry
deriving DecidableEq, Repr

/-! ### Fibres -/

/-- What will clear a pending mark, PSRC of R101. A mark of a barrier also holds its level (R129). -/
inductive PSrc where
  | bind | load | barrier (level : Level) | engine | gather
deriving DecidableEq, Repr

/-- What keeps a fibre out of the ready set (R104). -/
inductive Hold where
  /-- Until none of these g registers is pending (R20). BAR.WT holds its fibre so until rd is written (R129). -/
  | regs (mask : BitVec 8)
  /-- Until no XLD to xn is in flight (R21). -/
  | xreg (xn : Nat)
  /-- Until the line with this parcel is in the instruction cache (R104). -/
  | icache (pa : Nat)
  /-- Until a TLB.W in the cluster, or a NOMAP for the page (R320, R322): the address, and what the access belongs to. -/
  | miss (pasid : Nat) (page : Nat) (va : Word) (kind : FaultKind)
  /-- Until the core has a free tag and the fibre holds fewer than 32 (R69). -/
  | tags
  /-- Until the core's outbound queue accepts the message (R81). -/
  | outbound
  /-- A QGET of an empty queue (R88); held readers are served in the order of these numbers. -/
  | queueRead (q : Nat) (order : Nat)
  /-- A QPUT into a full queue (R88). -/
  | queueWrite (q : Nat) (order : Nat)
  /-- A vector instruction's streams: until each of these queues holds so many entries (R203); readers of a queue are
  served in the order of these numbers. -/
  | stream (needs : List (Nat × Nat)) (order : Nat)
  /-- The core's earlier arrival at the level is not yet released (R129). -/
  | barrier (level : Level)
  /-- 128 hod operations of the core are in flight (R132). -/
  | hodLimit
  /-- The local range-lock table is full (R132). -/
  | lockTable
  /-- The core's queue of an engine is full (R204, R216, R270, R273): 0 vector, 1 matrix, 2 rotary, 3 exponent. -/
  | engineQueue (engine : Nat)
  /-- A vector instruction or an SMX of the fibre waits in its queue or is being performed (R204, R273). -/
  | performing
deriving DecidableEq, Repr

/-- A settling instruction that waits for the operations it covers (R71, R76, R86, R87, R121). -/
inductive Settling where
  | fence (scope : Scope)
  | exit
  /-- MIG to a rank. -/
  | mig (rank : Nat)
  /-- A predictor migration to a rank: the access at the fibre's PC is executed there again. -/
  | predict (rank : Nat)
deriving DecidableEq, Repr

/-- One run-queue slot (R101, R302, R326). -/
structure Slot where
  /-- A fibre holds the slot. -/
  live    : Bool
  pc      : BitVec 56
  /-- The PC was set by a transfer whose 64-bit target is not canonical (R23): the fetch faults (R57, log 11). -/
  far     : Bool
  g       : Vector Word 8
  /-- PEND and PSRC: the pending mark of each register. -/
  mark    : Vector (Option PSrc) 8
  refused : Vector (Option Refused) 8
  owed    : Option Owed
  prio    : Fin 4
  eff     : Fin 4
  age     : Nat
  yld     : Bool
  ecls    : BitVec 3
  amig    : Bool
  /-- LASTH; none is the 64 of R101. -/
  lastH   : Option Nat
  gen     : BitVec 8
  fw      : Bool
  sup     : Bool
  epcv    : Bool
  epc     : BitVec 56
  tcause  : BitVec 16
  /-- Frozen by a fault (R326). -/
  frozen  : Bool
  hold    : Option Hold
  settle  : Option Settling
  /-- The micro-TLB entries for which the instruction at the PC has already been held: it is held at most once for each page
  (R320). -/
  walked  : List MicroEntry
  /-- The ac of the cluster from which the fibre may issue (R46, R104). -/
  readyAt : Nat
  /-- A word of the slot holds an uncorrected error (R332, R336). -/
  unc     : Bool
deriving DecidableEq, Repr

/-- A slot without a fibre, of generation 0. -/
def Slot.free : Slot where
  live := false
  pc := 0
  far := false
  g := Vector.replicate 8 0
  mark := Vector.replicate 8 none
  refused := Vector.replicate 8 none
  owed := none
  prio := 0
  eff := 0
  age := 0
  yld := false
  ecls := 0
  amig := false
  lastH := none
  gen := 0
  fw := false
  sup := false
  epcv := false
  epc := 0
  tcause := 0
  frozen := false
  hold := none
  settle := none
  walked := []
  readyAt := 0
  unc := false

/-! ### Messages and the mesh -/

/-- A message (R77): routing word, selector, data words (one, or eight in a record). -/
structure Msg where
  rw   : Word
  sel  : Word
  data : List Word
deriving DecidableEq, Repr

/-- A record standing in a mailbox partition or in its reserve (R109), in arrival order. -/
structure Held where
  msg   : Msg
  /-- A COUNT that took its counter to 0 and waits for a slot: the handler index and the counter (R112). -/
  start : Option (Nat × Nat)
  /-- A start RUN, placed by Flatar while the entry is PLACING: its fibre takes the task's defaults (R102, R122). -/
  first : Bool
  /-- The number that orders arrivals, and the ac of placement (R112). -/
  order : Nat
  ac    : Nat
deriving DecidableEq, Repr

/-- A record standing in a fault inbox (R329, R331): a FAULT record, or a MIGRATE that came back with a code, in arrival
order; and the ac of its arrival. -/
structure Inboxed where
  msg  : Msg
  back : Option FaultCode
  ac   : Nat
deriving DecidableEq, Repr

/-- What answers a tag (R69, R70, R71, R311). -/
inductive TagUse where
  /-- A load or atomic: the register that the REPLY writes. -/
  | value (reg : Reg) (kind : FaultKind)
  /-- A store or message. -/
  | posted (kind : FaultKind)
  /-- CTX.SAVE, CTX.LOAD, WIPE, ICFLUSH: the register that gets the status word. -/
  | status (reg : Reg)
  /-- The remote check of a CREL (R276): the register that gets the status, and the descriptor's physical address. -/
  | course (reg : Reg) (pa : Nat)
deriving DecidableEq, Repr

/-- An outstanding tagged operation (R69). -/
structure Tag where
  slot  : Nat
  gen   : BitVec 8
  use   : TagUse
  scope : Scope
  /-- The PC of the instruction and its effective address or destination rank, for an owed refusal (R71). -/
  pc    : Word
  place : Word
  /-- The core that issued it: its cluster's SYSDRN covers it (R323). -/
  issuer : Nat
  /-- Marked by SYSDRN.SNAP (R323). -/
  snap  : Bool := false
deriving DecidableEq, Repr

/-- A home port (R151). -/
inductive Home where
  | tcm (core : Nat)
  | scratchpad (cluster : Nat)
  | sram (region : Nat) (slice : Nat)
  | control (region : Nat)
  | hbm (stack : Nat) (channel : Nat)
  | flash (stack : Nat) (channel : Nat)
  | system (port : Nat)
  | pod (module : Nat)
deriving DecidableEq, Repr

/-- A range-lock table (R161). -/
inductive LockTable where
  | cluster (cluster : Nat)
  | region (region : Nat)
  | stack (stack : Nat)
deriving DecidableEq, Repr

/-- An entry of a range-lock table (R162, R164). -/
structure Lock where
  first : Nat
  last  : Nat
  full  : Bool
  eng   : Nat
  owner : Nat
  op    : Nat
  /-- The ac of the table's home in which the lock was registered (R163). -/
  since : Nat
deriving DecidableEq, Repr

/-- The translated pages of a range, each the 64 KiB page of virtual and of physical addresses; an operation keeps what
it translated at issue (R310). -/
abbrev Pages := List (Nat × Nat)

/-- A place that messages and other words leave from or go to. -/
inductive Port where
  | core (core : Nat)
  /-- The gather unit of a core, which has its own 8 tags (R278). -/
  | gather (core : Nat)
  | home (home : Home)
  | cluster (cluster : Nat)
  | router (cluster : Nat)
  | zone (region : Nat) (zone : Nat)
  | region (region : Nat)
  /-- A stub entry of a core, as the source of what it forwards (R293, R295). -/
  | stub (core : Nat) (entry : Nat)
deriving DecidableEq, Repr

/-- The requester of an operation at a home, for what answers it and for the trace (R166). -/
structure Requester where
  core  : Nat
  rank  : Nat
  sup   : Bool
deriving DecidableEq, Repr

/-- A beat of a hod operation (R245): the engine's core and operation, the destination's number in it, the physical address
and the bytes. A beat of a B block carries no bytes to memory (R223). -/
structure Beat where
  core  : Nat
  op    : Nat
  dest  : Nat
  pa    : Nat
  bytes : List Byte
  /-- The ac of its home's cluster from which a beat for a home in the issuing cluster may be performed (R245); 0 for a beat
  that crosses the mesh. -/
  since : Nat
deriving DecidableEq, Repr

/-- What a packet carries. -/
inductive Payload where
  /-- A message (R77), and whether it carries a tag and so is answered by a REPLY (R80). -/
  | msg (m : Msg) (tagged : Bool)
  /-- A MIGRATE returned to its source with its refusal code (R331). -/
  | returned (m : Msg) (code : FaultCode)
  /-- A hod beat (R245). -/
  | beat (b : Beat)
  /-- The completion of a destination of a hod operation (R246): the engine's core, operation and destination, and the ac from
  which it reaches an engine of the same cluster (R245). -/
  | landed (core op dest since : Nat)
  /-- A free on its way to a sender's counter (R137, R138): the sender and the counter. -/
  | free (sender counter : Nat)
  /-- A token word to a zone broker (R227), with its requester's message when a fibre sent it. -/
  | token (core : Nat) (ask : Nat) (level : Nat) (other : Nat) (m : Msg)
  /-- A revocation notice with its target level (R257). -/
  | notice (level : Nat)
  /-- A remote check of a course's key range (R276): the asking core, tag, and the range. -/
  | check (core tag first last : Nat)
  /-- An entry on its way to a trace ring (R166): the ring's header, and the words of the entry that are not 0. -/
  | entry (ring : Nat) (words : List Word)
deriving DecidableEq, Repr

/-- Something in flight (R77, R113, R155): packets of one class between two places keep their order. -/
structure Packet where
  src  : Port
  dst  : Port
  tc   : Nat
  load : Payload
  /-- The router at which it stands (R248, R374): 64 r + c, with c = 63 for the service strip of region r. -/
  here : Nat
  /-- It waits for a link reported dark: the rc in which it began to wait, and the router that the link leads to (R267). -/
  held : Option (Nat × Nat)
  /-- The PASID of the issuing task, on a request that crosses a Bondlink port (R359). -/
  pasid : Option Nat := none
  /-- The router that its output queue leads to: where the tables in force when it reached its router send it (R248, R266). -/
  toward : Option Nat := none
deriving DecidableEq, Repr

/-! ### Engine operations -/

/-- An engine operation that a fibre has started and that has not completed (R76, R86, R107): its number at the core, the
fibre's slot and generation, the token register, the scopes of its homes, and the address that a refusal leaves. -/
structure EngineOp where
  no     : Nat
  slot   : Nat
  gen    : BitVec 8
  reg    : Reg
  scopes : List Scope
  va     : Word
  /-- The core that started it: its cluster's SYSDRN covers it (R323). -/
  issuer : Nat
  /-- Marked by SYSDRN.SNAP (R323). -/
  snap   : Bool := false
deriving DecidableEq, Repr

/-! ### The gather unit -/

/-- What the gather unit of a core is doing (R277). -/
inductive GatherMode where
  | idle | armed | faulted | stopping
deriving DecidableEq, Repr

/-- A fault that a kernel met (R279): the underlying code, the address, and the kernel offset of the instruction. -/
structure GatherFault where
  code   : FaultCode
  va     : Word
  offset : Nat
deriving DecidableEq, Repr

/-- A remote load of a kernel under a tag of the gather unit (R278): the register, the address, the home's scope, and the
mark of SYSDRN.SNAP. -/
structure GatherTag where
  reg   : Reg
  va    : Word
  scope : Scope
  snap  : Bool
  /-- The run that sent it was abandoned: its REPLY writes nothing (R279, R334). -/
  stale : Bool
deriving DecidableEq, Repr

/-- The gather unit of a core (R277 to R280). -/
structure Gather where
  mode   : GatherMode
  /-- The kernel store: 64 parcels, or none. -/
  store  : List Parcel
  /-- The arming fibre and the register it waits on. -/
  slot   : Nat
  gen    : BitVec 8
  reg    : Reg
  /-- Reg(rs1) of GK.ARM. -/
  arg    : Word
  /-- WATCH, its translated pages and its lines; BUF and its bytes. -/
  watch  : Word
  pages  : Pages
  lines  : Nat
  buf    : Word
  bytes  : Nat
  /-- Lines that have triggered, and those of them that wait for their run, in trigger order. -/
  seen   : BitVec 64
  waits  : List Nat
  /-- Runs that have ended. -/
  runs   : Nat
  /-- The line of the run in progress or of the abandoned run, and the run's context. -/
  line   : Option Nat
  ctx    : Slot
  fault  : Option GatherFault
  /-- The kernel's outstanding remote loads, by its own tag: the register and the address. -/
  tags   : Tab GatherTag
  /-- The fibres and registers that wait in GK.STOP. -/
  stop   : List (Nat × BitVec 8 × Reg)
deriving DecidableEq, Repr

/-- The gather unit at placement: IDLE with an empty kernel store (R277). -/
def Gather.initial : Gather where
  mode := .idle
  store := []
  slot := 0
  gen := 0
  reg := 0
  arg := 0
  watch := 0
  pages := []
  lines := 0
  buf := 0
  bytes := 0
  seen := 0
  waits := []
  runs := 0
  line := none
  ctx := Slot.free
  fault := none
  tags := []
  stop := []

/-! ### Hod operations (R132 to R139) -/

/-- What an operation of the hod engine carries. -/
inductive HodKind where
  | push | tile | multicast | block | rim
  /-- The forward of an MRING, whose source is the ACTIVE latch (R224). -/
  | forward
deriving DecidableEq, Repr

/-- A notice COUNT that an operation sends (R134, R136): its rank, counter index and class. -/
structure Note where
  rank  : Nat
  index : Nat
  tc0   : Bool
deriving DecidableEq, Repr

/-- A destination of a hod operation (R132, R246): where the first byte goes and its translated pages, the beats sent to it
and performed there, its lock, its refusal, whether its completion has been sent and has arrived, and the notices that follow
it. -/
structure HodDest where
  va        : Word
  pages     : Pages
  sent      : Nat
  performed : Nat
  locked    : Bool
  refused   : Option FaultCode
  told      : Bool
  done      : Bool
  notes     : List Note
deriving DecidableEq, Repr

/-- A B block of a latch (R223): format, rows, and its bytes and scale bytes. -/
structure Block where
  fmt    : Nat
  rows   : Nat
  data   : List Byte
  scales : List Byte
deriving DecidableEq, Repr

/-- A hod operation in flight at its core (R132, R245). -/
structure HodOp where
  no        : Nat
  kind      : HodKind
  slot      : Nat
  gen       : BitVec 8
  reg       : Reg
  /-- The source's translated pages. -/
  pages     : Pages
  /-- What is still to be injected, in order: source address, bytes, and offset from a destination's first byte. -/
  todo      : List (Word × Nat × Nat)
  /-- The bytes from a destination's first to its last. -/
  extent    : Nat
  dests     : List HodDest
  /-- The value that Reg(rd) receives. -/
  bytes     : Nat
  /-- The clip record of HOD.TILE: handler index and data words (R135). -/
  clip      : Option (Nat × List Word)
  /-- HOD.MC: the free counter; the forward of an MRING: the command's number. -/
  counter   : Nat
  /-- The address of an uncorrected word that a source read met (R132). -/
  failed    : Option Word
  /-- The first refusal that has reached the engine, with its address. -/
  code      : Option (FaultCode × Word)
  /-- MBPASS and MRING: the block's format and rows, and an MRING's bytes (R223). -/
  block     : Option Block
  /-- The rank that a block goes to; a rim push's: the PASID of its ring (R359). -/
  rank      : Nat
  /-- HOD.MC: the routers that have passed its tile down (R137). -/
  opened    : List Nat := []
deriving DecidableEq, Repr

/-- A fibre that waits in HOD.WT (R139). -/
structure HodWait where
  slot      : Nat
  gen       : BitVec 8
  reg       : Reg
  counter   : Nat
  threshold : Nat
deriving DecidableEq, Repr

/-- A child branch of a combining entry (R137, R248): a router, the TCM port of a core, or the cluster's scratchpad. -/
inductive Branch where
  | router (cluster : Nat) | core (core : Nat) | pad
deriving DecidableEq, Repr

/-- A combining entry of a router (R137): sender and counter, the port toward the sender (none at its own router), tiles
passed down, frees forwarded, and the free count of each branch. -/
structure Combine where
  sender   : Nat
  counter  : Nat
  up       : Option Nat
  tiles    : Nat
  frees    : Nat
  branches : List (Branch × Nat)
deriving DecidableEq, Repr

/-! ### The vector unit and the exponent unit (R201 to R211, R273) -/

/-- A source of a vector instruction as issue leaves it (R203). -/
inductive VecSource where
  | memory (pages : Pages) (va : Word) (bytes : Nat)
  | values (elements : List Nat)
  | scalar (v : Nat)
  | absent
deriving DecidableEq, Repr

/-- A vector instruction or an SMX in its core's dispatch queue (R203, R273): major and minor8, the descriptor, the
sources, D, the registers that name operands, and what was read at issue. -/
structure VecOp where
  slot   : Nat
  gen    : BitVec 8
  major  : Nat
  minor  : Nat
  desc   : XWord
  a      : VecSource
  b      : VecSource
  pages  : Pages
  va     : Word
  bytes  : Nat
  rd     : Reg
  rs1    : Reg
  rs2    : Reg
  mode   : Nat
  e4sat  : Bool
  seed   : BitVec 32
  pc     : Word
deriving DecidableEq, Repr

/-- What a unit is performing (R204). -/
structure VecRun where
  core   : Nat
  op     : VecOp
  /-- The rows still to be read, each with its operand (0 A, 1 B, 2 D) and its runs of physical address and bytes. -/
  reads  : List (Nat × List (Nat × Nat))
  /-- What has been read of A, B and D. -/
  a      : List Byte
  b      : List Byte
  d      : List Byte
  /-- The ac of computing between the last read and the first write. -/
  gap    : Nat
  /-- The rows still to be written, each as runs of bytes with their physical addresses. -/
  writes : List (List (Nat × List Byte))
  /-- The advances of pointers. -/
  moves  : List (Reg × Nat)
  /-- The address of an uncorrected word that a row read has met. -/
  failed : Option Word
  /-- The ac from which the next row may be accessed; without a row left, the ac in which the instruction ends. -/
  next   : Nat
  /-- The ac from one row to the next: 1, and 0 for an SMX, whose occupancy R273 gives. -/
  pace   : Nat
  /-- The ac in which it ends at the earliest. -/
  ends   : Nat
deriving DecidableEq, Repr

/-- A unit that serves the queues of several cores (R204, R272, R273): what it performs, and the core last served. -/
structure VecUnit where
  run    : Option VecRun
  last   : Nat
  /-- The ac from which the unit may take the next instruction: the one after its occupancy (R204, R205). -/
  freeAt : Nat := 0
deriving DecidableEq, Repr

/-! ### The matrix unit (R212 to R226, R235 to R243) -/

/-- The kinds of matrix commands. -/
inductive MatKind where
  | mma | mring | gmm | mmz | mst | mldc
deriving DecidableEq, Repr

/-- A matrix command in its core's queue, with what issue read (R216). -/
structure MatCmd where
  no     : Nat
  slot   : Nat
  gen    : BitVec 8
  reg    : Reg
  kind   : MatKind
  /-- The pair of R212, by minor8. -/
  pair   : Nat
  a      : XWord
  b      : XWord
  /-- The placement word or station word (R214, R221). -/
  place  : Word
  aPages : Pages
  bPages : Pages
  /-- ASCL, BSCL and their pages; SA and SB (R215). -/
  ascl   : Word
  asPages : Pages
  bscl   : Word
  bsPages : Pages
  sa     : Nat
  sb     : Nat
  /-- GMM: the row counts, BGSTRIDE, OUT, OSTRIDE and OFMT (R225). -/
  counts  : List Nat
  bgStride : Nat
  out     : Word
  outPages : Pages
  oStride : Nat
  oFmt    : Nat
  /-- The ac in which it was appended (R238). -/
  since   : Nat
  /-- GMM: tiles completed, steps of the current start done, steps performed, and the flags of the completion word. -/
  tile    : Nat
  step    : Nat
  steps   : Nat
  ovf     : Bool
  nan     : Bool
  fmtErr  : Bool
  /-- MRING after its step: it waits for the forward of its block (R224). -/
  pushing : Bool
deriving DecidableEq, Repr

/-- A fibre that waits in MWAIT (R226). -/
structure MatWait where
  slot      : Nat
  gen       : BitVec 8
  reg       : Reg
  threshold : Nat
deriving DecidableEq, Repr

/-- The matrix unit of a cluster (R217, R238): the core whose command executes, the ac in which its current work ends, the
arbiter's Cur and Used, the slots in which the last steps started, and the level in force. -/
structure MatUnit where
  core   : Option Nat
  until_ : Nat
  cur    : Nat
  used   : Nat
  starts : List Nat
  level  : Nat
deriving DecidableEq, Repr

/-- The matrix unit at region reset (R238). -/
def MatUnit.initial : MatUnit where
  core := none
  until_ := 0
  cur := 7
  used := 0
  starts := []
  level := 0

/-! ### The rotary load unit (R269 to R272) -/

/-- A rotary operation in its core's queue (R270). -/
structure RotOp where
  no     : Nat
  slot   : Nat
  gen    : BitVec 8
  reg    : Reg
  query  : Bool
  desc   : XWord
  src    : Word
  pages  : Pages
  sfmt   : Nat
  pairs  : Nat
  base   : Nat
  table  : Word
  tPages : Pages
  dPages : Pages
  e4sat  : Bool
  row    : Nat
  nan    : Bool
  ovf    : Bool
deriving DecidableEq, Repr

/-- The rotary unit of a cluster (R272): the core served, the last one, L, the ac at which the operation started, and the
ac in which the last rows started. -/
structure RotUnit where
  core   : Option Nat
  last   : Nat
  level  : Nat
  begun  : Nat
  until_ : Nat
  starts : List Nat
deriving DecidableEq, Repr

/-- A rotary unit that has served nothing. -/
def RotUnit.initial : RotUnit where
  core := none
  last := 7
  level := 0
  begun := 0
  until_ := 0
  starts := []

/-! ### Tokens (R227 to R233, R251 to R264) -/

/-- A request to a zone broker (R229 to R231): TKREQ with its level and WAIT, TKRET with its level, TKLEND with KEEP and DUR;
with the requester's core, tag, class and routing. -/
inductive TokenAsk where
  | request (level : Nat) (wait : Bool)
  | return_ (level : Nat)
  | lend (keep : Nat) (dur : Nat)
deriving DecidableEq, Repr

/-- A request of a fibre, as the broker keeps it: what it asks and the message that carries it; none for a supervisor write
of TKENT.GL. -/
structure TokenWord where
  ask   : TokenAsk
  core  : Nat
  reply : Option Msg
deriving DecidableEq, Repr

/-- What a cluster and its zone broker keep of the cluster's tokens (R228, R253). -/
structure Tokens where
  gl      : Nat
  keep    : Nat
  next    : Nat
  level   : Nat
  held    : Nat
  lent    : Nat
  notice  : Bool
  throt   : Bool
  lending : Bool
  /-- Target level of the outstanding notice; 15 when there is none. -/
  tgt     : Nat
  /-- GL when the outstanding notice was sent: the levels between it and the target are under notice. -/
  under   : Nat
  cls     : Nat
  borrow  : Nat
  /-- The queued request, and the order number of its arrival. -/
  waiting : Option (TokenWord × Nat)
  /-- The order number of the last grant. -/
  granted : Nat
  /-- The moment at which the notice landed, in ticks. -/
  landed  : Option Nat
  /-- Notices that a pass-back has answered before their words landed: the words that take no effect (R257). -/
  stale   : Nat
  /-- Requests answered at the next pass-back (R230, R231, R260). -/
  owed    : List TokenWord
  /-- A lend that has been accepted: its KEEP and DUR; it begins at the pass-back. -/
  lendAsk : Option (Nat × Nat)
  /-- The moment at which a running lend ends, in ticks. -/
  lendEnd : Option Nat
  /-- A recall or an expiry that takes tokens back: the level restored, the tokens taken back so far, and the request
  answered. -/
  reclaim  : Option (Nat × Nat × Option TokenWord)
deriving DecidableEq, Repr

/-- A cluster's tokens at region reset. -/
def Tokens.initial : Tokens where
  gl := 0
  keep := 0
  next := 0
  level := 0
  held := 0
  lent := 0
  notice := false
  throt := false
  lending := false
  tgt := 15
  under := 0
  cls := 0
  borrow := 0
  waiting := none
  granted := 0
  landed := none
  stale := 0
  owed := []
  lendAsk := none
  lendEnd := none
  reclaim := none

/-- What a zone broker keeps (R254). -/
structure Zone where
  budget : Nat
  floor  : Nat
  free   : Nat
  loaned : Nat
  revcnt : Nat
deriving DecidableEq, Repr

/-! ### Barrier signals (R125 to R131, R168) -/

/-- What a barrier signal says. -/
inductive BarKind where
  | arrive
  | excuse (on : Bool)
  | fence (on : Bool)
  /-- A rewritten tree has its root look again (R172). -/
  | recheck
  /-- The last output of a segment whose region has gone dark, on its way to the root (R172). -/
  | output (r : Nat) (v : Bool)
  /-- A release on its way down the wafer tree to a segment, with its status word without CHG, and the cores whose word has
  CHG 1, as the root has decided (R129, R141, R172). -/
  | wave (status : Word) (chg : List Nat)
  /-- A release on its way to a core, with its status word. -/
  | release (status : Word)
deriving DecidableEq, Repr

/-- A part of a signal's path (R168, R169): the unit whose ac count it, a cluster or a service strip (c = 63), the ac, and
whether the barrier delay of the core's band is added as it stands when the part begins (R170), or the part begins at the
node of the core's cluster (R183). -/
structure Leg where
  unit : Nat
  acs  : Nat
  band : Bool
  node : Bool
deriving DecidableEq, Repr

/-- A signal in the barrier networks: of a core at a level from 1 to 4. -/
structure BarSignal where
  core  : Nat
  level : Nat
  kind  : BarKind
  /-- The parts of its path that are still to come, the present one first. -/
  legs  : List Leg
  /-- The ac of its unit in which the present part ends. -/
  until_ : Nat
  /-- The region whose segment it stands at or goes to, and the one that it comes from. -/
  seg   : Nat
  prev  : Nat
  /-- It has reached its root, or its core (R168). -/
  due   : Bool
deriving DecidableEq, Repr

/-! ### Rim engines -/

/-- A request ring's registration and header (R356): header address, base, k, producer and consumer index, PASID. -/
structure Request where
  header   : Nat
  base     : Nat
  k        : Nat
  producer : Word
  consumer : Word
  pasid    : Nat
deriving DecidableEq, Repr

/-- A registered request ring of a rim region (R358): the producer index of the last kick that was taken since the
registration, and the operation in progress. -/
structure RimRing where
  producer : Option Nat
  /-- The number of the hod operation that carries a slot's data, at the region's service core 0, and the ring as it stood when
  the slot was begun. -/
  op       : Option (Nat × Request)
deriving DecidableEq, Repr

/-- A running flash command (R355): the block, whether it is a PROGRAM, its source, the bytes that it has copied, and whether a
source read has met an uncorrected word. -/
structure FlashRun where
  block   : Nat
  program : Bool
  src     : Nat
  copied  : Nat
  failed  : Bool
deriving DecidableEq, Repr

/-! ### Cores -/

/-- A pre-emption in progress (R333): the save area, the PRE that asked for it, and the rc at which it landed. -/
structure Saving where
  area  : Nat
  pre   : Packet
  since : Nat
deriving DecidableEq, Repr

/-- A core: the state it owns (R19, R101, R110, and the register pages). -/
structure Core where
  /-- The task entry's words (R100). -/
  entry     : Vector Word 8
  /-- The run queue; an unlisted slot is free, of generation 0. -/
  slots     : Tab Slot
  /-- Ptr(0) to Ptr(3) (R105). -/
  ptr       : Vector Nat 4
  x         : Vector XWord 16
  /-- XLDs in flight: by xn, the data and the ac at which it reaches xn (R21, R25). -/
  xld       : Tab (XWord × Nat)
  q         : Vector (List Word) 8
  /-- The 64 counters: count and handler (R83). -/
  counters  : Tab (Nat × Nat)
  /-- The 64 predictor counters (R121). -/
  pred      : Tab Nat
  /-- cr.fpmode (R59). -/
  fpmode    : Word
  /-- cr.seed.SEED (R197). -/
  seed      : BitVec 32
  /-- The records in the overflow ring as the core last counted them (R90, R111): its header is read where it can be. -/
  ringLen   : Nat
  /-- cr.admit.ADMIT (R89). -/
  admitting : Bool
  /-- While delivery resumes after closed admission (R91): the order number of the next record taken from the ring, and
  how many such records remain. -/
  resuming  : Option (Nat × Nat)
  /-- The ac of the last delivery; at most one record is delivered in an ac (R112). -/
  delivAt   : Option Nat
  /-- cr.dlcnt: DEAD and LOST (R118). -/
  dead      : Nat
  lost      : Nat
  /-- cr.barx: EXC, GRANT and ARV, bit L - 1 for level L, and CNT0 (R126). -/
  exc       : BitVec 4
  grant     : BitVec 4
  arv       : BitVec 4
  cnt0      : Nat
  /-- Releases kept while the core is SAVED or its cluster held: level and status word (R130, R183). -/
  kept      : List (Level × Word)
  /-- cr.kvreq, cr.skey(i), cr.sdst(i) (R291, R292). -/
  kvreq     : Word
  skey      : Tab Word
  sdst      : Tab Word
  /-- cr.tvec (R303). -/
  tvec      : Word
  /-- cr.mbcfg, and the value in force since the last placement (R110). -/
  mbcfg     : Word
  mbInForce : Word
  /-- cr.muweight (R237). -/
  muweight  : Word
  /-- cr.wdog and its count of rc (R339). -/
  wdog      : Word
  wdogCount : Nat
  /-- The rc in which the core last issued (R339). -/
  issuedRc  : Option Nat
  /-- The 16 free counters (R136). -/
  freeCtr   : Tab Nat
  /-- Outstanding tags, by number (R69). -/
  tags      : Tab Tag
  /-- General entries and migration reserve of the mailbox, in arrival order (R109, R111). -/
  part      : List Held
  reserve   : List Held
  /-- The fault inbox (R329). -/
  inbox     : List Inboxed
  /-- The micro-TLB, last used first (R320). -/
  utlb      : List MicroEntry
  /-- Pages with a MISS outstanding: PASID and page (R320). -/
  missing   : List (Nat × Nat)
  /-- Slots whose PAGEOUT has unmapped its page and waits for the drain (R330). -/
  unmapping : List Nat
  /-- The core is fenced (R340). -/
  fenced    : Bool
  /-- The placement clear is running (R123). -/
  clearing  : Bool
  /-- A pre-emption is running (R333). -/
  saving    : Option Saving
  /-- The rc in which the RESUME that stands at the core began to load it (R311, R337). -/
  loading   : Option Nat
  /-- The core on which the context that was saved here has been loaded (R337): what arrives here for it goes there. -/
  went      : Option Nat
  /-- A word of the core's x or q registers, counters, station or queue bank holds an uncorrected error (R332, R336). -/
  unc       : Bool
  /-- Replies for unknown tags and reserved words received (R80, R338). -/
  errs      : Nat
  /-- The ac in which the core last issued; none since reset. -/
  last      : Option Nat
  /-- Engine operations started and not completed. -/
  ops       : List EngineOp
  /-- The number of the next engine operation (R164 OP). -/
  opNo      : Nat
  /-- The gather unit. -/
  gk        : Gather
  /-- Hod operations in flight (R132), and fibres in HOD.WT (R139). -/
  hods      : List HodOp
  hwaits    : List HodWait
  /-- The dispatch queue of vector instructions (R204) and the SMX queue (R273). -/
  vq        : List VecOp
  sq        : List VecOp
  /-- The matrix command queue (R216), the station's cells by 256 row + column (R212), the B latch (R223), fibres in MWAIT
  (R226). -/
  mq        : List MatCmd
  station   : Tab (BitVec 32)
  active    : Option Block
  incoming  : Option Block
  /-- The block that comes into INCOMING (R223): the engine's core, its operation, and the bytes that have landed. -/
  filling   : Option (Nat × Nat × List (Nat × List Byte))
  /-- Completions that have found the spill queue full and wait at the port (R335): slot, generation, register and value. -/
  owedWords : List (Nat × BitVec 8 × Reg × Word)
  mwaits    : List MatWait
  /-- The rotary queue (R270). -/
  rq        : List RotOp
  /-- What the barrier roots see of the core (R125, R141, R168): arrivals, excuses and fences at levels 1 to 4, and
  whether an input of the unit changed since its arrival. -/
  seenArv   : BitVec 4
  seenExc   : BitVec 4
  seenFence : BitVec 4
  chg       : BitVec 4
deriving DecidableEq, Repr

/-- A core after the reset of its region. cr.mbcfg.BASE is 0 for an even and 1,024 for an odd core (R110); every EXC is 1,
as on a core in state FREE (R127). -/
def Core.initial (pid : Nat) : Core where
  entry := Vector.replicate 8 0
  slots := []
  ptr := Vector.replicate 4 0
  x := Vector.replicate 16 0
  xld := []
  q := Vector.replicate 8 []
  counters := []
  pred := []
  fpmode := 0
  seed := 0
  ringLen := 0
  admitting := true
  resuming := none
  delivAt := none
  dead := 0
  lost := 0
  exc := 0xF#4
  grant := 0
  arv := 0
  cnt0 := 0
  kept := []
  kvreq := 0
  skey := []
  sdst := []
  tvec := 0
  mbcfg := if pid % 2 = 0 then 0x0000002004000000#64 else 0x0000002004000400#64
  mbInForce := if pid % 2 = 0 then 0x0000002004000000#64 else 0x0000002004000400#64
  muweight := 1
  wdog := 0
  wdogCount := 0
  issuedRc := none
  freeCtr := []
  tags := []
  part := []
  reserve := []
  inbox := []
  utlb := []
  missing := []
  unmapping := []
  fenced := false
  clearing := false
  saving := none
  loading := none
  went := none
  unc := false
  errs := 0
  last := none
  ops := []
  opNo := 0
  gk := Gather.initial
  hods := []
  hwaits := []
  vq := []
  sq := []
  mq := []
  station := []
  active := none
  incoming := none
  filling := none
  owedWords := []
  mwaits := []
  rq := []
  seenArv := 0
  seenExc := 0xF#4
  seenFence := 0
  chg := 0

/-! ### Clusters -/

/-- The forwarder of a cluster, FWD(c) (R176). -/
structure Forwarder where
  los     : Bool
  hold    : Bool
  hreq    : Bool
  aligned : Bool
  cls     : Nat
  depth   : Nat
  parent  : Nat
deriving DecidableEq, Repr

/-- The default parent of cluster c (R176): STRIP for (0,2), E or W in row 0, N elsewhere. -/
def Forwarder.defaultParent (c : Nat) : Nat :=
  if c = 2 then 5 else if c < 2 then 2 else if c < 6 then 4 else 1

/-- The forwarder of cluster c after region reset: held, hold requested, on the default tree. -/
def Forwarder.initial (c : Nat) : Forwarder where
  los := false
  hold := true
  hreq := true
  aligned := false
  cls := 3
  depth := 15
  parent := Forwarder.defaultParent c

/-- A cluster: the state it owns. The entry c = 63 of a region is its service strip: its router (R374). -/
structure Cluster where
  /-- The 2,048 slots of the cluster TLB (R320). -/
  tlb     : Tab TlbEntry
  /-- The slots as they stood when an ac began in which they changed, and that ac: what is translated in it uses them (R309,
  R310). -/
  tlbWas  : Option (Nat × Tab TlbEntry)
  /-- The 64 entries of the range-lock table (R161), and the locks released in an ac, which fibre accesses of that ac still
  hit (R163). -/
  locks   : Tab Lock
  freed   : List (Nat × Lock)
  /-- cr.tscfg (R321). -/
  tscfg   : Word
  /-- cr.trcfg (R165). -/
  trcfg   : Word
  /-- Parcels in the instruction cache, by physical address (R150). -/
  icache  : Tab Parcel
  fwd     : Forwarder
  /-- The rc at which the cluster may leave hold (R180); none while a condition is not met. -/
  leaveAt : Option Nat
  /-- The region's ac at which the current hold began, and the ac lost in earlier holds (R178, R182). -/
  heldAt  : Option Nat
  lostAc  : Nat
  /-- SYSDRN.DRAINED is 0: operations that the last SNAP marked are outstanding (R323). -/
  draining : Bool
  /-- The combining entries of the cluster's router (R137, R248), at most 32, and the router's error counter (R78, R138,
  R267). -/
  combine : List Combine
  errs    : Nat
  /-- The vector units of quads 0 and 1 (R204; the two of a V quad act as one) and the exponent unit (R273). -/
  vec0    : VecUnit
  vec1    : VecUnit
  exp     : VecUnit
  mat     : MatUnit
  rot     : RotUnit
  tokens  : Tokens
  /-- cr.tknote (R259). -/
  tknote  : Word
  /-- The cores whose hod operations the engine served last (R245). -/
  hodLast : Nat
  /-- The ac in which the hod engine injected its last beat (R245). -/
  hodAt   : Option Nat
deriving DecidableEq, Repr

/-- Cluster c of a region after the region's reset. -/
def Cluster.initial (c : Nat) : Cluster where
  tlb := []
  tlbWas := none
  locks := []
  freed := []
  tscfg := 0
  trcfg := 0
  icache := []
  fwd := Forwarder.initial c
  leaveAt := none
  heldAt := some 0
  lostAc := 0
  draining := false
  combine := []
  errs := 0
  vec0 := { run := none, last := 3 }
  vec1 := { run := none, last := 7 }
  exp := { run := none, last := 9 }
  mat := MatUnit.initial
  rot := RotUnit.initial
  tokens := Tokens.initial
  tknote := 0
  hodLast := 7
  hodAt := none

/-! ### Regions -/

/-- The clock of a region (R173 to R175): the ac counted up to a moment, that moment, and the operating point. -/
structure Clock where
  /-- The operating point in effect, CUR. -/
  cur    : Nat
  stop   : Bool
  lock   : Bool
  g140   : Bool
  /-- The operating point that the generator is relocking at. -/
  goal   : Option Nat
  /-- The generator has failed, and the whole region is held (R179). -/
  failed : Bool
  /-- The ac counted when the clock last changed its pace, and that moment. -/
  ac     : Nat
  since  : Nat
  /-- The cycles after that moment that are stretched, and the ticks that each gains (R181). -/
  cycles : Nat
  extra  : Nat
deriving DecidableEq, Repr

/-- The life-cycle states of a region (R343). -/
inductive Life where
  | dark | wiping | free | assigned | quarantined
deriving DecidableEq, Repr

/-- The number of a life-cycle state (R343). -/
def Life.num : Life → Nat
  | .dark => 0 | .wiping => 1 | .free => 2 | .assigned => 3 | .quarantined => 4

/-- A region: the state of its service strip. -/
structure Region where
  life    : Life
  /-- Completed wipes since manufacture, and the partition number (R343). -/
  wipes   : Nat
  part    : Nat
  clock   : Clock
  /-- cr.time at the moment the wafer's time was 0 (R67). -/
  time0   : Word
  /-- The tables of R161: the region's SRAM slices, and the stack of a rim region. -/
  locks   : Tab Lock
  slocks  : Tab Lock
  /-- The region mask of the partition that the region's routers hold (R322), bit r for region r. -/
  mask    : BitVec 63
  /-- The width and height of the logical grid of the region\'s partition (R95). -/
  grid    : Nat × Nat
  /-- The physical address of the header of the region dead-letter ring (R115, R116), which Flatar names; 0 is no ring. -/
  ddl     : Nat
  /-- The WIPE word that waits for the wipe's end (R311, R313). -/
  wiper   : Option Packet
  /-- The rim range being wiped: first byte and length (R345). -/
  rimwipe : Option (Nat × Nat)
  /-- The zones' pools (R254), and the zones that wait for the region broker with what they ask (R262). -/
  zones   : Vector Zone 4
  asks    : List (Nat × Nat)
  /-- CKSTAT.BADW and BADT (R174), RBCTL.BADB (R261). -/
  badw    : Bool
  badt    : Bool
  badb    : Bool
  /-- A dark region's segment output at level 4, at its last value (R172). -/
  segment : Bool
  /-- The request rings being served (R358), by ring, and the ring served last. -/
  rings   : Tab RimRing
  ringLast : Nat
  /-- The flash command that runs at a corner region's stack (R355). -/
  flash   : Option FlashRun
  /-- The blocks that have been programmed since their last erase (R355). -/
  programmed : List Nat
  /-- MXCTL.BUSY: the extension that runs, its register, digest and slot (R370). -/
  extending : Option (Nat × List Byte × Nat)
  /-- Training tests that run, by channel: what GO found (R348 to R350). -/
  tests   : Tab Word
  /-- The region's service cores have halted in their ROM (R368). -/
  halted  : Bool
  /-- The images that the region's ROM has measured since its reset, by kind: digest and key slot (R370). -/
  measured : Tab (List Byte × Nat)
  /-- The errors counted in ECNT in an ac of the strip: the ac, and their banks, each corrected or not (R372). -/
  counted : Nat × List (Nat × Bool)
deriving DecidableEq, Repr

/-- A region after its reset: Wiping, at operating point 0 (R173, R343). -/
def Region.initial : Region where
  life := .wiping
  wipes := 0
  part := 0
  clock := { cur := 0, stop := false, lock := false, g140 := false, goal := none, failed := false, ac := 0, since := 0,
             cycles := 0, extra := 0 }
  time0 := 0
  locks := []
  slocks := []
  mask := BitVec.allOnes 63
  grid := (0, 0)
  ddl := 0
  wiper := none
  rimwipe := none
  zones := Vector.replicate 4 { budget := 280, floor := 0, free := 280, loaned := 0, revcnt := 0 }
  asks := []
  badw := false
  badt := false
  badb := false
  segment := false
  rings := []
  ringLast := 15
  flash := none
  programmed := []
  extending := none
  tests := []
  halted := false
  measured := []
  counted := (0, [])

/-! ### Fuses, companion and Flatar -/

/-- A key slot of the fuses (R369): the key hash, and the state 0 empty, 1 enrolled, 2 revoked. -/
structure KeySlot where
  hash  : List Byte
  state : Nat
deriving DecidableEq, Repr

/-- The fuses: dead cores and bad forwarders (R4, R176), the key slots and OWNED (R369), the device secret (R370). -/
structure Fuses where
  dead   : List Nat
  badFwd : List Nat
  slots  : Vector KeySlot 6
  owned  : Bool
  secret : List Byte
deriving DecidableEq, Repr

/-- A part without defects, whose key slots are empty. -/
def Fuses.blank : Fuses where
  dead := []
  badFwd := []
  slots := Vector.replicate 6 { hash := [], state := 0 }
  owned := false
  secret := []

/-- A launch between its placement and its start (R122): the task, its cores in row-major order, the record's words, how many
start RUNs have been sent, one more than there are cores once they run and only the inbound ring is to be redelivered, and the
tags that they took at the service core. -/
structure Launch where
  task  : Nat
  cores : List Nat
  words : List Word
  sent  : Nat
  tags  : List Nat
deriving DecidableEq, Repr

/-- An EQI queue (R361 to R363): ring, k, PASID, completion ring, producer P, consumer C, error count, and the launch that has
been placed. -/
structure Queue where
  ring       : Word
  k          : Nat
  pasid      : Nat
  completion : Word
  producer   : Nat
  consumer   : Nat
  errors     : Nat
  launch     : Option Launch
deriving DecidableEq, Repr

/-- The driver mailbox's answer (R361): DONE and STATUS, and the result word. -/
structure Answer where
  done   : Bool
  status : Nat
  result : Word
deriving DecidableEq, Repr

/-- What Flatar's task directory says of a task (R116). -/
inductive Phase where
  | placing | running | exited
deriving DecidableEq, Repr

/-- An entry of the task directory: the task's phase, its PASID and the headers of its rings. -/
structure TaskInfo where
  phase   : Phase
  pasid   : Nat
  inbound : Word
  deadl   : Word
deriving DecidableEq, Repr

/-- One lifetime record (R371), cumulative: region, index, cr.time, MEAS(2), corrected and uncorrected errors by bank, retrains of the
four Bondlink ports, the eight bond ports and the region's four stitch links, droop stretches by class, losses of clock by cluster, the
bins of TKHIST, the eye widths of a rim region's stack at the last training, by channel and lane, read and write, and flash blocks by
STATE and by bin of ERASES. -/
structure LifeRecord where
  region   : Nat
  index    : Nat
  time     : Word
  meas2    : List Byte
  errors   : List (Nat × Nat × Nat)
  retrains : List Nat
  stretch  : List Nat
  orphans  : List Nat
  history  : List Nat
  eyes     : List (Nat × Nat)
  states   : List Nat
  erases   : List Nat
deriving DecidableEq, Repr

/-- A signed measurement report (R370): the nonce, each region's MEAS, BOOTSTAT and WIPES, the key slots' states and OWNED, and
the signature. -/
structure Report where
  nonce     : List Word
  meas      : List (List Byte)
  boot      : List Word
  wipes     : List Nat
  slots     : List Nat
  owned     : Bool
  signature : List Byte
deriving DecidableEq, Repr

/-- What Flatar has written into a buffer of the host (R361). -/
inductive Written where
  | record (r : LifeRecord)
  | report (r : Report)
deriving DecidableEq, Repr

/-- The companion and what Flatar keeps (R94, R116, R359 to R371). -/
structure Companion where
  /-- The Bondlink ports that are retraining (R359), and the count of retrains by link: Bondlink ports 0 to 3, bond ports 8 to 15, and
  16 + 4 r + d for region r's stitch link in direction d (R371). -/
  retraining : List Nat
  retrains   : Tab Nat
  /-- The interval in rc at which the owner has lifetime records made, and the rc of each region's last one (R371). -/
  interval   : Nat
  recordedAt : Tab Nat
  queues     : Tab Queue
  /-- The driver mailbox (R361, R367): it is open, its argument words, the command that runs, and its answer. -/
  opened     : Bool
  args       : List Word
  asked      : Option Word
  answer     : Answer
  /-- The reports and record copies that Flatar wrote for the host: the buffer's address and what it holds. -/
  written    : List (Word × Written)
  records    : List LifeRecord
  /-- The image bundle: the bytes that the boot ROM fetches (R367). -/
  bundle     : List Byte
  directory  : Tab TaskInfo
  /-- The pod route table (R366): module to bond port. And a region of the partition that Flatar names for arrivals from a
  module. -/
  routes     : Tab Nat
  ingress    : Tab Nat
  /-- What has crossed a bond port to another module: the module and the message, a MIGRATE returned there with its code, or the
  bytes of a push with their address there (R366). -/
  crossed    : List (Nat × Msg)
  returned   : List (Nat × Msg × FaultCode)
  pushed     : List (Nat × Nat × List Byte)
  /-- IOMMU invalidations whose completion waits, each with the clusters that are not yet DRAINED (R323), and the completions
  sent. -/
  draining   : List (List Nat)
  drained    : Nat
deriving DecidableEq, Repr

/-- A companion that has done nothing. -/
def Companion.initial : Companion where
  retraining := []
  retrains := []
  interval := 6000000000
  recordedAt := []
  queues := []
  opened := false
  args := List.replicate 8 0
  asked := none
  answer := { done := true, status := 0, result := 0 }
  written := []
  records := []
  bundle := []
  directory := []
  routes := []
  ingress := []
  crossed := []
  returned := []
  pushed := []
  draining := []
  drained := 0

/-! ### What moves next -/

/-- The issuing core and slot of an encoded instruction. -/
structure Cur where
  core : Nat
  slot : Nat
deriving DecidableEq, Repr

/-- Where a step without an encoding happens, and the values it carries. -/
structure Spot where
  place : Nat
  item  : Nat
  v0    : Word
  v1    : Word
  v2    : Word
  v3    : Word
deriving DecidableEq, Repr

/-- One turn of the plan. -/
inductive Turn where
  /-- The core's picker issues (R105). -/
  | issue (core : Nat)
  /-- A step without an encoding happens. -/
  | happen (i : Instr) (spot : Spot)
  /-- Time passes, in ticks of 1/1,400 rc. -/
  | elapse (ticks : Nat)
  /-- A word comes into the mesh that no instruction of the specification sends: from another module, or from supervisor
  software (R338, R366, log 1). -/
  | inject (p : Packet)
  /-- Flatar rewrites an entry of a router's logical-to-physical table (R96, R99), by means that the specification does not
  give (log 1). -/
  | route (cluster rank : Nat) (entry : BitVec 16)
  /-- Flatar sets the region mask of a region's routers (R322), by means that the specification does not give (log 1). -/
  | mask (region : Nat) (mask : BitVec 63)
  /-- Flatar forms a partition of regions with a grid and a spare mask (R95, R96): the rank walk. -/
  | form (regions : List Nat) (key w h : Nat) (spares : List Nat)
  /-- Flatar, on a region's service core, takes the next launch record of an EQI queue (R122 steps 2 to 4, R363). -/
  | take (queue region : Nat)
  /-- Flatar starts the launch that it has placed (R122 steps 4 to 7). -/
  | start (queue region : Nat)
  /-- Flatar notes that a task has exited (R116). -/
  | exited (task : Nat)
  /-- Flatar opens or closes the route to a module, or names a region of the partition for arrivals from it (R366). -/
  | podRoute (module : Nat) (port : Option Nat)
  | podIngress (module : Nat) (region : Option Nat)
  /-- A message, or the bytes of a push, comes in from another module (R366). -/
  | podMessage (module : Nat) (m : Msg) (tagged : Bool)
  | podPush (module pa : Nat) (bytes : List Byte)
  /-- The companion stores bytes in host memory. -/
  | hostStore (pa : Nat) (bytes : List Byte)
  /-- The host stores a value of some bytes into its aperture (R360). -/
  | aperture (offset bytes : Nat) (v : Word)
  /-- Flatar opens the mailbox (R367 step 5). -/
  | openMailbox
  /-- The companion holds an image bundle ready (R367). -/
  | bundle (bytes : List Byte)
  /-- An SRAM word errs (R332): corrected, or beyond correction. -/
  | upset (pa : Nat) (hard : Bool)
  /-- A word of a region's context SRAM, queue banks, TLBs or stations errs (R332, R372): the bank from 2,608 on; and one of a
  fibre's slot beyond correction. -/
  | upsetBank (region bank : Nat) (hard : Bool)
  | upsetSlot (core slot bank : Nat)
  /-- A bond port or a region's stitch link retrains, and Flatar counts (R371). -/
  | linkRetrain (link : Nat)
  /-- The owner sets the interval of the lifetime records (R371). -/
  | recordInterval (rc : Nat)
  /-- A packet hops to the next router (R177, R248). -/
  | hop (packet : Nat)
  /-- A unit accesses its next row (R204): the vector units of quads 0 and 1 of a cluster, and its exponent unit, 2. -/
  | row (cluster unit : Nat)
  /-- A trace entry that has reached its ring's home is written (R166). -/
  | traceEntry (packet : Nat)
  /-- A flash stack's engine copies the next beat of a PROGRAM (R355). -/
  | flashBeat (stack : Nat)
  /-- Flatar writes EXC and GRANT of a core, by means that the specification does not give (R127, R140, R341, log 1). -/
  | barx (core : Nat) (exc grant : BitVec 4)
  /-- Flatar resets a free counter of a core (R138, R341). -/
  | freeCounter (core counter : Nat)
  /-- Flatar loads cr.time of a region (R67). -/
  | loadTime (region : Nat) (v : Word)
  /-- Flatar names the header of a region's dead-letter ring (R115, R116). -/
  | deadRing (region header : Nat)
  /-- Flatar chooses a cluster's translation service core (R122, R321), or a core's share of the mailbox bank (R110). -/
  | service (cluster : Nat) (tscfg : Word)
  | share (core : Nat) (mbcfg : Word)
deriving DecidableEq, Repr

/-- The state of the wafer. -/
structure State where
  /-- Which agent moves next (model's own, log 1). -/
  plan    : List Turn
  /-- The issuing core and slot (model's own, log 2). -/
  cur     : Cur
  /-- Where the step without an encoding happens (model's own, log 2). -/
  spot    : Spot
  /-- The counter that free values are drawn by (model's own, log 3). -/
  fresh   : Nat
  /-- The counter that orders holds, arrivals and requests (model's own, log 3). -/
  seq     : Nat
  /-- Time since reset in ticks of 1/140 GHz: 1,400 to an rc (R7, R173). -/
  now     : Nat
  /-- Physical memory (R143), in canonical form. -/
  mem     : List Host.Cell
  /-- The aligned 8-byte words that hold an uncorrected error (R332), by number, rising. -/
  bad     : List Nat
  /-- Registers of control windows that hold what was written and have no behaviour of their own (R9), by address. -/
  regs    : Tab Word
  cores   : Tab Core
  clusters : Tab Cluster
  regions : Tab Region
  /-- The logical-to-physical table of each region's partition (R96), by region and rank, and the entries of single routers that differ, by cluster and rank. -/
  ranks   : Tab (Tab (BitVec 16))
  ranksAt : Tab (Tab (BitVec 16))
  /-- Sequence numbers of the traces, by home port number (R166). -/
  trseq   : Tab Nat
  /-- The order of R154 within an ac: by home port number, the ac in which the home last performed for another than its own
  cores, and whether it was a beat. -/
  late    : Tab (Nat × Bool)
  /-- What is in flight, in the order of injection, and the signals in the barrier networks. -/
  net     : List Packet
  bars    : List BarSignal
  fuses   : Fuses
  host    : Companion
deriving DecidableEq, Repr

/-- The machine right after reset (R343: every region is Wiping). -/
def State.reset : State where
  plan := []
  cur := { core := 8, slot := 0 }
  spot := { place := 0, item := 0, v0 := 0, v1 := 0, v2 := 0, v3 := 0 }
  fresh := 0
  seq := 0
  now := 0
  mem := []
  bad := []
  regs := []
  cores := []
  clusters := []
  regions := []
  ranks := []
  ranksAt := []
  trseq := []
  late := []
  net := []
  bars := []
  fuses := Fuses.blank
  host := Companion.initial

namespace State

/-- Core pid. -/
def core (s : State) (pid : Nat) : Core := Tab.read s.cores (Core.initial pid) pid

/-- The state with core pid replaced. -/
def setCore (s : State) (pid : Nat) (c : Core) : State := { s with cores := Tab.put s.cores pid c }

/-- The state with core pid changed. -/
def onCore (s : State) (pid : Nat) (f : Core → Core) : State := s.setCore pid (f (s.core pid))

/-- Cluster cid. -/
def cluster (s : State) (cid : Nat) : Cluster := Tab.read s.clusters (Cluster.initial (cid % 64)) cid

/-- The state with cluster cid replaced. -/
def setCluster (s : State) (cid : Nat) (c : Cluster) : State := { s with clusters := Tab.put s.clusters cid c }

/-- The state with cluster cid changed. -/
def onCluster (s : State) (cid : Nat) (f : Cluster → Cluster) : State := s.setCluster cid (f (s.cluster cid))

/-- Region r. -/
def region (s : State) (r : Nat) : Region := Tab.read s.regions Region.initial r

/-- The state with region r replaced. -/
def setRegion (s : State) (r : Nat) (x : Region) : State := { s with regions := Tab.put s.regions r x }

/-- The state with region r changed. -/
def onRegion (s : State) (r : Nat) (f : Region → Region) : State := s.setRegion r (f (s.region r))

end State

/-- Slot n of a core. -/
def Core.slot (c : Core) (n : Nat) : Slot := Tab.read c.slots Slot.free n

/-- A core with slot n replaced. -/
def Core.setSlot (c : Core) (n : Nat) (f : Slot) : Core := { c with slots := Tab.put c.slots n f }

namespace State

/-- Slot n of core pid. -/
def slot (s : State) (pid n : Nat) : Slot := (s.core pid).slot n

/-- The state with slot n of core pid replaced. -/
def setSlot (s : State) (pid n : Nat) (f : Slot) : State := s.onCore pid fun c => c.setSlot n f

/-- The state with slot n of core pid changed. -/
def onSlot (s : State) (pid n : Nat) (f : Slot → Slot) : State := s.setSlot pid n (f (s.slot pid n))

/-- The issuing core. -/
def myCore (s : State) : Core := s.core s.cur.core

/-- The issuing fibre. -/
def me (s : State) : Slot := s.slot s.cur.core s.cur.slot

/-- The state with the issuing core changed. -/
def onMyCore (s : State) (f : Core → Core) : State := s.onCore s.cur.core f

/-- The state with the issuing fibre changed. -/
def onMe (s : State) (f : Slot → Slot) : State := s.onSlot s.cur.core s.cur.slot f

end State

end Sys2Proof.Machine
end

