-- ==== Sys2Proof/Machine/Memory.lean ====
section
/-!
DEFINITION. Physical memory: bytes in one canonical form, little-endian values (R8), the physical map and its homes
(R143 to R152).
-/

namespace Sys2Proof.Machine

/-- n bits of a word from bit lo up. -/
def fld (w : Word) (lo n : Nat) : Nat := w.toNat / 2 ^ lo % 2 ^ n

/-- A bit of a word. -/
def flag (w : Word) (i : Nat) : Bool := w.getLsbD i

/-- A word whose fields of a mask are taken from another word: a register's new value (R9, R10). -/
def fields (mask old new : Word) : Word := (old &&& ~~~mask) ||| (new &&& mask)

/-- What a byte that memory does not list reads as: 0 (R156), in rim flash 0xFF as after an erase (log 4). -/
def Memory.unlisted (a : Nat) : Byte := if 0x200000000000 ≤ a ∧ a < 0x240000000000 then 0xFF#8 else 0#8

/-- Memory is in canonical form: addresses rise strictly, and no cell holds what an unlisted address reads as. -/
def Memory.wf : List Host.Cell → Bool
  | [] => true
  | [(a, b)] => b != Memory.unlisted a
  | (a, b) :: (a', b') :: t => decide (a < a') && (b != Memory.unlisted a) && Memory.wf ((a', b') :: t)

/-- The byte at an address. -/
def Memory.byte : List Host.Cell → Nat → Byte
  | [], a => Memory.unlisted a
  | (k, v) :: t, a => if a = k then v else Memory.byte t a

/-- Memory with a byte written. -/
def Memory.put : List Host.Cell → Nat → Byte → List Host.Cell
  | [], a, b => if b = Memory.unlisted a then [] else [(a, b)]
  | (k, v) :: t, a, b =>
    if a < k then (if b = Memory.unlisted a then (k, v) :: t else (a, b) :: (k, v) :: t)
    else if a = k then (if b = Memory.unlisted a then t else (a, b) :: t)
    else (k, v) :: Memory.put t a b

/-- The value of n bytes from an address up, little-endian (R8). -/
def Memory.value (m : List Host.Cell) (a : Nat) : Nat → Nat
  | 0 => 0
  | n + 1 => (Memory.byte m a).toNat + 256 * Memory.value m (a + 1) n

/-- Memory with the n low bytes of a value written from an address up (R8). -/
def Memory.store (m : List Host.Cell) (a : Nat) : Nat → Nat → List Host.Cell
  | 0, _ => m
  | n + 1, v => Memory.store (Memory.put m a (BitVec.ofNat 8 v)) (a + 1) n (v / 256)

/-- Memory with a list of bytes written from an address up. -/
def Memory.storeBytes (m : List Host.Cell) (a : Nat) : List Byte → List Host.Cell
  | [] => m
  | b :: bs => Memory.storeBytes (Memory.put m a b) (a + 1) bs

/-- The bytes from an address up. -/
def Memory.bytes (m : List Host.Cell) (a : Nat) : Nat → List Byte
  | 0 => []
  | n + 1 => Memory.byte m a :: Memory.bytes m (a + 1) n

/-- Memory with the bytes from lo below hi as an unlisted byte reads: 0, and 0xFF in flash. -/
def Memory.clear (m : List Host.Cell) (lo hi : Nat) : List Host.Cell :=
  m.filter fun c => decide (c.1 < lo) || decide (hi ≤ c.1)

/-! ### The physical map -/

/-- What stands at a physical address, beside plain memory (R144, R145, R354). -/
inductive Area where
  | memory | queueBank | lockEntries | taskEntries | regionControl | phy | flashControl | podWindow
deriving DecidableEq, Repr

/-- The base of region r's window (R143). -/
def regionBase (r : Nat) : Nat := r * 0x100000000

/-- The base of a cluster's window (R144). -/
def clusterBase (cid : Nat) : Nat := regionBase (cid / 64) + cid % 64 * 0x2000000

/-- The base of a core's TCM (R144, R145). -/
def tcmBase (pid : Nat) : Nat :=
  if pid / 8 % 64 = 63 then regionBase (pid / 512) + 0xE0000000 + pid % 8 * 0x40000
  else clusterBase (pid / 8) + 0x1000000 + pid % 8 * 0x40000

/-- The base of region r's control (R144). -/
def controlBase (r : Nat) : Nat := regionBase r + 0xF0000000

/-- The rim region of HBM stack s (R146). -/
def stackRegion (s : Nat) : Nat :=
  if s < 9 then s
  else if s < 15 then 17 + 9 * (s - 9)
  else if s < 23 then 61 - (s - 15)
  else 45 - 9 * (s - 23)

/-- The HBM stack of a rim region (R146). -/
def regionStack (r : Nat) : Option Nat := (List.range 28).find? fun s => stackRegion s == r

/-- The corner region of flash stack f (R146). -/
def flashRegion (f : Nat) : Nat :=
  match f with
  | 0 => 0 | 1 => 8 | 2 => 54 | _ => 62

/-- The flash stack of a corner region. -/
def regionFlash (r : Nat) : Option Nat := (List.range 4).find? fun f => flashRegion f == r

/-- The bytes of an HBM stack (R143): 48 decimal gigabytes. -/
def hbmSize : Nat := 48000000000

/-- What stands at an offset of a cluster window (R145), with its home (R152). -/
def placeInCluster (cid o : Nat) : Option (Home × Area) :=
  if o < 0x1000000 then some (.scratchpad cid, .memory)
  else if o < 0x1200000 then some (.tcm (cid * 8 + (o - 0x1000000) / 0x40000), .memory)
  else if o < 0x1800000 then none
  else if o < 0x1900000 then some (.control (cid / 64), .queueBank)
  else if o < 0x1900800 then some (.control (cid / 64), .lockEntries)
  else if o < 0x1901000 then none
  else if o < 0x1901800 then some (.control (cid / 64), .taskEntries)
  else none

/-- What stands at an offset of a region window (R144), with its home (R152). -/
def placeInRegion (r o : Nat) : Option (Home × Area) :=
  if o < 0x48000000 then placeInCluster (r * 64 + o / 0x2000000) (o % 0x2000000)
  else if o < 0xC0000000 then none
  else if o < 0xC4000000 then some (.sram r (o / 0x400000 % 16), .memory)
  else if o < 0xE0000000 then none
  else if o < 0xE0080000 then some (.tcm (r * 512 + 504 + (o - 0xE0000000) / 0x40000), .memory)
  else if o < 0xF0000000 then none
  else if o < 0xF0010000 then some (.control r, .regionControl)
  else none

/-- What stands at a physical address (R143), with its home (R152); none in a hole. -/
def place (pa : Nat) : Option (Home × Area) :=
  if pa < 0x003F00000000 then placeInRegion (pa / 0x100000000) (pa % 0x100000000)
  else if pa < 0x100000000000 then none
  else if pa < 0x11C000000000 then
    let o := pa % 0x1000000000
    if o < hbmSize then some (.hbm ((pa - 0x100000000000) / 0x1000000000) (o / 256 % 32), .memory) else none
  else if pa < 0x200000000000 then none
  else if pa < 0x240000000000 then
    some (.flash ((pa - 0x200000000000) / 0x10000000000) (pa / 4096 % 16), .memory)
  else if pa < 0x400000000000 then none
  else if pa < 0x600000000000 then some (.system (pa / 4096 % 4), .memory)
  else if pa < 0x700000000000 then some (.pod ((pa - 0x600000000000) / 0x10000000000), .podWindow)
  else if pa < 0x7F0000000000 then none
  else if pa < 0x7F1C00000000 then some (.control (stackRegion ((pa - 0x7F0000000000) / 0x100000000)), .phy)
  else if pa < 0x7F8000000000 then none
  else if pa < 0x7F8400000000 then
    some (.control (flashRegion ((pa - 0x7F8000000000) / 0x100000000)), .flashControl)
  else none

/-- The number of a home port (R151). A pod window has none of its own: the bond port that Flatar's table gives for its
module stands for it (R152); without a route it has the reserved number 0xF000. -/
def Home.number : Home → Nat
  | .tcm p => p
  | .scratchpad c => 0x8000 + c / 64 * 64 + c % 64
  | .sram r k => 0x9000 + r * 64 + k
  | .control r => 0xA000 + r * 64
  | .hbm s c => 0xC000 + s * 128 + c * 4
  | .flash f c => 0xD000 + f * 1024 + c
  | .system p => 0xE000 + p
  | .pod _ => 0xF000

/-- The region in which a home stands (R144, R146), to which region masks apply (R322); none for system space, which belongs to
no partition (log 67). -/
def Home.region? : Home → Option Nat
  | .tcm p => some (p / 512)
  | .scratchpad c => some (c / 64)
  | .sram r _ => some r
  | .control r => some r
  | .hbm s _ => some (stackRegion s)
  | .flash f _ => some (flashRegion f)
  | .system _ => none
  | .pod _ => none

/-- The range-lock table of a home (R161); none where there is none. -/
def Home.table? : Home → Option LockTable
  | .tcm p => if p / 8 % 64 < 36 then some (.cluster (p / 8)) else none
  | .scratchpad c => some (.cluster c)
  | .sram r _ => some (.region r)
  | .hbm s _ => some (.stack s)
  | _ => none

/-- Local(a) of R31: the core's own TCM, or its cluster's scratchpad. -/
def Home.isLocal (pid : Nat) : Home → Bool
  | .tcm p => p == pid
  | .scratchpad c => c == pid / 8
  | _ => false

/-- The number that orders scopes, narrowest first (R37, R69). -/
def scopeNum : Scope → Nat
  | .core => 0 | .quad => 1 | .cluster => 2 | .region => 3 | .wafer => 4 | .system => 5

/-- The narrowest scope of core pid that contains core p (R69, R93): the region's row holds what is in its clusters, so another
service core stands in the wafer's. -/
def scopeOfCore (pid p : Nat) : Scope :=
  if p = pid then .core
  else if p / 4 = pid / 4 ∧ p / 8 % 64 < 36 then .quad
  else if p / 8 = pid / 8 ∧ p / 8 % 64 < 36 then .cluster
  else if p / 512 = pid / 512 ∧ p / 8 % 64 < 36 then .region
  else .wafer

/-- The narrowest scope of core pid that contains a home (R69). R69's table places no region control: the model counts a core's
own region's as region scope, another's as wafer scope (log 69). -/
def Home.scope (pid : Nat) : Home → Scope
  | .tcm p => scopeOfCore pid p
  | .scratchpad c => if c = pid / 8 then .cluster else if c / 64 = pid / 512 then .region else .wafer
  | .sram r _ => if r = pid / 512 then .region else .wafer
  | .control r => if r = pid / 512 then .region else .wafer
  | .hbm _ _ => .wafer
  | .flash _ _ => .wafer
  | .system _ => .system
  | .pod _ => .system

/-- The traffic class of an ACCESS to a home (R69): TC3 for a rim channel or system space, else TC1. -/
def Home.accessClass : Home → Nat
  | .hbm _ _ | .flash _ _ | .system _ | .pod _ => 3
  | _ => 1

end Sys2Proof.Machine
end

