-- ==== Sys2Proof/Machine/Route.lean ====
section
/-!
DEFINITION. Time, and what is in flight: the ports of the mesh, the way of a packet from router to router (R177, R248, R266,
R267, R374), the order in which places take what reaches them (R113, R154, R155).
-/

namespace Sys2Proof.Machine

/-! ### Time (R7, R67, R173, R182) -/

/-- The ticks of 1/140 GHz in one ac of an operating point: 0.625, 0.80, 1.00, 1.25 and 1.40 GHz (R173). -/
def period (op : Nat) : Nat :=
  match op with
  | 0 => 224 | 1 => 175 | 2 => 140 | 3 => 112 | _ => 100

/-- The ac that a region's clock has counted at a moment (R181, R182): it does not advance while stopped. -/
def Clock.acAt (c : Clock) (now : Nat) : Nat :=
  if c.stop || c.failed then c.ac
  else if now - c.since < c.cycles * (period c.cur + c.extra) then c.ac + (now - c.since) / (period c.cur + c.extra)
  else c.ac + c.cycles + (now - c.since - c.cycles * (period c.cur + c.extra)) / period c.cur

/-- The moment at which a region's clock will have counted an ac, or has; none while it does not run (R169, R181). -/
def Clock.momentOf (c : Clock) (ac : Nat) : Option Nat :=
  if c.stop || c.failed then none
  else if ac - c.ac ≤ c.cycles then some (c.since + (ac - c.ac) * (period c.cur + c.extra))
  else some (c.since + c.cycles * (period c.cur + c.extra) + (ac - c.ac - c.cycles) * period c.cur)

namespace State

/-- Reference cycles since the wafer's reset: 100 MHz (R7). -/
def rc (s : State) : Nat := s.now / 1400

/-- The ac of a region. -/
def regionAc (s : State) (r : Nat) : Nat := (s.region r).clock.acAt s.now

/-- The ac of a cluster: its region's, less what it lost in hold (R178, R182); a service strip's is its region's. -/
def clusterAc (s : State) (cid : Nat) : Nat :=
  if cid % 64 = 63 then s.regionAc (cid / 64)
  else (s.cluster cid).heldAt.getD (s.regionAc (cid / 64)) - (s.cluster cid).lostAc

/-- The ac of a core: its cluster's; a service core's is its region's. -/
def coreAc (s : State) (pid : Nat) : Nat :=
  if pid / 8 % 64 = 63 then s.regionAc (pid / 512) else s.clusterAc (pid / 8)

/-- The core that holds the context of what core pid started (R337): pid, or the core on which that context has been loaded since
(log 23). -/
def holder (s : State) (pid : Nat) : Nat := (s.core pid).went.getD pid

/-- cr.time of a region (R67). -/
def time (s : State) (r : Nat) : Word := (s.region r).time0 + Word.ofNat s.rc

/-- Whether a cluster's clock runs: its region neither stopped nor failed, and the cluster not in hold (R104). -/
def clusterRuns (s : State) (cid : Nat) : Bool :=
  !(s.region (cid / 64)).clock.stop && !(s.region (cid / 64)).clock.failed &&
    (cid % 64 == 63 || !(s.cluster cid).fwd.hold)

/-- The state after an order number has been drawn. -/
def tick (s : State) : State := { s with seq := s.seq + 1 }

/-- The state after a free value has been drawn (log 3). -/
def tickFree (s : State) : State := { s with fresh := s.fresh + 1 }

end State

/-! ### Places (R2, R97) -/

/-- Whether a core is a region service core, which belongs to no cluster (R97, R374). -/
def isService (pid : Nat) : Bool := pid / 8 % 64 == 63

/-- The region in direction d (0 N, 1 E, 2 S, 3 W) of a region. -/
def neighbour (r d : Nat) : Option Nat :=
  match d with
  | 0 => if 9 ≤ r then some (r - 9) else none
  | 1 => if r % 9 < 8 then some (r + 1) else none
  | 2 => if r < 54 then some (r + 9) else none
  | 3 => if 0 < r % 9 then some (r - 1) else none
  | _ => none

/-! ### Routers and strips (R248, R266, R374) -/

/-- The router one hop in direction d (0 N, 1 E, 2 S, 3 W) on the wafer's grid of clusters (R2, R248). -/
def routerToward (here d : Nat) : Option Nat :=
  let r := here / 64
  let c := here % 64
  match d with
  | 0 => if 6 ≤ c then some (here - 6) else (neighbour r 0).map fun q => q * 64 + c + 30
  | 1 => if c % 6 < 5 then some (here + 1) else (neighbour r 1).map fun q => q * 64 + c - 5
  | 2 => if c < 30 then some (here + 6) else (neighbour r 2).map fun q => q * 64 + c - 30
  | _ => if 0 < c % 6 then some (here - 1) else (neighbour r 3).map fun q => q * 64 + c + 5

/-- The region whose service strip a bond port is attached to (R374). -/
def bondRegion (b : Nat) : Nat :=
  match b with
  | 0 => 2 | 1 => 6 | 2 => 26 | 3 => 44 | 4 => 60 | 5 => 56 | 6 => 36 | _ => 18

/-- The region whose service strip a Bondlink port is attached to (R374). -/
def bondlinkRegion (p : Nat) : Nat :=
  match p with
  | 0 => 21 | 1 => 23 | 2 => 39 | _ => 41

/-- The router of a system port, with the column of the row-0 cluster that it stands beside (R374): Bondlink ports 0 to 3,
bond ports 8 to 15 (R151). -/
def systemStand (p : Nat) : Nat × Nat :=
  if p < 8 then (bondlinkRegion p * 64 + 63, 2) else (bondRegion (p - 8) * 64 + 63, 3)

/-- The router at which a home meets the mesh, with the column of the row-0 cluster that it stands beside where it is
attached to a service strip (R374); none for a pod window, whose port the route table gives. -/
def Home.stand : Home → Option (Nat × Nat)
  | .tcm p => some (p / 8, 2)
  | .scratchpad c => some (c, 0)
  | .sram r k => some (r * 64 + 63, k % 6)
  | .control r => some (r * 64 + 63, 2)
  | .hbm t c => some (stackRegion t * 64 + 63, c % 6)
  | .flash f c => some (flashRegion f * 64 + 63, c % 6)
  | .system p => some (systemStand p)
  | .pod _ => none

/-- The source whose injections keep their order: a core and its gather unit are one (R155, R359). -/
def Port.source : Port → Port
  | .gather p => .core p
  | p => p

/-- The core whose task's request a packet is, if it is one. -/
def Payload.issuer (src : Port) : Payload → Option Nat
  | .beat b => some b.core
  | _ =>
    match src.source with
    | .core p => some p
    | _ => none

namespace State

/-- A home with the bond port that Flatar's pod route table gives for a module (R152, R366); a module without a route keeps
its name, and no port stands for it. -/
def routed (s : State) : Home → Home
  | .pod m =>
    match Tab.look s.host.routes m with
    | some b => .system (8 + b % 8)
    | none => .pod m
  | h => h

/-- The number of the home port that stands for a home (R151, R152). -/
def homeNumber (s : State) (h : Home) : Nat := (s.routed h).number

/-- The router at which a place meets the mesh, and the column it stands beside on a strip (R374). What a zone broker, a
region's Flatar port or a strip router sends leaves by the strip beside (0,2) (log 67). -/
def stand (s : State) : Port → Option (Nat × Nat)
  | .core p => some (p / 8, 2)
  | .gather p => some (p / 8, 2)
  | .stub p _ => some (p / 8, 2)
  | .home h => (s.routed h).stand
  | .cluster c => some (c, 2)
  | .router c => some (c, 2)
  | .zone r _ => some (r * 64 + 63, 2)
  | .region r => some (r * 64 + 63, 2)

/-- The region in which a place meets the mesh. -/
def portRegion (s : State) (p : Port) : Option Nat := (s.stand p).map fun x => x.1 / 64

/-- The region in which a home meets the mesh (R374). -/
def homeRegion (s : State) (h : Home) : Option Nat := s.portRegion (.home h)

/-- DIR of TURN(q) of a region (R266). -/
def turn (s : State) (r q : Nat) : Nat := fld (Tab.read s.regs 0 (controlBase r + 0xE00 + 8 * q)) 0 3

end State

/-- One hop by dimension order on the grid from a cluster's router to the cluster at column x and row y of a region: first
along the row, then along the column (R248). -/
def dimensionOrder (here q x y : Nat) : Option Nat :=
  let r := here / 64
  let c := here % 64
  let gx := r % 9 * 6 + c % 6
  let gy := r / 9 * 6 + c / 6
  let tx := q % 9 * 6 + x
  let ty := q / 9 * 6 + y
  if gx < tx then routerToward here 1
  else if tx < gx then routerToward here 3
  else if gy < ty then routerToward here 2
  else if ty < gy then routerToward here 0
  else none

namespace State

/-- The next router on the way from a router to a place (R248, R266, R374): `out` is the column by which what starts on a
strip leaves it. In another region than the place's the region's turn table is followed; a strip is entered from the row-0
cluster that the place stands beside. -/
def nextRouter (s : State) (here out target col : Nat) : Option Nat :=
  let r := here / 64
  let q := target / 64
  if here = target then none
  else if here % 64 = 63 then some (r * 64 + out)
  else if r ≠ q ∧ s.turn r q ≠ 0 ∧ s.turn r q ≤ 4 then routerToward here (s.turn r q - 1)
  else if target % 64 = 63 then
    (if here = q * 64 + col then some target else dimensionOrder here q col 0)
  else dimensionOrder here q (target % 64 % 6) (target % 64 / 6)

/-- The router to which a packet hops next; none where it has reached its place's router. -/
def nextHop (s : State) (p : Packet) : Option Nat :=
  match s.stand p.dst, s.stand p.src with
  | some (t, col), some (_, out) => s.nextRouter p.here out t col
  | some (t, col), none => s.nextRouter p.here 2 t col
  | none, _ => none

/-- The routers on the way between two places, the first excluded (R248), with at most n hops. -/
def routeFrom (s : State) : Nat → Nat → Nat → Nat → Nat → List Nat
  | 0, _, _, _, _ => []
  | n + 1, here, out, target, col =>
    match s.nextRouter here out target col with
    | some x => x :: s.routeFrom n x out target col
    | none => []

/-- A router stands in a region whose links are reported dark (R265, R267). -/
def darkRouter (s : State) (x : Nat) : Bool := (s.region (x / 64)).life == .dark

end State

/-- Whether a kind is one of those that become records (R78): RUN, COUNT, DEPOSIT, MIGRATE. -/
def isRecordKind (k : Nat) : Bool := k == 0 || k == 1 || k == 2 || k == 3

/-- What a dark link times out (R267): everything but REPLYs, hod completions and broker words. A MIGRATE that comes back, and an
untagged message of a kind that R267 does not list, wait as a REPLY does (log 53). -/
def Packet.timed (p : Packet) : Bool :=
  match p.load with
  | .msg m tagged => fld m.rw 60 4 != 5 && (tagged || isRecordKind (fld m.rw 60 4))
  | .landed _ _ _ _ | .token _ _ _ _ _ | .notice _ | .returned _ _ | .entry _ _ => false
  | .beat _ | .free _ _ | .check _ _ _ _ => true

namespace State

/-- The link that a packet may hop over (R248, R266): by the tables in force when it reached its router, which a write does not
change for it. What waits at a link reported dark and is not timed out leaves by the tables as they stand (R267). -/
def hopOf (s : State) (p : Packet) : Option Nat :=
  if p.held.isSome && !p.timed then s.nextHop p else p.toward.or (s.nextHop p)

/-- A packet in its output queue, with its wait if the link is reported dark (R267). -/
def markHeld (s : State) (p : Packet) : Packet :=
  match s.hopOf p with
  | some x =>
    { p with
      toward := some x
      held := if s.darkRouter x && x / 64 != p.here / 64 then p.held.or (some (s.rc, x)) else none }
  | none => p

/-- The packets of a network with their waits at links reported dark. -/
def markAll (s : State) : State := { s with net := s.net.map s.markHeld }

/-- A packet that comes into the mesh at the router of its source. -/
def enter (s : State) (p : Packet) : State := { s with net := s.net ++ [s.markHeld p] }

/-- A packet injected into the mesh; a request for a Bondlink port carries a PASID (R359). -/
def injectFor (s : State) (pasid : Option Nat) (src dst : Port) (tc : Nat) (p : Payload) : State :=
  s.enter
    { src := src, dst := dst, tc := tc, load := p, here := ((s.stand src).getD (0, 0)).1, held := none,
      pasid := match dst with | .home (.system _) => pasid | _ => none }

/-- A packet injected into the mesh; a request for a Bondlink port carries the PASID of the issuing task (R359). -/
def inject (s : State) (src dst : Port) (tc : Nat) (p : Payload) : State :=
  s.injectFor ((p.issuer src).map fun q => fld (s.core q).entry[0] 24 20) src dst tc p

/-- A packet in flight that has reached its place's router. -/
def moving (s : State) (n : Nat) : Option Packet :=
  (s.net[n]?).filter fun p =>
    match s.stand p.dst with
    | some (t, _) => p.here == t
    | none => true

/-- An earlier packet stands in the same router's output to the same router in the same class (R177, R178, R267). -/
def behind (s : State) (n : Nat) (p : Packet) (x : Nat) : Bool :=
  (s.net.take n).any fun e => e.here == p.here && e.tc == p.tc && s.hopOf e == some x

/-- A TC0 packet stands in the same router's output to the same router: it goes first (R184). -/
def yields (s : State) (p : Packet) (x : Nat) : Bool :=
  p.tc != 0 && s.net.any fun e => e.here == p.here && e.tc == 0 && s.hopOf e == some x

/-- The packet at a place in flight, and the router to which it may hop now (R177, R178, R183, R184, R267): both routers' clocks
run, the link is not dark, and it is the head of its output queue. -/
def mayHop (s : State) (n : Nat) : Option (Packet × Nat) :=
  match s.net[n]? with
  | some p =>
    match s.hopOf p with
    | some x =>
      if s.clusterRuns p.here && s.clusterRuns x && !s.darkRouter x && !s.behind n p x && !s.yields p x then some (p, x)
      else none
    | none => none
  | none => none

/-- A packet hops to the next router, if it may. It goes behind what has reached that router before. -/
def hop (s : State) (n : Nat) : State :=
  match s.mayHop n with
  | some (p, x) => { s with net := s.net.eraseIdx n }.enter { p with here := x, held := none, toward := none }
  | none => s

/-- A packet of which no earlier one of its class has come to the same place from the same source (R113, R155). -/
def inOrder (s : State) (n : Nat) (p : Packet) : Bool :=
  !(s.net.take n).any fun e =>
    e.src.source == p.src.source && e.dst == p.dst && e.tc == p.tc && e.here == p.here

/-- A packet in flight that may be taken by its place now (R113, R155). -/
def front (s : State) (n : Nat) : Option Packet := (s.moving n).filter (s.inOrder n)

/-- The state without a packet. -/
def taken (s : State) (n : Nat) : State := { s with net := s.net.eraseIdx n }

/-- An error counted in a router (R78, R138, R267). -/
def countError (s : State) (cid : Nat) : State := s.onCluster cid fun k => { k with errs := k.errs + 1 }

/-! ### The order within an ac (R154, R163, R309, R310) -/

/-- The ac of the clock that a home performs by. -/
def homeAc (s : State) : Home → Nat
  | .tcm p => s.coreAc p
  | .scratchpad c => s.clusterAc c
  | h => s.regionAc (((s.routed h).stand.getD (0, 0)).1 / 64)

/-- A home has performed a beat in this ac. -/
def hadBeat (s : State) (h : Home) : Bool :=
  (Tab.look s.late (s.homeNumber h)).any fun e => e.1 == s.homeAc h && e.2

/-- A home has performed a remote access, or a beat, in this ac: what the order of R154 puts before it comes too late. -/
def performed (s : State) (h : Home) (beat : Bool) : State :=
  { s with late := Tab.put s.late (s.homeNumber h) (s.homeAc h, beat || s.hadBeat h) }

/-- A home has performed for another than its own cores in this ac. -/
def isLate (s : State) (h : Home) : Bool := (Tab.look s.late (s.homeNumber h)).any fun e => e.1 == s.homeAc h

/-- What a core's fibres and its gather unit do in this ac comes too late (R154): its TCM or its cluster's scratchpad has
performed for others, or its cluster's TLB has been written (R309, R310). -/
def tooLate (s : State) (pid : Nat) : Bool := s.isLate (.tcm pid) || (!isService pid && s.isLate (.scratchpad (pid / 8)))

end State

end Sys2Proof.Machine
end

