-- ==== Sys2Proof/Machine/Ops.lean ====
section
/-!
DEFINITION. The operations that the meanings share: the wafer's geometry, ranks, registers, translation, range
locks, messages, taking an exception, and the issue of an instruction.
-/

namespace Sys2Proof.Machine

/-! ### Geometry (R2, R3, R4, R66, R97) -/

/-- The kind of a cluster (R3). -/
inductive Kind where
  | dense | attention | sparse | vector
deriving DecidableEq, Repr

/-- The kind of the cluster at position c of a region (R3). -/
def kindOf (c : Nat) : Kind :=
  if c = 0 ∨ c = 5 ∨ c = 30 ∨ c = 35 then .vector
  else if c = 2 ∨ c = 3 ∨ c = 32 ∨ c = 33 then .sparse
  else if c = 6 ∨ c = 12 ∨ c = 18 ∨ c = 11 ∨ c = 17 ∨ c = 23 then .attention
  else .dense

/-- The number of a kind in cr.coord (R66). -/
def Kind.num : Kind → Nat
  | .dense => 0 | .attention => 1 | .sparse => 2 | .vector => 3

/-- cr.coord of a core (R66). -/
def coord (pid : Nat) : Word :=
  let r := pid / 512
  let c := pid / 8 % 64
  let place := r * 2 ^ 32 + r % 9 * 2 ^ 20 + r / 9 * 2 ^ 16
  if isService pid then Word.ofNat (place + 0xFF8 + pid % 8)
  else Word.ofNat (place + (kindOf c).num * 2 ^ 24 + c / 6 * 2 ^ 8 + c % 6 * 2 ^ 4 + pid % 8)

/-- What an instruction may need in its cluster (R31, R43). -/
inductive Engine where
  | matrix | matrixFull | rotary | exponent | sparse
deriving DecidableEq, Repr

/-- EngineHere of R31, by the table of R43; a service core has no engine. -/
def engineHere (pid : Nat) (e : Engine) : Bool :=
  !isService pid &&
    (match e, kindOf (pid / 8 % 64) with
     | .matrix, k => k != .vector
     | .matrixFull, k => k == .dense
     | .rotary, k => k == .attention
     | .exponent, k => k == .attention
     | .sparse, k => k == .sparse)

namespace State

/-- A core is dead by fuse (R4). -/
def coreDead (s : State) (pid : Nat) : Bool := s.fuses.dead.contains pid

/-- A cluster is dead: every one of its cores is (R4). -/
def clusterDead (s : State) (cid : Nat) : Bool := (List.range 8).all fun k => s.coreDead (cid * 8 + k)

/-! ### The task entry (R99, R100) -/

/-- Word i of a core's task entry. -/
def entryWord (s : State) (pid : Nat) (i : Fin 8) : Word := (s.core pid).entry[i]

/-- STATE of a core's task entry: 0 FREE, 1 PLACING, 2 RUNNING, 3 SAVED. -/
def entryState (s : State) (pid : Nat) : Nat := fld (s.entryWord pid 0) 0 2

/-- TASK of a core's task entry; a service core holds task 0 (R101). -/
def entryTask (s : State) (pid : Nat) : Nat := if isService pid then 0 else fld (s.entryWord pid 0) 8 12

/-- PASID of a core's task entry. -/
def entryPasid (s : State) (pid : Nat) : Nat := fld (s.entryWord pid 0) 24 20

/-- Whether a core runs fibres: its entry is RUNNING, and no pre-emption has begun (R99, R333). A service core runs
while its region's wipe is over and its ROM has not halted it (R367, R368). -/
def running (s : State) (pid : Nat) : Bool :=
  (if isService pid then
    (s.region (pid / 512)).life != .dark && (s.region (pid / 512)).life != .wiping && !(s.region (pid / 512)).halted
   else s.entryState pid == 2) && (s.core pid).saving.isNone

/-- Whether a fibre belongs to task 0, Flatar (R101). -/
def ofFlatar (pid : Nat) (f : Slot) : Bool := isService pid || f.fw

/-- The task id of a fibre (R101). -/
def taskOf (s : State) (pid : Nat) (f : Slot) : Nat := if ofFlatar pid f then 0 else s.entryTask pid

/-! ### Ranks (R65, R95 to R97, R366) -/

/-- The entry of a router's table for a rank (R96). -/
def rankEntry (s : State) (cid rank : Nat) : BitVec 16 :=
  match Tab.look (Tab.read s.ranksAt [] cid) rank with
  | some e => e
  | none => Tab.read (Tab.read s.ranks [] (cid / 64)) 0 rank

/-- The place that a rank names at a source core's router: a service core, a core of the table, or a pod module; none
where there is no entry (R81, R96, R97, R366). -/
def rankPort (s : State) (pid rank : Nat) : Option Port :=
  if 0xFF00 ≤ rank then
    if rank ≤ 0xFF7D then some (.core ((rank - 0xFF00) / 2 * 512 + 504 + (rank - 0xFF00) % 2)) else none
  else
    let e := (s.rankEntry (pid / 8) rank).toNat
    if e < 0x8000 then none
    else if e / 512 % 64 = 63 then some (.home (.pod (e / 8 % 16)))
    else some (.core (e % 0x8000))

/-- The rank that the table of a core's router maps to it (R65, R99): an entry rewritten in that router alone comes before the
partition's; 0xFFFF when none maps to it, and a service core's service rank. -/
def rankOf (s : State) (pid : Nat) : Nat :=
  if isService pid then 0xFF00 + 2 * (pid / 512) + pid % 8
  else
    let own := Tab.read s.ranksAt [] (pid / 8)
    match own.find? fun e => e.2 == BitVec.ofNat 16 (0x8000 + pid) with
    | some e => e.1
    | none =>
      match (Tab.read s.ranks [] (pid / 512)).find? fun e =>
          e.2 == BitVec.ofNat 16 (0x8000 + pid) && (Tab.look own e.1).isNone with
      | some e => e.1
      | none => 0xFFFF

end State

/-- The service rank of service core 0 of a region (R97). -/
def serviceRank (r : Nat) : Nat := 0xFF00 + 2 * r

/-- Whether a rank is a service rank (R97). -/
def isServiceRank (rank : Nat) : Bool := decide (0xFF00 ≤ rank) && decide (rank ≤ 0xFF7D)

/-! ### Registers of a fibre (R20, R31, R70) -/

/-- Reg(n) of a fibre. -/
def Slot.reg (f : Slot) (r : Reg) : Word := f.g[r]

/-- A fibre with Reg(r) written; a write replaces a refusal (R70). -/
def Slot.write (f : Slot) (r : Reg) (v : Word) : Slot :=
  { f with g := f.g.set r v, refused := f.refused.set r none }

/-- A fibre with Reg(r) marked pending; a mark replaces a refusal (R84, R101). -/
def Slot.markPending (f : Slot) (r : Reg) (p : PSrc) : Slot :=
  { f with mark := f.mark.set r (some p), refused := f.refused.set r none }

/-- Pending(n) of R31. -/
def Slot.pending (f : Slot) (r : Reg) : Bool := f.mark[r].isSome

/-- A fibre after an arrival has written Reg(r) and cleared its mark (R107). -/
def Slot.arrive (f : Slot) (r : Reg) (v : Word) : Slot :=
  { f with g := f.g.set r v, mark := f.mark.set r none, refused := f.refused.set r none }

/-- A fibre after an arrival has left Reg(r) refused, holding the access's address (R70). -/
def Slot.refuse (f : Slot) (r : Reg) (va : Word) (c : Refused) : Slot :=
  { f with g := f.g.set r va, mark := f.mark.set r none, refused := f.refused.set r (some c) }

/-- The PC as a 64-bit value: a 56-bit address, sign-extended (R23, R101). -/
def Slot.pcWord (f : Slot) : Word := f.pc.signExtend 64

/-- A virtual address is canonical: bits [63:55] are all equal (R23). -/
def canonical (a : Word) : Bool := a.toNat / 2 ^ 55 == 0 || a.toNat / 2 ^ 55 == 511

/-- A fibre with NextPC set; a target that is not canonical is kept as such, and its fetch faults (R23, R57, log 11). -/
def slotJump (target : Word) (f : Slot) : Slot := { f with pc := target.setWidth 56, far := !canonical target }

/-- The layout of a handle (R84). -/
def mkHandle (rank slot : Nat) (gen : BitVec 8) (reg : Nat) : Word :=
  Word.ofNat (reg * 2 ^ 32 + gen.toNat * 2 ^ 24 + slot * 2 ^ 16 + rank)

namespace State

/-- Reg(r) of the issuing fibre. -/
def reg (s : State) (r : Reg) : Word := s.me.reg r

/-- The state with Reg(r) of the issuing fibre written. -/
def setReg (s : State) (r : Reg) (v : Word) : State := s.onMe fun f => f.write r v

/-- The state with Reg(r) of the issuing fibre marked pending. -/
def setPending (s : State) (r : Reg) (p : PSrc) : State := s.onMe fun f => f.markPending r p

/-- XReg(n) of the issuing core. -/
def xreg (s : State) (n : XIdx) : XWord := s.myCore.x[n]

/-- The state with XReg(n) of the issuing core written. -/
def setXreg (s : State) (n : XIdx) (v : XWord) : State := s.onMyCore fun c => { c with x := c.x.set n v }

/-- The state with NextPC of the issuing fibre set. -/
def jump (s : State) (target : Word) : State := s.onMe (slotJump target)

end State

/-! ### Stopping an instruction (R29, R30) -/

/-- A trap: code, kind, faulting address; the underlying code and word 4 for a gather fault, the owed refusal for a
settling instruction (R328). -/
structure Trap where
  code  : FaultCode
  kind  : FaultKind
  va    : Word
  under : Nat
  info  : Word
  owed  : Option Owed
deriving DecidableEq, Repr

/-- The trap of a fault that a gather kernel met on a line (R279, R328). -/
def gatherTrapOf (f : GatherFault) (line : Option Nat) : Trap where
  code := .entryFetch
  kind := .gather
  va := f.va
  under := f.code.num
  info := Word.ofNat (f.offset * 2 ^ 8 + line.getD 0)
  owed := none

/-- The fault of a FAULTED gather unit whose arming fibre is the one of a slot and generation (R279). -/
def Gather.faultOf (g : Gather) (slot : Nat) (gen : BitVec 8) : Option Trap :=
  if g.mode = .faulted ∧ g.slot = slot ∧ g.gen = gen then g.fault.map fun f => gatherTrapOf f g.line else none

/-- Why an instruction does not complete. -/
inductive Stop where
  | trap (t : Trap)
  /-- It does not issue, and the fibre leaves the ready set (R20, R104). -/
  | hold (h : Hold)
  /-- A hit in the cluster TLB: the entry is copied into the micro-TLB, given as the instruction has used it so far, and the
  fibre is held for 4 ac (R320). -/
  | walk (e : MicroEntry) (utlb : List MicroEntry)
  /-- A cluster TLB miss: the fibre is held, and a MISS word is sent (R320). -/
  | miss (pasid : Nat) (va : Word) (kind : FaultKind)
deriving DecidableEq, Repr

/-- A trap with an address. -/
def trapAt {α : Type} (code : FaultCode) (kind : FaultKind) (va : Word) : Except Stop α :=
  .error (.trap { code := code, kind := kind, va := va, under := 0, info := 0, owed := none })

/-- A trap without an address. -/
def trap {α : Type} (code : FaultCode) (kind : FaultKind) : Except Stop α := trapAt code kind 0

/-- The instruction traps unless the condition holds. -/
def require (c : Bool) (code : FaultCode) (kind : FaultKind) (va : Word) : Except Stop Unit :=
  if c then .ok () else trapAt code kind va

/-- The instruction is held unless the condition holds. -/
def waitUnless (c : Bool) (h : Hold) : Except Stop Unit := if c then .ok () else .error (.hold h)

/-! ### Translation (R23, R148, R308, R320, R324) -/

/-- What an access does. -/
inductive Access where
  | load | store | atomic | fetch
  /-- The destination of a hod operation (R132). -/
  | push
deriving DecidableEq, Repr

namespace TlbEntry

/-- V. -/
def valid (e : TlbEntry) : Bool := flag e.entry 0
/-- PASID. -/
def pasid (e : TlbEntry) : Nat := fld e.tag 0 20
/-- The page size as a power of two (R308): 64 KiB, 2 MiB, 64 MiB, 2 GiB. -/
def shift (e : TlbEntry) : Nat :=
  match fld e.tag 62 2 with
  | 0 => 16 | 1 => 21 | 2 => 26 | _ => 31
/-- The page's first virtual address, bits [55:0]. -/
def base (e : TlbEntry) : Nat := fld e.tag 20 40 * 2 ^ 16
/-- The frame's first physical address. -/
def frame (e : TlbEntry) : Nat := fld e.entry 16 32 * 2 ^ 16

/-- The entry is valid and its page holds the address under the PASID. -/
def hits (e : TlbEntry) (pasid : Nat) (va : Word) : Bool :=
  e.valid && e.pasid == pasid && (fld va 0 56) / 2 ^ e.shift == e.base / 2 ^ e.shift

/-- The physical address of a virtual address of the page. -/
def phys (e : TlbEntry) (va : Word) : Nat := e.frame + fld va 0 56 % 2 ^ e.shift

/-- Whether the entry permits an access (R308): PRIVILEGE where U is 0 for a user fibre, PAGE for a missing right. -/
def permits (e : TlbEntry) (sup : Bool) (a : Access) : Option FaultCode :=
  if !flag e.entry 4 && !sup then some .privilege
  else
    let right :=
      match a with
      | .load => flag e.entry 1
      | .store | .atomic | .push => flag e.entry 2
      | .fetch => flag e.entry 3
    if right then none else some .page

end TlbEntry

/-- The checks of R148 on a translated address: a hole is PAGE, a control space from user mode PRIVILEGE, a store to rim
flash PAGE. A fetch has no other fault than PAGE here (R29, R47, R325), so one that reaches a pod window traps PAGE (log 14). -/
def physFault (sup : Bool) (a : Access) (pa : Nat) : Option FaultCode :=
  match place pa with
  | none => some .page
  | some (_, .podWindow) => if a = .fetch then some .page else none
  | some (.flash _ _, .memory) => if a = .store ∨ a = .atomic ∨ a = .push then some .page else none
  | some (_, .memory) => none
  | some (_, _) => if sup then none else some .privilege

/-- A load, store or atomic whose translation reaches a pod window traps ILLEGAL; a hod push may name one (R147). -/
def podFault (a : Access) (pa : Nat) : Bool :=
  match place pa with
  | some (_, .podWindow) => a != .push && a != .fetch
  | _ => false

/-- The physical address of a virtual one among translated pages. -/
def Pages.phys (ps : Pages) (va : Word) : Nat :=
  match ps.find? fun p => p.1 == va.toNat / 2 ^ 16 with
  | some p => p.2 * 2 ^ 16 + va.toNat % 2 ^ 16
  | none => 0

/-- The n bytes from va as pieces that each lie in one page: physical address and length; at most k pieces. -/
def Pages.pieces (ps : Pages) : Nat → Word → Nat → List (Nat × Nat)
  | 0, _, _ => []
  | k + 1, va, n =>
    if n = 0 then []
    else
      let m := min n (2 ^ 16 - va.toNat % 2 ^ 16)
      (ps.phys va, m) :: ps.pieces k (va + Word.ofNat m) (n - m)

/-! ### Control registers, the lanes of rim channels, and words in memory (R9, R348, R349, R354) -/

/-- The base of the training block of channel c of stack t (R347). -/
def phyBase (t c : Nat) : Nat := 0x7F0000000000 + t * 0x100000000 + c * 0x10000

namespace State

/-- A register of a control window: what was written, or its reset value. -/
def ctl (s : State) (addr : Nat) (reset : Nat) : Word := Tab.read s.regs (Word.ofNat reset) addr

/-- The state with a register of a control window set. -/
def setCtl (s : State) (addr : Nat) (v : Word) : State := { s with regs := Tab.put s.regs addr v }

/-- The physical lane that carries data lane l of a channel (R348): a spare where REMAP of its group names it. EN1 is ignored
where it names the lane that EN0 names. -/
def carrier (s : State) (t c l : Nat) : Nat :=
  let w := s.ctl (phyBase t c + 0x800 + 8 * (l / 32)) 0
  if flag w 6 && fld w 0 5 == l % 32 then 64 + 2 * (l / 32)
  else if flag w 14 && fld w 8 5 == l % 32 then 65 + 2 * (l / 32)
  else l

/-- A physical lane is read rightly at the tap of its RDLY. -/
def laneReads (s : State) (t c l : Nat) : Bool := Config.readEye t c l (fld (s.ctl (phyBase t c + 8 * l) 32) 0 6)

/-- A physical lane is written rightly at the tap of its WDLY. -/
def laneWrites (s : State) (t c l : Nat) : Bool :=
  Config.writeEye t c l (fld (s.ctl (phyBase t c + 0x400 + 8 * l) 32) 0 6)

/-- What a home reads is what stands there: the data lanes of a rim channel are read rightly at the taps in force (R354). -/
def readsWell (s : State) : Home → Bool
  | .hbm t c => (List.range 64).all fun l => s.laneReads t c (s.carrier t c l)
  | _ => true

/-- What is written at a home stands there: the data lanes of a rim channel are written rightly at the taps in force (R354). -/
def writesWell (s : State) : Home → Bool
  | .hbm t c => (List.range 64).all fun l => s.laneWrites t c (s.carrier t c l)
  | _ => true

/-- The 8-byte word at a physical address, as the lanes of its home read it: where they are not right, a free value (R354,
log 73). -/
def word (s : State) (pa : Nat) : Word :=
  if ((place pa).map fun h => s.readsWell h.1).getD true then Word.ofNat (Memory.value s.mem pa 8)
  else Config.lostWord s.fresh s.now pa

/-- The entry of a cluster TLB that holds an address, with its slot. -/
def tlbLookup (s : State) (cid pasid : Nat) (va : Word) : Option (Nat × TlbEntry) :=
  (s.cluster cid).tlb.find? fun e => e.2.hits pasid va

/-- A page's entry used for an access: what it does not permit traps (R148, R308). -/
def useEntry (s : State) (f : Slot) (a : Access) (kind : FaultKind) (va : Word) (e : TlbEntry) : Except Stop (Nat × State) :=
  match e.permits f.sup a with
  | some c => trapAt c kind va
  | none =>
    match physFault f.sup a (e.phys va) with
    | some c => trapAt c kind va
    | none => .ok (e.phys va, s)

/-- The physical address of a virtual one for a fibre of a core: micro-TLB, the pages that the instruction has already been
held for, cluster TLB, else a miss (R320); a fibre of task 0 is not translated (R324). The micro-TLB entry used becomes the
last used one. -/
def translatePage (s : State) (pid : Nat) (f : Slot) (a : Access) (kind : FaultKind) (va : Word) :
    Except Stop (Nat × State) := do
  require (canonical va) .page kind va
  if ofFlatar pid f then
    require (decide (va.toNat < 2 ^ 48)) .page kind va
    match physFault f.sup a va.toNat with
    | some c => trapAt c kind va
    | none => .ok (va.toNat, s)
  else
    let pasid := s.entryPasid pid
    match (s.core pid).utlb.find? fun m => m.copy.hits pasid va with
    | some m => (s.onCore pid fun c => { c with utlb := m :: c.utlb.erase m }).useEntry f a kind va m.copy
    | none =>
      match f.walked.find? fun m => m.copy.hits pasid va with
      | some m => s.useEntry f a kind va m.copy
      | none =>
        match s.tlbLookup (pid / 8) pasid va with
        | some (n, e) => .error (.walk { slot := n, copy := e } (s.core pid).utlb)
        | none => .error (.miss pasid va kind)

/-- The physical address of an access at a virtual one (R147, R320). -/
def translate (s : State) (pid : Nat) (f : Slot) (a : Access) (kind : FaultKind) (va : Word) :
    Except Stop (Nat × State) := do
  let (pa, t) ← s.translatePage pid f a kind va
  require (!podFault a pa) .illegal kind va
  .ok (pa, t)

/-- The pages of the n bytes from va, each translated (R132): n pages from the page of va up. -/
def translatePages (s : State) (pid : Nat) (f : Slot) (a : Access) (kind : FaultKind) :
    Nat → Word → Except Stop (Pages × State)
  | 0, _ => .ok ([], s)
  | n + 1, va => do
    let (pa, s1) ← s.translatePage pid f a kind va
    let next := Word.ofNat ((va.toNat / 2 ^ 16 + 1) * 2 ^ 16)
    let (rest, s2) ← s1.translatePages pid f a kind n next
    .ok ((va.toNat / 2 ^ 16, pa / 2 ^ 16) :: rest, s2)

/-- The pages of a range of n bytes: every page translates before what the range reaches is judged (R31, R147). -/
def translateRange (s : State) (pid : Nat) (f : Slot) (a : Access) (kind : FaultKind) (va : Word) (n : Nat) :
    Except Stop (Pages × State) :=
  if n = 0 then .ok ([], s)
  else do
    let (ps, t) ← s.translatePages pid f a kind ((va.toNat % 2 ^ 16 + n - 1) / 2 ^ 16 + 1) va
    -- Only the end of a rim stack's memory is a hole that begins within a page (R143, R148): in every page the last byte of the
    -- range has a place.
    require ((ps.pieces (ps.length + 1) va n).all fun x => (place (x.1 + x.2 - 1)).isSome) .page kind va
    require (!ps.any fun p => podFault a (p.2 * 2 ^ 16)) .illegal kind va
    .ok (ps, t)

/-- The entry that the hardware finds in this ac for an address under a PASID: a change of the TLB in this ac is not yet in force
(R309, R310). -/
def tlbInForce (s : State) (cid pasid : Nat) (va : Word) : Option (Nat × TlbEntry) :=
  match (s.cluster cid).tlbWas with
  | some (ac, t) => if ac = s.clusterAc cid then t.find? fun e => e.2.hits pasid va else s.tlbLookup cid pasid va
  | none => s.tlbLookup cid pasid va

/-- A task structure's physical address as the hardware finds it, without a miss: on a service core untranslated, else
through the cluster TLB under the task's PASID (log 9). -/
def structAddr (s : State) (pid : Nat) (va : Word) : Option Nat :=
  if isService pid then
    (if va.toNat < 2 ^ 48 ∧ (place va.toNat).isSome then some va.toNat else none)
  else
    match s.tlbInForce (pid / 8) (s.entryPasid pid) va with
    | some (_, e) => if (place (e.phys va)).isSome then some (e.phys va) else none
    | none => none

/-- Whether any aligned 8-byte word of n bytes from pa holds an uncorrected error (R332). -/
def eccBad (s : State) (pa n : Nat) : Bool := s.bad.any fun w => decide (pa / 8 ≤ w) && decide (w ≤ (pa + n - 1) / 8)

/-- A task structure's 8-byte word, if it can be read (log 9). -/
def structWord (s : State) (pid : Nat) (va : Word) : Option Word :=
  match s.structAddr pid va with
  | some pa => if s.eccBad pa 8 then none else some (s.word pa)
  | none => none

end State

/-- The homes and areas of translated pages. -/
def Pages.places (ps : Pages) : List (Option (Home × Area)) := ps.map fun p => place (p.2 * 2 ^ 16)

/-- The n bytes from va, through translated pages. -/
def Pages.bytes (ps : Pages) (m : List Host.Cell) (va : Word) : Nat → List Byte
  | 0 => []
  | n + 1 => Memory.byte m (ps.phys va) :: Pages.bytes ps m (va + 1) n

/-- The little-endian value of n bytes from va, through translated pages. -/
def Pages.value (ps : Pages) (m : List Host.Cell) (va : Word) : Nat → Nat
  | 0 => 0
  | n + 1 => (Memory.byte m (ps.phys va)).toNat + 256 * Pages.value ps m (va + 1) n

/-- Memory with the n low bytes of a value written from va up, through translated pages. -/
def Pages.store (ps : Pages) (m : List Host.Cell) (va : Word) : Nat → Nat → List Host.Cell
  | 0, _ => m
  | n + 1, v => Pages.store ps (Memory.put m (ps.phys va) (BitVec.ofNat 8 v)) (va + 1) n (v / 256)

/-! ### Range locks (R161 to R164) -/

namespace State

/-- The entries of a range-lock table. -/
def lockEntries (s : State) : LockTable → Tab Lock
  | .cluster c => (s.cluster c).locks
  | .region r => (s.region r).locks
  | .stack t => (s.region (stackRegion t)).slocks

/-- The state with the entries of a range-lock table replaced. -/
def setLockEntries (s : State) (t : LockTable) (l : Tab Lock) : State :=
  match t with
  | .cluster c => s.onCluster c fun x => { x with locks := l }
  | .region r => s.onRegion r fun x => { x with locks := l }
  | .stack t => s.onRegion (stackRegion t) fun x => { x with slocks := l }

end State

/-- Two byte ranges, first to last, share a byte. -/
def overlaps (a b c d : Nat) : Bool := decide (a ≤ d) && decide (c ≤ b)

/-- Whether a new lock conflicts with one that stands (R162): only two write locks may share bytes. -/
def Lock.conflicts (new old : Lock) : Bool :=
  overlaps new.first new.last old.first old.last && (new.full || old.full)

/-- The least number below n that a table does not list. -/
def freeIndex {α : Type} (t : Tab α) (n : Nat) : Option Nat :=
  (List.range n).find? fun i => (Tab.look t i).isNone

/-- The answer to a registration (R161, R162). -/
inductive LockAnswer where
  | added (s : State)
  | conflict
  | full
deriving DecidableEq, Repr

namespace State

/-- The ac of the home that a range-lock table serves. -/
def lockAc (s : State) : LockTable → Nat
  | .cluster c => s.clusterAc c
  | .region r => s.regionAc r
  | .stack t => s.regionAc (stackRegion t)

/-- A registration of a lock in a table (R161, R162); at a home without a table nothing is registered. -/
def addLock (s : State) (t : Option LockTable) (l : Lock) : LockAnswer :=
  match t with
  | none => .added s
  | some t =>
    let e := s.lockEntries t
    if e.any fun x => l.conflicts x.2 then .conflict
    else
      match freeIndex e 64 with
      | none => .full
      | some i => .added (s.setLockEntries t (Tab.put e i { l with since := s.lockAc t }))

/-- The release of the entries of a table that satisfy a test (R162, R164); a cluster's table keeps them for the fibre accesses
of this ac, which still hit them (R163). -/
def releaseWhere (s : State) (t : LockTable) (test : Nat × Lock → Bool) : State :=
  let e := s.lockEntries t
  let s1 := s.setLockEntries t (e.filter fun x => !test x)
  match t with
  | .cluster c =>
    let ac := s.clusterAc c
    s1.onCluster c fun x =>
      { x with freed := (x.freed.filter fun y => y.1 == ac) ++ (e.filter test).map fun y => (ac, y.2) }
  | _ => s1

/-- The release of the locks of a table that satisfy a test (R162). -/
def releaseLocks (s : State) (t : LockTable) (test : Lock → Bool) : State := s.releaseWhere t fun x => test x.2

/-- The lock of an entry released, and no other (R164). -/
def releaseEntry (s : State) (t : LockTable) (e : Nat) : State := s.releaseWhere t fun x => x.1 == e

/-- The release of every lock of an operation in a table (R162). -/
def dropLocks (s : State) (t : Option LockTable) (owner eng op : Nat) : State :=
  match t with
  | none => s
  | some t => s.releaseLocks t fun l => l.owner == owner && l.eng == eng && l.op == op

end State

/-- Whether a fibre access of n bytes at pa hits a lock (R162). -/
def Lock.hits (l : Lock) (a : Access) (pa n : Nat) : Bool :=
  overlaps pa (pa + n - 1) l.first l.last && (l.full || a == .store || a == .atomic)

namespace State

/-- Whether a remote access of n bytes at pa hits a lock (R162): it follows the releases and registrations of its ac
(R154). -/
def lockHit (s : State) (h : Home) (a : Access) (pa n : Nat) : Bool :=
  match h.table? with
  | none => false
  | some t => (s.lockEntries t).any fun e => e.2.hits a pa n

/-- Whether an access of a home's own core hits a lock (R162, R163): one that stood when the ac began, be it released in this
ac; what was registered in this ac comes after it. -/
def ownLockHit (s : State) (h : Home) (a : Access) (pa n : Nat) : Bool :=
  match h.table? with
  | none => false
  | some t =>
    ((s.lockEntries t).any fun e => e.2.since != s.lockAc t && e.2.hits a pa n) ||
      (match t with
       | .cluster c => (s.cluster c).freed.any fun y => y.1 == s.clusterAc c && y.2.since != y.1 && y.2.hits a pa n
       | _ => false)

/-! ### Homes that refuse (R148, R313, R322, R340, R345) -/

/-- Whether a home is dark: the region where it meets the mesh dark or Wiping (R148, R374), a module's route closed (R366), its
core dead or fenced, its cluster dead. -/
def homeDark (s : State) (h : Home) : Bool :=
  let byRegion :=
    match s.homeRegion h with
    | some r => (s.region r).life == .dark || (s.region r).life == .wiping
    | none => true
  byRegion ||
    (match h with
     | .tcm p => s.coreDead p || (s.core p).fenced
     | .scratchpad c => s.clusterDead c
     | _ => false)

/-- Whether an address lies in a rim range that is being wiped (R345). -/
def rimWiping (s : State) (h : Home) (pa : Nat) : Bool :=
  match h.region? with
  | some r =>
    match (s.region r).rimwipe with
    | some (lo, n) => decide (lo ≤ pa) && decide (pa < lo + n)
    | none => false
  | none => false

/-- Whether a home refuses a core's access with HOME_FENCED: dark, or outside the region mask of the core's partition,
which does not apply to task 0 (R148, R322, R324). -/
def homeRefuses (s : State) (pid : Nat) (flatar : Bool) (h : Home) (pa : Nat) : Bool :=
  s.homeDark h || s.rimWiping h pa ||
    (match h.region? with
     | some r => !flatar && !(s.region (pid / 512)).mask.getLsbD r
     | none => false)

end State

namespace State

/-- A local fibre access's checks at its home (R73, R162, R332): a lock that it hits, and an uncorrected word that it
reads. A store of 8 bytes replaces the word and reads nothing. -/
def localFault (s : State) (h : Home) (a : Access) (pa n : Nat) : Option FaultCode :=
  if s.ownLockHit h a pa n then some .rangeLocked
  else if (a != .store || n < 8) && s.eccBad pa n then some .uncorrected
  else none

/-- A remote access's checks at its home (R73, R162, R332), which follow the releases and the registrations of its ac (R154). -/
def remoteFault (s : State) (h : Home) (a : Access) (pa n : Nat) : Option FaultCode :=
  if s.lockHit h a pa n then some .rangeLocked
  else if (a != .store || n < 8) && s.eccBad pa n then some .uncorrected
  else none

/-- CheckLocal of R31 for n bytes from va: PAGE, ALIGN, PAGE, then ILLEGAL for a home that is not Local. The answer is
the translated pages and the home. -/
def checkLocal (s : State) (a : Access) (kind : FaultKind) (va : Word) (n al : Nat) :
    Except Stop (Pages × Home × State) := do
  require (canonical va) .page kind va
  require (va.toNat % al == 0) .align kind va
  let (ps, s1) ← s.translateRange s.cur.core s.me a kind va n
  match ps.places with
  | some (h, .memory) :: rest =>
    if h.isLocal s.cur.core && rest.all (· == some (h, .memory)) then .ok (ps, h, s1)
    else trapAt .illegal kind va
  | _ => trapAt .illegal kind va

/-- A local read of n bytes through translated pages (R25, R82): it may trap RANGE_LOCKED or UNCORRECTED. -/
def localRead (s : State) (kind : FaultKind) (ps : Pages) (h : Home) (va : Word) (n : Nat) : Except Stop Nat := do
  match (ps.pieces ps.length va n).findSome? fun p => s.localFault h .load p.1 p.2 with
  | some c => trapAt c kind va
  | none => .ok (ps.value s.mem va n)

end State

/-! ### Messages (R77 to R79) -/

/-- The kind codes of messages (R78). -/
inductive MsgKind where
  | run | count | deposit | migrate | access | reply | pre | resume | fault | supervisor
deriving DecidableEq, Repr

/-- The number of a kind (R78). -/
def MsgKind.num : MsgKind → Nat
  | .run => 0 | .count => 1 | .deposit => 2 | .migrate => 3 | .access => 4 | .reply => 5
  | .pre => 8 | .resume => 9 | .fault => 10 | .supervisor => 11

/-- The fields of a routing word (R77). -/
structure Routing where
  kind : MsgKind
  tc   : Nat
  ecls : BitVec 3
  prio : Nat
  size : Bool
  dest : Nat
  task : Nat
  src  : Nat
deriving DecidableEq, Repr

/-- The routing word (R77). -/
def Routing.word (r : Routing) : Word :=
  Word.ofNat (r.kind.num * 2 ^ 60 + r.tc * 2 ^ 58 + r.ecls.toNat * 2 ^ 55 + r.prio * 2 ^ 53 +
    (if r.size then 2 ^ 52 else 0) + r.dest * 2 ^ 32 + r.task * 2 ^ 20 + r.src * 2 ^ 4)

namespace Msg

/-- KIND. -/
def kind (m : Msg) : Nat := fld m.rw 60 4
/-- TC. -/
def tc (m : Msg) : Nat := fld m.rw 58 2
/-- ECLS. -/
def ecls (m : Msg) : BitVec 3 := m.rw.extractLsb' 55 3
/-- PRIO. -/
def prio (m : Msg) : Fin 4 := (m.rw.extractLsb' 53 2).toFin
/-- SIZE: a record. -/
def isRecord (m : Msg) : Bool := flag m.rw 52
/-- DEST. -/
def dest (m : Msg) : Nat := fld m.rw 32 16
/-- TASK. -/
def task (m : Msg) : Nat := fld m.rw 20 12
/-- SRC. -/
def src (m : Msg) : Nat := fld m.rw 4 16
/-- The tag of a tagged message, selector [63:55]. -/
def tag (m : Msg) : Nat := fld m.sel 55 9
/-- Data word i, 0 where the message has none. -/
def word (m : Msg) (i : Nat) : Word := m.data.getD i 0

end Msg

namespace State

/-- A message injected into the mesh, untagged. -/
def send (s : State) (src dst : Port) (r : Routing) (sel : Word) (data : List Word) : State :=
  s.inject src dst r.tc (.msg { rw := r.word, sel := sel, data := data } false)

/-- A message with a tag (R69, R79): the tag stands in the selector's bits [63:55]. -/
def sendTagged (s : State) (src dst : Port) (r : Routing) (tag : Nat) (sel : Word) (data : List Word) : State :=
  s.inject src dst r.tc (.msg { rw := r.word, sel := sel ||| Word.ofNat (tag * 2 ^ 55), data := data } true)

/-- The port of the core that a rank names at a core's router; a rank without an entry names nothing and the message is
discarded there (hardware-made messages only; instructions check the rank first). -/
def sendToRank (s : State) (pid rank : Nat) (r : Routing) (sel : Word) (data : List Word) : State :=
  match s.rankPort pid rank with
  | some p => s.send (.core pid) p r sel data
  | none => s

/-- The tags that a fibre holds (R69). -/
def tagsOf (s : State) (pid slot : Nat) (gen : BitVec 8) : Nat :=
  ((s.core pid).tags.filter fun t => t.2.slot == slot && t.2.gen == gen).length

/-- WaitForTag of R73: a free tag, or the fibre is held (R69). -/
def takeTag (s : State) (t : Tag) : Except Stop (Nat × State) :=
  let pid := s.cur.core
  match freeIndex (s.core pid).tags 512 with
  | none => .error (.hold .tags)
  | some n =>
    if s.tagsOf pid s.cur.slot s.me.gen ≥ 32 then .error (.hold .tags)
    else .ok (n, s.onCore pid fun c => { c with tags := Tab.put c.tags n t })

/-- The routing word of a message that the issuing fibre makes (R77). -/
def fibreRouting (s : State) (k : MsgKind) (tc dest : Nat) (size : Bool) : Routing where
  kind := k
  tc := tc
  ecls := s.me.ecls
  prio := s.me.prio.val
  size := size
  dest := dest
  task := s.taskOf s.cur.core s.me
  src := s.rankOf s.cur.core

/-- The port of a rank that an instruction names: ILLEGAL without an entry (R81), PRIVILEGE for a service rank named by a
fibre with SUP = 0 (R97). -/
def namedPort (s : State) (rank : Nat) : Except Stop Port := do
  require (!(isServiceRank rank) || s.me.sup) .privilege .message 0
  match s.rankPort s.cur.core rank with
  | some p => .ok p
  | none => trap .illegal .message

/-- The messages of a core that stand in its outbound queue: those still at its cluster's router (R81). -/
def outbound (s : State) (pid : Nat) : Nat := (s.net.filter fun p => p.src == .core pid && p.here == pid / 8).length

/-- The core's outbound queue accepts a message (R81): an empty one does; its depth is the implementation's (log 55). -/
def accepts (s : State) (pid : Nat) : Bool :=
  match s.outbound pid with
  | 0 => true
  | n + 1 => decide (n < Config.outboundDepth)

/-- A tagged message of the issuing fibre, posted (R71, R80, R81): the tag is put into the selector. -/
def post (s : State) (k : MsgKind) (tc rank : Nat) (size : Bool) (task : Nat) (sel : Word) (data : List Word) :
    Except Stop State := do
  let port ← s.namedPort rank
  waitUnless (s.accepts s.cur.core) .outbound
  let scope :=
    match port with
    | .core p => scopeOfCore s.cur.core p
    | _ => .system
  let (n, s1) ← s.takeTag
    { slot := s.cur.slot, gen := s.me.gen, use := .posted .message, scope := scope, pc := (s.me.pc - 4#56).signExtend 64,
      place := Word.ofNat rank, issuer := s.cur.core }
  .ok (s1.sendTagged (.core s.cur.core) port { s.fibreRouting k tc rank size with task := task } n sel data)

/-! ### Handlers (R94, R102) -/

/-- Where the entry of a handler stands in the task's table (R94). -/
def handlerVa (s : State) (pid index : Nat) : Word :=
  ((s.entryWord pid 1).setWidth 56).signExtend 64 + Word.ofNat (8 * index)

/-- The entry of a handler in the task's table: 0 for an empty or unreadable one (log 9). -/
def handlerAddr (s : State) (pid index : Nat) : Nat :=
  match s.structWord pid (s.handlerVa pid index) with
  | some w => w.toNat
  | none => 0

/-- HandlerEmpty of R83. -/
def handlerEmpty (s : State) (pid index : Nat) : Bool := s.handlerAddr pid index == 0

/-- The lowest free slot in which a fibre of the task may be born: slots 248 to 255 of the core that cr.tscfg.CORE names are
kept for walkers (R321). -/
def freeSlot (s : State) (pid : Nat) : Option Nat :=
  let top := if !isService pid && fld (s.cluster (pid / 8)).tscfg 56 3 == pid % 8 then 248 else 256
  (List.range top).find? fun n => !((s.core pid).slot n).live

/-- A fibre born in a slot (R102): the slot's generation, the task's auto-migrate default, SUP for task 0 (R302). -/
def born (s : State) (pid n : Nat) (pc : Word) (g : Vector Word 8) (prio : Fin 4) (ecls : BitVec 3) : State :=
  s.setSlot pid n
    { Slot.free with
      live := true, pc := (pc.setWidth 56) &&& (~~~1#56), g := g, prio := prio, eff := prio, ecls := ecls,
      amig := flag (s.entryWord pid 0) 49, gen := (s.slot pid n).gen, sup := isService pid,
      readyAt := s.coreAc pid + 1 }

/-! ### Taking an exception (R326 to R328) -/

/-- The bits of the instruction at a fibre's PC (R328 word 5), 0 where they cannot be read. -/
def rawBits (s : State) (pid : Nat) (f : Slot) : Nat :=
  let parcel (va : Word) : Nat :=
    match (if ofFlatar pid f then some va.toNat else s.structAddr pid va) with
    | some pa =>
      match Tab.look (s.cluster (pid / 8)).icache pa with
      | some p => p.toNat
      | none => Memory.value s.mem pa 2
    | none => 0
  let p0 := parcel f.pcWord
  if p0 < 0x8000 then p0 else p0 + parcel (f.pcWord + 2) * 2 ^ 16

/-- The first pager entry with V = 1 that holds an address: its rank and handler (R327). -/
def pagerEntry (s : State) (pid : Nat) (va : Word) : Option (Nat × Nat) :=
  let base := ((s.entryWord pid 7).setWidth 56).signExtend 64
  let word (i w : Nat) : Word := (s.structWord pid (base + Word.ofNat (i * 32 + w * 8))).getD 0
  match (List.range 8).find? fun i =>
      canonical va && flag (word i 3) 31 && decide (fld (word i 0) 16 40 ≤ fld va 16 40) &&
        decide (fld va 16 40 < fld (word i 0) 16 40 + fld (word i 1) 16 25) with
  | some i => some (fld (word i 3) 0 16, fld (word i 3) 16 8)
  | none => none

/-- FaultDest of R327: the rank and handler that get the record; a rank without an entry or an empty handler sends it to
Flatar, handler 0 of service core 0 of the region. -/
def faultDest (s : State) (pid : Nat) (f : Slot) (t : Trap) : Nat × Nat :=
  let flatar := (serviceRank (pid / 512), 0)
  let named := (fld (s.entryWord pid 2) 0 16, fld (s.entryWord pid 2) 16 8)
  let code := if t.code = .entryFetch then t.under else t.code.num
  if ofFlatar pid f || f.epcv then flatar
  else
    let d := if code = 5 then (s.pagerEntry pid t.va).getD named else named
    if (s.rankPort pid d.1).isNone || s.handlerEmpty pid d.2 then flatar else d

/-- The fault record of a fibre (R328). -/
def faultRecord (s : State) (pid slot : Nat) (f : Slot) (t : Trap) : List Word :=
  let under := match t.owed with | some o => o.code.num | none => t.under
  let count := match t.owed with | some o => o.count | none => 0
  [ mkHandle (s.rankOf pid) slot f.gen 0,
    Word.ofNat (t.code.num + under * 2 ^ 8 + (if t.owed.isSome then 2 ^ 16 else 0) +
      (if f.epcv then 2 ^ 18 else 0) + t.kind.num * 2 ^ 19 + count * 2 ^ 24),
    f.pcWord,
    t.va,
    (match t.owed with | some o => o.pc | none => t.info),
    (if t.kind = .fetch then 0 else Word.ofNat (s.rawBits pid f)),
    coord pid,
    s.time (pid / 512) ]

/-- A fault record sent as a FAULT message (R327, R328). -/
def sendFault (s : State) (pid slot : Nat) (f : Slot) (t : Trap) : State :=
  let d := s.faultDest pid f t
  s.sendToRank pid d.1
    { kind := .fault, tc := 1, ecls := f.ecls, prio := f.prio.val, size := true, dest := d.1,
      task := s.taskOf pid f, src := s.rankOf pid }
    (Word.ofNat (d.2 + t.code.num * 2 ^ 8)) (s.faultRecord pid slot f t)

/-- Taking an exception (R326): the fibre freezes at its instruction, an owed refusal that the trap carries is cleared,
and the fault record is sent. -/
def raiseFault (s : State) (pid slot : Nat) (t : Trap) : State :=
  let f := s.slot pid slot
  (s.sendFault pid slot f t).setSlot pid slot
    { f with frozen := true, hold := none, settle := none, walked := [], owed := if t.owed.isSome then none else f.owed }

/-- A FAULT record without a fibre context (R279, R328): NOCTX is 1. -/
def sendUnheld (s : State) (pid : Nat) (t : Trap) : State :=
  let named := (fld (s.entryWord pid 2) 0 16, fld (s.entryWord pid 2) 16 8)
  let d :=
    if (s.rankPort pid named.1).isNone || s.handlerEmpty pid named.2 then (serviceRank (pid / 512), 0) else named
  s.sendToRank pid d.1
    { kind := .fault, tc := 1, ecls := 0, prio := 0, size := true, dest := d.1, task := s.entryTask pid,
      src := s.rankOf pid }
    (Word.ofNat (d.2 + t.code.num * 2 ^ 8))
    [ 0, Word.ofNat (t.code.num + t.under * 2 ^ 8 + 2 ^ 17 + t.kind.num * 2 ^ 19), 0, t.va, t.info, 0, coord pid,
      s.time (pid / 512) ]

/-- A fibre ends (R103): its slot is freed and the slot's generation rises by 1 modulo 256. A fault of its gather unit that it
has not read goes to the task's fault handler (R279). -/
def endFibre (s : State) (pid n : Nat) : State :=
  let f := s.slot pid n
  (match (s.core pid).gk.faultOf n f.gen with
   | some t => s.sendUnheld pid t
   | none => s).setSlot pid n { Slot.free with gen := f.gen + 1 }

/-! ### The issue of an instruction (R20, R29, R30, R46, R104) -/

/-- A core that has issued in an ac and rc. -/
def coreIssued (ac rc : Nat) (c : Core) : Core := { c with last := some ac, wdogCount := 0, issuedRc := some rc }

/-- A fibre whose NextPC is set and which no hold keeps, as its instruction has its effect. -/
def slotBegun (len : Nat) (f : Slot) : Slot := { f with pc := f.pc + BitVec.ofNat 56 len, hold := none }

/-- A fibre that may issue its next instruction from an ac (R46). -/
def slotBusy (ac : Nat) (f : Slot) : Slot := { f with readyAt := ac, walked := [] }

/-- The MISS word of a core for an address (R320, R338), at most one outstanding for each 64 KiB page. -/
def sendMiss (s : State) (pid pasid : Nat) (va : Word) : State :=
  let page := fld va 16 40
  if (s.core pid).missing.contains (pasid, page) then s
  else
    let serve := pid / 8 * 8 + fld (s.cluster (pid / 8)).tscfg 56 3
    (s.onCore pid fun c => { c with missing := (pasid, page) :: c.missing }).send (.core pid) (.core serve)
      { kind := .supervisor, tc := 0, ecls := 0, prio := 3, size := false, dest := s.rankOf serve, task := 0,
        src := s.rankOf pid }
      (Word.ofNat (3 * 2 ^ 48 + pasid * 2 ^ 28 + 0x8000 + pid)) [va]

/-- What a stop does to the issuing fibre. A trap is taken; a hold leaves the instruction unissued. -/
def stopped (s : State) (st : Stop) : State :=
  let pid := s.cur.core
  match st with
  | .trap t =>
    (s.onCore pid (coreIssued (s.coreAc pid) s.rc)).raiseFault pid s.cur.slot t
  | .hold h =>
    -- A fibre that waits at a queue keeps its place (R88). What it waits for makes it ready in the next ac at the earliest.
    State.onMe (f := fun f => { f with readyAt := max f.readyAt (s.coreAc pid + 1) }) <|
    match h, s.me.hold with
    | .queueRead q _, some (.queueRead q' o) =>
      s.onMe fun f => { f with hold := some (.queueRead q (if q = q' then o else s.seq)) }
    | .queueWrite q _, some (.queueWrite q' o) =>
      s.onMe fun f => { f with hold := some (.queueWrite q (if q = q' then o else s.seq)) }
    | .stream needs _, some (.stream _ o) => s.onMe fun f => { f with hold := some (.stream needs o) }
    | .stream needs _, _ => (s.onMe fun f => { f with hold := some (.stream needs s.seq) }).tick
    | .queueRead q _, _ => (s.onMe fun f => { f with hold := some (.queueRead q s.seq) }).tick
    | .queueWrite q _, _ => (s.onMe fun f => { f with hold := some (.queueWrite q s.seq) }).tick
    | h, _ => s.onMe fun f => { f with hold := some h }
  | .walk e utlb =>
    (s.onCore pid fun c => { c with utlb := (e :: utlb).take 32 }).onMe fun f =>
      { f with readyAt := s.coreAc pid + 4, walked := e :: f.walked }
  | .miss pasid va kind =>
    (s.onMe fun f => { f with hold := some (.miss pasid (fld va 16 40) va kind) }).sendMiss pid pasid va

/-- What an instruction that has issued leaves: the core has issued in this ac, and the fibre, if it still stands in its
slot, may issue again after its passes (R46). -/
def retired (s0 : State) (passes : Nat) (s : State) : State :=
  let pid := s0.cur.core
  let n := s0.cur.slot
  let s1 := s.onCore pid (coreIssued (s0.coreAc pid) s0.rc)
  if (s1.slot pid n).live && (s1.slot pid n).gen == (s0.slot pid n).gen then
    s1.onSlot pid n (slotBusy (s0.coreAc pid + 8 * passes))
  else s1

end State

/-- What an instruction needs before its execution checks (R29): its length and passes, the g registers it reads and
writes, the x registers it names, and the checks of orders 2 to 4. -/
structure Need where
  len    : Nat
  passes : Nat
  reads  : List Reg
  writes : List Reg
  xs     : List XIdx
  /-- The decode checks that stand on the instruction's page (R24, R84, R88). -/
  legal  : Bool
  priv   : Bool
  engine : Option Engine
deriving DecidableEq, Repr

/-- A user instruction of 4 bytes and one pass that reads and writes g registers. -/
def Need.plain (reads writes : List Reg) : Need where
  len := 4
  passes := 1
  reads := reads
  writes := writes
  xs := []
  legal := true
  priv := false
  engine := none

/-- The registers of a list that are pending, as a mask. -/
def Slot.pendingMask (f : Slot) (rs : List Reg) : BitVec 8 :=
  rs.foldl (fun m r => if f.pending r then m ||| (1#8 <<< r.val) else m) 0#8

namespace State

/-- The trap of an arming fibre that reads the arming register of a FAULTED gather unit (R279). -/
def gatherTrap (s : State) (reads : List Reg) : Option Trap :=
  let g := s.myCore.gk
  if g.mode = .faulted ∧ g.slot = s.cur.slot ∧ g.gen = s.me.gen ∧ reads.contains g.reg ∧ s.me.mark[g.reg] = some .gather then
    g.faultOf s.cur.slot s.me.gen
  else none

/-- The checks before an instruction's own (R29 orders 2 to 5, R70, R332): the fibre's slot, decode, privilege, engine, pending operands, x
registers with an XLD in flight, refused operands. R70 does not say which of two refused registers an instruction traps for: the
model takes the first of its reads, a store's data register before its base (log 74). -/
def ready (s : State) (nd : Need) : Except Stop Unit := do
  require (!s.me.unc) .uncorrected .context 0
  require nd.legal .illegal .instruction 0
  require (!nd.priv || s.me.sup) .privilege .instruction 0
  match nd.engine with
  | some e => require (engineHere s.cur.core e) .engineAbsent .instruction 0
  | none => .ok ()
  match s.gatherTrap nd.reads with
  | some t => .error (.trap t)
  | none => .ok ()
  waitUnless (s.me.pendingMask (nd.reads ++ nd.writes) == 0#8) (.regs (s.me.pendingMask (nd.reads ++ nd.writes)))
  match nd.xs.find? fun x => (Tab.look s.myCore.xld x.val).isSome with
  | some x => .error (.hold (.xreg x.val))
  | none => .ok ()
  match nd.reads.find? fun r => s.me.refused[r].isSome with
  | some r =>
    match s.me.refused[r] with
    | some c => trapAt c.code c.kind (s.me.reg r)
    | none => .ok ()
  | none => .ok ()

/-- The issue of an instruction: its checks, its effect on a state whose NextPC is set and from which no hold keeps it,
and its retirement; a trap is all-or-nothing (R30). -/
def issue (s : State) (nd : Need) (body : State → Except Stop State) : Host.Outcome State Fault Refusal :=
  if s.me.live && !s.me.frozen then
    match (s.ready nd).bind fun _ =>
        body (s.onMe (slotBegun nd.len)) with
    | .ok s' => .next (retired s nd.passes s')
    | .error st => .next (s.stopped st)
  else .fault .noFibre

/-- An instruction that writes one g register from others. -/
def compute (s : State) (nd : Need) (rd : Reg) (value : State → Word) : Host.Outcome State Fault Refusal :=
  s.issue nd fun t => .ok (t.setReg rd (value t))

end State

end Sys2Proof.Machine
end

