-- ==== Sys2Proof/Machine/Operands.lean ====
section
/-!
DEFINITION. The operand forms: effective addresses (R23) with the registers they read and update.
-/

namespace Sys2Proof.Machine

/-- The effective address of a load or store of n bytes (R23). -/
def memEA (s : State) (base : Reg) (n : Nat) : MemMode → Word
  | .disp imm => s.reg base + imm.signExtend 64 * Word.ofNat n
  | .index idx => s.reg base + s.reg idx
  | .postInc => s.reg base

/-- The registers that an addressing mode reads besides the base. -/
def memReads : MemMode → List Reg
  | .index idx => [idx]
  | _ => []

/-- The registers that an addressing mode updates. -/
def memWrites (base : Reg) : MemMode → List Reg
  | .postInc => [base]
  | _ => []

/-- The state after the post-increment of mode 10 (R23, R24). -/
def memUpdate (s : State) (base : Reg) (n : Nat) (old : Word) : MemMode → State
  | .postInc => s.setReg base (old + Word.ofNat n)
  | _ => s

/-- Whether an addressing mode is mode 10. -/
def memIsPost : MemMode → Bool
  | .postInc => true
  | _ => false

/-- An atomic's addressing mode as a load's (R38). -/
def atomMem : AtomMode → MemMode
  | .disp imm => .disp imm
  | .postInc => .postInc

/-- The effective address of XLD (R23, R25). -/
def xldEA (s : State) (base : Reg) : XldMode → Word
  | .disp imm => s.reg base + imm.signExtend 64 * 16
  | .index idx => s.reg base + s.reg idx
  | .postInc => s.reg base

/-- The registers that an XLD reads. -/
def xldReads (base : Reg) : XldMode → List Reg
  | .index idx => [base, idx]
  | _ => [base]

/-- The registers that an XLD updates. -/
def xldWrites (base : Reg) : XldMode → List Reg
  | .postInc => [base]
  | _ => []

/-- The state after an XLD's post-increment. -/
def xldUpdate (s : State) (base : Reg) : XldMode → State
  | .postInc => s.setReg base (s.reg base + 16)
  | _ => s

/-- The target of a branch, jump or loop: its offset is in parcels from the instruction (R17, R53); NextPC stands `len`
bytes after it. -/
def relTarget (s : State) (len : Nat) (off : Word) : Word := (s.me.pc - BitVec.ofNat 56 len).signExtend 64 + off * 2

end Sys2Proof.Machine
end

