-- ==== Sys2Proof/Machine/Home.lean ====
section
/-!
DEFINITION. How a home performs: writes with what they set off (R153, R165, R166, R278), atomics (R74), replies (R77, R80).
-/

namespace Sys2Proof.Machine

/-! ### What makes accesses wait at a home (R154, R350, R355, R359) -/

/-- The first byte of a flash stack's memory (R143). -/
def flashMemory (f : Nat) : Nat := 0x200000000000 + f * 0x10000000000

/-- The first byte of an HBM stack's memory (R143). -/
def hbmMemory (t : Nat) : Nat := 0x100000000000 + t * 0x1000000000

/-- The bytes of an erase block (R353). -/
def blockBytes : Nat := 2 ^ 21

namespace State

/-- What lands at a core can be handled: its cluster's clock runs (R154, R183). -/
def portRuns (s : State) (pid : Nat) : Bool := s.clusterRuns (pid / 8)

/-- BUSY of a channel (R350). -/
def testing (s : State) (t c : Nat) : Bool := (Tab.look (s.region (stackRegion t)).tests c).isSome

/-- What a rim channel under a test or a flash block under a command makes wait (R350, R355). -/
def rimBusy (s : State) (pa : Nat) : Bool :=
  match place pa with
  | some (.hbm t c, _) => s.testing t c
  | some (.flash f _, _) =>
    match (s.region (flashRegion f)).flash with
    | some c => (pa - flashMemory f) / blockBytes == c.block
    | none => false
  | _ => false

/-- A home performs what reaches it: the clock where it stands runs (R154, R374), and no port retrains (R359). -/
def homeRuns (s : State) (h : Home) : Bool :=
  match s.routed h with
  | .tcm p => s.portRuns p && !(s.core p).clearing
  | .scratchpad c => s.clusterRuns c
  | .system p => !s.host.retraining.contains p && s.clusterRuns (systemStand p).1
  | .pod _ => true
  | h => s.clusterRuns ((h.stand.getD (0, 0)).1)

/-- The hardware's own accesses at a physical address are performed now: its home runs, and the channel or block is free (R154,
R350, R355). -/
def structReady (s : State) (pa : Nat) : Bool :=
  match place pa with
  | some (h, _) => s.homeRuns h && !s.rimBusy pa
  | none => false

/-- What is at a physical address can be read now by the fetch of a core: its home refuses no one of the core's, performs, and
the channel or block is free (R104, R148, R154, R350, R355). -/
def mayFill (s : State) (pid : Nat) (flatar : Bool) (pa : Nat) : Bool :=
  match place pa with
  | some (h, _) => !s.homeRefuses pid flatar h pa && s.homeRuns h && !s.rimBusy pa
  | none => false

end State

/-! ### Gather triggers (R278) -/

/-- The lines of an armed unit that a write of n bytes at pa triggers: those that have not, whose bytes 56 to 63 it
writes. -/
def Gather.hits (g : Gather) (pa n : Nat) : List Nat :=
  if g.mode = .idle then []
  else
    (List.range g.lines).filter fun j =>
      let line := g.pages.phys (g.watch + Word.ofNat (64 * j))
      !g.seen.getLsbD j && overlaps pa (pa + n - 1) (line + 56) (line + 63)

/-- The unit after a write of n bytes at pa (R278): triggered lines wait for their runs in trigger order. -/
def Gather.wrote (g : Gather) (pa n : Nat) : Gather :=
  let h := g.hits pa n
  { g with waits := g.waits ++ h, seen := h.foldl (fun b j => b ||| (1#64 <<< j)) g.seen }

namespace State

/-- The state after a write of n bytes at pa has triggered lines of the TCM's gather unit. -/
def triggerGather (s : State) (h : Home) (pa n : Nat) : State :=
  match h with
  | .tcm p => if ((s.core p).gk.hits pa n).isEmpty then s else s.onCore p fun c => { c with gk := c.gk.wrote pa n }
  | _ => s

/-- The state with n bytes written at a physical address: an ECC word that is replaced whole is good again (R73, R332). -/
def writeBytes (s : State) (pa : Nat) (b : List Byte) : State :=
  { s with
    mem := Memory.storeBytes s.mem pa b
    bad := s.bad.filter fun w => !(decide (pa ≤ 8 * w) && decide (8 * w + 8 ≤ pa + b.length)) }

/-- The state with the n low bytes of a value written at a physical address. -/
def writeValue (s : State) (pa n v : Nat) : State :=
  { s with
    mem := Memory.store s.mem pa n v
    bad := s.bad.filter fun w => !(decide (pa ≤ 8 * w) && decide (8 * w + 8 ≤ pa + n)) }

/-! ### What passes the lanes of a rim channel (R354) -/

/-- The state with an 8-byte word written at a physical address, as the lanes of its home write it (R354, log 73). -/
def putWord (s : State) (pa : Nat) (v : Word) : State :=
  s.writeValue pa 8
    (if ((place pa).map fun h => s.writesWell h.1).getD true then v else Config.lostWord s.fresh s.now pa).toNat

/-- The state with words written from a physical address up. -/
def putWords (s : State) (pa : Nat) : List Word → State
  | [] => s
  | w :: ws => (s.putWord pa w).putWords (pa + 8) ws

/-- A value of at most 8 bytes as it passes a home's lanes, which are right or not: where they are not, it is a free value
(R354, log 73). -/
def passed (s : State) (well : Bool) (n v : Nat) : Nat × State :=
  if well then (v, s) else ((Config.freeWord s.fresh).toNat % 256 ^ n, s.tickFree)

/-- Bytes as they pass a home's lanes (R354). -/
def passedBytes (s : State) (well : Bool) (b : List Byte) : List Byte × State :=
  if well then (b, s) else (b.mapIdx fun i _ => Config.freeByte s.fresh i, s.tickFree)

/-! ### The trace (R165, R166) -/

/-- The trace control that covers a home: its value, and where it stands (R165). -/
def traceControl (s : State) (h : Home) : Option Word :=
  match h with
  | .tcm p => if isService p then none else some (s.cluster (p / 8)).trcfg
  | .scratchpad c => some (s.cluster c).trcfg
  | .sram r _ => some (Tab.read s.regs 0 (controlBase r + 0x100))
  | .hbm t _ => some (Tab.read s.regs 0 (controlBase (stackRegion t) + 0x108))
  | _ => none

/-- The state with a home's trace control replaced. -/
def setTraceControl (s : State) (h : Home) (w : Word) : State :=
  match h with
  | .tcm p => s.onCluster (p / 8) fun c => { c with trcfg := w }
  | .scratchpad c => s.onCluster c fun x => { x with trcfg := w }
  | .sram r _ => { s with regs := Tab.put s.regs (controlBase r + 0x100) w }
  | .hbm t _ => { s with regs := Tab.put s.regs (controlBase (stackRegion t) + 0x108) w }
  | _ => s

/-- An entry that the trace of a home could not write: LOST rises (R165). -/
def loseEntry (s : State) (h : Home) : State :=
  match s.traceControl h with
  | some w => s.setTraceControl h (if fld w 48 16 = 0xFFFF then w else w + Word.ofNat (2 ^ 48))
  | none => s

/-- A performed store or atomic counted at its port, and its entry sent to the trace ring in TC3 (R166). `op` is the operation
code of R79, `size` the size code, `data` what was sent, whole. -/
def trace (s : State) (h : Home) (own : Bool) (src op size pa : Nat) (data : Word) : State :=
  match s.traceControl h with
  | none => s
  | some w =>
    if !flag w 0 then s
    else
      let seq := Tab.read s.trseq 0 h.number
      let s1 := { s with trseq := Tab.put s.trseq h.number (seq + 1) }
      let hdr := fld w 7 41 * 128
      if !(if own then flag w 2 else op == 1 || flag w 1) then s1
      else
        match place hdr with
        | none => s1.loseEntry h
        | some (r, _) =>
          s1.inject (.home h) (.home r) 3
            (.entry hdr
              [Word.ofNat pa, Word.ofNat (src + op * 2 ^ 16 + size * 2 ^ 20 + h.number * 2 ^ 32), data,
                Word.ofNat (Memory.value s.mem pa (2 ^ size)), Word.ofNat seq, s.time ((h.region?).getD 0)])

/-- A trace entry that has reached its ring's home (R115, R165, R166): it waits as what the home performs waits, and is written, or
lost where the ring is full or cannot be used (log 9). -/
def traceEntry (s : State) (n : Nat) : State :=
  match s.front n with
  | some { src := .home h, dst := .home _, load := .entry hdr words, .. } =>
    let t := s.taken n
    let base := (s.word hdr).toNat
    let k := (s.word (hdr + 8)).toNat
    let producer := s.word (hdr + 16)
    let slot := base + producer.toNat % 2 ^ k * 128
    if !s.structReady hdr then s
    else if k < 4 ∨ 20 < k ∨ 2 ^ k ≤ (producer - s.word (hdr + 24)).toNat ∨ (place slot).isNone then t.loseEntry h
    else if !s.structReady slot then s
    else (t.putWords slot (words ++ List.replicate (16 - words.length) 0)).putWord (hdr + 16) (producer + 1)
  | _ => s

/-- A store or atomic performed at a home by a fibre's core or by an ACCESS: the bytes, as the home's lanes write them, the
trace, the gather trigger. -/
def performWrite (s : State) (h : Home) (own : Bool) (src op pa n : Nat) (data : Word) (v : Nat) : State :=
  let w := s.passed (s.writesWell h) n v
  ((w.2.writeValue pa n w.1).trace h own src op (Nat.log2 n) pa data).triggerGather h pa n

/-- A store of 8 bytes by an engine or by Flatar performed at its home: counted and traced as a store of a rank (R166). -/
def unitStore (s : State) (src pa : Nat) (v : Word) : State :=
  match place pa with
  | some (h, _) => s.performWrite h false src 1 pa 8 v v.toNat
  | none => s

/-- A beat, or an atomic that leaves its location unwritten, counted at its port (R166). -/
def traceCount (s : State) (h : Home) : State :=
  match s.traceControl h with
  | some w => if flag w 0 then { s with trseq := Tab.put s.trseq h.number (Tab.read s.trseq 0 h.number + 1) } else s
  | none => s

/-- Bytes of one beat performed at a home (R153, R245): they count at the port and trigger lines. -/
def performBeat (s : State) (h : Home) (pa : Nat) (b : List Byte) : State :=
  let w := s.passedBytes (s.writesWell h) b
  ((w.2.writeBytes pa w.1).triggerGather h pa b.length).traceCount h

end State

/-! ### Atomics (R74, R75) -/

/-- The atomic operations (R74). -/
inductive AtomOp where
  | add | swap | min | max | and | or | xor | cas
deriving DecidableEq, Repr

/-- The operation code of an atomic in an ACCESS (R79). -/
def AtomOp.code : AtomOp → Nat
  | .add => 2 | .swap => 3 | .min => 4 | .max => 5 | .and => 6 | .or => 7 | .xor => 8 | .cas => 9

/-- The atomic of an operation code. -/
def AtomOp.ofCode (n : Nat) : AtomOp :=
  match n with
  | 2 => .add | 3 => .swap | 4 => .min | 5 => .max | 6 => .and | 7 => .or | 8 => .xor | _ => .cas

/-- The low n bytes of a word as a two's complement integer. -/
def signedBytes (n : Nat) (v : Nat) : Int := if v % 256 ^ n < 256 ^ n / 2 then v % 256 ^ n else (v % 256 ^ n : Nat) - 256 ^ n

/-- Sign extension of the low n bytes of a value to 64 bits. -/
def extendBytes (n : Nat) (signed : Bool) (v : Nat) : Word :=
  if signed then Word.ofInt (signedBytes n v) else Word.ofNat (v % 256 ^ n)

/-- The value that an atomic leaves (R74), of n bytes; none where ACAS leaves the location unwritten. -/
def AtomOp.apply (o : AtomOp) (n : Nat) (old b e : Nat) : Option Nat :=
  match o with
  | .add => some ((old + b) % 256 ^ n)
  | .swap => some (b % 256 ^ n)
  | .min => some (if signedBytes n b < signedBytes n old then b % 256 ^ n else old)
  | .max => some (if signedBytes n old < signedBytes n b then b % 256 ^ n else old)
  | .and => some ((old &&& b) % 256 ^ n)
  | .or => some ((old ||| b) % 256 ^ n)
  | .xor => some ((old ^^^ b) % 256 ^ n)
  | .cas => if old = e % 256 ^ n then some (b % 256 ^ n) else none

namespace State

/-- An atomic of n bytes performed at a home (R75, R159): the old value as its lanes read it, and the state after it. -/
def performAtomic (s : State) (h : Home) (own : Bool) (src : Nat) (o : AtomOp) (pa n : Nat) (b e : Word) : Nat × State :=
  let old := s.passed (s.readsWell h) n (Memory.value s.mem pa n)
  match o.apply n old.1 b.toNat e.toNat with
  | some v => (old.1, old.2.performWrite h own src o.code pa n b v)
  | none => (old.1, old.2.traceCount h)

end State

/-! ### Replies (R77, R79, R80) -/

/-- The status of a REPLY (R79) as a fault code; none for 0. -/
def statusCode (n : Nat) : Option FaultCode :=
  match n with
  | 0 => none | 1 => some .homeFenced | 2 => some .rangeLocked | 3 => some .uncorrected | _ => some .overflowExhausted

/-- The status of a refusal code (R79). -/
def FaultCode.status : FaultCode → Nat
  | .homeFenced => 1 | .rangeLocked => 2 | .uncorrected => 3 | _ => 4

namespace State

/-- Where the REPLY to a tagged packet goes (R80, R293): its source; for one that a stub forwarded, the core that its SRC
names. -/
def replyPort (s : State) (p : Packet) (m : Msg) : Port :=
  match p.src with
  | .stub c _ => (s.rankPort c m.src).getD p.src
  | q => q

/-- The REPLY to a tagged message (R77, R79), from a place to the source: it copies TC, ECLS, PRIO and TASK, and its DEST is
the message's SRC. -/
def reply (s : State) (src dst : Port) (m : Msg) (status : Nat) (value : Word) : State :=
  s.send src dst
    { kind := .reply, tc := m.tc, ecls := m.ecls, prio := m.prio.val, size := false, dest := m.src, task := m.task,
      src := m.dest }
    (Word.ofNat (status * 2 ^ 9 + m.tag)) [value]

end State

end Sys2Proof.Machine
end

