-- ==== Sys2Proof/Machine/Message.lean ====
section
/-!
DEFINITION. The message and fibre instructions (R81 to R88), FENCE (R76) and the settling of FENCE, EXIT and MIG (R71).
-/

namespace Sys2Proof.Machine

/-! ### Settling (R71, R76, R86, R87) -/

namespace State

/-- Whether a fibre's operations of scopes up to n are done: no tag and no engine operation with a home there (R76). -/
def drainedTo (s : State) (pid slot : Nat) (gen : BitVec 8) (n : Nat) : Bool :=
  (s.core pid).tags.all (fun t => !(t.2.slot == slot && t.2.gen == gen) || decide (n < scopeNum t.2.scope)) &&
    (s.core pid).ops.all fun o =>
      !(o.slot == slot && o.gen == gen) || o.scopes.all fun t => decide (n < scopeNum t)

/-- Whether what a settling instruction waits for has come about: EXIT and MIG wait for every engine operation, one without a home
too (R86, R87). -/
def drained (s : State) (pid slot : Nat) (gen : BitVec 8) : Settling → Bool
  | .fence t => s.drainedTo pid slot gen (scopeNum t)
  | _ => s.drainedTo pid slot gen 5 && (s.core pid).ops.all fun o => !(o.slot == slot && o.gen == gen)

end State

/-- The trap of a settling instruction for an owed refusal: the refused access's kind and place (R71, R328). -/
def owedTrap (o : Owed) : Trap where
  code := o.code
  kind := o.kind
  va := o.place
  under := 0
  info := 0
  owed := some o

namespace State

/-- A fibre leaves its core as a MIGRATE record to a rank, resuming there at a PC (R87). -/
def migrate (s : State) (pid n rank : Nat) (pc : BitVec 56) : State :=
  let f := s.slot pid n
  (s.sendToRank pid rank
    { kind := .migrate, tc := 1, ecls := f.ecls, prio := f.prio.val, size := true, dest := rank,
      task := s.taskOf pid f, src := s.rankOf pid } (pc.setWidth 64) f.g.toList).endFibre pid n

/-- The effect of a settling instruction whose operations are done; the fibre's PC is NextPC, and for a predictor
migration the access's own. -/
def settled (s : State) (pid n : Nat) : Settling → State
  | .fence _ => s
  | .exit => s.endFibre pid n
  | .mig rank => s.migrate pid n rank (s.slot pid n).pc
  | .predict rank => s.migrate pid n rank (s.slot pid n).pc

end State

/-- How far a settling instruction's PC stands before its NextPC: FENCE and MIG are 4 bytes long; EXIT ends the fibre and
a predictor migration keeps the access's PC. -/
def settleLen : Settling → Nat
  | .fence _ | .mig _ => 4
  | _ => 0

/-- The rank to which a settling instruction sends its fibre. -/
def Settling.rank : Settling → Option Nat
  | .mig rank | .predict rank => some rank
  | _ => none

namespace State

/-- A core acts in this ac: it runs its fibres, its clock runs, and it is not fenced (R104, R333, R340). -/
def acts (s : State) (pid : Nat) : Bool := s.running pid && s.clusterRuns (pid / 8) && !(s.core pid).fenced

/-- A settling instruction may complete now: its operations are done, and the outbound queue accepts what it sends (R71,
R81). -/
def maySettle (s : State) (pid n : Nat) (gen : BitVec 8) (k : Settling) : Bool :=
  s.drained pid n gen k && (k.rank.isNone || s.accepts pid)

/-- The rank of a settling instruction has an entry still (R81, R87). -/
def rankStands (s : State) (pid : Nat) (k : Settling) : Bool := k.rank.all fun r => (s.rankPort pid r).isSome

end State

/-- A settling instruction's effect at issue: completed at once, or waiting with its PC kept. -/
def settleNow (s : State) (len : Nat) (k : Settling) : Except Stop State :=
  let pid := s.cur.core
  let n := s.cur.slot
  if s.maySettle pid n s.me.gen k then
    match s.me.owed with
    | some o => .error (.trap (owedTrap o))
    | none => .ok (s.settled pid n k)
  else .ok (s.onMe fun f => { f with pc := f.pc - BitVec.ofNat 56 len, settle := some k })

/-- SETTLE (R71): the operations that a waiting settling instruction covers are done; it traps with the owed refusal, or
completes. A rank that has lost its entry meanwhile traps ILLEGAL (R81): no fibre is lost. At spot: the core and the slot. -/
def execSettle (s : State) : Host.Outcome State Fault Refusal :=
  let pid := s.spot.place
  let n := s.spot.item
  let f := s.slot pid n
  match f.settle with
  | some k =>
    if f.live && !f.frozen && s.acts pid && s.maySettle pid n f.gen k then
      match f.owed with
      | some o => .next (s.raiseFault pid n (owedTrap o))
      | none =>
        if s.rankStands pid k then
          let s1 := s.setSlot pid n
            { f with settle := none, pc := f.pc + BitVec.ofNat 56 (settleLen k), readyAt := s.coreAc pid + 8 }
          .next (s1.settled pid n k)
        else
          .next (s.raiseFault pid n
            { code := .illegal, kind := .message, va := 0, under := 0, info := 0, owed := none })
    else .next s
  | none => .next s

/-- FENCE (R76). -/
def execFence (scope : Scope) (s : State) := s.issue (.plain [] []) fun t => settleNow t 4 (.fence scope)

/-- EXIT (R86). -/
def execExit (s : State) := s.issue (.plain [] []) fun t => settleNow t 4 .exit

/-- EXIT as a parcel (R41). -/
def execExitS (s : State) := s.issue { Need.plain [] [] with len := 2 } fun t => settleNow t 2 .exit

/-- YIELD's effect (R86, R105): last of its priority level, with its waiting age restarted. -/
def yieldFibre (f : Slot) : Slot := { f with yld := true, age := 0, eff := f.prio }

/-- YIELD (R86). -/
def execYield (s : State) := s.issue (.plain [] []) fun t => .ok (t.onMe yieldFibre)

/-- YIELD as a parcel (R41). -/
def execYieldS (s : State) := s.issue { Need.plain [] [] with len := 2 } fun t => .ok (t.onMe yieldFibre)

/-- MIG (R87): it reads g0 to g7, so it waits for every pending register and traps on a refused one. The reserved bits and
the rank are checked before the settling wait and the owed trap; the pseudocode does not place these checks (log 70). -/
def execMig (a : Reg) (s : State) :=
  s.issue (.plain [0, 1, 2, 3, 4, 5, 6, 7] []) fun t => do
    require (!t.me.epcv) .illegal .message 0
    require (fld (t.reg a) 16 48 == 0) .illegal .message 0
    let _ ← t.namedPort (fld (t.reg a) 0 16)
    settleNow t 4 (.mig (fld (t.reg a) 0 16))

/-! ### Messages (R82 to R84) -/

/-- SEND (R82). The reserved bits, the record in TC0 and the rank (ILLEGAL without an entry, PRIVILEGE for a service rank) are
checked before the payload; the pseudocode does not place the rank's checks (log 70). -/
def execSend (a b : Reg) (s : State) :=
  s.issue (.plain [a, b] []) fun t => do
    let w := t.reg a
    let flatar := State.ofFlatar t.cur.core t.me
    let stream := flag w 26
    require (fld w 39 25 == 0 && (flatar || fld w 27 12 == 0) && (!stream || fld w 18 6 == 0)) .illegal .message 0
    require (!(flag w 25 && flag w 24)) .illegal .message 0
    let _ ← t.namedPort (fld w 0 16)
    let sel := Word.ofNat ((if stream then 256 else 0) + (if stream then fld w 16 2 else fld w 16 8))
    let tc := if flag w 24 then 0 else 1
    let task := if flatar then fld w 27 12 else t.taskOf t.cur.core t.me
    if flag w 25 then do
      let (ps, h, t1) ← t.checkLocal .load .message (t.reg b) 64 8
      let v ← t1.localRead .message ps h (t.reg b) 64
      t1.post .run tc (fld w 0 16) true task sel ((List.range 8).map fun i => Word.ofNat (v / 2 ^ (64 * i)))
    else t.post .run tc (fld w 0 16) false task sel [t.reg b]

/-- SENDC (R83). -/
def execSendc (a b : Reg) (s : State) :=
  s.issue (.plain [a, b] []) fun t => do
    let w := t.reg a
    require (fld w 25 39 == 0 && fld w 22 2 == 0) .illegal .message 0
    t.post .count (if flag w 24 then 0 else 1) (fld w 0 16) false (t.taskOf t.cur.core t.me)
      (Word.ofNat (fld w 16 6 * 2 ^ 32 + fld (t.reg b) 0 32)) [0]

/-- DEP (R84). -/
def execDep (a b : Reg) (s : State) :=
  s.issue (.plain [a, b] []) fun t => do
    let h := t.reg a
    require (fld h 36 28 == 0) .illegal .message 0
    t.post .deposit (if flag h 35 then 0 else 1) (fld h 0 16) false (t.taskOf t.cur.core t.me)
      (Word.ofNat (fld h 32 3 * 2 ^ 16 + fld h 24 8 * 2 ^ 8 + fld h 16 8)) [t.reg b]

/-- BIND (R84): the handle of a register of the fibre, which becomes pending; rd = rs1 is ILLEGAL at decode (R88). -/
def execBind (rd a : Reg) (s : State) :=
  s.issue { Need.plain [] [rd, a] with legal := rd != a } fun t =>
    .ok ((t.setReg rd (mkHandle (t.rankOf t.cur.core) t.cur.slot t.me.gen a.val)).setPending a .bind)

/-- CNTSET (R83). -/
def execCntset (a b : Reg) (s : State) :=
  s.issue (.plain [a, b] []) fun t => do
    let c := t.reg a
    require (fld c 16 48 == 0 && fld c 6 2 == 0) .illegal .instruction 0
    require (!t.handlerEmpty t.cur.core (fld c 8 8)) .illegal .instruction 0
    .ok (t.onMyCore fun k => { k with counters := Tab.put k.counters (fld c 0 6) (fld (t.reg b) 0 32, fld c 8 8) })

/-- SPAWN (R85): a fibre of the core's task in the lowest free slot (log 10), or all ones when none is free. FW is 0 and SUP as
at every birth (R101, R302). -/
def execSpawn (rd a b : Reg) (s : State) :=
  s.issue (.plain [a, b] [rd]) fun t => do
    let h := t.reg a
    let pid := t.cur.core
    require (fld h 8 56 == 0) .illegal .instruction 0
    require (!t.handlerEmpty pid (fld h 0 8)) .illegal .instruction 0
    match t.freeSlot pid with
    | none => .ok (t.setReg rd (BitVec.allOnes 64))
    | some n =>
      let g := (Vector.replicate 8 (0 : Word)).set 0 (t.reg b)
      let u := t.born pid n (Word.ofNat (t.handlerAddr pid (fld h 0 8))) g t.me.prio t.me.ecls
      .ok (u.setReg rd (mkHandle (t.rankOf pid) n (t.slot pid n).gen 0))

/-! ### Queue moves (R88) -/

/-- Whether a fibre of the core that began to wait for queue q before `than` still waits to read it. -/
def readersBefore (c : Core) (q than : Nat) : Bool :=
  c.slots.any fun e =>
    match e.2.hold with
    | some (.queueRead q' o) => e.2.live && q' == q && decide (o < than)
    | some (.stream needs o) => e.2.live && needs.any (fun (n : Nat × Nat) => n.1 == q) && decide (o < than)
    | _ => false

/-- Whether a fibre of the core that began to wait for queue q before `than` still waits to write it. -/
def writersBefore (c : Core) (q than : Nat) : Bool :=
  c.slots.any fun e =>
    match e.2.hold with
    | some (.queueWrite q' o) => e.2.live && q' == q && decide (o < than)
    | _ => false

/-- The place of a fibre among those that wait: its own number, or after all of them. -/
def waitOrder (s : State) : Nat :=
  match s.me.hold with
  | some (.queueRead _ o) => o
  | some (.queueWrite _ o) => o
  | some (.stream _ o) => o
  | _ => s.seq

/-- The core with an entry appended to a queue. -/
def Core.append (c : Core) (q : QIdx) (v : Word) : Core := { c with q := c.q.set q (c.q[q] ++ [v]) }

/-- The core with a queue's oldest entry removed. -/
def Core.pop (c : Core) (q : QIdx) : Core := { c with q := c.q.set q (c.q[q]).tail }

/-- QPUT (R88): q0 to q3 are ILLEGAL at decode (R19). -/
def execQput (q : QIdx) (a : Reg) (s : State) :=
  s.issue { Need.plain [a] [] with legal := decide (4 ≤ q.val) } fun t => do
    waitUnless ((t.myCore.q[q]).length < 16 && !writersBefore t.myCore q.val (waitOrder s)) (.queueWrite q.val 0)
    .ok (t.onMyCore fun c => c.append q (t.reg a))

/-- QGET (R88). -/
def execQget (rd : Reg) (q : QIdx) (s : State) :=
  s.issue (.plain [] [rd]) fun t =>
    match t.myCore.q[q] with
    | [] => .error (.hold (.queueRead q.val 0))
    | v :: _ =>
      if readersBefore t.myCore q.val (waitOrder s) then .error (.hold (.queueRead q.val 0))
      else .ok ((t.onMyCore fun c => c.pop q).setReg rd v)

/-- QPUT.NB (R88). It takes a free place though writers are held at the queue: R88 orders the held ones among themselves
(log 70). -/
def execQputNb (q : QIdx) (a b : Reg) (s : State) :=
  s.issue { Need.plain [a] [b] with legal := decide (4 ≤ q.val) } fun t =>
    if (t.myCore.q[q]).length < 16 then .ok ((t.onMyCore fun c => c.append q (t.reg a)).setReg b 1)
    else .ok (t.setReg b 0)

/-- QGET.NB (R88): rd = rs2 is ILLEGAL at decode; on an empty queue rd keeps its value. It takes an entry though readers are
held at the queue: R88 orders the held ones among themselves (log 70). -/
def execQgetNb (rd : Reg) (q : QIdx) (b : Reg) (s : State) :=
  s.issue { Need.plain [] [rd, b] with legal := rd != b } fun t =>
    match t.myCore.q[q] with
    | [] => .ok (t.setReg b 0)
    | v :: _ => .ok (((t.onMyCore fun c => c.pop q).setReg rd v).setReg b 1)

/-- QLEN (R88). -/
def execQlen (rd : Reg) (q : QIdx) (s : State) :=
  s.compute (.plain [] [rd]) rd fun t => Word.ofNat (t.myCore.q[q]).length

end Sys2Proof.Machine
end

