-- ==== Sys2Proof/Machine/Access.lean ====
section
/-!
DEFINITION. Loads, stores, atomics and XLD (R25, R69 to R75), with the migration predictor (R121), and the arrival of
their REPLYs (R70, R71, R80).
-/

namespace Sys2Proof.Machine

/-! ### The migration predictor (R121) -/

/-- Idx(h) of R121. -/
def predIndex (h : Nat) : Nat := h % 64 ^^^ h / 64 % 64 ^^^ h / 4096

namespace State

/-- A core holds a rank of the issuing fibre's task. -/
def holdsRank (s : State) (p : Nat) : Bool :=
  !isService p && s.entryState p != 0 && s.entryTask p == s.entryTask s.cur.core && s.rankOf p != 0xFFFF

/-- The target rank of an eligible home (R121): another core's TCM, or another cluster's scratchpad, of the task. -/
def predTarget (s : State) (h : Home) : Option Nat :=
  if ofFlatar s.cur.core s.me then none
  else
    match h with
    | .tcm p => if p ≠ s.cur.core ∧ s.holdsRank p then some (s.rankOf p) else none
    | .scratchpad c =>
      if c = s.cur.core / 8 then none
      else
        ((List.range 8).filter fun k => s.holdsRank (c * 8 + k)).foldl
          (fun best k =>
            match best with
            | none => some (s.rankOf (c * 8 + k))
            | some b => some (min b (s.rankOf (c * 8 + k)))) none
    | _ => none

/-- The predictor after an access performed remotely (R121). -/
def predLearn (s : State) (i : Nat) : State :=
  let s1 :=
    match s.me.lastH with
    | none => s
    | some j =>
      s.onMyCore fun c =>
        { c with
          pred := if j = i then Tab.put c.pred i (min 3 (Tab.read c.pred 0 i + 1))
                  else Tab.put c.pred j (Tab.read c.pred 0 j - 1) }
  s1.onMe fun f => { f with lastH := some i }

/-- A remote access of the issuing fibre (R73, R75, R121): the fibre migrates to the home, or the access is sent by
`go`. -/
def remote (s : State) (len : Nat) (h : Home) (go : State → Except Stop State) : Except Stop State :=
  if s.me.amig then
    match s.predTarget h with
    | some rank =>
      let i := predIndex h.number
      if Tab.read s.myCore.pred 0 i ≥ 2 then do
        let all : List Reg := [0, 1, 2, 3, 4, 5, 6, 7]
        waitUnless (s.me.pendingMask all == 0#8) (.regs (s.me.pendingMask all))
        match all.find? fun r => s.me.refused[r].isSome with
        | some r =>
          match s.me.refused[r] with
          | some c => trapAt c.code c.kind (s.me.reg r)
          | none => .ok ()
        | none => .ok ()
        require (!s.me.epcv) .illegal .message 0
        settleNow (s.onMe fun f => { f with pc := f.pc - BitVec.ofNat 56 len }) 0 (.predict rank)
      else do
        let t ← go s
        .ok (t.predLearn i)
    | none => go s
  else go s

/-- SendAccess of R31: an ACCESS of n bytes with its tag (R69, R79), and what its REPLY is for. The instruction stands `len`
bytes before NextPC. -/
def sendAccess (s : State) (len : Nat) (h : Home) (op : Nat) (signed : Bool) (pa n : Nat) (va : Word) (use : TagUse)
    (data : List Word) : Except Stop State := do
  let pid := s.cur.core
  let (tag, s1) ← s.takeTag
    { slot := s.cur.slot, gen := s.me.gen, use := use, scope := h.scope pid,
      pc := (s.me.pc - BitVec.ofNat 56 len).signExtend 64, place := va, issuer := pid }
  .ok (s1.sendTagged (.core pid) (.home h) (s.fibreRouting .access h.accessClass h.number (op == 9)) tag
    (Word.ofNat ((if signed then 2 ^ 54 else 0) + Nat.log2 n * 2 ^ 52 + op * 2 ^ 48 + pa)) data)

end State

/-! ### Loads and stores (R72, R73) -/

/-- The issue of a load of n bytes (R73). -/
def load (s : State) (len : Nat) (signed : Bool) (n : Nat) (rd base : Reg) (ea : MemMode) :
    Host.Outcome State Fault Refusal :=
  s.issue { Need.plain (base :: memReads ea) (rd :: memWrites base ea) with len := len } fun t => do
    require (!(memIsPost ea && rd == base)) .illegal .load 0
    let va := memEA t base n ea
    let old := t.reg base
    require (canonical va) .page .load va
    require (va.toNat % n == 0) .align .load va
    let (pa, t1) ← t.translate t.cur.core t.me .load .load va
    match place pa with
    | some (h, .memory) =>
      if h.isLocal t.cur.core then
        match t1.localFault h .load pa n with
        | some c => trapAt c .load va
        | none =>
          .ok (memUpdate (t1.setReg rd (extendBytes n signed (Memory.value t1.mem pa n))) base n old ea)
      else
        t1.remote len h fun u => do
          let v ← u.sendAccess len h 0 signed pa n va (.value rd .load) [0]
          .ok (memUpdate (v.setPending rd .load) base n old ea)
    | some (h, _) =>
      let v ← t1.sendAccess len h 0 signed pa n va (.value rd .load) [0]
      .ok (memUpdate (v.setPending rd .load) base n old ea)
    | none => trapAt .page .load va

/-- The issue of a store of n bytes (R73): rd is the data register. -/
def store (s : State) (len : Nat) (n : Nat) (rd base : Reg) (ea : MemMode) : Host.Outcome State Fault Refusal :=
  s.issue { Need.plain (rd :: base :: memReads ea) (memWrites base ea) with len := len } fun t => do
    let va := memEA t base n ea
    let old := t.reg base
    let data := t.reg rd
    require (canonical va) .page .store va
    require (va.toNat % n == 0) .align .store va
    let (pa, t1) ← t.translate t.cur.core t.me .store .store va
    match place pa with
    | some (h, .memory) =>
      if h.isLocal t.cur.core then
        match t1.localFault h .store pa n with
        | some c => trapAt c .store va
        | none =>
          .ok (memUpdate (t1.performWrite h true (t1.rankOf t.cur.core) 1 pa n data data.toNat) base n old ea)
      else
        t1.remote len h fun u => do
          let v ← u.sendAccess len h 1 false pa n va (.posted .store) [data]
          .ok (memUpdate v base n old ea)
    | some (h, _) =>
      let v ← t1.sendAccess len h 1 false pa n va (.posted .store) [data]
      .ok (memUpdate v base n old ea)
    | none => trapAt .page .store va

def execLdB (rd base : Reg) (ea : MemMode) (s : State) := load s 4 true 1 rd base ea
def execLdH (rd base : Reg) (ea : MemMode) (s : State) := load s 4 true 2 rd base ea
def execLdW (rd base : Reg) (ea : MemMode) (s : State) := load s 4 true 4 rd base ea
def execLdD (rd base : Reg) (ea : MemMode) (s : State) := load s 4 true 8 rd base ea
def execLdBu (rd base : Reg) (ea : MemMode) (s : State) := load s 4 false 1 rd base ea
def execLdHu (rd base : Reg) (ea : MemMode) (s : State) := load s 4 false 2 rd base ea
def execLdWu (rd base : Reg) (ea : MemMode) (s : State) := load s 4 false 4 rd base ea
def execStB (rd base : Reg) (ea : MemMode) (s : State) := store s 4 1 rd base ea
def execStH (rd base : Reg) (ea : MemMode) (s : State) := store s 4 2 rd base ea
def execStW (rd base : Reg) (ea : MemMode) (s : State) := store s 4 4 rd base ea
def execStD (rd base : Reg) (ea : MemMode) (s : State) := store s 4 8 rd base ea

/-- LD.S and ST.S (R41): an offset of 0 to 248 bytes. LD.S is LD.D, which R38 lists among the sign-extending loads. -/
def execLdS (rd rs : Reg) (imm : BitVec 5) (s : State) := load s 2 true 8 rd rs (.disp (imm.setWidth 11))
def execStS (rd rs : Reg) (imm : BitVec 5) (s : State) := store s 2 8 rd rs (.disp (imm.setWidth 11))

/-- LDP.S and STP.S (R42): mode 10 with the size and the extension that the parcel gives. -/
def execLdpS (rd rs : Reg) (fn1 : BitVec 1) (size : BitVec 2) (s : State) :=
  load s 2 (fn1 == 0#1) (2 ^ size.toNat) rd rs .postInc
def execStpS (rd rs : Reg) (size : BitVec 2) (s : State) := store s 2 (2 ^ size.toNat) rd rs .postInc

/-! ### Atomics (R74, R75) -/

/-- The issue of an atomic of n bytes (R75): only ACAS reads rd. -/
def atomicOp (s : State) (o : AtomOp) (n : Nat) (rd base idx : Reg) (ea : AtomMode) :
    Host.Outcome State Fault Refusal :=
  let mode := atomMem ea
  s.issue (.plain (base :: idx :: (if o = .cas then [rd] else [])) (rd :: memWrites base mode)) fun t => do
    require (!(memIsPost mode && rd == base)) .illegal .atomic 0
    let va := memEA t base n mode
    let old := t.reg base
    require (canonical va) .page .atomic va
    require (va.toNat % n == 0) .align .atomic va
    let (pa, t1) ← t.translate t.cur.core t.me .atomic .atomic va
    let b := t.reg idx
    let e := t.reg rd
    let data : List Word := if o = .cas then [b, e, 0, 0, 0, 0, 0, 0] else [b]
    let send (h : Home) (u : State) : Except Stop State := do
      let v ← u.sendAccess 4 h o.code false pa n va (.value rd .atomic) data
      .ok (memUpdate (v.setPending rd .load) base n old mode)
    match place pa with
    | some (h, .memory) =>
      if h.isLocal t.cur.core then
        match t1.localFault h .atomic pa n with
        | some c => trapAt c .atomic va
        | none =>
          let r := t1.performAtomic h true (t1.rankOf t.cur.core) o pa n b e
          .ok (memUpdate (r.2.setReg rd (extendBytes n true r.1)) base n old mode)
      else t1.remote 4 h (send h)
    | some (h, _) => send h t1
    | none => trapAt .page .atomic va

def execAaddW (rd base op : Reg) (ea : AtomMode) (s : State) := atomicOp s .add 4 rd base op ea
def execAaddD (rd base op : Reg) (ea : AtomMode) (s : State) := atomicOp s .add 8 rd base op ea
def execAswapW (rd base op : Reg) (ea : AtomMode) (s : State) := atomicOp s .swap 4 rd base op ea
def execAswapD (rd base op : Reg) (ea : AtomMode) (s : State) := atomicOp s .swap 8 rd base op ea
def execAminW (rd base op : Reg) (ea : AtomMode) (s : State) := atomicOp s .min 4 rd base op ea
def execAminD (rd base op : Reg) (ea : AtomMode) (s : State) := atomicOp s .min 8 rd base op ea
def execAmaxW (rd base op : Reg) (ea : AtomMode) (s : State) := atomicOp s .max 4 rd base op ea
def execAmaxD (rd base op : Reg) (ea : AtomMode) (s : State) := atomicOp s .max 8 rd base op ea
def execAandW (rd base op : Reg) (ea : AtomMode) (s : State) := atomicOp s .and 4 rd base op ea
def execAandD (rd base op : Reg) (ea : AtomMode) (s : State) := atomicOp s .and 8 rd base op ea
def execAorW (rd base op : Reg) (ea : AtomMode) (s : State) := atomicOp s .or 4 rd base op ea
def execAorD (rd base op : Reg) (ea : AtomMode) (s : State) := atomicOp s .or 8 rd base op ea
def execAxorW (rd base op : Reg) (ea : AtomMode) (s : State) := atomicOp s .xor 4 rd base op ea
def execAxorD (rd base op : Reg) (ea : AtomMode) (s : State) := atomicOp s .xor 8 rd base op ea
def execAcasW (rd base op : Reg) (ea : AtomMode) (s : State) := atomicOp s .cas 4 rd base op ea
def execAcasD (rd base op : Reg) (ea : AtomMode) (s : State) := atomicOp s .cas 8 rd base op ea

/-! ### XLD (R25, R21) -/

/-- XLD (R25): the data is read at issue and reaches xn in the next ac. -/
def execXld (xn : XIdx) (base : Reg) (ea : XldMode) (s : State) :=
  s.issue { Need.plain (xldReads base ea) (xldWrites base ea) with xs := [xn] } fun t => do
    let va := xldEA t base ea
    require (canonical va) .page .load va
    require (va.toNat % 16 == 0) .align .load va
    let (ps, h, t1) ← t.checkLocal .load .load va 16 16
    let v ← t1.localRead .load ps h va 16
    .ok (xldUpdate (t1.onMyCore fun c =>
      { c with xld := Tab.put c.xld xn.val (BitVec.ofNat 128 v, t.coreAc t.cur.core + 1) }) base ea)

/-- XLD_COMPLETE (R21, R25): the data of an XLD stands in xn from the ac after the one in which it reached it. At spot: the
core and xn. -/
def execXldComplete (s : State) : Host.Outcome State Fault Refusal :=
  let pid := s.spot.place
  let n := s.spot.item
  match Tab.look (s.core pid).xld n with
  | some (v, ac) =>
    if ac < s.coreAc pid then
      .next (s.onCore pid fun c => { c with x := c.x.setIfInBounds n v, xld := Tab.remove c.xld n })
    else .next s
  | none => .next s

/-! ### REPLY arrival (R70, R71, R80) -/

/-- A fibre after a refusal of a posted operation has reached it (R71): the first becomes owed, later ones are counted. -/
def Slot.owe (f : Slot) (c : FaultCode) (kind : FaultKind) (pc place : Word) : Slot :=
  { f with
    owed := some
      (match f.owed with
       | none => { code := c, pc := pc, place := place, kind := kind, count := 1 }
       | some o => { o with count := min 255 (o.count + 1) }) }

/-- A fibre for which something has arrived in an ac: it is ready from the next ac at the earliest (R107). -/
def Slot.wake (f : Slot) (ac : Nat) : Slot := { f with readyAt := max f.readyAt (ac + 1) }

/-- The fibre of a slot and generation after something has arrived for it in an ac; a fibre that has ended takes
nothing. -/
def Core.onFibre (c : Core) (ac slot : Nat) (gen : BitVec 8) (g : Slot → Slot) : Core :=
  if (c.slot slot).live && (c.slot slot).gen == gen then c.setSlot slot ((g (c.slot slot)).wake ac) else c

/-- A fibre after a REPLY for a register: only a mark of PSRC LOAD is met by it (R107). -/
def Slot.onLoad (f : Slot) (r : Reg) (g : Slot) : Slot := if f.mark[r] == some .load then g else f

/-- What a REPLY does to the fibre that holds its tag (R70, R71, R107, R311): a value or a refusal into a register that waits
for it, an owed refusal, a status word. -/
def Tag.answer (t : Tag) (status : Nat) (v : Word) (f : Slot) : Slot :=
  match t.use with
  | .value reg kind =>
    f.onLoad reg
      (match statusCode status with
       | none => f.arrive reg v
       | some c => f.refuse reg t.place { code := c, kind := kind })
  | .posted kind =>
    match statusCode status with
    | none => f
    | some c => f.owe c kind t.pc t.place
  | .status reg =>
    f.onLoad reg
      (match statusCode status with
       | none => f.arrive reg v
       | some c => f.refuse reg t.place { code := c, kind := .message })
  | .course reg _ =>
    f.onLoad reg
      (match statusCode status with
       | none => f.arrive reg v
       | some c => f.refuse reg t.place { code := c, kind := .atomic })

/-- A REPLY at its core (R80): its tag is freed and the fibre answered; a REPLY for an unknown tag is counted. -/
def Core.takeReply (c : Core) (ac : Nat) (m : Msg) : Core :=
  let n := fld m.sel 0 9
  match Tab.look c.tags n with
  | none => { c with errs := c.errs + 1 }
  | some t =>
    ({ c with tags := Tab.remove c.tags n }).onFibre ac t.slot t.gen (t.answer (fld m.sel 9 3) (m.word 0))

namespace State

/-- The answer to a CREL's remote check (R276): REF becomes 0 where no lock overlapped, and the descriptor's lock is
released. -/
def endCheck (s : State) (pid : Nat) (m : Msg) : State :=
  match Tab.look (s.core pid).tags (fld m.sel 0 9) with
  | some { use := .course _ pa, .. } =>
    match place pa with
    | some (h, _) =>
      let t := if fld m.sel 9 3 = 0 ∧ m.word 0 = 1 then s.performWrite h true (s.rankOf pid) 1 (pa + 16) 4 0 0 else s
      match h.table? with
      | some k => t.releaseLocks k fun l => l.eng == 5 && l.first == pa
      | none => t
    | none => s
  | _ => s

end State

end Sys2Proof.Machine
end

