-- ==== Sys2Proof/Machine/Rings.lean ====
section
/-!
DEFINITION. The rings that the hardware writes in a task's memory (R115), and dead letters (R116 to R118).
-/

namespace Sys2Proof.Machine

/-- A ring as its header describes it: the header's and slot 0's physical address or virtual address, the slots, and the
indices (R115). -/
structure Ring where
  header   : Nat
  base     : Word
  slots    : Nat
  producer : Nat
  consumer : Nat
deriving DecidableEq, Repr

namespace State

/-- The physical address of a virtual one under a PASID, as the hardware of a core's cluster finds it (log 9). -/
def ringAddr (s : State) (pid pasid : Nat) (va : Word) : Option Nat :=
  if isService pid then
    (if va.toNat < 2 ^ 48 ∧ (place va.toNat).isSome then some va.toNat else none)
  else
    match s.tlbLookup (pid / 8) pasid va with
    | some (_, e) => if (place (e.phys va)).isSome then some (e.phys va) else none
    | none => none

/-- A header address of a task entry as a virtual address (R100): bits [55:0]; 0 is no ring. -/
def entryAddr (s : State) (pid : Nat) (i : Fin 8) : Word := ((s.entryWord pid i).setWidth 56).signExtend 64

/-- The ring at a header, if it can be used: the header translates, is readable now, and k lies in its limits (R115, R350, log 9). -/
def ringAt (s : State) (pid pasid : Nat) (hdr : Word) : Option Ring :=
  if hdr = 0 then none
  else
    match s.ringAddr pid pasid hdr with
    | none => none
    | some pa =>
      let k := (s.word (pa + 8)).toNat
      if s.structReady pa = false ∨ s.eccBad pa 32 ∨ k < 4 ∨ 20 < k then none
      else
        some
          { header := pa, base := s.word pa, slots := 2 ^ k, producer := (s.word (pa + 16)).toNat,
            consumer := (s.word (pa + 24)).toNat }

end State

/-- The entries that a ring holds; the indices run freely modulo 2^64 (R115). -/
def Ring.count (r : Ring) : Nat := (Word.ofNat r.producer - Word.ofNat r.consumer).toNat

/-- The virtual address of the slot of entry i. -/
def Ring.slot (r : Ring) (i : Nat) : Word := r.base + Word.ofNat (i % r.slots * 128)

/-- The 16 words of a ring slot (R115): the record as it arrived, 10 words with 0 after a word message, and the words of
bytes 80 to 127. -/
def slotWords (m : Msg) (extra : List Word) : List Word :=
  ([m.rw, m.sel] ++ m.data ++ List.replicate (8 - m.data.length) 0).take 10 ++ extra

namespace State

/-- A record appended to a ring (R115); none where the ring is full or cannot be used. -/
def appendRing (s : State) (pid pasid : Nat) (hdr : Word) (m : Msg) (extra : List Word) : Option State :=
  match s.ringAt pid pasid hdr with
  | none => none
  | some r =>
    if r.slots ≤ r.count then none
    else
      match s.ringAddr pid pasid (r.slot r.producer) with
      | none => none
      | some pa =>
        if s.eccBad pa 128 || !s.structReady pa then none
        else
          some ((s.putWords pa (slotWords m (extra ++ List.replicate (6 - extra.length) 0))).putWord
            (r.header + 16) (Word.ofNat (r.producer + 1)))

/-- A ring that is there cannot be reached now: its header, or the slot that comes next, does not translate, meets an uncorrected
error, or stands at a home that performs nothing now (R154, R350). What must be appended waits, as behind a spill engine that falls
behind (R111, R244, log 9). -/
def ringBlocked (s : State) (pid pasid : Nat) (hdr : Word) : Bool :=
  hdr != 0 &&
    (match s.ringAddr pid pasid hdr with
     | none => true
     | some pa =>
       s.eccBad pa 32 || !s.structReady pa ||
         (match s.ringAt pid pasid hdr with
          | none => false
          | some r =>
            decide (r.count < r.slots) &&
              (match s.ringAddr pid pasid (r.slot r.producer) with
               | none => true
               | some pa => s.eccBad pa 128 || !s.structReady pa)))

/-- The record at the head of a ring, with the word at slot bytes 80 to 87. -/
def ringHead (s : State) (pid pasid : Nat) (hdr : Word) : Option (Msg × Word) :=
  match s.ringAt pid pasid hdr with
  | none => none
  | some r =>
    if r.count = 0 then none
    else
      match s.ringAddr pid pasid (r.slot r.consumer) with
      | none => none
      | some pa =>
        let rw := s.word pa
        if !s.structReady pa then none
        else
          some
            ({ rw := rw, sel := s.word (pa + 8),
               data := (List.range (if flag rw 52 then 8 else 1)).map fun i => s.word (pa + 16 + 8 * i) },
              s.word (pa + 80))

/-- The state with a ring's head consumed. -/
def consumeRing (s : State) (pid pasid : Nat) (hdr : Word) : State :=
  match s.ringAt pid pasid hdr with
  | none => s
  | some r => s.putWord (r.header + 24) (Word.ofNat (r.consumer + 1))

/-- RingCount of R111: the records in a core's overflow ring, by its header; where that cannot be read now, as the core last
counted them (R90). -/
def ringCount (s : State) (pid : Nat) : Nat :=
  match s.ringAt pid (s.entryPasid pid) (s.entryAddr pid 3) with
  | none => (s.core pid).ringLen
  | some r => r.count

/-- A record appended to its core's overflow ring (R111). -/
def appendOverflow (s : State) (pid : Nat) (m : Msg) : Option State :=
  (s.appendRing pid (s.entryPasid pid) (s.entryAddr pid 3) m []).map fun t =>
    t.onCore pid fun c => { c with ringLen := s.ringCount pid + 1 }

/-- The head of a core's overflow ring. -/
def overflowHead (s : State) (pid : Nat) : Option Msg :=
  (s.ringHead pid (s.entryPasid pid) (s.entryAddr pid 3)).map Prod.fst

/-- The head of a core's overflow ring consumed. -/
def consumeOverflow (s : State) (pid : Nat) : State :=
  (s.consumeRing pid (s.entryPasid pid) (s.entryAddr pid 3)).onCore pid fun c => { c with ringLen := s.ringCount pid - 1 }

/-- A ring that a record is diverted to stands at a home that performs nothing now (R154, R350): the diversion waits. -/
def ringWaits (s : State) (pid pasid : Nat) (hdr : Word) : Bool :=
  hdr != 0 &&
    (match s.ringAddr pid pasid hdr with
     | none => false
     | some pa =>
       !s.structReady pa ||
         (match s.ringAt pid pasid hdr with
          | none => false
          | some r => (s.ringAddr pid pasid (r.slot r.producer)).any fun a => !s.structReady a))

end State

/-! ### Dead letters (R116 to R118, R294) -/

/-- The reasons of a dead letter (R117, R294). -/
inductive Reason where
  | stale | nohandler | exited | unknown | unsol | foreign | hops
deriving DecidableEq, Repr

/-- The number of a reason. -/
def Reason.num : Reason → Nat
  | .stale => 1 | .nohandler => 2 | .exited => 3 | .unknown => 4 | .unsol => 5 | .foreign => 6 | .hops => 7

/-- A counter of n bits raised by 1, holding at all ones. -/
def holdAtTop (n v : Nat) : Nat := min (2 ^ n - 1) (v + 1)

/-- ECNT of a bank after an error, corrected or beyond correction (R372). -/
def errorCounted (w : Word) (hard : Bool) : Word :=
  if hard then Word.ofNat (holdAtTop 32 (fld w 32 32) * 2 ^ 32 + fld w 0 32)
  else Word.ofNat (fld w 32 32 * 2 ^ 32 + holdAtTop 32 (fld w 0 32))

namespace State

/-- A record diverted by a core to a task's dead-letter ring (R117): DEAD or LOST of the core rises. -/
def deadLetterAt (s : State) (pid pasid : Nat) (hdr : Word) (m : Msg) (why : Reason) : State :=
  match s.appendRing pid pasid hdr m [Word.ofNat why.num, coord pid, s.time (pid / 512)] with
  | some t => t.onCore pid fun c => { c with dead := holdAtTop 32 c.dead }
  | none => s.onCore pid fun c => { c with lost := holdAtTop 32 c.lost }

/-- A record diverted by a core to the dead-letter ring of its region (R115 to R117), which Flatar reads; a full or unusable
one loses it. cr.dlcnt counts the core's own task's dead letters alone (R118). -/
def regionDeadLetter (s : State) (pid : Nat) (m : Msg) (why : Reason) : State :=
  (s.appendRing (pid / 512 * 512 + 504) 0 (Word.ofNat (s.region (pid / 512)).ddl) m
    [Word.ofNat why.num, coord pid, s.time (pid / 512)]).getD s

/-- A record diverted by a core to its own task's dead-letter ring. -/
def deadLetter (s : State) (pid : Nat) (m : Msg) (why : Reason) : State :=
  s.deadLetterAt pid (s.entryPasid pid) (s.entryAddr pid 6) m why

end State

end Sys2Proof.Machine
end

