-- ==== Sys2Proof/Machine/Mailbox.lean ====
section
/-!
DEFINITION. Where mailbox records go and how they are delivered (R83, R84, R89 to R91, R99, R109 to R119, R329 to R331,
R335), forwarding stubs (R293, R294), and the arrival of REPLYs and FAULTs.
-/

namespace Sys2Proof.Machine

/-! ### Ports -/

namespace State

/-- A core's router port refuses messages: the core dead or fenced, its region dark or Wiping, or the source's partition
without its region (R80, R148, R313, R322, R340). -/
def portRefuses (s : State) (src : Port) (pid : Nat) (flatar : Bool) : Bool :=
  s.coreDead pid || (s.core pid).fenced || (s.region (pid / 512)).life == .dark ||
    (s.region (pid / 512)).life == .wiping ||
    (match src.source with
     | .core p => !flatar && !(s.region (p / 512)).mask.getLsbD (pid / 512)
     | _ => false)

/-- A tagged message answered with a status; an untagged one is not answered. -/
def answer (s : State) (p : Packet) (m : Msg) (tagged : Bool) (status : Nat) : State :=
  if tagged then s.reply p.dst (s.replyPort p m) m status 0 else s

/-- A record that no place takes, or that a port refuses (R80, R87, R114): a MIGRATE goes back to its source with the
code; a tagged message is answered. -/
def refuseRecord (s : State) (p : Packet) (m : Msg) (tagged : Bool) (c : FaultCode) : State :=
  if m.kind = MsgKind.migrate.num then s.inject p.dst (s.replyPort p m) 1 (.returned m c)
  else s.answer p m tagged c.status

end State

/-! ### Admission and placement in a mailbox (R91, R110, R111) -/

/-- MRES of the value of cr.mbcfg in force. -/
def Core.mres (c : Core) : Nat := fld c.mbInForce 32 6

/-- The general entries of the partition: SIZE less MRES. -/
def Core.general (c : Core) : Nat := fld c.mbInForce 16 12 - c.mres

/-- The core has a free general entry. -/
def Core.hasGeneral (c : Core) : Bool := decide (c.part.length < c.general)

/-- The core has a free reserve entry. -/
def Core.hasReserve (c : Core) : Bool := decide (c.reserve.length < c.mres)

namespace State

/-- A record held in a core's entries with an order number: in the reserve or among the general entries. -/
def hold (s : State) (pid : Nat) (m : Msg) (first inReserve : Bool) (order : Nat) : State :=
  let h : Held := { msg := m, start := none, first := first, order := order, ac := s.coreAc pid }
  s.onCore pid fun c =>
    if inReserve then { c with reserve := c.reserve ++ [h] } else { c with part := c.part ++ [h] }

/-- A record placed in the mailbox of its core (R91, R111); none where it must go to a ring that is full (R114). -/
def placeRecord (s : State) (pid : Nat) (m : Msg) (first : Bool) : Option State :=
  let c := s.core pid
  let isMig := m.kind == MsgKind.migrate.num
  let ring := s.appendOverflow pid m
  if c.admitting then
    if s.ringCount pid > 0 then ring
    else if c.hasGeneral then some ((s.hold pid m first false s.seq).tick)
    else if isMig && c.hasReserve then some ((s.hold pid m first true s.seq).tick)
    else ring
  else if isMig then (if c.hasReserve then some ((s.hold pid m first true s.seq).tick) else ring)
  else if c.hasGeneral then some ((s.hold pid m first false s.seq).tick)
  else ring

end State

/-- A held record put into its place in a list by order numbers. -/
def insertHeld (h : Held) : List Held → List Held
  | [] => [h]
  | g :: gs => if h.order < g.order then h :: g :: gs else g :: insertHeld h gs

/-- Held records in their order. -/
def byOrder : List Held → List Held
  | [] => []
  | h :: hs => insertHeld h (byOrder hs)

/-- Entries with new order numbers from a first one up, in their order. -/
def renumber : Nat → List Held → List Held
  | _, [] => []
  | n, h :: hs => { h with order := n } :: renumber (n + 1) hs

namespace State

/-- A write of cr.admit.ADMIT (R89, R91): when it becomes 1, the reserve comes first, then the ring, then the partition in its
arrival order. A ring record that had been refilled before ADMIT fell again counts where it stands, in the partition or the
reserve (log 71). -/
def writeAdmit (s : State) (pid : Nat) (v : Bool) : State :=
  let c := s.core pid
  if v && !c.admitting then
    let r := s.ringCount pid
    let n0 := s.seq
    let n1 := n0 + c.reserve.length
    let n2 := n1 + r
    { s.setCore pid
        { c with
          admitting := true
          reserve := renumber n0 (byOrder c.reserve)
          part := renumber n2 (byOrder c.part)
          resuming := if r = 0 then none else some (n1, r) } with
      seq := n2 + c.part.length }
  else s.setCore pid { c with admitting := v, resuming := if v then c.resuming else none }

end State

/-- CR_ADMIT_WRITE (R89). At spot: the core and the value. -/
def execCrAdmitWrite (s : State) : Host.Outcome State Fault Refusal :=
  .next (s.writeAdmit s.spot.place (flag s.spot.v0 0))

namespace State

/-- The order number of the record taken next from a core's ring, and the core after it. -/
def ringOrder (s : State) (pid : Nat) : Nat × State :=
  match (s.core pid).resuming with
  | some (n, left) =>
    (n, s.onCore pid fun c => { c with resuming := if left ≤ 1 then none else some (n + 1, left - 1) })
  | none => (s.seq, s.tick)

/-- The refill of R111: the ring's head moves into an entry that is free for it. -/
def refill (s : State) (pid : Nat) : State :=
  let c := s.core pid
  match s.overflowHead pid with
  | some m =>
    let inReserve := !c.hasGeneral
    if c.admitting && (c.hasGeneral || (m.kind == MsgKind.migrate.num && c.hasReserve)) then
      let r := (s.consumeOverflow pid).ringOrder pid
      r.2.hold pid m false inReserve r.1
    else s
  | none => s

end State

/-- SPILL_REFILL (R111). At spot: the core. -/
def execSpillRefill (s : State) : Host.Outcome State Fault Refusal :=
  let pid := s.spot.place
  .next (if s.running pid && s.portRuns pid then s.refill pid else s)

/-! ### Delivery (R83, R84, R102, R112, R117, R119) -/

/-- What a DEPOSIT meets (R84, R107, R119). -/
inductive DepositCase where
  | applied | stale | unsolicited
deriving DecidableEq, Repr

/-- The case of a DEPOSIT at its core. -/
def depositCase (c : Core) (m : Msg) : DepositCase :=
  let f := c.slot (fld m.sel 0 8)
  if !f.live || f.gen.toNat != fld m.sel 8 8 then .stale
  else if f.mark[(m.sel.extractLsb' 16 3).toFin] == some .bind then .applied
  else .unsolicited

namespace State

/-- The task has an unsolicited handler that can start (R100, R119). UNSV = 1 with UNSOL naming an empty entry, of which the
rules say nothing, counts as no unsolicited handler (log 70). -/
def hasUnsolicited (s : State) (pid : Nat) : Bool :=
  flag (s.entryWord pid 0) 50 && !s.handlerEmpty pid (fld (s.entryWord pid 0) 56 8)

/-- The entry of a handler can be read now (R154, R350). -/
def handlerReady (s : State) (pid index : Nat) : Bool :=
  (s.structAddr pid (s.handlerVa pid index)).all s.structReady

/-- A record can be diverted to the task's dead-letter ring now: no record waits for the ring to become usable (R117), but what
stands at a home that performs nothing now is written later (R154, R350). -/
def mayDivert (s : State) (pid : Nat) : Bool := !s.ringWaits pid (s.entryPasid pid) (s.entryAddr pid 6)

/-- An unsolicited record can start its handler, or be diverted (R119). -/
def mayUnsolicited (s : State) (pid : Nat) : Bool :=
  (!flag (s.entryWord pid 0) 50 || s.handlerReady pid (fld (s.entryWord pid 0) 56 8)) &&
    (if s.hasUnsolicited pid then (s.freeSlot pid).isSome else s.mayDivert pid)

/-- Whether a held record that stands in its entry long enough can be delivered (R112). -/
def canDeliver (s : State) (pid : Nat) (h : Held) : Bool :=
  let c := s.core pid
  let slot := (s.freeSlot pid).isSome
  match h.start with
  | some (handler, _) => slot && s.handlerReady pid handler
  | none =>
    if h.msg.kind = MsgKind.deposit.num then
      match depositCase c h.msg with
      | .applied => true
      | .stale => s.mayDivert pid
      | .unsolicited => s.mayUnsolicited pid
    else if h.msg.kind = MsgKind.count.num then
      (Tab.read c.counters (0, 0) (fld h.msg.sel 32 6)).1 != 0 || s.mayUnsolicited pid
    else if h.msg.kind = MsgKind.migrate.num then slot
    else if flag h.msg.sel 8 then
      (c.q.toList.getD (fld h.msg.sel 0 2) []).length + (if h.msg.isRecord then 8 else 1) ≤ 16
    else
      s.handlerReady pid (fld h.msg.sel 0 8) &&
        (if s.handlerEmpty pid (fld h.msg.sel 0 8) then s.mayDivert pid else slot)

/-- Whether a held record can be delivered in this ac (R112): it was placed in an earlier one. -/
def deliverable (s : State) (pid : Nat) (h : Held) : Bool := decide (h.ac < s.coreAc pid) && s.canDeliver pid h

/-- A fibre born from a record at a handler's address (R102); a first start RUN takes the task's defaults. -/
def bornFrom (s : State) (pid : Nat) (m : Msg) (first : Bool) (pc : Word) (g : List Word) : State :=
  match s.freeSlot pid with
  | none => s
  | some n =>
    let w := s.entryWord pid 0
    s.born pid n pc (Vector.ofFn fun i => g.getD i.val 0) (if first then (w.extractLsb' 44 2).toFin else m.prio)
      (if first then w.extractLsb' 46 3 else m.ecls)

/-- An unsolicited record (R119): its handler starts, or it goes to the dead-letter ring. -/
def unsolicited (s : State) (pid : Nat) (m : Msg) (cause : Nat) : State :=
  if s.hasUnsolicited pid then
    s.bornFrom pid m false (Word.ofNat (s.handlerAddr pid (fld (s.entryWord pid 0) 56 8)))
      [m.sel, m.word 0, m.rw, Word.ofNat cause]
  else s.deadLetter pid m .unsol

/-- A deliverable record delivered (R112), and the start that stays in its entry where a COUNT took its counter to 0
(R83). -/
def deliverRecord (s : State) (pid : Nat) (h : Held) : State × Option Held :=
  let m := h.msg
  let c := s.core pid
  match h.start with
  | some (handler, i) =>
    (s.bornFrom pid m false (Word.ofNat (s.handlerAddr pid handler)) [Word.ofNat i], none)
  | none =>
    if m.kind = MsgKind.deposit.num then
      match depositCase c m with
      | .applied =>
        (s.onSlot pid (fld m.sel 0 8) fun f =>
          (f.arrive (m.sel.extractLsb' 16 3).toFin (m.word 0)).wake (s.coreAc pid), none)
      | .stale => (s.deadLetter pid m .stale, none)
      | .unsolicited => (s.unsolicited pid m 1, none)
    else if m.kind = MsgKind.count.num then
      let i := fld m.sel 32 6
      let d := fld m.sel 0 32
      let k := Tab.read c.counters (0, 0) i
      if k.1 = 0 then (s.unsolicited pid m 2, none)
      else if k.1 ≤ d then
        (s.onCore pid fun c => { c with counters := Tab.put c.counters i (0, k.2) },
         some { h with start := some (k.2, i) })
      else (s.onCore pid fun c => { c with counters := Tab.put c.counters i (k.1 - d, k.2) }, none)
    else if m.kind = MsgKind.migrate.num then
      (s.bornFrom pid m false ((m.sel.setWidth 56).signExtend 64) m.data, none)
    else if flag m.sel 8 then
      (s.onCore pid fun c =>
        { c with
          q := c.q.setIfInBounds (fld m.sel 0 2) (c.q.toList.getD (fld m.sel 0 2) [] ++ m.data) }, none)
    else if s.handlerEmpty pid (fld m.sel 0 8) then (s.deadLetter pid m .nohandler, none)
    else (s.bornFrom pid m h.first (Word.ofNat (s.handlerAddr pid (fld m.sel 0 8))) m.data, none)

end State

/-- The held record of a list with the least order number. -/
def oldest : List Held → Option Held
  | [] => none
  | h :: hs =>
    match oldest hs with
    | none => some h
    | some g => if h.order ≤ g.order then some h else some g

/-- A list of held records with the one of an order number replaced, or removed. -/
def replaceHeld (n : Nat) (by_ : Option Held) : List Held → List Held
  | [] => []
  | h :: hs => if h.order = n then by_.toList ++ replaceHeld n by_ hs else h :: replaceHeld n by_ hs

namespace State

/-- The delivery unit may act in this ac (R112, R333, R340). -/
def mayDeliver (s : State) (pid : Nat) : Bool :=
  s.running pid && s.portRuns pid && !(s.core pid).fenced && (s.core pid).delivAt != some (s.coreAc pid)

/-- A fault inbox record can be delivered (R329, R331): a run-queue slot is free. -/
def inboxReady (s : State) (pid : Nat) : Bool :=
  match (s.core pid).inbox with
  | [] => false
  | r :: _ => (s.freeSlot pid).isSome && decide (r.ac < s.coreAc pid)

/-- The state after the delivery of a record, with what is left of it. -/
def afterDelivery (s : State) (pid n : Nat) (left : Option Held) : State :=
  s.onCore pid fun c =>
    { c with part := replaceHeld n left c.part, reserve := replaceHeld n left c.reserve,
             delivAt := some (s.coreAc pid) }

/-- The head of a core's ring while delivery resumes after closed admission (R91): its place in the order is between the
reserve's and the partition's. -/
def resumed (s : State) (pid : Nat) : Option Held :=
  match (s.core pid).resuming, s.overflowHead pid with
  | some (n, _), some m => some { msg := m, start := none, first := false, order := n, ac := 0 }
  | _, _ => none

/-- One act of the delivery unit (R91, R112): the oldest record that can be delivered, of the entries and, while delivery resumes,
of the ring's head, which is delivered from the ring. What waits for a slot or for queue space blocks neither (R112), so a
deliverable record of the partition may pass the ring's records that wait (log 71); one that was refilled in this ac is passed by
nothing that follows it (R91). -/
def deliver (s : State) (pid : Nat) : State :=
  let c := s.core pid
  let all : List Held := c.reserve ++ (s.resumed pid).toList ++ c.part
  match (oldest (all.filter (s.canDeliver pid))).filter (s.deliverable pid) with
  | some h =>
    if (s.resumed pid).any fun g => g.order == h.order then
      let t := ((s.consumeOverflow pid).ringOrder pid).2
      let r := t.deliverRecord pid h
      match r.2 with
      | none => r.1.afterDelivery pid h.order none
      | some g =>
        -- A COUNT that took its counter to 0 waits for a slot in an entry (R112), though none be free (log 71).
        r.1.onCore pid fun c => { c with part := c.part ++ [g], delivAt := some (s.coreAc pid) }
    else
      let r := s.deliverRecord pid h
      r.1.afterDelivery pid h.order r.2
  | none => s

end State

/-- DELIVERY (R112). At spot: the core. -/
def execDelivery (s : State) : Host.Outcome State Fault Refusal :=
  let pid := s.spot.place
  .next (if s.mayDeliver pid && (s.core pid).admitting && !s.inboxReady pid then s.deliver pid else s)

/-! ### Forwarding stubs (R291 to R296) -/

namespace State

/-- The stub entry of a core that matches a message (R293): the lowest. -/
def stubMatch (s : State) (pid : Nat) (m : Msg) : Option Nat :=
  let c := s.core pid
  if m.kind = MsgKind.run.num ∧ flag m.sel 8 = false ∧ m.task = s.entryTask pid ∧ s.entryState pid ≠ 0 ∧
      flag c.kvreq 31 = true ∧ fld m.sel 0 8 = fld c.kvreq 0 8 then
    (List.range 16).find? fun i => flag (Tab.read c.sdst 0 i) 16 && Tab.read c.skey 0 i == m.word 0
  else none

/-- The forwarding of a matched message (R293, R294): its destination becomes the entry's rank. -/
def forward (s : State) (pid : Nat) (p : Packet) (m : Msg) (tagged : Bool) (i : Nat) : State :=
  let w := Tab.read (s.core pid).sdst 0 i
  if fld m.sel 9 2 = 3 then (s.deadLetter pid m .hops).answer p m tagged 0
  else
    let count := holdAtTop 32 (fld w 32 32)
    let s1 := s.onCore pid fun c =>
      { c with sdst := Tab.put c.sdst i (Word.ofNat (count * 2 ^ 32 + fld w 0 32)) }
    match s1.rankPort pid (fld w 0 16) with
    | none => s1.answer p m tagged 1
    | some dst => s1.inject (.stub pid i) dst m.tc (.msg { m with rw := fields 0x0000FFFF00000000#64 m.rw (w <<< 32), sel := m.sel + 0x200#64 } tagged)

end State

/-! ### Where a record goes (R116) -/

namespace State

/-- The entry of a core counts as SAVED: it is, or a pre-emption has begun (R333). -/
def savedNow (s : State) (pid : Nat) : Bool := s.entryState pid == 3 || (s.core pid).saving.isSome

/-- The producer index of a region's dead-letter ring, 0 where there is none (R338). -/
def deadLetterIndex (s : State) (r : Nat) : Nat :=
  match s.ringAt (r * 512 + 504) 0 (Word.ofNat (s.region r).ddl) with
  | some x => x.producer
  | none => 0

/-- A record placed for a task that the destination core does not run, by the region task directory (R116). -/
def placeByDirectory (s : State) (pid : Nat) (m : Msg) : Option State :=
  let r := pid / 512
  match Tab.look s.host.directory m.task with
  | none => some (s.regionDeadLetter pid m .unknown)
  | some t =>
    match t.phase with
    | .placing => s.appendRing pid t.pasid t.inbound m []
    | .running => some (s.deadLetterAt pid t.pasid t.deadl m .foreign)
    | .exited =>
      let s1 := s.regionDeadLetter pid m .exited
      some (s1.send (.router (pid / 8)) (.core (r * 512 + 504))
        { kind := .supervisor, tc := 0, ecls := 0, prio := 3, size := false, dest := serviceRank r, task := 0,
          src := m.dest }
        (Word.ofNat (7 * 2 ^ 48 + m.task)) [Word.ofNat (s1.deadLetterIndex r)])

/-- The place of a record (R116); none where it is refused with OVERFLOW_EXHAUSTED. -/
def placeFor (s : State) (pid : Nat) (m : Msg) : Option State :=
  let matches_ := m.task == s.entryTask pid
  if isService pid then (if matches_ then s.placeRecord pid m false else s.placeByDirectory pid m)
  else if matches_ && s.savedNow pid then
    s.appendRing pid (s.entryPasid pid) (s.entryAddr pid 5) m [0]
  else if matches_ && s.entryState pid == 2 then s.placeRecord pid m false
  else if matches_ && s.entryState pid == 1 then
    if isServiceRank m.src then s.placeRecord pid m (m.kind == MsgKind.run.num)
    else s.appendRing pid (s.entryPasid pid) (s.entryAddr pid 4) m []
  else s.placeByDirectory pid m

/-- The ring that a record goes to where no entry takes it (R111, R116): its PASID and header. -/
def ringFor (s : State) (pid : Nat) (m : Msg) : Nat × Word :=
  let matches_ := m.task == s.entryTask pid
  if matches_ && !isService pid && s.savedNow pid then (s.entryPasid pid, s.entryAddr pid 5)
  else if matches_ && !isService pid && s.entryState pid == 1 && !isServiceRank m.src then
    (s.entryPasid pid, s.entryAddr pid 4)
  else if matches_ && (isService pid || s.entryState pid == 1 || s.entryState pid == 2) then
    (s.entryPasid pid, s.entryAddr pid 3)
  else
    match Tab.look s.host.directory m.task with
    | some t => if t.phase = .placing then (t.pasid, t.inbound) else (0, 0)
    | none => (0, 0)

/-- A record goes where the region task directory says (R116). -/
def byDirectory (s : State) (pid : Nat) (m : Msg) : Bool :=
  m.task != s.entryTask pid || !(isService pid || s.entryState pid != 0)

/-- The dead-letter ring that the directory diverts a record to stands at a home that performs nothing now (R154, R350). -/
def directoryWaits (s : State) (pid : Nat) (m : Msg) : Bool :=
  match Tab.look s.host.directory m.task with
  | some t =>
    match t.phase with
    | .placing => false
    | .running => s.ringWaits pid t.pasid t.deadl
    | .exited => s.ringWaits (pid / 512 * 512 + 504) 0 (Word.ofNat (s.region (pid / 512)).ddl)
  | none => s.ringWaits (pid / 512 * 512 + 504) 0 (Word.ofNat (s.region (pid / 512)).ddl)

/-- A record waits at the port of a core: the core's placement clear runs (R123), the ring that it goes to cannot be reached now
(R111, R244, log 9), or it is a DEPOSIT for a core that is SAVED whose spill queue is full (R335). -/
def recordWaits (s : State) (pid : Nat) (m : Msg) : Bool :=
  let ring := s.ringFor pid m
  (s.core pid).clearing ||
    (s.ringBlocked pid ring.1 ring.2 &&
      ((s.placeFor pid m).isNone || (ring.2 == s.entryAddr pid 3 && (s.core pid).admitting))) ||
    (s.byDirectory pid m && s.directoryWaits pid m) ||
    (m.kind == MsgKind.deposit.num && m.task == s.entryTask pid && s.savedNow pid && (s.placeFor pid m).isNone)

end State

/-- The reserved kinds (R78). -/
def isReservedKind (k : Nat) : Bool := k == 6 || k == 7 || decide (12 ≤ k)

/-- A message that crosses a bond port to another module (R366). -/
def State.cross (s : State) (k : Nat) (m : Msg) : State :=
  { s with host := { s.host with crossed := s.host.crossed ++ [(k, m)] } }

/-- RECORD_ARRIVAL (R116, R293): a mailbox record reaches its destination router; one for another module crosses its bond
port (R366). At spot: the packet's place in flight. -/
def execRecordArrival (s : State) : Host.Outcome State Fault Refusal :=
  match s.front s.spot.place with
  | some p =>
    let s1 := s.taken s.spot.place
    match p.load, p.dst with
    | .msg m tagged, .core pid =>
      if isReservedKind m.kind then .next (s1.countError (pid / 8))
      else if !isRecordKind m.kind then .next s
      else if s.portRefuses p.src pid (m.task == 0) then .next (s1.refuseRecord p m tagged .homeFenced)
      else if !s.portRuns pid then .next s
      else
        -- What the core writes to its stubs later in this ac would come too late for this request (R296).
        let s2 := if m.kind = MsgKind.run.num then s1.performed (.tcm pid) false else s1
        match s.stubMatch pid m with
        | some i =>
          if fld m.sel 9 2 = 3 ∧ !s.mayDivert pid then .next s else .next (s2.forward pid p m tagged i)
        | none =>
          if s.recordWaits pid m then .next s
          else
            match s2.placeFor pid m with
            | some t => .next (t.answer p m tagged 0)
            | none => .next (s2.refuseRecord p m tagged .overflowExhausted)
    | .msg m tagged, .home (.pod k) =>
      if isRecordKind m.kind then
        if s.homeDark (.pod k) then .next (s1.refuseRecord p m tagged .homeFenced)
        else if !s.homeRuns (.pod k) then .next s
        else .next (s1.cross k m)
      else .next s
    | _, _ => .next s
  | none => .next s

/-! ### REPLYs (R70, R71, R80, R335) -/

/-- The gather unit after a REPLY to one of its own tags (R278, R279): the kernel's register is written, or refused. -/
def Gather.takeReply (g : Gather) (m : Msg) : Gather :=
  match Tab.look g.tags (fld m.sel 0 9) with
  | none => g
  | some t =>
    { g with
      tags := Tab.remove g.tags (fld m.sel 0 9)
      ctx :=
        if t.stale then g.ctx
        else match statusCode (fld m.sel 9 3) with
        | none => g.ctx.arrive t.reg (m.word 0)
        | some c => g.ctx.refuse t.reg t.va { code := c, kind := .load } }

/-- The core after a REPLY of one of its tags has been spilled (R335): what SYSDRN waits for has ended (R323). -/
def Core.unsnap (c : Core) (m : Msg) : Core :=
  { c with tags := c.tags.map fun e => (e.1, if e.1 = fld m.sel 0 9 then { e.2 with snap := false } else e.2) }

/-- REPLY_ARRIVAL (R70, R71, R80): a REPLY reaches its core, and the context that its core has held (R337), or its gather unit, or crosses to another module (R366); for a core that is SAVED it is spilled
(R335), and at a fenced core it is lost (R340). At spot: the packet's place in flight. -/
def execReplyArrival (s : State) : Host.Outcome State Fault Refusal :=
  match s.front s.spot.place with
  | some p =>
    let s1 := s.taken s.spot.place
    match p.load, p.dst with
    | .msg m _, .core at_ =>
      let pid := s.holder at_
      if m.kind ≠ MsgKind.reply.num then .next s
      else if (s.core at_).fenced then .next s1
      else if !s.portRuns at_ || !s.portRuns pid then .next s
      else if s.savedNow pid then
        match s1.appendRing pid (s.entryPasid pid) (s.entryAddr pid 5) m [0] with
        | some t => .next (t.onCore pid fun c => c.unsnap m)
        | none => .next s
      else .next ((s1.endCheck pid m).onCore pid fun c => c.takeReply (s.coreAc pid) m)
    | .msg m _, .gather pid =>
      if m.kind ≠ MsgKind.reply.num then .next s
      else if (s.core pid).fenced then .next s1
      else if !s.portRuns pid then .next s
      else .next (s1.onCore pid fun c => { c with gk := c.gk.takeReply m })
    | .msg m _, .home (.pod k) =>
      if m.kind ≠ MsgKind.reply.num || s.homeDark (.pod k) || !s.homeRuns (.pod k) then .next s else .next (s1.cross k m)
    | _, _ => .next s
  | none => .next s

/-! ### Fault records and returned migrations (R329, R331) -/

namespace State

/-- A FAULT record sent on to Flatar, handler 0 of the region's service core 0 (R329). -/
def passToFlatar (s : State) (pid : Nat) (m : Msg) : State :=
  let r := pid / 512
  let rw := (m.rw &&& ~~~0x0000FFFF00000000#64) ||| Word.ofNat (serviceRank r * 2 ^ 32)
  s.inject (.core pid) (.core (r * 512 + 504)) m.tc (.msg { m with rw := rw, sel := m.sel &&& ~~~0xFF#64 } false)

end State

/-- FAULT_ARRIVAL (R329): a FAULT record enters the fault inbox, waits for room in it, is sent on to Flatar, or crosses to another
module (R366), whose port it waits for, since it is never refused. At spot: the packet's place in flight. -/
def execFaultArrival (s : State) : Host.Outcome State Fault Refusal :=
  match s.front s.spot.place with
  | some p =>
    match p.load, p.dst with
    | .msg m _, .core pid =>
      if m.kind ≠ MsgKind.fault.num then .next s
      else if !s.portRuns pid then .next s
      else if !isService pid &&
          (s.entryState pid == 0 || m.task != s.entryTask pid || s.handlerEmpty pid (fld m.sel 0 8)) then
        .next ((s.taken s.spot.place).passToFlatar pid m)
      else if (s.core pid).inbox.length < 16 then
        .next ((s.taken s.spot.place).onCore pid fun c =>
          { c with inbox := c.inbox ++ [{ msg := m, back := none, ac := s.coreAc pid }] })
      else .next s
    | .msg m _, .home (.pod k) =>
      if m.kind ≠ MsgKind.fault.num || s.homeDark (.pod k) || !s.homeRuns (.pod k) then .next s
      else .next ((s.taken s.spot.place).cross k m)
    | _, _ => .next s
  | none => .next s

/-- MIGRATE_RETURN (R331): a refused MIGRATE comes back into its source's fault inbox with its code, or crosses to the module that
it came from (R366). At spot: the packet's place in flight. -/
def execMigrateReturn (s : State) : Host.Outcome State Fault Refusal :=
  match s.front s.spot.place with
  | some p =>
    match p.load, p.dst with
    | .returned m code, .core pid =>
      if s.portRuns pid && decide ((s.core pid).inbox.length < 16) then
        .next ((s.taken s.spot.place).onCore pid fun c =>
          { c with inbox := c.inbox ++ [{ msg := m, back := some code, ac := s.coreAc pid }] })
      else .next s
    | .returned m code, .home (.pod k) =>
      if s.homeDark (.pod k) || !s.homeRuns (.pod k) then .next s
      else
        let t := s.taken s.spot.place
        .next { t with host := { t.host with returned := t.host.returned ++ [(k, m, code)] } }
    | _, _ => .next s
  | none => .next s

namespace State

/-- The oldest inbox record delivered into a slot (R329, R331): a FAULT starts its handler with priority 3; a returned
MIGRATE is reborn frozen, and its fault record is raised. A record of another task than the core now holds starts nothing here
(R123): a FAULT goes on to Flatar (R329), a MIGRATE where R116 puts a record of its task. -/
def deliverInbox (s : State) (pid n : Nat) (r : Inboxed) : State :=
  let s1 := s.onCore pid fun c => { c with inbox := c.inbox.tail, delivAt := some (s.coreAc pid) }
  let g : Vector Word 8 := Vector.ofFn fun i => r.msg.data.getD i.val 0
  match r.back with
  | none =>
    if (s.handlerEmpty pid (fld r.msg.sel 0 8) || r.msg.task != s.entryTask pid) && !isService pid then
      s1.passToFlatar pid r.msg
    else s1.born pid n (Word.ofNat (s.handlerAddr pid (fld r.msg.sel 0 8))) g 3 r.msg.ecls
  | some code =>
    if r.msg.task != s.entryTask pid then (s1.placeByDirectory pid r.msg).getD s
    else
    let s2 := s1.born pid n ((r.msg.sel.setWidth 56).signExtend 64) g r.msg.prio r.msg.ecls
    let s3 := s2.onSlot pid n fun f => { f with frozen := true, sup := false }
    s3.sendFault pid n (s3.slot pid n)
      { code := code, kind := .migration, va := Word.ofNat r.msg.dest, under := 0, info := 0, owed := none }

end State

/-- FAULT_DELIVERY (R329, R331): ahead of every mailbox record, whatever ADMIT is. At spot: the core. -/
def execFaultDelivery (s : State) : Host.Outcome State Fault Refusal :=
  let pid := s.spot.place
  match (s.core pid).inbox, s.freeSlot pid with
  | r :: _, some n => .next (if s.mayDeliver pid && s.inboxReady pid then s.deliverInbox pid n r else s)
  | _, _ => .next s

end Sys2Proof.Machine
end

