-- ==== Sys2Proof/Machine/Engines.lean ====
section
/-!
DEFINITION. What the engines share: operations of fibres and their completions (R76, R107, R335), and registrations of
range locks at issue (R132, R162, R204).
-/

namespace Sys2Proof.Machine

/-! ### Operations and completions -/

namespace State

/-- An operation that the issuing fibre starts on an engine: its number, and rd pending (R76, R107, R132). -/
def startOp (s : State) (rd : Reg) (scopes : List Scope) (va : Word) : Nat × State :=
  let n := s.myCore.opNo
  (n, (s.onMyCore fun c =>
    { c with
      opNo := n + 1
      ops := c.ops ++ [{ no := n, slot := s.cur.slot, gen := s.me.gen, reg := rd, scopes := scopes, va := va, issuer := s.cur.core }] }).setPending
    rd .engine)

/-- The state without an operation of a core, whose context another core may have by now (R337). -/
def endOp (s : State) (pid no : Nat) : State :=
  s.onCore (s.holder pid) fun c => { c with ops := c.ops.filter fun o => o.no != no }

/-- The spill slot of an arrival that is no record (R335): TYPE 1. -/
def spillWrite (s : State) (pid slot : Nat) (gen : BitVec 8) (reg : Reg) (v : Word) : Option State :=
  s.appendRing pid (s.entryPasid pid) (s.entryAddr pid 5)
    { rw := Word.ofNat (slot + gen.toNat * 2 ^ 8 + reg.val * 2 ^ 16), sel := v, data := [] } [1]

/-- The task's spill queue has room for n entries. -/
def spillRoom (s : State) (pid : Nat) : Nat → Bool
  | 0 => true
  | n + 1 =>
    match s.spillWrite pid 0 0 0 0 with
    | some t => t.spillRoom pid n
    | none => false

/-- n completions can be taken by a core's context now: its cluster runs, and where the context is SAVED, the spill queue has room
for them (R335). -/
def takesCompletions (s : State) (pid n : Nat) : Bool :=
  s.portRuns pid && s.portRuns (s.holder pid) && (!s.savedNow (s.holder pid) || s.spillRoom (s.holder pid) n)

/-- A completion can be taken by its core now. -/
def takesCompletion (s : State) (pid : Nat) : Bool := s.takesCompletions pid 1

/-- A completion writes its token register and clears its mark (R107), at the core that holds the context now (R337): for one that
is SAVED it is spilled, or waits at the port where the spill queue is full (R335), at a fenced core it is discarded (R340). -/
def complete (s : State) (at_ slot : Nat) (gen : BitVec 8) (reg : Reg) (src : PSrc) (v : Word) : State :=
  let pid := s.holder at_
  if (s.core pid).fenced then s
  else if s.savedNow pid then
    (s.spillWrite pid slot gen reg v).getD
      (s.onCore pid fun c => { c with owedWords := c.owedWords ++ [(slot, gen, reg, v)] })
  else
    s.onCore pid fun c =>
      c.onFibre (s.coreAc pid) slot gen fun f => if f.mark[reg] == some src then f.arrive reg v else f

/-- The first completion that waits at the port spilled, where the spill queue has room for it (R335). -/
def spillOwed (s : State) (pid : Nat) : Option State :=
  match (s.core pid).owedWords with
  | [] => none
  | (slot, gen, reg, v) :: l =>
    if s.savedNow pid && s.portRuns pid then
      (s.spillWrite pid slot gen reg v).map fun t => t.onCore pid fun c => { c with owedWords := l }
    else none

/-- A completion that leaves its token register refused (R70, R132, R220). -/
def completeRefused (s : State) (at_ slot : Nat) (gen : BitVec 8) (reg : Reg) (va : Word) (code : FaultCode) : State :=
  let pid := s.holder at_
  if (s.core pid).fenced then s
  else
    s.onCore pid fun c =>
      c.onFibre (s.coreAc pid) slot gen fun f =>
        if f.mark[reg] == some .engine then f.refuse reg va { code := code, kind := .engine } else f

end State

/-! ### Faults of a gather unit (R279) -/

/-- The context of a gather unit between runs: what it has of the arming fibre (log 35). -/
def Gather.rest (g : Gather) : Slot :=
  { Slot.free with sup := g.ctx.sup, fw := g.ctx.fw, ecls := g.ctx.ecls, prio := g.ctx.prio, eff := g.ctx.prio }

/-- A gather unit whose run is abandoned: what its kernel's loads still bring is dropped (R279, R317, R334). -/
def Gather.abandon (g : Gather) : Gather :=
  { g with ctx := g.rest, tags := g.tags.map fun t => (t.1, { t.2 with stale := true }) }

namespace State

/-- The completion word of an arming (R278, R280). -/
def gatherWord (g : Gather) (stopped : Bool) : Word :=
  Word.ofNat (g.runs + 2 ^ 31 + (if stopped then 2 ^ 32 else 0))

/-- An arming ends, by its last run or by GK.STOP (R278, R280): the unit is IDLE, the arming register receives its word, and
what GK.STOP waits with the runs. -/
def endGather (s : State) (pid : Nat) (stopped : Bool) : State :=
  let g := (s.core pid).gk
  let s1 := s.onCore pid fun c =>
    { c with gk := { c.gk.abandon with mode := .idle, line := none, waits := [], fault := none, stop := [] } }
  g.stop.foldl (fun u e => u.complete pid e.1 e.2.1 e.2.2 .gather (Word.ofNat g.runs))
    (s1.complete pid g.slot g.gen g.reg .gather (gatherWord g stopped))

/-- The kernel of a core's gather unit meets a fault (R279): the run is abandoned, and the unit is FAULTED; where it is
STOPPING, the run is dropped and the arming ends (R280). The arming fibre,
where it waits on the arming register, finds the fault at its next attempt; where it has ended, the fault goes to the
task's fault handler. -/
def gatherFaulted (s : State) (pid : Nat) (code : FaultCode) (va : Word) (offset : Nat) : State :=
  let g := (s.core pid).gk
  let f := s.slot pid g.slot
  let s1 := s.onCore pid fun c =>
    { c with gk := { c.gk.abandon with mode := .faulted, fault := some { code := code, va := va, offset := offset } } }
  if g.mode = .stopping then s.endGather pid true
  else if f.live && f.gen == g.gen then
    s1.onSlot pid g.slot fun f =>
      match f.hold with
      | some (.regs _) => { f with hold := none }
      | _ => f
  else s1.sendUnheld pid (gatherTrapOf { code := code, va := va, offset := offset } g.line)

end State

/-! ### Range locks at issue -/

/-- The first and last physical byte of n bytes from va through translated pages (log 24). -/
def Pages.span (ps : Pages) (va : Word) (n : Nat) : Nat × Nat :=
  let a := ps.phys va
  let b := ps.phys (va + Word.ofNat (n - 1))
  ps.foldl
    (fun r p =>
      let lo := if p.1 = va.toNat / 2 ^ 16 then a else p.2 * 2 ^ 16
      let hi := if p.1 = (va + Word.ofNat (n - 1)).toNat / 2 ^ 16 then b else p.2 * 2 ^ 16 + 0xFFFF
      (min r.1 lo, max r.2 hi)) (a, b)

/-- The memory range of a vector source. -/
def VecSource.span : VecSource → Option (Nat × Nat)
  | .memory ps va n => some (ps.span va n)
  | _ => none

/-- An SMX whose MODE is FINISH, which writes its rs1 operand (R273). -/
def VecOp.finishes (o : VecOp) : Bool := o.major == 0x28 && o.desc.toNat % 4 == 2

/-- The runs of memory that an operation reads of its second source: of an SMX SCORE the value rows, without what lies between them
(R273). -/
def VecOp.secondRuns (o : VecOp) : List (Nat × Nat) :=
  match o.b with
  | .memory ps va n =>
    if o.major = 0x28 then
      let d := o.desc.toNat
      (List.range (d / 2 ^ 24 % 2 ^ 7)).flatMap fun j =>
        (ps.pieces 3 (va + Word.ofNat (j * (d / 2 ^ 32 % 2 ^ 32))) (d / 2 ^ 8 % 2 ^ 9 * (if d / 2 ^ 20 % 16 = 0 then 4 else 2))).map
          fun x => (x.1, x.1 + x.2 - 1)
    else [ps.span va n]
  | _ => []

/-- Whether a lock would block an access of a vector instruction or an SMX (R162, R204, R273). -/
def VecOp.blockedBy (o : VecOp) (l : Lock) : Bool :=
  let hit (r : Nat × Nat) : Bool := overlaps r.1 r.2 l.first l.last
  hit (o.pages.span o.va o.bytes) || (o.finishes && o.a.span.any hit) ||
    (l.full && (o.a.span.any hit || o.secondRuns.any hit))

namespace State

/-- The vector instructions and SMX of a cluster that have issued and not completed (R204). -/
def vectorOps (s : State) (cid : Nat) : List VecOp :=
  let c := s.cluster cid
  ((List.range 8).flatMap fun k => (s.core (cid * 8 + k)).vq ++ (s.core (cid * 8 + k)).sq) ++
    ([c.vec0.run, c.vec1.run, c.exp.run].filterMap fun r => r.map VecRun.op)

/-- A registration at a cluster's table waits for a vector instruction whose accesses it would block (R204). -/
def vectorDefers (s : State) (t : Option LockTable) (l : Lock) : Bool :=
  match t with
  | some (.cluster c) => (s.vectorOps c).any fun o => o.blockedBy l
  | _ => false

/-- A lock registered at issue in the local table (R132, R216, R270): a conflict traps RANGE_LOCKED, a full table or a
vector instruction holds the fibre. -/
def registerAtIssue (s : State) (t : Option LockTable) (l : Lock) (va : Word) : Except Stop State :=
  if s.vectorDefers t l then .error (.hold .lockTable)
  else
    match s.addLock t l with
    | .added u => .ok u
    | .conflict => trapAt .rangeLocked .engine va
    | .full => .error (.hold .lockTable)

/-- The entries that a table has free (R161). -/
def freeLocks (s : State) (t : Option LockTable) : Nat :=
  match t with
  | none => 64
  | some t => 64 - (s.lockEntries t).length

end State

end Sys2Proof.Machine
end

