-- ==== Sys2Proof/Machine/Barrier.lean ====
section
/-!
DEFINITION. Barriers: the instructions (R125 to R130), the networks (R168 to R172, R183) and their signals.
-/

namespace Sys2Proof.Machine

/-- The number of a level (R37). -/
def levelNum : Level → Nat
  | .core => 0 | .quad => 1 | .cluster => 2 | .region => 3 | .wafer => 4

/-- The level of a number from 1 to 4. -/
def levelOf (n : Nat) : Level :=
  match n with
  | 1 => .quad | 2 => .cluster | 3 => .region | _ => .wafer

/-- Bit L - 1 of a field that has one bit for each level from 1 to 4. -/
def levelBit (b : BitVec 4) (l : Nat) : Bool := b.getLsbD (l - 1)

/-- The field with bit L - 1 set or cleared. -/
def setLevelBit (b : BitVec 4) (l : Nat) (v : Bool) : BitVec 4 :=
  if v then b ||| (1#4 <<< (l - 1)) else b &&& ~~~(1#4 <<< (l - 1))

/-! ### The wafer tree (R171) -/

namespace State

/-- BARCFG of a region (R171). -/
def barcfg (s : State) (r : Nat) : Word := s.ctl (controlBase r + 0x600) 0

/-- The parent of a region's segment: the region that PARENT names. -/
def parentRegion (s : State) (r : Nat) : Option Nat :=
  let p := fld (s.barcfg r) 0 3
  if p = 0 ∨ 4 < p then none else neighbour r (p - 1)

/-- The regions that the CHILD bits of a region's segment name, each with whether it stands in the region's partition (R171). -/
def childBits (s : State) (r : Nat) : List (Option Nat) :=
  (List.range 4).filterMap fun d =>
    if flag (s.barcfg r) (8 + d) then
      some ((neighbour r d).filter fun q => (s.region r).mask.getLsbD q)
    else none

/-- A segment's output reaches no keystone (R171): a CHILD bit is set toward a region outside the partition, or PARENT while KEY
is 1. -/
def strayed (s : State) (r : Nat) : Bool :=
  (s.childBits r).contains none || (flag (s.barcfg r) 7 && fld (s.barcfg r) 0 3 != 0)

/-- The segment of region r is an input of its parent's: CHILD of the parent names it (R171, R172). -/
def isChild (s : State) (r : Nat) : Bool :=
  match s.parentRegion r with
  | some p => flag (s.barcfg p) (8 + (fld (s.barcfg r) 0 3 + 1) % 4)
  | none => false

/-- The parent to whose segment a segment's output is presented, if there is one. -/
def upward (s : State) (r : Nat) : Option Nat :=
  if s.strayed r || !s.isChild r then none else s.parentRegion r

/-- The children whose output is presented to a segment (R171): those that CHILD names and that name it as their parent. -/
def downward (s : State) (r : Nat) : List Nat :=
  (s.childBits r).filterMap fun q => q.filter fun q => s.parentRegion q == some r && !s.darkRouter (q * 64)

/-- The segment of a region is its tree's keystone (R171). -/
def isKeystone (s : State) (r : Nat) : Bool := flag (s.barcfg r) 7 && !s.strayed r

/-- The keystone that a region's output reaches; none where it reaches none (R171). A dark region passes nothing on: its segment
holds its output (R172). -/
def keystone (s : State) : Nat → Nat → Option Nat
  | 0, _ => none
  | n + 1, r =>
    if s.darkRouter (r * 64) then none
    else if s.isKeystone r then some r
    else
      match s.upward r with
      | some p => s.keystone n p
      | none => none

/-- The keystone of a region's tree. -/
def rootOf (s : State) (r : Nat) : Option Nat := s.keystone 63 r

/-- Two cores belong to one unit of a level (R93, R125). -/
def sameUnit (s : State) (l p q : Nat) : Bool :=
  match l with
  | 1 => p / 4 == q / 4
  | 2 => p / 8 == q / 8
  | 3 => p / 512 == q / 512
  | _ =>
    match s.rootOf (p / 512), s.rootOf (q / 512) with
    | some a, some b => a == b
    | _, _ => false

/-- The barrier delay c of a core's band (R170). -/
def bandDelay (s : State) (pid : Nat) : Nat :=
  match (s.cluster (pid / 8)).fwd.cls with
  | 0 => 0 | 1 => 1 | 2 => 2 | _ => 4

end State

/-- Whether a signal is a release on its way to a core. -/
def BarKind.isRelease : BarKind → Bool
  | .release _ => true
  | _ => false

namespace State

/-! ### Signals (R168 to R170, R183) -/

/-- The moment at which a unit's ac count reaches a value; none while its clock does not run. -/
def unitMoment (s : State) (unit ac : Nat) : Option Nat :=
  let c := (s.region (unit / 64)).clock
  if unit % 64 = 63 then c.momentOf ac
  else if (s.cluster unit).heldAt.isSome then none
  else c.momentOf (ac + (s.cluster unit).lostAc)

/-- A signal that begins the first of its parts now. The band is added as it stands now (R170); at the node of a held cluster
the signal is kept, and goes on in the ac after the hold (R183). -/
def beginLeg (s : State) (b : BarSignal) : BarSignal :=
  match b.legs with
  | [] => b
  | g :: _ =>
    { b with
      until_ :=
        s.clusterAc g.unit +
          (if g.node && (s.cluster g.unit).fwd.hold then 1
           else g.acs + if g.band then s.bandDelay b.core else 0) }

end State

/-- The parts of the path from a core to the root of a level, or to its segment's root at level 4 (R168). -/
def upLegs (pid l : Nat) : List Leg :=
  let node (n : Nat) : Leg := { unit := pid / 8, acs := n, band := false, node := false }
  match l with
  | 1 => [node 2]
  | 2 => [node 4]
  | _ => [node 4, { unit := pid / 512 * 64 + 63, acs := 16, band := true, node := false }]

/-- The parts of the path from the root of a level, or from a segment's root at level 4, to a core (R168). -/
def downLegs (pid l : Nat) : List Leg :=
  let node (n : Nat) (b : Bool) : Leg := { unit := pid / 8, acs := n, band := b, node := true }
  match l with
  | 1 => [node 2 false]
  | 2 => [node 4 false]
  | _ => [{ unit := pid / 512 * 64 + 63, acs := 16, band := false, node := false }, node 4 true]

/-- A part of a path in a region's service strip. -/
def stripLeg (r n : Nat) : Leg := { unit := r * 64 + 63, acs := n, band := false, node := false }

/-- The mark of a signal that has passed the combine stages of its keystone: no region. -/
def combined : Nat := 64

namespace State

/-- A signal sent into the networks. -/
def sendSignal (s : State) (b : BarSignal) : State := { s with bars := s.bars ++ [s.beginLeg b] }

/-- A core's signal sent to the root of a level (R168). -/
def signal (s : State) (pid l : Nat) (k : BarKind) : State :=
  s.sendSignal
    { core := pid, level := l, kind := k, legs := upLegs pid l, until_ := 0, seg := pid / 512, prev := pid / 512, due := false }

/-- A release sent to a core (R168). -/
def sendRelease (s : State) (pid l : Nat) (status : Word) : State :=
  s.sendSignal
    { core := pid, level := l, kind := .release status, legs := downLegs pid l, until_ := 0, seg := pid / 512,
      prev := pid / 512, due := false }

/-- A signal whose parts are over, at a segment (R168, R171): at its root or core it is due; at the keystone it passes the
combine stages, 16 ac; elsewhere it crosses to the parent, 5 ac of the region entered, or waits in its segment. -/
def atSegment (s : State) (b : BarSignal) : BarSignal :=
  if b.level ≠ 4 || b.kind.isRelease || b.prev == combined then { b with due := true }
  else if s.isKeystone b.seg then s.beginLeg { b with legs := [stripLeg b.seg 16], prev := combined }
  else
    match s.upward b.seg with
    | some p =>
      if s.darkRouter (p * 64) then b else s.beginLeg { b with legs := [stripLeg p 5], prev := b.seg, seg := p }
    | none => b

/-- The listed cores of a region that are inputs of barriers; those that are not listed are as after reset, excused. -/
def regionCores (s : State) (r : Nat) : List Nat :=
  (s.cores.map Prod.fst).filter fun q => !isService q && q / 512 == r

/-- What a level-4 release becomes at a segment (R168, R172): releases to the region's cores, and itself to the children that the
tree in force gives the segment. -/
def spread (s : State) (b : BarSignal) (status : Word) (chg : List Nat) : List BarSignal :=
  ((s.regionCores b.seg).map fun q =>
    s.beginLeg
      { b with
        core := q
        kind := .release (status ||| (if chg.contains q then 0x100#64 else 0#64))
        legs := downLegs q 4 }) ++
    (s.downward b.seg).map fun q => s.beginLeg { b with legs := [stripLeg q 5], prev := b.seg, seg := q }

/-- What a signal is after the present moment: the part that has ended gives way to the next. -/
def advanced (s : State) (b : BarSignal) : List BarSignal :=
  match b.legs with
  | [] => [b]
  | g :: rest =>
    if s.clusterAc g.unit < b.until_ then [b]
    else if rest ≠ [] then [s.beginLeg { b with legs := rest }]
    else
      match b.kind with
      | .wave status chg => s.spread { b with legs := [] } status chg
      | _ => [s.atSegment { b with legs := [] }]

/-- The state with the networks' signals as of the present moment. -/
def advanceBars (s : State) : State := { s with bars := s.bars.flatMap s.advanced }

/-- The next moments at which a part of a signal's path ends. -/
def barMoments (s : State) : List Nat :=
  s.bars.filterMap fun b => b.legs.head?.bind fun g => s.unitMoment g.unit b.until_

/-! ### Release (R125, R129, R130, R141) -/

/-- A core's input as the root sees it (R125): an untouched core is excused. -/
def inputSeen (s : State) (pid l : Nat) : Bool :=
  let c := s.core pid
  s.coreDead pid || levelBit c.seenFence l || levelBit c.seenExc l || levelBit c.seenArv l

/-- The listed cores of the unit of a core whose inputs count by themselves: those of a dark region count by its segment's
output (R172). -/
def unitCores (s : State) (pid l : Nat) : List Nat :=
  (s.cores.map Prod.fst).filter fun q => !isService q && s.sameUnit l pid q && !(l == 4 && s.darkRouter (q / 8))

/-- The inputs that a segment's CHILD bits name are there (R171, R172): a dark region's last output, or a child's that is
presented here, whose own inputs count beside. -/
def childrenIn (s : State) (r : Nat) : Bool :=
  (s.childBits r).all fun q =>
    match q with
    | some q => if s.darkRouter (q * 64) then (s.region q).segment else s.parentRegion q == some r && !s.strayed q
    | none => false

/-- Whether every input of a core's unit is 1. -/
def unitComplete (s : State) (pid l : Nat) : Bool :=
  ((s.unitCores pid l).all fun q => s.inputSeen q l) &&
    (l != 4 ||
      (match s.rootOf (pid / 512) with
       | some k => (List.range 63).all fun r => s.rootOf r != some k || s.childrenIn r
       | none => false))

/-- A region's segment output at level 4: its own cores' inputs and its children's, each as it is seen there, with at most n
regions down. -/
def segmentOutput (s : State) (seen : Nat → Bool) : Nat → Nat → Bool
  | 0, _ => true
  | n + 1, r => (s.regionCores r).all seen && s.childrenIn r && (s.downward r).all (s.segmentOutput seen n)

/-- A segment's output passes the segment of region r on its way to the keystone, at most n steps on. -/
def leadsTo (s : State) : Nat → Nat → Nat → Bool
  | 0, _, _ => false
  | n + 1, q, r => q == r || (match s.upward q with | some p => s.leadsTo n p r | none => false)

/-- A core's level-4 signal has reached the segment of region r and counts in its output (R168, R172). -/
def passedAt (s : State) (r : Nat) (b : BarSignal) : Bool :=
  b.level == 4 && !b.kind.isRelease &&
    (if b.seg = r then
       (match b.legs with
        | [] => true
        | [g] => !g.band && (b.prev == r || b.prev == combined)
        | _ => false)
     else !s.leadsTo 63 b.seg r)

/-- A core's level-4 input as the segment of region r sees it: as the root has seen it, and what has passed the segment since. -/
def inputAt (s : State) (r q : Nat) : Bool :=
  let c := s.core q
  let now := (s.bars.filter fun b => b.core == q && s.passedAt r b).foldl
    (fun (x : Bool × Bool × Bool) b =>
      match b.kind with
      | .arrive => (true, x.2.1, x.2.2)
      | .excuse v => (x.1, v, x.2.2)
      | .fence v => (x.1, x.2.1, v)
      | _ => x)
    (levelBit c.seenArv 4, levelBit c.seenExc 4, levelBit c.seenFence 4)
  s.coreDead q || now.1 || now.2.1 || now.2.2

/-- The output that a segment holds when its region goes dark (R172), and the same as the root has seen it. -/
def lastOutput (s : State) (r : Nat) : Bool := s.segmentOutput (s.inputAt r) 63 r

/-- A segment's output as the root has seen it. -/
def outputSeen (s : State) (r : Nat) : Bool := s.segmentOutput (fun q => s.inputSeen q 4) 63 r

/-- The root decides (R125, R168): when every input is 1 and some arrival is latched, the release goes out to the unit, and the
arrivals seen are cleared. CHG is as the root has seen the changes (R129, R141). -/
def decide_ (s : State) (pid l : Nat) : State :=
  let cores := s.unitCores pid l
  if s.unitComplete pid l && cores.any fun q => levelBit (s.core q).seenArv l then
    let root := if l = 4 then (s.rootOf (pid / 512)).getD (pid / 512) else pid / 512
    let status := Word.ofNat (fld (s.time root) 0 32 * 2 ^ 32 + 2 ^ 4 + l)
    let changed := cores.filter fun q => levelBit (s.core q).chg l && levelBit (s.core q).seenArv l
    let t := cores.foldl
      (fun u q => u.onCore q fun c =>
        { c with chg := setLevelBit c.chg l false, seenArv := setLevelBit c.seenArv l false }) s
    if l = 4 then
      t.sendSignal
        { core := pid, level := 4, kind := .wave status changed, legs := [stripLeg root 16], until_ := 0, seg := root,
          prev := root, due := false }
    else
      cores.foldl
        (fun u q => u.sendRelease q l (status ||| (if changed.contains q then 0x100#64 else 0#64))) t
  else s

/-- A change of an input by excuse, rejoin or fence marks the cores of the unit whose arrivals the root has seen (R129). -/
def markChange (s : State) (pid l : Nat) : State :=
  (s.unitCores pid l).foldl
    (fun u q => if levelBit (u.core q).seenArv l then u.onCore q fun c => { c with chg := setLevelBit c.chg l true } else u)
    s

/-- A signal as its root takes it. -/
def atRoot (s : State) (b : BarSignal) : State :=
  let set (v : Bool) (get : Core → BitVec 4) (put : Core → BitVec 4 → Core) : State :=
    if levelBit (get (s.core b.core)) b.level = v then s
    else (s.onCore b.core fun c => put c (setLevelBit (get c) b.level v)).markChange b.core b.level
  match b.kind with
  | .arrive =>
    (s.onCore b.core fun c =>
      { c with seenArv := setLevelBit c.seenArv b.level true, chg := setLevelBit c.chg b.level false }).decide_ b.core b.level
  | .excuse v => (set v Core.seenExc fun c x => { c with seenExc := x }).decide_ b.core b.level
  | .fence v => (set v Core.seenFence fun c x => { c with seenFence := x }).decide_ b.core b.level
  | .recheck => s.decide_ b.core 4
  | .output r v => (s.onRegion r fun x => { x with segment := v }).decide_ b.core 4
  | .wave _ _ | .release _ => s

/-- Of two signals that have reached one root, the first is taken before the other (R141): it came in an earlier ac, or in the
same ac as an arrival before a change. -/
def takenBefore (s : State) (a b : BarSignal) : Bool :=
  a.due && a.level == b.level && !a.kind.isRelease && s.sameUnit b.level a.core b.core &&
    (decide (a.until_ < b.until_) || (a.until_ == b.until_ && a.kind == .arrive && b.kind != .arrive))

end State

/-- BARRIER_INPUT_AT_ROOT (R141, R168): an arrival or a change that has reached its root is taken, in the order of R141. At
spot: the signal's place in the networks. -/
def execBarrierInputAtRoot (s : State) : Host.Outcome State Fault Refusal :=
  match s.bars[s.spot.place]? with
  | some b =>
    if !b.kind.isRelease && b.due && !s.bars.any fun e => s.takenBefore e b then
      .next (({ s with bars := s.bars.eraseIdx s.spot.place }).atRoot b)
    else .next s
  | none => .next s

namespace State

/-- A release written at a core (R129): the status word into each register pending on the level, and the latched arrival
cleared; the arrival is used up by it, be it still on its way or already at the root (R130). -/
def releaseAt (s : State) (pid l : Nat) (status : Word) : State :=
  let s1 := s.onCore pid fun c =>
    { c with
      arv := setLevelBit c.arv l false
      seenArv := setLevelBit c.seenArv l false
      slots := c.slots.map fun e =>
        (e.1, (List.finRange 8).foldl
          (fun f r => if f.mark[r] == some (.barrier (levelOf l)) then (f.arrive r status).wake (s.coreAc pid) else f) e.2) }
  { s1 with bars := s1.bars.filter fun b => !(b.core == pid && b.level == l && b.kind == .arrive) }

end State

/-- BARRIER_RELEASE (R129, R130): a release has reached its core; for a core that is SAVED it is kept. At spot: the signal's
place in the networks. -/
def execBarrierRelease (s : State) : Host.Outcome State Fault Refusal :=
  match s.bars[s.spot.place]? with
  | some b =>
    match b.kind with
    | .release status =>
      if b.due then
        let s1 := { s with bars := s.bars.eraseIdx s.spot.place }
        if !levelBit (s.core b.core).arv b.level then .next s1
        else if s.savedNow b.core then
          .next (s1.onCore b.core fun c => { c with kept := c.kept ++ [(levelOf b.level, status)] })
        else .next (s1.releaseAt b.core b.level status)
      else .next s
    | _ => .next s
  | none => .next s

/-! ### The instructions (R128, R129, R130) -/

namespace State

/-- Release0 of R129: every level-0 waiter of a core is written in the next ac. -/
def release0 (s : State) (pid : Nat) : State :=
  let status := Word.ofNat (fld (s.time (pid / 512)) 0 32 * 2 ^ 32 + 2 ^ 4)
  s.onCore pid fun c =>
    { c with
      slots := c.slots.map fun e =>
        (e.1, (List.finRange 8).foldl
          (fun f r =>
            if f.mark[r] == some (.barrier .core) then (f.arrive r status).wake (s.coreAc pid + 1) else f) e.2) }

/-- GRANT of a level (R127): PRIVILEGE at execution where it is 0. -/
def granted (s : State) (l : Level) : Except Stop Unit :=
  require (l == .core || levelBit s.myCore.grant (levelNum l)) .privilege .instruction 0

/-- The common effect of BAR.ARV and BAR.WT (R129). -/
def arriveAt (s : State) (rd a : Reg) (l : Level) : Except Stop State := do
  s.granted l
  let n := levelNum l
  if l = .core then do
    let k := (s.reg a).toNat
    require (decide (1 ≤ k) && decide (k ≤ 256)) .illegal .instruction 0
    let s1 := s.setPending rd (.barrier .core)
    let left := if s.myCore.cnt0 = 0 then k - 1 else s.myCore.cnt0 - 1
    let s2 := s1.onMyCore fun c => { c with cnt0 := left }
    .ok (if left = 0 then s2.release0 s.cur.core else s2)
  else do
    waitUnless (!levelBit s.myCore.arv n) (.barrier l)
    let s1 := s.setPending rd (.barrier l)
    .ok ((s1.onMyCore fun c => { c with arv := setLevelBit c.arv n true }).signal s.cur.core n .arrive)

end State

/-- The registers of a barrier arrival: the count at level 0. -/
def barrierNeed (rd a : Reg) (l : Level) : Need := .plain (if l = .core then [a] else []) [rd]

/-- BAR.ARV (R129). -/
def execBarArv (rd a : Reg) (l : Level) (s : State) := s.issue (barrierNeed rd a l) fun t => t.arriveAt rd a l

/-- BAR.WT (R129): as BAR.ARV, and the fibre issues nothing more until rd is written. -/
def execBarWt (rd a : Reg) (l : Level) (s : State) :=
  s.issue (barrierNeed rd a l) fun t => do
    let u ← t.arriveAt rd a l
    .ok (if u.me.pending rd then u.onMe fun f => { f with hold := some (.regs (1#8 <<< rd.val)) } else u)

namespace State

/-- EXC of a core set or cleared at a level (R130): the change travels as an arrival does. -/
def excuse (s : State) (pid l : Nat) (v : Bool) : State :=
  (s.onCore pid fun c => { c with exc := setLevelBit c.exc l v }).signal pid l (.excuse v)

end State

/-- BAR.EXC (R130); level 0 is ILLEGAL at decode. -/
def execBarExc (l : Level) (s : State) :=
  s.issue { Need.plain [] [] with legal := l != .core } fun t => do
    t.granted l
    .ok (t.excuse t.cur.core (levelNum l) true)

/-- BAR.RJN (R130). -/
def execBarRjn (l : Level) (s : State) :=
  s.issue { Need.plain [] [] with legal := l != .core } fun t => do
    t.granted l
    .ok (t.excuse t.cur.core (levelNum l) false)

/-! ### BARCFG (R171, R172) -/

namespace State

/-- A signal on its way up that the tree in force no longer carries: it stands in its segment, whose output is presented to its
new parent in the next ac (R172). -/
def represent (s : State) (b : BarSignal) : BarSignal :=
  if b.level ≠ 4 || b.kind.isRelease || b.due then b
  else
    match b.kind with
    | .wave _ _ => b
    | _ =>
      if b.legs = [] then s.beginLeg { b with legs := [stripLeg b.seg 1] }
      else if b.prev = combined then
        (if s.isKeystone b.seg || b.kind == .recheck then b
         else s.beginLeg { b with legs := [stripLeg b.seg 1], prev := b.seg })
      else if b.prev = b.seg || s.upward b.prev == some b.seg then b
      else s.beginLeg { b with legs := [stripLeg b.prev 1], seg := b.prev }

/-- A write of BARCFG (R171): a reserved PARENT leaves that field. Outputs that the new tree carries elsewhere are presented there
in the next ac, and each keystone looks again (R172). -/
def writeBarcfg (s : State) (r : Nat) (v : Word) : State :=
  let old := s.barcfg r
  let w := fields (if fld v 0 3 ≤ 4 then 0xF87#64 else 0xF80#64) old v
  let s1 := s.setCtl (controlBase r + 0x600) w
  let s2 := { s1 with bars := s1.bars.map s1.represent }
  ((List.range 63).filter s2.isKeystone).foldl
    (fun u k =>
      u.sendSignal
        { core := k * 512, level := 4, kind := .recheck, legs := [stripLeg k 1], until_ := 0, seg := k, prev := combined,
          due := false }) s2

/-- The output that a segment holds, as the root comes to see it when the segment's region goes dark (R172): a value that is
still on its way goes on, in the place of the last of the region's signals that carry it, or to the segment's parent. -/
def holdOutput (s : State) (r : Nat) : State :=
  let v := s.lastOutput r
  let seen := s.outputSeen r
  if v = seen then s.onRegion r fun x => { x with segment := v }
  else
    let s1 := s.onRegion r fun x => { x with segment := seen }
    match (s.bars.filter fun b => s.passedAt r b && (b.core / 512 == r || s.leadsTo 63 (b.core / 512) r)).getLast? with
    | some b =>
      if b.seg ≠ r then { s1 with bars := s1.bars ++ [{ b with core := b.seg * 512, kind := .output r v }] }
      else
        match s.upward r with
        | some p =>
          s1.sendSignal
            { core := p * 512, level := 4, kind := .output r v, legs := [stripLeg p 5], until_ := 0, seg := p, prev := r,
              due := false }
        | none => s.onRegion r fun x => { x with segment := v }
    | none => s.onRegion r fun x => { x with segment := v }

/-- The networks when a region goes dark (R172): what stood in it is gone with it, its segment's output holds its last value,
and an output that was on its way through its segment is still presented by the segment before. A release that the root has
decided goes on wherever it stands outside the region. -/
def darkenBars (s : State) (r : Nat) : State :=
  let t := s.holdOutput r
  { t with
    bars := t.bars.filterMap fun b =>
      match b.kind with
      | .wave _ _ => if b.seg = r then none else some b
      | _ =>
        if b.core / 512 = r then none
        else if b.level = 4 && b.seg == r then
          (match b.kind with
           | .recheck | .output _ _ => none
           | _ =>
             let back := if b.prev = combined ∨ b.prev = r then b.core / 512 else b.prev
             some { b with legs := [], seg := back, prev := back, due := false })
        else some b }

end State

/-- BARCFG_WRITE (R171, R172). At spot: the region and the value. -/
def execBarcfgWrite (s : State) : Host.Outcome State Fault Refusal := .next (s.writeBarcfg s.spot.place s.spot.v0)

end Sys2Proof.Machine
end

