-- ==== Sys2Proof/Machine/Ready.lean ====
section
/-!
DEFINITION. Which fibres are ready (R104), the issue picker (R105) and the fetch of an instruction (R14, R104, R150).
-/

namespace Sys2Proof.Machine

namespace State

/-- Whether what keeps a fibre from issuing still stands (R104). -/
def stillHeld (s : State) (pid n : Nat) : Hold → Bool
  | .regs mask =>
    (List.finRange 8).any fun r => mask.getLsbD r.val && (s.slot pid n).pending r
  | .xreg xn => (Tab.look (s.core pid).xld xn).isSome
  | .icache pa =>
    if isService pid then !s.mayFill pid true pa else (Tab.look (s.cluster (pid / 8)).icache pa).isNone
  | .miss _ _ _ _ => true
  | .outbound => !s.accepts pid
  | .tags => (freeIndex (s.core pid).tags 512).isNone || s.tagsOf pid n (s.slot pid n).gen ≥ 32
  | .queueRead q o => ((s.core pid).q.toList.getD q []).isEmpty || readersBefore (s.core pid) q o
  | .queueWrite q o => ((s.core pid).q.toList.getD q []).length ≥ 16 || writersBefore (s.core pid) q o
  | .stream needs o =>
    needs.any fun n => ((s.core pid).q.toList.getD n.1 []).length < n.2 || readersBefore (s.core pid) n.1 o
  | .barrier l => levelBit (s.core pid).arv (levelNum l)
  | .hodLimit => decide (128 ≤ (s.core pid).hods.length)
  -- A full table; a vector instruction that is in the way (R204) is found at the next attempt.
  | .lockTable => decide (64 ≤ (s.cluster (pid / 8)).locks.length)
  | .engineQueue 0 => decide (8 ≤ (s.core pid).vq.length)
  | .engineQueue 1 => decide (4 ≤ (s.core pid).mq.length)
  | .engineQueue 2 => decide (4 ≤ (s.core pid).rq.length)
  | .engineQueue _ => decide (2 ≤ (s.core pid).sq.length)
  | .performing => true

/-- Whether a fibre is ready (R104), as far as what its next instruction waits for has been found. -/
def slotReady (s : State) (pid n : Nat) : Bool :=
  let f := s.slot pid n
  f.live && !f.frozen && f.settle.isNone && decide (f.readyAt ≤ s.coreAc pid) &&
    (match f.hold with
     | none => true
     | some h => !s.stillHeld pid n h)

/-- Whether a core may issue now: it runs, its clock runs, it is neither fenced nor dead, it has not issued in this ac, and
nothing that R154 puts after the accesses of its fibres has been performed in this ac (R4, R104, R105, R154, R340). -/
def mayIssue (s : State) (pid : Nat) : Bool :=
  s.acts pid && !s.coreDead pid && (s.core pid).last != some (s.coreAc pid) && !s.tooLate pid

/-- The ready slots of a core. -/
def readySlots (s : State) (pid : Nat) : List Nat :=
  ((s.core pid).slots.map Prod.fst).filter fun n => decide (n < 256) && s.slotReady pid n

end State

/-- The slot that comes first in slot order, searching cyclically from a pointer. -/
def firstFrom (ptr : Nat) : List Nat → Option Nat
  | [] => none
  | n :: ns =>
    match firstFrom ptr ns with
    | none => some n
    | some m => if (n + 256 - ptr) % 256 ≤ (m + 256 - ptr) % 256 then some n else some m

namespace State

/-- The picker's choice at one level (R105): among fibres without YLD, if there are any. -/
def pickAt (s : State) (pid lvl : Nat) (ready : List Nat) : Option Nat :=
  let c := ready.filter fun n => (s.slot pid n).eff.val == lvl
  let u := c.filter fun n => !(s.slot pid n).yld
  firstFrom ((s.core pid).ptr.toList.getD lvl 0) (if u.isEmpty then c else u)

/-- The picker's choice (R105): the slot and its level. -/
def pick (s : State) (pid : Nat) : Option (Nat × Nat) :=
  let ready := s.readySlots pid
  [3, 2, 1, 0].findSome? fun lvl => (s.pickAt pid lvl ready).map fun n => (n, lvl)

end State

/-- A passed-over fibre whose AGE has reached 512 (R105). -/
def Slot.promote (f : Slot) : Slot :=
  if f.age = 512 then { f with eff := (if f.eff.val < 3 then f.eff + 1 else f.eff), age := 0, yld := false } else f

/-- AGING_PROMOTION (R105): the effective priority of a fibre whose AGE is 512 rises. At spot: the core and the slot. -/
def execAgingPromotion (s : State) : Host.Outcome State Fault Refusal :=
  .next (if (s.slot s.spot.place s.spot.item).live then s.onSlot s.spot.place s.spot.item Slot.promote else s)

namespace State

/-- What the picker does beside issuing the fibre of a slot (R105). -/
def picked (s : State) (pid n lvl : Nat) : State :=
  let ready := s.readySlots pid
  s.onCore pid fun c =>
    { c with
      ptr := c.ptr.setIfInBounds lvl ((n + 1) % 256)
      slots := c.slots.map fun e =>
        if e.1 = n then (e.1, { e.2 with age := 0, eff := e.2.prio, yld := false })
        else if ready.contains e.1 then (e.1, Slot.promote { e.2 with age := e.2.age + 1 })
        else e }

/-- A parcel of code (R104, R150): from the cluster's instruction cache; a service core reads its home. An uncorrected error
faults the fetch when the line would be filled; a home that refuses does not, since a fetch has no such fault (R29, R47,
R325): the fill waits (log 14). -/
def fetchParcel (s : State) (pid : Nat) (f : Slot) (va : Word) : Except Stop (Parcel × State) := do
  let (pa, s1) ← s.translate pid f .fetch .fetch va
  let cached := if isService pid then none else Tab.look (s.cluster (pid / 8)).icache pa
  match cached with
  | some p => .ok (p, s1)
  | none =>
    if s.mayFill pid (ofFlatar pid f) pa then do
      require (!s.eccBad pa 2) .uncorrected .fetch va
      if isService pid then
        let v := s1.passed (((place pa).map fun h => s.readsWell h.1).getD true) 2 (Memory.value s.mem pa 2)
        .ok (BitVec.ofNat 16 v.1, v.2)
      else .error (.hold (.icache pa))
    else .error (.hold (.icache pa))

/-- The instruction at a fibre's PC (R14, R27): a PC that a transfer has set to an address that is not canonical faults (R57),
and an encoding that does not decode traps ILLEGAL. -/
def fetch (s : State) (pid n : Nat) : Except Stop (Instr × State) := do
  let f := s.slot pid n
  require (!f.far) .page .fetch f.pcWord
  let (p0, s1) ← s.fetchParcel pid f f.pcWord
  let parcels ←
    if p0.getLsbD 15 then do
      let (p1, s2) ← s1.fetchParcel pid f (f.pcWord + 2)
      .ok ([p0, p1], s2)
    else .ok ([p0], s1)
  match decodeParcels parcels.1 with
  | .ok (i, _) => .ok (i, parcels.2)
  | .error _ => trap .illegal .instruction

end State

end Sys2Proof.Machine
end

