-- ==== Sys2Proof/Machine/Place.lean ====
section
/-!
DEFINITION. How an instruction comes to stand where step fetches its next one: the load that Flatar's launch stands for
(R122, log 30).
-/

namespace Sys2Proof.Machine

/-- The first physical and virtual address of the code page that `placeWord` maps: the scratchpad of cluster 1 of region
0. -/
def codeBase : Nat := clusterBase 1

/-- The TLB entry that maps the 64 KiB page at codeBase to itself for PASID 0, readable, writable, executable, user. -/
def codeEntry : TlbEntry where
  tag := Word.ofNat (codeBase / 2 ^ 16 * 2 ^ 20)
  entry := Word.ofNat (codeBase / 2 ^ 16 * 2 ^ 16 + 0x1F)

namespace State

/-- The state with a 4-byte word placed at codeBase, in memory and in the instruction cache, as the next instruction of a
fibre in slot 0 of core 0 of cluster 1 of region 0, whose region is Assigned, whose cluster is out of hold and whose core
is RUNNING; the picker chooses it, and nothing of this ac comes before it. Registers and everything else keep what they
hold. -/
def placeWord (s : State) (nbits w : Nat) : State :=
  let v := w % 2 ^ nbits
  let t := s.onRegion 0 fun r => { r with life := .assigned, clock := { r.clock with stop := false, failed := false } }
  let u := t.onCluster 1 fun c =>
    { c with
      tlb := Tab.put c.tlb 0 codeEntry
      icache := Tab.put (Tab.put c.icache codeBase (BitVec.ofNat 16 v)) (codeBase + 2) (BitVec.ofNat 16 (v / 2 ^ 16))
      fwd := { c.fwd with hold := false, hreq := false }
      heldAt := none }
  let x := u.onCore 8 fun c =>
    { c with
      entry := c.entry.set 0 (Word.ofNat 0x102)
      utlb := { slot := 0, copy := codeEntry } :: c.utlb.take 31
      slots := Tab.put c.slots 0
        { c.slot 0 with
          live := true, pc := BitVec.ofNat 56 codeBase, far := false, frozen := false, hold := none, settle := none,
          walked := [], readyAt := 0, eff := 3, yld := false }
      ptr := c.ptr.setIfInBounds 3 0
      saving := none
      fenced := false
      last := none }
  { x with
    plan := [.issue 8], cur := { core := 8, slot := 0 }, late := [], mem := Memory.store x.mem codeBase 4 v }

end State

end Sys2Proof.Machine
end

