-- ==== Sys2Proof/Machine/Broker.lean ====
section
/-!
DEFINITION. The token economy's books: zones and their pools (R251 to R254), notices and lends (R255, R257, R260), and the
pass-back (R230, R233, R264).
-/

namespace Sys2Proof.Machine

/-! ### Levels, costs, zones (R228, R251, R252) -/

/-- The cost of a level on a cluster (R251). -/
def tokenCost (cid : Nat) : Nat :=
  match kindOf (cid % 64) with
  | .dense => 9 | .attention => 3 | .sparse => 3 | .vector => 0

/-- The zone of a cluster (R252). -/
def zoneOf (cid : Nat) : Nat := cid % 64 / 18 * 2 + cid % 64 % 6 / 3

/-- The clusters of a zone that have a broker entry, by position (R252, R253). -/
def zoneClusters (r z : Nat) : List Nat :=
  ((List.range 36).filter fun c =>
    c / 18 * 2 + c % 6 / 3 == z && kindOf c != .vector).map fun c => r * 64 + c

namespace State

/-- The tokens of a cluster. -/
def tokens (s : State) (cid : Nat) : Tokens := (s.cluster cid).tokens

/-- The state with a cluster's tokens changed. -/
def onTokens (s : State) (cid : Nat) (f : Tokens → Tokens) : State :=
  s.onCluster cid fun c => { c with tokens := f c.tokens }

/-- A zone's pool. -/
def zone (s : State) (r z : Nat) : Zone := (s.region r).zones.toList.getD z { budget := 0, floor := 0, free := 0, loaned := 0, revcnt := 0 }

/-- The state with a zone's pool changed. -/
def onZone (s : State) (r z : Nat) (f : Zone → Zone) : State :=
  s.onRegion r fun x => { x with zones := x.zones.setIfInBounds z (f (s.zone r z)) }

/-- RBCTL of a region (R261), BADB and G140 apart. -/
def rbctl (s : State) (r : Nat) : Word := s.ctl (controlBase r + 0x780) (500 * 2 ^ 48 + 1120 * 2 ^ 32 + 2 ^ 11)

/-- The tokens that a zone's clusters hold. -/
def zoneHeld (s : State) (r z : Nat) : Nat := ((zoneClusters r z).map fun c => (s.tokens c).held).sum

/-- The tokens that a region's clusters hold. -/
def regionHeld (s : State) (r : Nat) : Nat := ((List.range 4).map fun z => s.zoneHeld r z).sum

/-- The tokens that a region may hold: RCAP (R261), and while REQ140 is 1 and until CKSTAT.CUR is no longer 4 the cap of
R263. -/
def tokenCap (s : State) (r : Nat) : Nat :=
  if flag (s.rbctl r) 8 || (s.region r).clock.cur == 4 then fld (s.rbctl r) 32 11 * 25 / 28 else fld (s.rbctl r) 32 11

/-- The tokens that a zone may grant now: FREE, and no more than the region may still hold (R261, R263). -/
def grantable (s : State) (r z : Nat) : Nat := min (s.zone r z).free (s.tokenCap r - s.regionHeld r)

/-- G140 is set once the region holds no more than the cap (R175, R263). -/
def settleCap (s : State) (r : Nat) : State :=
  if flag (s.rbctl r) 8 && decide (s.regionHeld r ≤ s.tokenCap r) then
    s.onRegion r fun x => { x with clock := { x.clock with g140 := true } }
  else s

end State

/-- The holdings word (R228). -/
def Tokens.word (t : Tokens) : Word :=
  Word.ofNat (t.lent * 2 ^ 32 + t.held * 2 ^ 16 + (if t.lending then 2 ^ 12 else 0) + (if t.throt then 2 ^ 11 else 0) +
    (if t.notice then 2 ^ 10 else 0) + t.next * 2 ^ 4 + t.level)

/-- The entry that Flatar reads at TKENT (R253). -/
def Tokens.entry (t : Tokens) : Word :=
  Word.ofNat (t.borrow * 2 ^ 48 + t.held * 2 ^ 40 + t.tgt * 2 ^ 24 + t.cls * 2 ^ 21 + t.keep * 2 ^ 16 +
    (if t.waiting.isSome then 2 ^ 13 else 0) + (if t.lending then 2 ^ 12 else 0) + (if t.throt then 2 ^ 11 else 0) +
    (if t.notice then 2 ^ 10 else 0) + t.next * 2 ^ 4 + t.gl)

/-! ### Answers -/

namespace State

/-- The broker's REPLY to a request (R227): it carries the holdings word, and it ends THROT (R233). THROT ends when the broker
sends the REPLY, whose own word shows it ended (log 77). -/
def tokenReply (s : State) (cid : Nat) (w : TokenWord) : State :=
  match w.reply with
  | none => s
  | some m =>
    let t := s.onTokens cid fun x => { x with throt := false }
    t.reply (.zone (cid / 64) (zoneOf cid)) (.core w.core) m 0 (t.tokens cid).word

/-- The energy class of a request. -/
def tokenClass (w : TokenWord) : Nat :=
  match w.reply with
  | some m => m.ecls.toNat
  | none => 0

/-- A level-paced engine of the cluster is executing (R230). -/
def paced (s : State) (cid : Nat) : Bool := (s.cluster cid).mat.core.isSome || (s.cluster cid).rot.core.isSome

/-! ### Notices (R255, R257, R260) -/

/-- Loaned tokens that become own tokens (R260): free ones first, then those that a borrower holds. -/
def ownLoans (s : State) (r z n : Nat) : State :=
  let y := min n (s.zone r z).loaned
  let s1 := s.onZone r z fun k => { k with loaned := k.loaned - y }
  ((zoneClusters r z).foldl
    (fun (acc : State × Nat) c =>
      let b := min acc.2 (acc.1.tokens c).borrow
      if b = 0 then acc else (acc.1.onTokens c fun t => { t with borrow := t.borrow - b }, acc.2 - b))
    (s1, n - y)).1

/-- Notice(k, t) (R257): the target, the count, and the TC0 word. -/
def sendNotice (s : State) (cid t : Nat) : State :=
  let r := cid / 64
  let z := zoneOf cid
  ((s.onTokens cid fun x => { x with tgt := t, under := x.gl }).onZone r z fun k => { k with revcnt := min 0xFFFF (k.revcnt + 1) }).inject
    (.zone r z) (.cluster cid) 0 (.notice t)

/-- A lend that ends with nothing restored (R260): its loaned tokens become own tokens, what it had taken back is free, and a
recall is answered. -/
def dropLend (s : State) (cid : Nat) : State :=
  let x := s.tokens cid
  let r := cid / 64
  let z := zoneOf cid
  let got := match x.reclaim with | some (_, n, _) => n | none => 0
  let s1 := ((s.ownLoans r z x.lent).onZone r z fun k => { k with free := k.free + got }).onTokens cid fun y =>
    { y with lending := false, lent := 0, lendEnd := none, reclaim := none }
  match x.reclaim with
  | some (_, _, some w) => s1.tokenReply cid w
  | _ => s1

/-- The right of a lender lowered to a level not below KEEP (R260): of the loaned tokens above it, those that the lender has
itself borrowed stay loaned where `keep` says so, and the others become own tokens. The lend's end restores only that level. -/
def lowerLend (s : State) (cid level : Nat) (keep : Bool) : State :=
  let x := s.tokens cid
  let n := min x.lent (tokenCost cid * (x.gl - level))
  let passed := if keep then min n x.borrow else 0
  (s.ownLoans (cid / 64) (zoneOf cid) (n - passed)).onTokens cid fun y =>
    { y with
      gl := level, lent := y.lent - n, borrow := y.borrow - passed
      reclaim := y.reclaim.map fun q => (min q.1 level, q.2) }

/-- A revocation of a cluster to a level (R255, R260): a lender's lend gives way first. -/
def revoke (s : State) (cid t : Nat) : State :=
  let x := s.tokens cid
  if x.lending then
    if x.keep ≤ t then s.lowerLend cid t false
    else ((s.dropLend cid).onTokens cid fun y => { y with gl := y.keep }).sendNotice cid t
  else s.sendNotice cid t

/-- The tokens of a cluster under notice (R257): those of the levels above the target, from the notice until they pass back. -/
def underNotice (s : State) (c : Nat) : Nat :=
  let t := s.tokens c
  if t.tgt = 15 then 0 else min (tokenCost c * (t.under - t.tgt)) (t.held - tokenCost c * t.tgt)

/-- Incoming of R255: the tokens of a zone under notice. -/
def incoming (s : State) (r z : Nat) : Nat := ((zoneClusters r z).map s.underNotice).sum

end State

/-- The candidates of a revocation in the order of R255: lowest class first, then latest grant first. -/
def insertHolder (e : Nat × Tokens) : List (Nat × Tokens) → List (Nat × Tokens)
  | [] => [e]
  | f :: l =>
    if e.2.cls < f.2.cls ∨ (e.2.cls = f.2.cls ∧ f.2.granted ≤ e.2.granted) then e :: f :: l else f :: insertHolder e l

/-- A list of holders in the order of R255. -/
def sortHolders : List (Nat × Tokens) → List (Nat × Tokens)
  | [] => []
  | e :: l => insertHolder e (sortHolders l)

namespace State

/-- The loop of Serve that sends notices until a shortfall is covered (R255): what is left of it, and the state. -/
def revokeFor (s : State) (d : Int) : List (Nat × Tokens) → Int × State
  | [] => (d, s)
  | (c, t) :: l =>
    if d ≤ 0 then (d, s)
    else
      let k := tokenCost c
      let lvl := t.gl - ((d.toNat + k - 1) / k)
      (s.revoke c lvl).revokeFor (d - (k * (t.gl - lvl) : Nat)) l

/-- The head of a zone's queue (R255): the request of highest class; among equals, the oldest. -/
def headRequest (s : State) (r z : Nat) : Option (Nat × TokenWord × Nat) :=
  (zoneClusters r z).foldl
    (fun best c =>
      match (s.tokens c).waiting with
      | none => best
      | some (w, n) =>
        match best with
        | none => some (c, w, n)
        | some (_, w', n') =>
          if tokenClass w' < tokenClass w ∨ (tokenClass w' = tokenClass w ∧ n < n') then some (c, w, n) else best)
    none

/-- The tokens that a cluster lacks for a level: Cost × (L − GL) (R255); for a lender also those that it has lent, since a
grant ends its lend (log 22). -/
def lacking (s : State) (cid level : Nat) : Nat :=
  let t := s.tokens cid
  if t.lending then
    tokenCost cid * level - t.held - (match t.reclaim with | some (_, n, _) => n | none => 0)
  else tokenCost cid * (level - t.gl)

/-- The TKLENDs that have reached the broker and wait for their pass-back (R260). -/
def lendsOwed (t : Tokens) : List TokenWord :=
  t.owed.filter fun w => match w.ask with | .lend _ _ => true | _ => false

/-- A grant of a level to a cluster (R255): own tokens before loaned ones. A lend that runs ends with it, and one that has been
asked for at the broker does not begin (log 22). -/
def grantLevel (s : State) (cid level : Nat) (w : TokenWord) : State :=
  let r := cid / 64
  let z := zoneOf cid
  let s0 := if (s.tokens cid).lending then s.dropLend cid else s
  let t := s0.tokens cid
  let need := if (s.tokens cid).lending then tokenCost cid * level - t.held else tokenCost cid * (level - t.gl)
  let k := s0.zone r z
  let borrowed := need - (k.free - k.loaned)
  let s1 := s0.onZone r z fun k => { k with free := k.free - need, loaned := k.loaned - borrowed }
  let owed := lendsOwed t
  let s2 := s1.onTokens cid fun t =>
    { t with gl := level, keep := level, next := level, cls := tokenClass w, held := t.held + need,
             borrow := t.borrow + borrowed, granted := s.seq, waiting := none
             lendAsk := if owed.isEmpty then t.lendAsk else none
             owed := t.owed.filter fun w => !(owed.any fun v => v == w) }
  (owed.foldl (fun u v => u.tokenReply cid v) s2).tick.tokenReply cid w

/-- The level that a request asks for. -/
def askedLevel (w : TokenWord) : Nat :=
  match w.ask with
  | .request l _ => l
  | .return_ l => l
  | .lend k _ => k

/-- Serve of R255, run at most n times over: again after a grant, and after a lender's grant has fallen. A queued request for a
level that the cluster has been granted since is answered with no change (R229). -/
def serve_ (s : State) (r z : Nat) : Nat → State
  | 0 => s
  | n + 1 =>
    match s.headRequest r z with
    | none => s
    | some (c, w, _) =>
      let t := s.tokens c
      if t.tgt ≠ 15 then s
      else if askedLevel w ≤ t.gl then
        ((s.onTokens c fun x => { x with waiting := none }).tokenReply c w).serve_ r z n
      else
        let need := s.lacking c (askedLevel w)
        if need ≤ s.grantable r z then (s.grantLevel c (askedLevel w) w).serve_ r z n
        else
          let d : Int := (need : Int) - s.grantable r z - s.incoming r z
          let holders := sortHolders (((zoneClusters r z).map fun k => (k, s.tokens k)).filter fun e =>
            e.1 != c && e.2.tgt == 15 && decide (0 < e.2.gl) && decide (e.2.cls < tokenClass w))
          let x := s.revokeFor d holders
          if (zoneClusters r z).any fun k => (x.2.tokens k).gl != (s.tokens k).gl then x.2.serve_ r z n
          else if 0 < x.1 ∧ flag (s.rbctl r) 11 = true ∧ ((s.region r).asks.any fun a => a.1 == z) = false then
            x.2.onRegion r fun y => { y with asks := y.asks ++ [(z, x.1.toNat)] }
          else x.2

/-! ### Recalls and the ends of lends (R260) -/

/-- Borrowers called for a shortfall, each lowered by the fewest levels that cover it (R260): a notice, or at a borrower that
itself lends its lend gives way, whose loaned tokens stay loaned as far as they are borrowed. Borrowers are called in the order
of their cluster numbers (log 78). -/
def callBorrowers (s : State) (d : Nat) : List Nat → State
  | [] => s
  | c :: l =>
    let t := s.tokens c
    let x := min d t.borrow
    if d = 0 then s
    else if x = 0 ∨ t.tgt ≠ 15 then s.callBorrowers d l
    else
      let k := tokenCost c
      let lvl := t.gl - (x + k - 1) / k
      (if t.lending && decide (t.keep ≤ lvl) then s.lowerLend c lvl true
       else if t.lending then
         (((s.lowerLend c t.keep true).dropLend c)).sendNotice c lvl
       else s.sendNotice c lvl).callBorrowers (d - x) l

/-- Borrowed tokens of a zone that are under notice already. -/
def borrowedIncoming (s : State) (r z : Nat) : Nat :=
  ((zoneClusters r z).map fun c => min (s.tokens c).borrow (s.underNotice c)).sum

/-- Loaned tokens of a zone that a lowered BUDGET has taken out of it: lent, and neither free nor borrowed (log 80). -/
def cutLoans (s : State) (r z : Nat) : Nat :=
  ((zoneClusters r z).map fun c => (s.tokens c).lent).sum -
    ((s.zone r z).loaned + ((zoneClusters r z).map fun c => (s.tokens c).borrow).sum)

/-- A lend that ends, by expiry or recall, takes free loaned tokens back, and calls borrowers for the shortfall; when all are
back, and the region may hold them (R261, R263), the level is restored (R260). What it has taken back above its level is free
at once. Own free tokens stand in for loaned ones that a lowered BUDGET has taken (log 80). -/
def endLend (s : State) (cid : Nat) : State :=
  let t := s.tokens cid
  let r := cid / 64
  let z := zoneOf cid
  match t.reclaim with
  | none => s
  | some (level, got, w) =>
    let all := tokenCost cid * (level - t.keep)
    let y := min (all - got) (s.zone r z).loaned
    let own := min (all - got - y) (min (s.cutLoans r z) ((s.zone r z).free - (s.zone r z).loaned))
    let taken := got + y + own
    let s1 :=
      (s.onZone r z fun k => { k with free := k.free - (y + own) + (taken - all), loaned := k.loaned - y }).onTokens cid fun x =>
        { x with lent := x.lent - (y + own), reclaim := some (level, min taken all, w) }
    if all ≤ taken then
      if s1.regionHeld r + all ≤ s1.tokenCap r then
        let s2 := s1.ownLoans r z (t.lent - (y + own))
        let s3 := s2.onTokens cid fun x =>
          { x with held := x.held + all, next := level, gl := level, keep := level, lending := false, lent := 0,
                   lendEnd := none, reclaim := none }
        match w with
        | some w => s3.tokenReply cid w
        | none => s3
      else s1
    else
      s1.callBorrowers (all - taken - s1.borrowedIncoming r z) ((zoneClusters r z).filter fun c => c != cid)

/-- The lends of a zone that end, in the order of their cluster numbers (log 78). What one lend's end sets free, another may
take. -/
def endLends (s : State) (r z : Nat) : State :=
  (zoneClusters r z).foldl (fun u c => u.endLend c) ((zoneClusters r z).foldl (fun u c => u.endLend c) s)

/-- The broker of a zone runs (R255, R260), at most n times over: recalls ahead of every queued request, and again where Serve
has lowered what a lend that ends restores. -/
def runZone_ (s : State) (r z : Nat) : Nat → State
  | 0 => s
  | n + 1 =>
    let t := s.endLends r z
    let u := t.serve_ r z 100
    if (zoneClusters r z).any fun c => (u.tokens c).reclaim != (t.tokens c).reclaim then u.runZone_ r z n else u

/-- The broker of a zone runs (R255, R260). -/
def runZone (s : State) (r z : Nat) : State := s.runZone_ r z 10

/-- The brokers of a region run, that of a zone first: what a zone no longer holds, another may be granted (R261, R263). -/
def runBroker (s : State) (r z : Nat) : State :=
  (((List.range 4).filter fun y => y != z).foldl (fun u y => u.runZone r y) (s.runZone r z)).settleCap r

/-! ### The pass-back (R230, R231, R233, R257, R260) -/

/-- A notice answered: its time counts in TKHIST (R264). One that is answered before its word has landed has no time from a
landing, and counts in no bin (log 81). -/
def countNotice (s : State) (cid : Nat) : State :=
  match (s.tokens cid).landed with
  | none => s
  | some l =>
    let d := (s.now - l) / 1400
    let b := if d < 64 then 0 else if 4096 ≤ d then 7 else Nat.log2 (d / 64) + 1
    let a := controlBase (cid / 64) + 0x740 + 8 * b
    s.setCtl a (Word.ofNat (holdAtTop 32 (fld (s.ctl a 0) 0 32)))

/-- Tokens above NEXT pass back to the broker (R230): a lend begins with them, a notice that they satisfy is answered, and
what waits for them is. -/
def passBack (s : State) (cid : Nat) : State :=
  let t := s.tokens cid
  let k := tokenCost cid
  let r := cid / 64
  let z := zoneOf cid
  let back := t.held - k * t.next
  if back = 0 then s
  else
    -- A notice is answered: a lend that begins may restore no more than its target. A lend that was asked for begins with what
    -- lies above its KEEP; a lend that runs ends where NEXT has fallen below KEEP.
    let answered := t.tgt ≠ 15 ∧ t.next ≤ t.tgt
    let top := if answered then min t.gl t.tgt else t.gl
    let begins := match t.lendAsk with | some (keep, _) => decide (t.next ≤ keep && keep < top) | none => false
    let keep := match t.lendAsk with | some (keep, _) => keep | none => t.keep
    let loan := if begins then min back (k * (top - keep)) else 0
    let ends := t.lending && decide (t.next < t.keep)
    let s0 := if ends then s.dropLend cid else s
    let bret := min (back - loan) (s0.tokens cid).borrow
    let s1 := s0.onZone r z fun y => { y with free := y.free + back, loaned := y.loaned + loan + bret }
    let s2 := if answered then s1.countNotice cid else s1
    let lends := begins || (t.lending && !ends)
    let s3 := s2.onTokens cid fun y =>
      { y with
        held := k * t.next
        borrow := y.borrow - bret
        lent := y.lent + loan
        lending := lends
        lendEnd := match t.lendAsk, begins with
          | some (_, dur), true => some (s.now + 1400 * dur)
          | _, _ => y.lendEnd
        lendAsk := if t.next ≤ keep then none else t.lendAsk
        gl := if lends then top else t.next
        keep := if begins then keep else if lends then y.keep else t.next
        tgt := if answered then 15 else y.tgt
        notice := if answered then false else y.notice
        landed := if answered then none else y.landed
        stale := if answered ∧ y.landed = none then y.stale + 1 else y.stale
        owed := [] }
    (t.owed.foldl (fun u w => u.tokenReply cid w) s3).runBroker r z

/-- The end of what a level-paced engine of the cluster executed (R230, R258): tokens above NEXT pass back where none executes
any more. -/
def settleTokens (s : State) (cid : Nat) : State := if s.paced cid then s else s.passBack cid

/-- NEXT lowered at the cluster (R230): the tokens pass back at once where no level-paced engine is executing. -/
def lowerNext (s : State) (cid level : Nat) : State :=
  (s.onTokens cid fun x => { x with next := min x.next level }).settleTokens cid

/-- A TKRET to a level at the broker's books (R230, R257): GL falls; a lender's lend gives up what lies above. -/
def lowerGrant (s : State) (cid level : Nat) : State :=
  let t := s.tokens cid
  if t.gl ≤ level then s
  else if t.lending && decide (t.keep ≤ level) then s.lowerLend cid level false
  else
    (if t.lending then s.dropLend cid else s).onTokens cid fun y => { y with gl := level, keep := min y.keep level }

/-- The notice period of a cluster is over, and its throttle has not acted (R233, R257). -/
def noticeOver (s : State) (cid : Nat) : Bool :=
  let t := s.tokens cid
  match t.landed with
  | some l => t.notice && decide (l + 200 * 1400 ≤ s.now) && decide (t.tgt < t.next)
  | none => false

/-- The end of a notice period (R233, R257): 200 rc after the landing, the throttle lowers NEXT to the target. -/
def endNotice (s : State) (cid : Nat) : State :=
  if s.noticeOver cid then (s.onTokens cid fun x => { x with throt := true }).lowerNext cid (s.tokens cid).tgt else s

end State

end Sys2Proof.Machine
end

