-- ==== Sys2Proof/Machine/System.lean ====
section
/-!
DEFINITION. The system instructions (R302 to R316): traps and returns, translation entries, operations on other units, FRES
and FKILL.
-/

namespace Sys2Proof.Machine

/-- A privileged instruction of 4 bytes and one pass (R44). -/
def Need.system (reads writes : List Reg) : Need := { Need.plain reads writes with priv := true }

/-! ### TRAP and TRET (R306, R307) -/

/-- TRAP (R306). -/
def execTrap (a : Reg) (s : State) :=
  s.issue (.plain [a] []) fun t => do
    require (fld (t.reg a) 16 48 == 0 && !t.me.epcv && !t.me.sup) .illegal .instruction 0
    require (t.myCore.tvec != 0) .illegal .instruction 0
    .ok (t.onMe fun f =>
      { f with epc := f.pc, epcv := true, tcause := (t.reg a).setWidth 16, sup := true, pc := t.myCore.tvec.setWidth 56 })

/-- What TRET does to its fibre (R307). -/
def Slot.trapReturn (f : Slot) : Slot := { f with pc := f.epc, sup := false, epcv := false }

/-- TRET (R307). -/
def execTret (s : State) :=
  s.issue (.system [] []) fun t => do
    require t.me.epcv .illegal .instruction 0
    .ok (t.onMe Slot.trapReturn)

/-! ### Translation entries (R308 to R310) -/

/-- The virtual pages of two entries of one PASID overlap (R309). -/
def TlbEntry.overlaps (a b : TlbEntry) : Bool :=
  a.pasid == b.pasid && a.base / 2 ^ max a.shift b.shift == b.base / 2 ^ max a.shift b.shift

/-- Bits of VPN and PFN below the page size are 0 (R308). -/
def TlbEntry.aligned (e : TlbEntry) : Bool := e.base % 2 ^ e.shift == 0 && e.frame % 2 ^ e.shift == 0

/-- An entry's page holds a 64 KiB page of a PASID. -/
def TlbEntry.holds (e : TlbEntry) (p : Nat × Nat) : Bool :=
  e.valid && e.pasid == p.1 && p.2 * 2 ^ 16 / 2 ^ e.shift == e.base / 2 ^ e.shift

/-- A fibre released from a hold on a miss (R320). -/
def Slot.unmiss (f : Slot) : Slot :=
  match f.hold with
  | some (.miss _ _ _ _) => { f with hold := none }
  | _ => f

namespace State

/-- The state with every core of a cluster changed. -/
def onClusterCores (s : State) (cid : Nat) (f : Core → Core) : State :=
  (List.range 8).foldl (fun u k => u.onCore (8 * cid + k) f) s

/-- The TLB of a cluster as it stands kept for the rest of this ac (R309, R310). -/
def keepTlb (s : State) (cid : Nat) : State :=
  s.onCluster cid fun c =>
    { c with
      tlbWas :=
        match c.tlbWas with
        | some (ac, t) => if ac = s.clusterAc cid then some (ac, t) else some (s.clusterAc cid, c.tlb)
        | none => some (s.clusterAc cid, c.tlb) }

/-- A slot of a cluster TLB written (R309, R320): copies of its old contents are invalidated, every fibre of the cluster
that is held on a miss is released, and a MISS for a page that the new entry maps is no longer outstanding. -/
def writeTlb (s : State) (cid n : Nat) (e : TlbEntry) : State :=
  ((s.keepTlb cid).onCluster cid fun c => { c with tlb := Tab.put c.tlb n e }).onClusterCores cid fun c =>
    { c with
      utlb := c.utlb.filter fun m => m.slot != n
      slots := c.slots.map fun x => (x.1, { x.2.unmiss with walked := x.2.walked.filter fun m => m.slot != n })
      missing := c.missing.filter fun p => !e.holds p
      gk := { c.gk with ctx := { c.gk.ctx.unmiss with walked := c.gk.ctx.walked.filter fun m => m.slot != n } } }

/-- The entries of a cluster TLB and of its micro-TLBs that a test names are invalidated (R310); a service strip has none. -/
def dropTlb (s : State) (cid : Nat) (p : TlbEntry → Bool) : State :=
  if cid % 64 = 63 then s
  else
    ((s.keepTlb cid).onCluster cid fun c => { c with tlb := c.tlb.filter fun e => !p e.2 }).onClusterCores cid fun c =>
      { c with
        utlb := c.utlb.filter fun m => !p m.copy
        slots := c.slots.map fun x => (x.1, { x.2 with walked := x.2.walked.filter fun m => !p m.copy })
        gk := { c.gk with ctx := { c.gk.ctx with walked := c.gk.ctx.walked.filter fun m => !p m.copy } } }

/-- The cluster's TLB has changed at the end of this ac (R309, R310): what its cores do later in this ac, which would use the new
contents, comes too late. -/
def tlbChanged (s : State) (cid : Nat) : State := s.performed (.scratchpad cid) false

end State

/-- TLB.W (R308, R309). -/
def execTlbW (rd a b : Reg) (s : State) :=
  s.issue (.system [rd, a, b] []) fun t => do
    let e : TlbEntry := { tag := t.reg a, entry := t.reg b }
    let n := fld (t.reg rd) 0 11
    let cid := t.cur.core / 8
    require (fld (t.reg rd) 11 53 == 0 && fld e.tag 60 2 == 0 && fld e.entry 48 16 == 0 && fld e.entry 5 11 == 0)
      .illegal .instruction 0
    require (e.aligned && !isService t.cur.core) .illegal .instruction 0
    require (!e.valid || !((t.cluster cid).tlb.any fun x => x.1 != n && x.2.valid && e.overlaps x.2))
      .illegal .instruction 0
    .ok ((t.writeTlb cid n e).tlbChanged cid)

/-- TLB.INV (R310): SIZE of the tag word is ignored. -/
def execTlbInv (a : Reg) (s : State) :=
  s.issue (.system [a] []) fun t => do
    let w := t.reg a
    require (fld w 60 2 == 0) .illegal .instruction 0
    .ok ((t.dropTlb (t.cur.core / 8) fun e => e.holds (fld w 0 20, fld w 20 40)).tlbChanged (t.cur.core / 8))

/-- TLB.INVA (R310). -/
def execTlbInva (a : Reg) (s : State) :=
  s.issue (.system [a] []) fun t => do
    let w := t.reg a
    require (fld w 20 43 == 0 && (!flag w 63 || fld w 0 20 == 0)) .illegal .instruction 0
    .ok ((t.dropTlb (t.cur.core / 8) fun e => flag w 63 || e.pasid == fld w 0 20).tlbChanged (t.cur.core / 8))

/-! ### Operations on other units (R311 to R314) -/

/-- A region and cluster that stand on the wafer (R2). -/
def isCluster (r c : Nat) : Bool := decide (r < 63) && decide (c < 36)

/-- The core of a core word in the layout of R96 with V = 1; none where the word names none (log 25). -/
def coreOfWord (w : Word) : Option Nat :=
  if fld w 15 49 = 1 ∧ isCluster (fld w 9 6) (fld w 3 6) = true then some (fld w 0 15) else none

/-- A save area lies in HBM or region SRAM, on a boundary of 4,096 bytes, with its 1 MiB in one stack or region (R312,
R336). -/
def saveAreaOk (a : Word) : Bool :=
  a.toNat % 4096 == 0 &&
    (match place a.toNat, place (a.toNat + 0xFFFFF) with
     | some (.hbm t _, .memory), some (.hbm u _, .memory) => t == u
     | some (.sram t _, .memory), some (.sram u _, .memory) => t == u
     | _, _ => false)

namespace State

/-- A tagged TC0 message of the issuing fibre to a unit (R311, R338), whose REPLY writes a status word into rd; the register
holds `place` when the message is refused. -/
def command (s : State) (k : MsgKind) (rd : Reg) (dst : Port) (dest : Nat) (scope : Scope) (sel data place : Word) :
    Except Stop State := do
  let pid := s.cur.core
  let (n, t) ← s.takeTag
    { slot := s.cur.slot, gen := s.me.gen, use := .status rd, scope := scope, pc := (s.me.pc - 4#56).signExtend 64,
      place := place, issuer := pid }
  .ok ((t.sendTagged (.core pid) dst (t.fibreRouting k 0 dest false) n sel [data]).setPending rd .load)

/-- The common effect of CTX.SAVE and CTX.LOAD (R311, R312). -/
def contextCommand (s : State) (k : MsgKind) (rd a b : Reg) : Except Stop State :=
  match coreOfWord (s.reg a) with
  | none => trap .illegal .instruction
  | some target => do
    require (target != s.cur.core && saveAreaOk (s.reg b)) .illegal .instruction 0
    s.command k rd (.core target) (s.rankOf target) (scopeOfCore s.cur.core target) (s.reg b) (s.reg a) (s.reg a)

end State

/-- CTX.SAVE (R311, R312): a PRE to the target. -/
def execCtxSave (rd a b : Reg) (s : State) :=
  s.issue (.system [a, b] [rd]) fun t => t.contextCommand .pre rd a b

/-- CTX.LOAD (R311, R312): a RESUME to the target. -/
def execCtxLoad (rd a b : Reg) (s : State) :=
  s.issue (.system [a, b] [rd]) fun t => t.contextCommand .resume rd a b

/-- WIPE (R311, R313): a SUPERVISOR word to service core 0 of the region. -/
def execWipe (rd a : Reg) (s : State) :=
  s.issue (.system [a] [rd]) fun t => do
    let r := (t.reg a).toNat
    require (decide (r < 63) && r != t.cur.core / 512) .illegal .instruction 0
    t.command .supervisor rd (.core (r * 512 + 504)) (serviceRank r) .wafer (Word.ofNat (2 ^ 48 + r)) 0 (t.reg a)

/-- ICFLUSH (R311, R314): a SUPERVISOR word to the cluster. -/
def execIcflush (rd a : Reg) (s : State) :=
  s.issue (.system [a] [rd]) fun t => do
    let w := t.reg a
    require (fld w 12 52 == 0 && isCluster (fld w 6 6) (fld w 0 6)) .illegal .instruction 0
    let cid := w.toNat
    let pid := t.cur.core
    let scope : Scope := if cid = pid / 8 then .cluster else if cid / 64 = pid / 512 then .region else .wafer
    t.command .supervisor rd (.cluster cid) 0xFFFF scope (Word.ofNat (2 * 2 ^ 48 + cid)) 0 w

/-! ### FRES and FKILL (R315, R316) -/

namespace State

/-- The handle checks of FRES and FKILL: REG, TC0 and the reserved bits 0, and RANK equal to cr.rank. -/
def checkHandle (s : State) (h : Word) : Except Stop Unit :=
  require (fld h 32 32 == 0 && fld h 0 16 == s.rankOf s.cur.core) .illegal .instruction 0

/-- The fibre of the issuing task that a handle names on the issuing core, if it lives (R44, R101). -/
def handled (s : State) (h : Word) : Option Slot :=
  let f := s.slot s.cur.core (fld h 16 8)
  if f.live && f.gen.toNat == fld h 24 8 && f.fw == s.me.fw then some f else none

/-- A frozen fibre of a core resumes (R315); where it is the arming fibre of a FAULTED gather unit, the unit becomes ARMED,
and its abandoned line runs first (R279, R318). -/
def resumeFrozen (s : State) (pid n : Nat) : State :=
  let f := s.slot pid n
  (s.onSlot pid n fun f => ({ f with frozen := false, age := 0, hold := none }).wake (s.coreAc pid)).onCore pid fun c =>
    if c.gk.mode = .faulted ∧ c.gk.slot = n ∧ c.gk.gen = f.gen then
      { c with gk := { c.gk with mode := .armed, fault := none, line := none, waits := c.gk.line.toList ++ c.gk.waits } }
    else c

/-- A fibre may be moved (R315): nothing pending, refused, owed or outstanding, and no trap return held. -/
def movable (s : State) (pid n : Nat) : Bool :=
  let f := s.slot pid n
  f.mark.all (· == none) && f.refused.all (· == none) && f.owed.isNone && s.drainedTo pid n f.gen 5 && !f.epcv

end State

/-- FRES (R315). -/
def execFres (rd a b : Reg) (s : State) :=
  s.issue (.plain [a, b] [rd]) fun t => do
    let h := t.reg a
    let w := t.reg b
    let pid := t.cur.core
    let n := fld h 16 8
    t.checkHandle h
    require (fld w 17 47 == 0 && (flag w 16 || fld w 0 16 == 0)) .illegal .instruction 0
    if flag w 16 then do
      let _ ← t.namedPort (fld w 0 16)
      .ok ()
    else .ok ()
    match t.handled h with
    | none => .ok (t.setReg rd 1)
    | some f =>
      if !f.frozen then .ok (t.setReg rd 1)
      else if !flag w 16 then .ok ((t.resumeFrozen pid n).setReg rd 0)
      else if !t.movable pid n then .ok (t.setReg rd 2)
      else .ok ((t.migrate pid n (fld w 0 16) f.pc).setReg rd 0)

/-- FKILL (R316): a fibre that kills itself ends, and rd is not written. -/
def execFkill (rd a : Reg) (s : State) :=
  s.issue (.plain [a] [rd]) fun t => do
    let h := t.reg a
    t.checkHandle h
    match t.handled h with
    | none => .ok (t.setReg rd 1)
    | some _ =>
      if fld h 16 8 = t.cur.slot then .ok (t.endFibre t.cur.core t.cur.slot)
      else .ok ((t.endFibre t.cur.core (fld h 16 8)).setReg rd 0)

end Sys2Proof.Machine
end

