-- ==== Sys2Proof/Machine/Task.lean ====
section
/-!
DEFINITION. Steps of translation, of Flatar's calls, of task entries, watchdogs and fences (R99, R100, R123, R150, R164,
R320 to R323, R330, R332, R339, R340).
-/

namespace Sys2Proof.Machine

/-! ### The instruction cache (R104, R150) -/

/-- A fibre released from a hold on a parcel of code. -/
def Slot.uncache (pa ac : Nat) (f : Slot) : Slot :=
  if f.hold = some (.icache pa) then ({ f with hold := none }).wake ac else f

/-- The parcels of a cluster's instruction cache: 128 KiB (R2). -/
def cacheParcels : Nat := 65536

/-- An instruction cache with a parcel brought in; from a full one the parcel of a free number goes (log 15). -/
def fillCache (t : Tab Parcel) (pa : Nat) (p : Parcel) (free : Nat) : Tab Parcel :=
  if t.length < cacheParcels then Tab.put t pa p else Tab.put (t.eraseIdx (free % t.length)) pa p

/-- ICACHE_FILL (R2, R104, R150): the fill of a parcel that a fibre of the cluster waits for ends; one whose home refuses or does
not perform waits, and one that meets an uncorrected error leaves the cache as it was, and the fibre's fetch faults. At spot:
the cluster and the parcel's physical address. -/
def execIcacheFill (s : State) : Host.Outcome State Fault Refusal :=
  let cid := s.spot.place
  let pa := s.spot.item
  let waits := (List.range 8).any fun k => (s.core (8 * cid + k)).slots.any fun e =>
    e.2.hold == some (.icache pa) && s.mayFill (8 * cid + k) (State.ofFlatar (8 * cid + k) e.2) pa
  if waits && s.clusterRuns cid then
    let s1 :=
      if s.eccBad pa 2 then s
      else
        let v := s.passed (((place pa).map fun h => s.readsWell h.1).getD true) 2 (Memory.value s.mem pa 2)
        (v.2.onCluster cid fun c =>
          { c with icache := fillCache c.icache pa (BitVec.ofNat 16 v.1) (Config.freeWord v.2.fresh).toNat }).tickFree
    .next (s1.onClusterCores cid fun c =>
      { c with slots := c.slots.map fun e => (e.1, e.2.uncache pa (s.clusterAc cid)) })
  else .next s

/-- EVENT of a SUPERVISOR word (R338). -/
def Msg.event (m : Msg) : Nat := if m.kind = MsgKind.supervisor.num then fld m.sel 48 7 else 0

/-- ICFLUSH_ARRIVAL (R311, R314): the cluster's instruction cache is invalidated, and the REPLY follows. At spot: the
packet's place in flight. -/
def execIcflushArrival (s : State) : Host.Outcome State Fault Refusal :=
  match s.front s.spot.place with
  | some p =>
    match p.load, p.dst with
    | .msg m tagged, .cluster cid =>
      let s1 := s.taken s.spot.place
      let r := (s.region (cid / 64)).life
      if m.event ≠ 2 then .next s
      else if s.clusterDead cid || r == .dark || r == .wiping then .next (s1.answer p m tagged 1)
      else if s.clusterRuns cid then
        .next ((s1.onCluster cid fun c => { c with icache := [] }).reply p.dst (s.replyPort p m) m 0 0x80000000)
      else .next s
    | _, _ => .next s
  | none => .next s

/-! ### MISS and NOMAP (R320 to R322, R338) -/

/-- MISS_ARRIVAL (R321): a walker fibre is born on the translation service core; while EN is 0 or no walker slot is free,
the word waits at the port. At spot: the packet's place in flight. -/
def execMissArrival (s : State) : Host.Outcome State Fault Refusal :=
  match s.front s.spot.place with
  | some p =>
    match p.load, p.dst with
    | .msg m _, .core pid =>
      let w := (s.cluster (pid / 8)).tscfg
      if m.event ≠ 3 then .next s
      else if s.portRefuses p.src pid true then .next (s.taken s.spot.place)
      else
        match (List.range' 248 8).find? fun n => !(s.slot pid n).live with
        | some n =>
          if flag w 63 && fld w 56 3 == pid % 8 && s.portRuns pid then
            let g := ((Vector.replicate 8 (0 : Word)).set 0 m.sel).set 1 (m.word 0)
            .next (((s.taken s.spot.place).born pid n (w &&& 0x00FFFFFFFFFFFFFE#64) g 3 m.ecls).onSlot pid n fun f =>
              { f with sup := true, fw := true, amig := false })
          else .next s
        | none => .next s
    | _, _ => .next s
  | none => .next s

namespace State

/-- PAGE raised for a fibre that is held on a page (R322, R326). -/
def noMap (s : State) (pid page n : Nat) : State :=
  let f := s.slot pid n
  match f.hold with
  | some (.miss _ q va kind) =>
    if f.live && q == page then
      s.raiseFault pid n { code := .page, kind := kind, va := va, under := 0, info := 0, owed := none }
    else s
  | _ => s

/-- The byte offset in the kernel of the instruction at which a gather unit's kernel stands. -/
def kernelOffset (s : State) (pid : Nat) : Nat := (s.core pid).gk.ctx.pc.toNat

end State

/-- NOMAP_ARRIVAL (R322): PAGE for every fibre held on the page, and for a gather kernel that is. At spot: the packet's place
in flight. -/
def execNomapArrival (s : State) : Host.Outcome State Fault Refusal :=
  match s.front s.spot.place with
  | some p =>
    match p.load, p.dst with
    | .msg m _, .core pid =>
      let page := fld (m.word 0) 16 40
      if m.event ≠ 4 then .next s
      else if s.portRefuses p.src pid true then .next (s.taken s.spot.place)
      else if s.portRuns pid then
        let s1 := (s.taken s.spot.place).onCore pid fun c =>
          { c with missing := c.missing.filter fun e => e.2 != page }
        let s2 := ((s.core pid).slots.map Prod.fst).foldl (fun u n => u.noMap pid page n) s1
        match (s.core pid).gk.ctx.hold with
        | some (.miss _ q va _) =>
          .next (if q = page then s2.gatherFaulted pid .page va (s.kernelOffset pid) else s2)
        | _ => .next s2
      else .next s
    | _, _ => .next s
  | none => .next s

/-! ### Drains of system space (R323) -/

namespace State

/-- A core, by its number, with the operations to system space marked that cluster cid has issued and it has outstanding, as tags and
engine operations (R323); those of a context that has moved go on being the cluster's that issued them. -/
def snapCore (cid pid : Nat) (c : Core) : Core :=
  { c with
    tags := c.tags.map fun t =>
      (t.1, if t.2.issuer / 8 = cid ∧ t.2.scope = .system ∧ t.2.use ≠ .posted .message then { t.2 with snap := true } else t.2)
    ops := c.ops.map fun o => if o.issuer / 8 = cid ∧ o.scopes.contains .system then { o with snap := true } else o
    gk := { c.gk with
      tags := c.gk.tags.map fun t => (t.1, if pid / 8 = cid ∧ t.2.scope = .system then { t.2 with snap := true } else t.2) } }

/-- A core, by its number, has a marked operation of cluster cid outstanding. -/
def snapped (cid pid : Nat) (c : Core) : Bool :=
  c.tags.any (fun t => t.2.snap && t.2.issuer / 8 == cid) || c.ops.any (fun o => o.snap && o.issuer / 8 == cid) ||
    c.gk.tags.any fun t => t.2.snap && pid / 8 == cid

/-- SNAP := 1 (R323). -/
def snap (s : State) (cid : Nat) : State :=
  let t := s.onCluster cid fun c => { c with draining := true }
  { t with cores := t.cores.map fun e => (e.1, snapCore cid e.1 e.2) }

/-- Every operation of a cluster that SNAP marked has ended. -/
def snapEnded (s : State) (cid : Nat) : Bool := s.cores.all fun e => !snapped cid e.1 e.2

/-- DRAINED becomes 1; an IOMMU invalidation that waited for this cluster last is completed (R323). -/
def setDrained (s : State) (cid : Nat) : State :=
  let left := s.host.draining.map fun l => l.filter fun c => c != cid
  { s.onCluster cid (fun c => { c with draining := false }) with
    host := { s.host with
      draining := left.filter fun l => !l.isEmpty
      drained := s.host.drained + (left.filter fun l => l.isEmpty).length } }

end State

/-- SYSDRN_SNAP (R323). At spot: the cluster and the value. -/
def execSysdrnSnap (s : State) : Host.Outcome State Fault Refusal :=
  .next (if flag s.spot.v0 0 then s.snap s.spot.place else s)

/-- SYSDRN_DRAINED (R323). At spot: the cluster. -/
def execSysdrnDrained (s : State) : Host.Outcome State Fault Refusal :=
  let cid := s.spot.place
  .next (if (s.cluster cid).draining && s.snapEnded cid then s.setDrained cid else s)

namespace State

/-- The clusters in which a core's task entry meets a test. -/
def clustersWhere (s : State) (p : Nat → Bool) : List Nat :=
  (((s.cores.map Prod.fst).filter fun q => !isService q && s.entryState q != 0 && p q).map fun q => q / 8).eraseDups

end State

/-- IOMMU_INVALIDATION (R323): the entries of a PASID for a range of pages are invalidated in every cluster of the task, and
each cluster is drained before the completion is sent. At spot: the PASID, the address and the number of 64 KiB pages. -/
def execIommuInvalidation (s : State) : Host.Outcome State Fault Refusal :=
  let pasid := s.spot.place
  let lo := fld s.spot.v0 16 40
  let hi := lo + s.spot.v1.toNat
  let clusters := s.clustersWhere fun q => s.entryPasid q == pasid
  let hit (e : TlbEntry) : Bool :=
    e.pasid == pasid && decide (e.base / 2 ^ 16 < hi) && decide (lo < e.base / 2 ^ 16 + 2 ^ (e.shift - 16))
  let s1 := clusters.foldl (fun u c => (u.dropTlb c hit).snap c) s
  .next
    { s1 with
      host := if clusters.isEmpty then { s.host with drained := s.host.drained + 1 }
              else { s.host with draining := s.host.draining ++ [clusters] } }

/-! ### Flatar's calls (R327, R330) -/

namespace State

/-- A fibre stands at the entry of supervisor code with a call that Flatar serves (R306, R330): its core runs, with its clock
(R178), and is not fenced (R340). -/
def calls (s : State) (pid n : Nat) : Bool :=
  let f := s.slot pid n
  f.live && !f.frozen && f.sup && f.epcv && !f.pending 0 && f.settle.isNone && s.running pid && s.clusterRuns (pid / 8) &&
    !(s.core pid).fenced &&
    f.pc == (s.core pid).tvec.setWidth 56

/-- The result of a call in g0, and TRET (R330). -/
def returnCall (s : State) (pid n : Nat) (v : Word) : State := s.onSlot pid n fun f => (f.write 0 v).trapReturn

/-- Clusters in which the task of a core holds a core. -/
def taskClusters (s : State) (pid : Nat) : List Nat := s.clustersWhere fun q => s.entryTask q == s.entryTask pid

/-- A frame may be mapped for a core's task (R322): its home lies in the partition, or it is system space. -/
def mappable (s : State) (pid pa : Nat) : Bool :=
  match place pa with
  | some (h, _) =>
    (match h.region? with
     | some r => (s.region (pid / 512)).mask.getLsbD r
     | none => true)
  | none => false

/-- The rights of a frame as R322 limits them: U = 0 for control spaces, W = 0 for rim flash. -/
def limitRights (pa perm : Nat) : Nat :=
  match place pa with
  | some (.flash _ _, .memory) => (BitVec.ofNat 4 perm &&& 0xD#4).toNat
  | some (_, .memory) => perm
  | some (_, .podWindow) => perm
  | _ => perm % 8

/-- One 64 KiB page mapped in a cluster TLB: what overlapped it is invalidated first (log 26). -/
def mapPage (s : State) (cid pasid page pa perm : Nat) : State :=
  let e : TlbEntry :=
    { tag := Word.ofNat (page * 2 ^ 20 + pasid), entry := Word.ofNat (pa / 2 ^ 16 * 2 ^ 16 + perm * 2 + 1) }
  let s1 := s.dropTlb cid fun x => x.valid && x.overlaps e
  s1.writeTlb cid ((freeIndex (s1.cluster cid).tlb 2048).getD 0) e

/-- The first pager entry with V = 1 that holds an address, by number (R327); an address that is not canonical lies in none. -/
def pagerIndex (s : State) (pid : Nat) (va : Word) : Option Nat :=
  let word (i w : Nat) : Word := (s.structWord pid (s.entryAddr pid 7 + Word.ofNat (i * 32 + w * 8))).getD 0
  (List.range 8).find? fun i =>
    canonical va && flag (word i 3) 31 && decide (fld (word i 0) 16 40 ≤ fld va 16 40) &&
      decide (fld va 16 40 < fld (word i 0) 16 40 + fld (word i 1) 16 25)

/-- PAGEIN (R330): its result, and the state after it. -/
def pageIn (s : State) (pid : Nat) (va : Word) : Word × State :=
  match s.pagerIndex pid va with
  | none => (1, s)
  | some i =>
    let word (w : Nat) : Word := (s.structWord pid (s.entryAddr pid 7 + Word.ofNat (i * 32 + w * 8))).getD 0
    if fld (word 2) 0 48 = 0 then (2, s)
    else
      let pa := (fld (word 2) 0 48 + (fld va 0 56 - fld (word 0) 0 56)) / 2 ^ 16 * 2 ^ 16
      if !s.mappable pid pa then (0, s)
      else
        (0, (s.taskClusters pid).foldl
          (fun u c => u.mapPage c (s.entryPasid pid) (fld va 16 40) pa (limitRights pa (fld (word 3) 24 4))) s)

/-- A word that a fibre's user-mode translation can read (R330): its address is canonical, its page permits a load, and it holds
no uncorrected error. -/
def userWord (s : State) (pid : Nat) (va : Word) : Option Word :=
  if !canonical va then none
  else
    match s.tlbLookup (pid / 8) (s.entryPasid pid) va with
    | some (_, e) =>
      if (e.permits false .load).isSome || (physFault false .load (e.phys va)).isSome || podFault .load (e.phys va) ||
          s.eccBad (e.phys va) 8 then none
      else some (s.word (e.phys va))
    | none => none

/-- Flatar's walk for a page of a call has not ended: no entry of the cluster's TLB holds the address, and the walk has not
found that there is no mapping (R322, R330, log 26). -/
def walking (s : State) (pid : Nat) (va : Word) (found : Bool) : Bool :=
  canonical va && !found && (s.tlbLookup (pid / 8) (s.entryPasid pid) va).isNone

/-- The pager table of a core's task can be reached: Flatar's own accesses to it are translated first, and performed at their homes
(R330, log 26). -/
def pagerReached (s : State) (pid : Nat) : Bool :=
  s.entryAddr pid 7 == 0 ||
    [0, 255].all fun o => (s.structAddr pid (s.entryAddr pid 7 + Word.ofNat o)).any s.structReady

/-- The home of an argument's word performs now, or there is no such word (R154, R350). -/
def argumentReady (s : State) (pid : Nat) (va : Word) : Bool :=
  match s.tlbLookup (pid / 8) (s.entryPasid pid) va with
  | some (_, e) => (place (e.phys va)).isNone || s.structReady (e.phys va)
  | none => true

/-- Words of a task structure written from an address up, stores of the core on which Flatar runs (R166); none where one cannot be
reached. -/
def storeStructs (s : State) (pid : Nat) (va : Word) : List Word → Option State
  | [] => some s
  | w :: ws =>
    match s.structAddr pid va with
    | some pa => (s.unitStore (s.rankOf pid) pa w).storeStructs pid (va + 8) ws
    | none => none

/-- PAGER.SET (R330): its result, and the state after it; the entry named by word 3 [34:32] gets the four words. A task without a
pager table has no entry to replace: the field is outside its limits (log 26). -/
def pagerSet (s : State) (pid : Nat) (va : Word) : Word × State :=
  match s.userWord pid va, s.userWord pid (va + 8), s.userWord pid (va + 16), s.userWord pid (va + 24) with
  | some w0, some w1, some w2, some w3 =>
    if s.entryAddr pid 7 = 0 ∨ fld w0 0 16 ≠ 0 ∨ fld w0 56 8 ≠ 0 ∨ fld w1 0 16 ≠ 0 ∨ fld w1 41 23 ≠ 0 ∨ fld w1 16 25 = 0 ∨ fld w2 48 16 ≠ 0 ∨
        fld w3 28 3 ≠ 0 ∨ fld w3 35 29 ≠ 0 then (1, s)
    else
      match s.storeStructs pid (s.entryAddr pid 7 + Word.ofNat (fld w3 32 3 * 32)) [w0, w1, w2, Word.ofNat (fld w3 0 32)] with
      | some t => (0, t)
      | none => (1, s)
  | _, _, _, _ => (3, s)

/-- PAGEOUT (R330): the page is unmapped in every cluster of the task, and each is drained; the call returns when they
are. A page is mapped where a cluster TLB of the task holds it, or where Flatar's page tables do, as `listed` says (log 26). -/
def pageOut (s : State) (pid n : Nat) (listed : Bool) : State :=
  let va := (s.slot pid n).reg 0
  let key := (s.entryPasid pid, fld va 16 40)
  let clusters := s.taskClusters pid
  if (s.core pid).unmapping.contains n then
    if clusters.all fun c => !(s.cluster c).draining then
      (s.onCore pid fun c => { c with unmapping := c.unmapping.filter fun m => m != n }).returnCall pid n 0
    else s
  else if canonical va && (listed || clusters.any fun c => (s.cluster c).tlb.any fun e => e.2.holds key) then
    (clusters.foldl (fun u c => (u.dropTlb c fun e => e.holds key).snap c) s).onCore pid fun c =>
      { c with unmapping := n :: c.unmapping }
  else s.returnCall pid n 1

/-- A call served (R330): any other code gives all ones. A call that needs a page whose walk has not ended, or the pager table
while it is not reached, is served later. `found` says that Flatar's walk has found no mapping of PAGER.SET's argument, or a mapping
of PAGEOUT's. -/
def serve (s : State) (pid n code : Nat) (found : Bool) : State :=
  let f := s.slot pid n
  let waits :=
    match f.tcause.toNat with
    | 0x21 => !s.pagerReached pid
    | 0x22 =>
      !s.pagerReached pid || s.walking pid (f.reg 0) found || s.walking pid (f.reg 0 + 24) found ||
        !s.argumentReady pid (f.reg 0) || !s.argumentReady pid (f.reg 0 + 24)
    | _ => false
  if !s.calls pid n || waits then s
  else if f.tcause.toNat ≠ 0x21 ∧ f.tcause.toNat ≠ 0x22 ∧ f.tcause.toNat ≠ 0x23 then
    s.returnCall pid n (BitVec.allOnes 64)
  else if f.tcause.toNat ≠ code then s
  else if code = 0x21 then (s.pageIn pid (f.reg 0)).2.returnCall pid n (s.pageIn pid (f.reg 0)).1
  else if code = 0x22 then (s.pagerSet pid (f.reg 0)).2.returnCall pid n (s.pagerSet pid (f.reg 0)).1
  else s.pageOut pid n found

end State

/-- PAGEIN (R330): call 0x0021 of a fibre that has just trapped. At spot: the core and the slot. -/
def execPagein (s : State) : Host.Outcome State Fault Refusal := .next (s.serve s.spot.place s.spot.item 0x21 false)

/-- PAGER_SET (R330): call 0x0022. At spot: the core and the slot, and 1 where Flatar's walk has found no mapping for the
argument. -/
def execPagerSet (s : State) : Host.Outcome State Fault Refusal := .next (s.serve s.spot.place s.spot.item 0x22 (s.spot.v0 != 0))

/-- PAGEOUT (R330): call 0x0023. At spot: the core and the slot, and 1 where Flatar's page tables hold the page. -/
def execPageout (s : State) : Host.Outcome State Fault Refusal := .next (s.serve s.spot.place s.spot.item 0x23 (s.spot.v0 != 0))

/-! ### Uncorrected errors (R332) -/

namespace State

/-- A SUPERVISOR word of a core to service core 0 of its region (R338). -/
def tellFlatar (s : State) (src : Port) (from_ r : Nat) (sel data : Word) : State :=
  s.send src (.core (r * 512 + 504))
    { kind := .supervisor, tc := 0, ecls := 0, prio := 3, size := false, dest := serviceRank r, task := 0, src := from_ }
    sel [data]

end State

namespace State

/-- An error counted in ECNT of a bank of a region, in this ac of its strip (R372). -/
def countEcc (s : State) (r b : Nat) (hard : Bool) : State :=
  let a := controlBase r + 0x4000 + 8 * b
  let ac := s.regionAc r
  (s.setCtl a (errorCounted (s.ctl a 0) hard)).onRegion r fun x =>
    { x with counted := (ac, (if x.counted.1 = ac then x.counted.2 else []) ++ [(b, hard)]) }

end State

/-- The bank number of the n-th bank of context SRAM, queue banks, TLBs and stations (R372). -/
def otherBank (n : Nat) : Nat := 2608 + n % 16

/-- UNCORRECTED_REPORT (R332, R338, R372): an uncorrected word of a core's x or q registers, counters, station or queue bank is
reported to Flatar; one of a fibre's slot freezes that fibre; it is counted in its bank. At spot: the core, the unit (5 for a
slot), the word's address or the slot, and the number of the bank. -/
def execUncorrectedReport (s0 : State) : Host.Outcome State Fault Refusal :=
  let pid := s0.spot.place
  let s := s0.countEcc (pid / 512) (otherBank s0.spot.v1.toNat) true
  if s.spot.item ≤ 4 then
    .next ((s.onCore pid fun c => { c with unc := true }).tellFlatar (.core pid) (s.rankOf pid) (pid / 512)
      (Word.ofNat (8 * 2 ^ 48 + s.spot.item * 2 ^ 16 + 0x8000 + pid)) s.spot.v0)
  else
    let n := s.spot.v0.toNat
    if s.spot.item = 5 ∧ (s.slot pid n).live = true then
      .next ((s.onSlot pid n fun f => { f with unc := true }).raiseFault pid n
        { code := .uncorrected, kind := .context, va := 0, under := 0, info := 0, owed := none })
    else .next s0

/-! ### Task entries (R99, R100, R110, R123, R127) -/

/-- The fields of the words of a task entry (R100). -/
def entryMask (i : Nat) : Word :=
  match i with
  | 0 => 0xFF07FFFFFF0FFF03#64
  | 2 => 0x00000000FFFFFFFF#64
  | _ => 0x00FFFFFFFFFFFFFF#64

namespace State

/-- cr.mbcfg of a core keeps its limits (R110), so that a placement succeeds: beside a core of the bank that holds a task, the
two partitions in force may not overlap. -/
def mailboxOk (s : State) (pid : Nat) : Bool :=
  let w := (s.core pid).mbcfg
  let base := fld w 0 11
  let size := fld w 16 12
  let mres := fld w 32 6
  let other := if pid % 2 = 0 then pid + 1 else pid - 1
  let o := (s.core other).mbInForce
  decide (mres ≤ 32) && size % 64 == 0 && decide (64 ≤ size) && decide (size ≤ 2048) && decide (mres + 32 ≤ size) &&
    decide (base + size ≤ 2048) &&
    (s.coreDead other || s.entryState other == 0 || decide (base + size ≤ fld o 0 11) || decide (fld o 0 11 + fld o 16 12 ≤ base))

end State

/-- Operations of an earlier task on a core, which no later fibre may take for its own (R123). -/
def staleTags (t : Tab Tag) : Tab Tag := t.map fun e => (e.1, { e.2 with slot := 256 })

/-- A hod operation of an earlier task (R123): it completes at its destinations, and tells no one. -/
def HodOp.orphan (o : HodOp) : HodOp :=
  { o with slot := 256, clip := none, dests := o.dests.map fun d => { d with notes := [] } }

/-- A unit without what it performs for a core. -/
def VecUnit.without (u : VecUnit) (pid : Nat) : VecUnit :=
  { u with run := u.run.filter fun r => r.core != pid }

/-- A core as a placement leaves it (R123), its entry apart: registers of the networks, of Flatar and of the router keep
what they hold, and operations in flight write nothing for the new task. -/
def Core.placed (pid : Nat) (c : Core) : Core :=
  { Core.initial pid with
    entry := c.entry
    mbcfg := c.mbcfg
    mbInForce := c.mbcfg
    muweight := c.muweight
    wdog := c.wdog
    exc := c.exc
    grant := c.grant
    arv := c.arv
    seenArv := c.seenArv
    seenExc := c.seenExc
    seenFence := c.seenFence
    chg := c.chg
    fenced := c.fenced
    errs := c.errs
    inbox := c.inbox
    opNo := c.opNo
    tags := staleTags c.tags
    hods := c.hods.map HodOp.orphan
    ops := (c.ops.filter fun o => c.hods.any fun h => h.no == o.no).map fun o => { o with slot := 256 }
    gk := { Gather.initial with tags := c.gk.abandon.tags }
    went := none
    saving := c.saving
    clearing := true }

namespace State

/-- A core's queued work leaves the cluster's units (R123); tokens above NEXT pass back where no level-paced engine executes any
more (R233, R258). -/
def leaveUnits (s : State) (pid : Nat) : State :=
  (s.onCluster (pid / 8) fun c =>
    { c with
      vec0 := c.vec0.without pid
      vec1 := c.vec1.without pid
      exp := c.exp.without pid
      mat := if c.mat.core = some (pid % 8) then { c.mat with core := none } else c.mat
      rot := if c.rot.core = some (pid % 8) then { c.rot with core := none } else c.rot }).settleTokens (pid / 8)

/-- What other cores still do for a context of core pid, which a placement ends (R123, R337), tells no one. -/
def forsake (s : State) (pid : Nat) : State :=
  { s with
    cores := s.cores.map fun e =>
      (e.1, if e.2.went = some pid then { e.2 with went := none, hods := e.2.hods.map HodOp.orphan } else e.2) }

/-- EXC of a core set at every level at which it is 0 (R127). -/
def excuseAll (s : State) (pid : Nat) : State :=
  [1, 2, 3, 4].foldl (fun u l => if levelBit (u.core pid).exc l then u else u.excuse pid l true) s

/-- Word i of a core's task entry written by a store (R100). -/
def writeEntry (s : State) (pid : Nat) (i : Fin 8) (v : Word) : State :=
  let w := s.entryWord pid i
  let st := s.entryState pid
  let opened := st ≤ 1
  let set (u : State) (x : Word) : State := u.onCore pid fun c => { c with entry := c.entry.set i x }
  if i.val ≠ 0 then (if opened then set s (v &&& entryMask i.val) else s)
  else
    let next := fld v 0 2
    let kept := (if opened then v &&& entryMask 0 else w) &&& ~~~3#64
    if st = 0 ∧ next = 1 then
      if s.mailboxOk pid then
        (((set s (kept ||| 1)).onCore pid (Core.placed pid)).leaveUnits pid).forsake pid
      else set s kept
    else if st = 1 ∧ next = 2 then
      -- The start fibre is born in the next ac (R122).
      (set s (kept ||| 2)).onCore pid fun c =>
        { c with slots := c.slots.map fun e => (e.1, e.2.wake (s.coreAc pid)), delivAt := some (s.coreAc pid) }
    else if st ≤ 2 ∧ next = 0 then ((set s kept).onCore pid fun c => { c with clearing := false }).excuseAll pid
    else set s (kept ||| Word.ofNat st)

end State

/-- TASK_ENTRY_PLACE (R100, R123): a store that takes the entry from FREE to PLACING. At spot: the core and the value. -/
def execTaskEntryPlace (s : State) : Host.Outcome State Fault Refusal :=
  let pid := s.spot.place
  .next (if s.entryState pid = 0 ∧ fld s.spot.v0 0 2 = 1 then s.writeEntry pid 0 s.spot.v0 else s)

/-- TASK_ENTRY_RUN (R100, R122): a store that takes the entry from PLACING to RUNNING. At spot: the core and the value. -/
def execTaskEntryRun (s : State) : Host.Outcome State Fault Refusal :=
  let pid := s.spot.place
  .next (if s.entryState pid = 1 ∧ fld s.spot.v0 0 2 = 2 then s.writeEntry pid 0 s.spot.v0 else s)

/-- TASK_ENTRY_FREE (R100): a store that takes the entry to FREE. At spot: the core and the value. -/
def execTaskEntryFree (s : State) : Host.Outcome State Fault Refusal :=
  let pid := s.spot.place
  .next (if 1 ≤ s.entryState pid ∧ s.entryState pid ≤ 2 ∧ fld s.spot.v0 0 2 = 0 then s.writeEntry pid 0 s.spot.v0 else s)

/-- PLACEMENT_CLEAR_DONE (R123): the clear of TCM and station ends; what waits at the port proceeds. At spot: the core. -/
def execPlacementClearDone (s : State) : Host.Outcome State Fault Refusal :=
  let pid := s.spot.place
  if (s.core pid).clearing && s.clusterRuns (pid / 8) then
    let lo := tcmBase pid
    let s1 := s.onCore pid fun c => { c with clearing := false, station := [], active := none, incoming := none }
    .next
      { s1 with
        mem := Memory.clear s1.mem lo (lo + 0x40000)
        bad := s1.bad.filter fun w => !(decide (lo ≤ 8 * w) && decide (8 * w < lo + 0x40000)) }
  else .next s

/-! ### Watchdogs, fences, lock release (R339, R340, R164) -/

/-- WATCHDOG_EXPIRY (R339): the count has reached LIMIT. At spot: the core. -/
def execWatchdogExpiry (s : State) : Host.Outcome State Fault Refusal :=
  let pid := s.spot.place
  let c := s.core pid
  if flag c.wdog 31 && !flag c.wdog 32 && fld c.wdog 0 20 != 0 && decide (fld c.wdog 0 20 * 1024 ≤ c.wdogCount) then
    .next ((s.onCore pid fun c => { c with wdog := c.wdog ||| 0x100000000#64 }).tellFlatar (.core pid) (s.rankOf pid)
      (pid / 512) (Word.ofNat (6 * 2 ^ 48 + 0x8000 + pid)) (s.time (pid / 512)))
  else .next s

namespace State

/-- A core fenced or unfenced (R340): a change reaches the root of every level as an excuse does. -/
def setFence (s : State) (pid : Nat) (v : Bool) : State :=
  if (s.core pid).fenced = v then s
  else
    [1, 2, 3, 4].foldl (fun u l => u.signal pid l (.fence v)) (s.onCore pid fun c => { c with fenced := v })

/-- FENCEC of a cluster (R340). -/
def fencec (s : State) (cid : Nat) : Word :=
  Word.ofNat (((List.range 8).map fun k => if (s.core (8 * cid + k)).fenced then 2 ^ k else 0).sum)

/-- A write of FENCEC. -/
def writeFencec (s : State) (cid : Nat) (v : Word) : State :=
  (List.range 8).foldl (fun u k => u.setFence (8 * cid + k) (flag v k)) s

end State

/-- FENCEC_WRITE (R340). At spot: the cluster and the value. -/
def execFencecWrite (s : State) : Host.Outcome State Fault Refusal := .next (s.writeFencec s.spot.place s.spot.v0)

/-- The range-lock table of a number: clusters, then regions from 0x10000, then stacks from 0x20000. -/
def lockTableOf (n : Nat) : LockTable :=
  if n < 0x10000 then .cluster n else if n < 0x20000 then .region (n - 0x10000) else .stack (n - 0x20000)

/-- RANGE_LOCK_RELEASE (R164): a supervisor store of 0 to word 2 of an entry. At spot: the table and the entry. -/
def execRangeLockRelease (s : State) : Host.Outcome State Fault Refusal :=
  .next (s.releaseEntry (lockTableOf s.spot.place) s.spot.item)

end Sys2Proof.Machine
end

