-- ==== Sys2Proof/Machine/Token.lean ====
section
/-!
DEFINITION. The token economy: the instructions (R227 to R232), the words at the zone brokers (R229 to R231, R255, R256, R260),
notices at the cluster (R233, R257, R259), and the region broker (R261 to R264).
-/

namespace Sys2Proof.Machine

/-! ### The instructions (R227 to R232) -/

namespace State

/-- A request to the zone broker (R227): a tag, rd pending, a TC0 word. -/
def askBroker (s : State) (rd : Reg) (ask level other : Nat) (place : Word) : Except Stop State := do
  let pid := s.cur.core
  let (n, t) ← s.takeTag
    { slot := s.cur.slot, gen := s.me.gen, use := .value rd .instruction, scope := .region,
      pc := (s.me.pc - 4#56).signExtend 64, place := place, issuer := s.cur.core }
  let m : Msg :=
    { rw := (t.fibreRouting .supervisor 0 0xFFFF false).word, sel := Word.ofNat (n * 2 ^ 55), data := [0] }
  .ok ((t.inject (.core pid) (.zone (pid / 512) (zoneOf (pid / 8))) 0 (.token pid ask level other m)).setPending rd .load)

end State

/-- The need of a token request (R43, R227). -/
def Need.token (reads writes : List Reg) : Need := { Need.plain reads writes with engine := some .matrix }

/-- TKREQ (R229). -/
def execTkreq (rd a : Reg) (s : State) :=
  s.issue (.token [a] [rd]) fun t => do
    let w := t.reg a
    require (decide (fld w 0 4 ≤ 8) && fld w 4 4 == 0 && fld w 9 55 == 0) .illegal .instruction 0
    t.askBroker rd 0 (fld w 0 4) (if flag w 8 then 1 else 0) w

/-- ECLS (R232). -/
def execEcls (rd a : Reg) (s : State) :=
  s.issue (.plain [a] [rd]) fun t => do
    require (fld (t.reg a) 3 61 == 0) .illegal .instruction 0
    let old := t.me.ecls
    .ok ((t.onMe fun f => { f with ecls := (t.reg a).setWidth 3 }).setReg rd (old.setWidth 64))

/-! ### What the instructions do to the cluster's tokens -/

namespace State

/-- A TKLEND that the cluster's token logic takes now (R231, R257): KEEP lies below the grant, and no lend and no notice
stands. -/
def mayLend (s : State) (cid keep : Nat) : Bool :=
  let t := s.tokens cid
  decide (keep < t.gl) && !t.lending && t.lendAsk.isNone && !t.notice && t.tgt == 15

end State

/-- TKLEND (R230, R231): NEXT falls to KEEP in the issue ac; a word that changes nothing says so to the broker. -/
def execTklend (rd a : Reg) (s : State) :=
  s.issue (.token [a] [rd]) fun t => do
    let w := t.reg a
    require (decide (fld w 0 4 ≤ 8) && fld w 4 28 == 0 && fld w 32 32 != 0) .illegal .instruction 0
    let cid := t.cur.core / 8
    let takes := (t.endNotice cid).mayLend cid (fld w 0 4)
    let u ← (t.endNotice cid).askBroker rd (if takes then 2 else 3) (fld w 0 4) (fld w 32 32) w
    .ok
      (if takes then
        (u.onTokens cid fun x => { x with lendAsk := some (fld w 0 4, fld w 32 32) }).lowerNext cid (fld w 0 4)
      else u)

/-- TKQ (R228, R232): 0 on a V cluster and on a service core. -/
def execTkq (rd : Reg) (s : State) :=
  s.compute (.plain [] [rd]) rd fun t =>
    if isService t.cur.core || kindOf (t.cur.core / 8 % 64) == .vector then 0
    else ((t.endNotice (t.cur.core / 8)).tokens (t.cur.core / 8)).word

/-- TKRET (R230): NEXT falls in the issue ac. -/
def execTkret (rd a : Reg) (s : State) :=
  s.issue (.token [a] [rd]) fun t => do
    let w := t.reg a
    require (decide (fld w 0 4 ≤ 8) && fld w 4 60 == 0) .illegal .instruction 0
    -- In the last ac of a notice period the TKRET is applied before the throttle (R257).
    let u ← t.askBroker rd 1 (fld w 0 4) 0 w
    .ok (if fld w 0 4 < (u.tokens (u.cur.core / 8)).gl then u.lowerNext (u.cur.core / 8) (fld w 0 4) else u)

/-! ### Words at the broker (R229 to R231, R255, R256, R260) -/

namespace State

/-- A TKREQ at the broker (R229, R255, R256). -/
def brokerRequest (s : State) (cid level : Nat) (wait : Bool) (w : TokenWord) : State :=
  let t := s.tokens cid
  let r := cid / 64
  let z := zoneOf cid
  let k := tokenCost cid
  if level ≤ (if t.lending then t.keep else t.gl) then s.tokenReply cid w
  else if level ≤ t.gl ∧ t.tgt = 15 then
    -- A recall (R229); a later one takes the place of an earlier one. With WAIT = 0 it is served where its tokens are free, and
    -- otherwise answered with no change (R256, log 22).
    let got := match t.reclaim with | some (_, n, _) => n | none => 0
    let all := k * (level - t.keep)
    if !wait && (decide ((s.zone r z).loaned + got < all) || decide (s.tokenCap r < s.regionHeld r + all)) then s.tokenReply cid w
    else
      let s1 := match t.reclaim with | some (_, _, some v) => s.tokenReply cid v | _ => s
      let s2 := s1.onTokens cid fun x => { x with reclaim := some (level, got, some w) }
      (if wait then s2 else s2.endLend cid).runBroker r z
  else if wait then
    let s1 := match t.waiting with | some (v, _) => s.tokenReply cid v | none => s
    ((s1.onTokens cid fun x => { x with waiting := some (w, s.seq) }).tick).runBroker r z
  else if t.tgt ≠ 15 then s.tokenReply cid w
  else
    let queued := ((zoneClusters r z).map fun c =>
      match (s.tokens c).waiting with
      | some (v, _) => s.lacking c (askedLevel v)
      | none => 0).sum
    let f := s.grantable r z - queued
    let best := ((List.range (level + 1)).filter fun l => decide (t.gl < l) && decide (s.lacking cid l ≤ f)).getLastD t.gl
    if best ≤ t.gl then s.tokenReply cid w
    else
      -- A grant at once leaves a request that the cluster has queued where it is.
      (((s.grantLevel cid best w).onTokens cid fun x => { x with waiting := t.waiting }).runBroker r z)

/-- A TKRET at the broker (R230): at or above the grant it changes nothing; otherwise it is answered when the tokens are
back. A grant that overtook it at the broker is lowered by it as well. The entry has changed, so the broker runs (R255). -/
def brokerReturn (s : State) (cid level : Nat) (w : TokenWord) : State :=
  if (s.tokens cid).gl ≤ level then s.tokenReply cid w
  else
    let s1 := (s.lowerGrant cid level).onTokens cid fun x => { x with next := min x.next level }
    let t := s1.tokens cid
    if tokenCost cid * t.next < t.held then
      let s2 := s1.onTokens cid fun x => { x with owed := x.owed ++ [w] }
      if s2.paced cid then s2.runBroker (cid / 64) (zoneOf cid) else s2.settleTokens cid
    else (s1.tokenReply cid w).runBroker (cid / 64) (zoneOf cid)

/-- A TKLEND at the broker (R231, R257, R260): one that the cluster has taken and whose tokens have not passed back waits for
them; any other is answered. -/
def brokerLend (s : State) (cid keep : Nat) (takes : Bool) (w : TokenWord) : State :=
  if takes && (s.tokens cid).lendAsk.isSome then
    (s.onTokens cid fun x => { x with keep := keep, owed := x.owed ++ [w] }).lowerNext cid keep
  else s.tokenReply cid w

/-- A token word at its broker, if it asks what an event serves: 0 TKREQ, 1 TKRET, 2 and 3 TKLEND. A dark region has no
broker (R265), and that of a region whose clock does not run waits (R178). -/
def brokerWord (s : State) (ask : Nat) (f : State → Nat → Nat → Nat → Nat → TokenWord → State) : State :=
  match s.front s.spot.place with
  | some p =>
    match p.load with
    | .token core a level other m =>
      let what : TokenAsk := if a = 0 then .request level (other == 1) else if a = 1 then .return_ level else .lend level other
      if min a 2 = ask then
        (if s.darkRouter p.here then s.taken s.spot.place
         else if !s.clusterRuns (p.here / 64 * 64 + 63) then s
         else f (s.taken s.spot.place) a (core / 8) level other { ask := what, core := core, reply := some m })
      else s
    | _ => s
  | none => s

end State

/-- BROKER_REQUEST (R255, R256). At spot: the packet's place in flight. -/
def execBrokerRequest (s : State) : Host.Outcome State Fault Refusal :=
  .next (s.brokerWord 0 fun t _ cid level other w => t.brokerRequest cid level (other == 1) w)

/-- BROKER_RETURN (R230). At spot: the packet's place in flight. -/
def execBrokerReturn (s : State) : Host.Outcome State Fault Refusal :=
  .next (s.brokerWord 1 fun t _ cid level _ w => t.brokerReturn cid level w)

/-- BROKER_LEND (R260). At spot: the packet's place in flight. -/
def execBrokerLend (s : State) : Host.Outcome State Fault Refusal :=
  .next (s.brokerWord 2 fun t a cid level _ w => t.brokerLend cid level (a == 2) w)

/-- LEND_EXPIRY (R260): DUR of a lend ends, at the broker, whose clock runs (R178). At spot: the cluster. -/
def execLendExpiry (s : State) : Host.Outcome State Fault Refusal :=
  let cid := s.spot.place
  let t := s.tokens cid
  match t.lendEnd with
  | some e =>
    if t.lending && t.reclaim.isNone && decide (e ≤ s.now) && s.clusterRuns (cid / 64 * 64 + 63) then
      .next ((s.onTokens cid fun x => { x with reclaim := some (x.gl, 0, none) }).runBroker (cid / 64) (zoneOf cid))
    else .next s
  | none => .next s

/-! ### Notices at the cluster (R233, R257, R259) -/

namespace State

/-- The COUNT that announces a notice (R259). -/
def announce (s : State) (cid : Nat) : State :=
  let w := (s.cluster cid).tknote
  if flag w 31 then
    match s.rankPort (8 * cid) (fld w 0 16) with
    | none => s
    | some dst =>
      s.send (.cluster cid) dst
        { kind := .count, tc := 0, ecls := 0, prio := 3, size := false, dest := fld w 0 16, task := fld w 32 12,
          src := fld w 44 16 }
        (Word.ofNat (fld w 16 6 * 2 ^ 32 + 1)) [0]
  else s

end State

/-- NOTICE_LANDS (R257): a notice that a pass-back has answered already takes no effect, nor does one in a dark region (R265).
At spot: the packet's place in flight. -/
def execNoticeLands (s : State) : Host.Outcome State Fault Refusal :=
  match s.front s.spot.place with
  | some p =>
    match p.load, p.dst with
    | .notice t, .cluster cid =>
      let s1 := s.taken s.spot.place
      let x := s.tokens cid
      if s.darkRouter p.here then .next s1
      else if 0 < x.stale then .next (s1.onTokens cid fun y => { y with stale := y.stale - 1 })
      else if x.tgt = t ∧ x.landed = none then
        .next ((s1.onTokens cid fun y => { y with notice := true, landed := some s.now }).announce cid)
      else .next s1
    | _, _ => .next s
  | none => .next s

/-- A core of a cluster issues TKRET in this ac. -/
def State.returnsNow (s : State) (cid : Nat) : Bool :=
  (List.range 8).any fun k =>
    s.mayIssue (8 * cid + k) &&
      (match s.pick (8 * cid + k) with
       | some (n, _) => (match s.fetch (8 * cid + k) n with | .ok (.tkret _ _, _) => true | _ => false)
       | none => false)

/-- NOTICE_PERIOD_END (R233, R257): a TKRET that takes effect in the last ac of the period is applied before the throttle. At spot:
the cluster. -/
def execNoticePeriodEnd (s : State) : Host.Outcome State Fault Refusal :=
  .next (if s.returnsNow s.spot.place then s else s.endNotice s.spot.place)

/-! ### The region broker and Flatar's writes (R253, R254, R261 to R263) -/

namespace State

/-- Own free tokens moved from donor zones (R262), from the one with most free tokens down, and of two with equally many from that
of the lower number (log 79): what was found, and the state. -/
def donate (s : State) (r asking : Nat) : Nat → Nat → List Nat → Nat × State
  | 0, _, _ => (0, s)
  | fuel + 1, d, zs =>
    if d = 0 then (0, s)
    else
      let own (z : Nat) : Nat := (s.zone r z).free - (s.zone r z).loaned
      match zs.foldl (fun (b : Option Nat) z =>
          match b with | none => some z | some y => if (s.zone r y).free < (s.zone r z).free then some z else b) none with
      | none => (0, s)
      | some z =>
        let n := min d (min (own z) ((s.zone r z).budget - (s.zone r z).floor))
        let s1 := s.onZone r z fun y => { y with free := y.free - n, budget := y.budget - n }
        let x := s1.donate r asking fuel (d - n) (zs.filter fun y => y != z)
        (n + x.1, x.2)

end State

/-- REGION_BROKER_MOVE (R262): with AUTO 0 nothing moves (R261). Serve runs in the asking zone alone: a move never starts a notice
in another zone. The strip's clock runs (R178). At spot: the region. -/
def execRegionBrokerMove (s : State) : Host.Outcome State Fault Refusal :=
  let r := s.spot.place
  if !s.clusterRuns (r * 64 + 63) then .next s
  else
  match (s.region r).asks with
  | (z, d) :: l =>
    let s1 := s.onRegion r fun x => { x with asks := l }
    if !flag (s.rbctl r) 11 then .next s1 else
    let x := s1.donate r z 3 d ((List.range 4).filter fun y => y != z)
    if x.1 = 0 then .next s1
    else .next (((x.2.onZone r z fun y => { y with free := y.free + x.1, budget := y.budget + x.1 }).runZone r z).settleCap r)
  | [] => .next s

namespace State

/-- A supervisor write of TKENT (R253): GL below the grant acts as a TKRET with no REPLY. -/
def writeTkent (s : State) (cid : Nat) (v : Word) : State :=
  let t := s.endNotice cid
  if fld v 0 4 < (t.tokens cid).gl then
    ((t.lowerGrant cid (fld v 0 4)).lowerNext cid (fld v 0 4)).runBroker (cid / 64) (zoneOf cid)
  else t

/-- ZBRK of a zone (R254). -/
def zbrk (s : State) (r z : Nat) : Word :=
  let k := s.zone r z
  let q := ((zoneClusters r z).filter fun c => (s.tokens c).waiting.isSome).length
  Word.ofNat (k.revcnt * 2 ^ 48 + q * 2 ^ 44 + k.floor * 2 ^ 33 + k.loaned * 2 ^ 22 + k.free * 2 ^ 11 + k.budget)

/-- A write of ZBRK (R254): a BUDGET that does not rise takes the region's total above nothing. A refused BUDGET still sets FLOOR
and clears REVCNT, and where FREE falls below LOANED the loaned tokens above it are gone (log 80). -/
def writeZbrk (s : State) (r z : Nat) (v : Word) : State :=
  let k := s.zone r z
  let b := fld v 0 11
  let total := ((List.range 4).map fun y => if y = z then b else (s.zone r y).budget).sum
  let s1 := s.onZone r z fun y => { y with floor := fld v 33 11, revcnt := 0 }
  let back := ((zoneClusters r z).map fun c => match (s.tokens c).reclaim with | some (_, n, _) => n | none => 0).sum
  if b < s.zoneHeld r z + back ∨ (k.budget < b ∧ fld (s.rbctl r) 32 11 < total) then s1.onRegion r fun x => { x with badb := true }
  else
    (s1.onZone r z fun y =>
      { y with budget := b, free := k.free + b - k.budget, loaned := min k.loaned (k.free + b - k.budget) }).runBroker r z

/-- RBCTL as it reads (R261). -/
def readRbctl (s : State) (r : Nat) : Word :=
  s.rbctl r ||| (if (s.region r).badb then 0x400#64 else 0) ||| (if (s.region r).clock.g140 then 0x200#64 else 0)

/-- A write of RBCTL (R261, R263). -/
def writeRbctl (s : State) (r : Nat) (v : Word) : State :=
  let refused := decide (1440 < fld v 32 11) || decide (fld v 32 11 < s.regionHeld r)
  let mask : Word := if refused then 0xFFFF000000000900#64 else 0xFFFF07FF00000900#64
  let s1 := s.setCtl (controlBase r + 0x780) (fields mask (s.rbctl r) v)
  let s2 := s1.onRegion r fun x =>
    { x with
      badb := refused || (x.badb && !flag v 10)
      clock := { x.clock with g140 := x.clock.g140 && flag v 8 } }
  (s2.settleCap r).runBroker r 0

end State

/-- TKENT_GL_WRITE (R253). At spot: the cluster and the value. -/
def execTkentGlWrite (s : State) : Host.Outcome State Fault Refusal := .next (s.writeTkent s.spot.place s.spot.v0)

/-- ZBRK_BUDGET_WRITE (R254). At spot: the region, the zone and the value. -/
def execZbrkBudgetWrite (s : State) : Host.Outcome State Fault Refusal :=
  .next (if s.spot.item < 4 then s.writeZbrk s.spot.place s.spot.item s.spot.v0 else s)

/-- RBCTL_WRITE (R261). At spot: the region and the value. -/
def execRbctlWrite (s : State) : Host.Outcome State Fault Refusal := .next (s.writeRbctl s.spot.place s.spot.v0)

end Sys2Proof.Machine
end

