-- ==== Sys2Proof/Machine/Elements.lean ====
section
/-!
DEFINITION. Elements of vectors and matrices: the format codes (R202), packing (R190), exact sums, and 2^x correctly rounded
(R206, R274).
-/

namespace Sys2Proof.Machine

/-! ### Format codes (R202) -/

/-- The width in bits of a format code; 0 for a reserved one. -/
def elemBits (fmt : Nat) : Nat :=
  match fmt with
  | 0 | 8 | 12 => 32
  | 1 | 2 | 9 | 13 => 16
  | 3 | 4 | 10 | 14 => 8
  | 5 => 4
  | _ => 0

/-- The float format of a code from 0 to 5. -/
def fmtOf (fmt : Nat) : Fmt :=
  match fmt with
  | 0 => .fp32 | 1 => .bf16 | 2 => .fp16 | 3 => .e4m3 | 4 => .e5m2 | _ => .e2m1

/-- A code of a signed or unsigned integer format. -/
def isIntFmt (fmt : Nat) : Bool := decide (8 ≤ fmt) && elemBits fmt != 0

/-- A code of a signed integer format. -/
def isSignedFmt (fmt : Nat) : Bool := fmt == 8 || fmt == 9 || fmt == 10

/-- The integer of a pattern of an integer format. -/
def elemInt (fmt v : Nat) : Int :=
  if isSignedFmt fmt && decide (2 ^ (elemBits fmt - 1) ≤ v) then (v : Int) - 2 ^ elemBits fmt else v

/-- The range of an integer format. -/
def intRange (fmt : Nat) : Int × Int :=
  if isSignedFmt fmt then (-(2 ^ (elemBits fmt - 1)), 2 ^ (elemBits fmt - 1) - 1) else (0, 2 ^ elemBits fmt - 1)

/-- An exact integer as an element: clamped to the format's range, or its low bits (R207). -/
def intElem (fmt : Nat) (sat : Bool) (i : Int) : Nat :=
  let r := intRange fmt
  let j := if sat then max r.1 (min r.2 i) else i
  (j % 2 ^ elemBits fmt).toNat

/-- The value of an element as a number: a float format's, or the integer (R206, R210). -/
def elemValue (fmt v : Nat) : FVal := if isIntFmt fmt then .fin (.ofInt (elemInt fmt v) 0) else (fmtOf fmt).value v

/-! ### Packing (R190) -/

/-- Bytes that n elements of w bits take, packed: 4-bit by two in a byte, 6-bit by four in three bytes. -/
def packedBytes (w n : Nat) : Nat := if w = 6 then 3 * ((n + 3) / 4) else (n * w + 7) / 8

/-- Element i of w bits in a little-endian value of packed bytes. -/
def packedElem (w v i : Nat) : Nat := v / 2 ^ (w * i) % 2 ^ w

/-- The first n elements of w bits in a little-endian value of packed bytes. -/
def packedElems (w v n : Nat) : List Nat := (List.range n).map fun i => packedElem w v i

/-- The little-endian bytes of an element of n bytes. -/
def elemBytes (n v : Nat) : List Byte := (List.range n).map fun i => BitVec.ofNat 8 (v / 256 ^ i)

/-- The little-endian value of a list of bytes. -/
def bytesValue : List Byte → Nat
  | [] => 0
  | b :: bs => b.toNat + 256 * bytesValue bs

/-! ### Sums (R208, R218, R274) -/

/-- An exact sum of values: none where a term is a NaN, or where infinities of both signs are terms. -/
def exactSum (vs : List FVal) : Option FVal :=
  if vs.any FVal.isNaN then none
  else
    let pos := vs.any fun v => v == .inf false
    let neg := vs.any fun v => v == .inf true
    if pos && neg then none
    else if pos then some (.inf false)
    else if neg then some (.inf true)
    else
      some (.fin (vs.foldl
        (fun acc v =>
          match v with
          | .fin d => if d.num = 0 then acc else if acc.num = 0 then d else acc.add d
          | _ => acc) (Dyadic.zero false)))

/-- A rounding with a finite overflow turned to ±MAX where a form saturates (R206). -/
def saturate (F : Fmt) (sat : Bool) (r : Rounded) : Rounded :=
  if sat && r.flags.ovf then { r with bits := F.withSign (decide (2 ^ F.body ≤ r.bits)) F.maxBits } else r

/-- An exact sum rounded once: canonical NaN where there is none; a zero sum is +0, or -0 in RDN (R208). For Rot of R271 and Sum of
R274 the rules state no sign of a zero result, and +0 is the model's choice (log 84). -/
def roundSum (F : Fmt) (m : RMode) (vs : List FVal) : Rounded :=
  match exactSum vs with
  | none => ⟨F.canonNaN, {}⟩
  | some v => if v.isZero then ⟨F.withSign (m == .rdn) 0, {}⟩ else roundVal F m false v

/-! ### Powers of two (R206, R274) -/

/-- The fraction bits of the fixed-point numbers in which 2^f is computed. -/
def exp2Bits : Nat := 256

/-- A lower bound of 2^(f / 2^k) in units of 2^-256, for f below 2^k: the product of 2^(1/2^i) over the bits of f, `root`
being 2^(1/2^(k0-k)) and `acc` the product so far. -/
def exp2Chain : Nat → Nat → Nat → Nat → Nat
  | 0, _, _, acc => acc
  | k + 1, f, root, acc =>
    let r := isqrt (root * 2 ^ exp2Bits)
    exp2Chain k f r (if f / 2 ^ k % 2 = 1 then acc * r / 2 ^ exp2Bits else acc)

/-- 2^a rounded (R206): an integer power is exact; another power is irrational, and the bound stands so close below it that
no number of the format and no half-way point lies between. -/
def exp2 (F : Fmt) (m : RMode) (a : FVal) : Rounded :=
  match a with
  | .nan _ => ⟨F.canonNaN, {}⟩
  | .inf neg => if neg then ⟨F.withSign false 0, {}⟩ else roundInf F false false
  | .fin d =>
    if d.num = 0 then roundMag F m false false 1 0 false
    else if 11 ≤ expOf d.num d.exp then
      -- Beyond the exponent of every format.
      (if d.neg then roundMag F m false false 1 (-4096) true else roundMag F m false false 1 4096 false)
    else
      let k := (-d.exp).toNat
      let i := d.inUnits (min d.exp 0)
      let n := i.fdiv (2 ^ k)
      let f := (i - n * 2 ^ k).toNat
      if f = 0 then roundMag F m false false 1 n false
      else roundMag F m false false (exp2Chain k f (2 * 2 ^ exp2Bits) (2 ^ exp2Bits)) (n - exp2Bits) true

end Sys2Proof.Machine
end

