-- ==== Sys2Proof/Machine/Vector.lean ====
section
/-!
DEFINITION. The vector instructions (R201 to R211): their issue, their performance by the quad's vector unit, and what each
form computes.
-/

namespace Sys2Proof.Machine

/-! ### Forms (R206 to R210) -/

/-- What a form allows (R201, R206 to R210): its sources, formats, and whether it uses RMODE, SAT and IBASE. -/
structure VecForm where
  two   : Bool
  fmts  : List Nat
  rmode : Bool
  sat   : Bool
  ibase : Bool
deriving DecidableEq, Repr

/-- The float codes of vectors (R206). -/
def floatFmts : List Nat := [0, 1, 2]

/-- The integer codes (R207). -/
def intFmts : List Nat := [8, 9, 10, 12, 13, 14]

/-- The form of a major and minor8. -/
def vecForm (major minor : Nat) : VecForm :=
  match major with
  | 0x20 =>
    if minor ≤ 3 then ⟨true, floatFmts, true, true, false⟩
    else if minor ≤ 5 then ⟨true, floatFmts, false, false, false⟩
    else if minor ≤ 7 then ⟨false, floatFmts, false, false, false⟩
    else ⟨false, floatFmts, true, true, false⟩
  | 0x21 =>
    if minor ≤ 2 then ⟨true, intFmts, false, true, false⟩
    else if minor ≤ 7 then ⟨true, intFmts, false, false, false⟩
    else if minor ≤ 0x12 then ⟨true, intFmts ++ floatFmts, false, false, false⟩
    else if minor = 0x13 then ⟨true, [0, 1, 2, 3, 4, 8, 9, 10, 12, 13, 14], false, false, false⟩
    else if minor = 0x20 then ⟨false, intFmts ++ floatFmts, true, true, false⟩
    else if minor ≤ 0x22 then ⟨false, intFmts ++ floatFmts, false, false, false⟩
    else ⟨false, intFmts ++ floatFmts, false, false, true⟩
  | _ =>
    match minor with
    | 0 | 1 => ⟨false, [0], true, true, false⟩
    | 2 => ⟨false, floatFmts, true, false, false⟩
    | 3 => ⟨false, floatFmts, true, true, false⟩
    | 4 | 5 => ⟨false, floatFmts, false, false, false⟩
    | 6 => ⟨false, [1, 2, 3, 4, 9, 10, 13, 14], false, false, false⟩
    | _ => ⟨false, [0], false, false, false⟩

namespace VecOp

/-- A field of the descriptor (R201). -/
def field (o : VecOp) (lo n : Nat) : Nat := o.desc.toNat / 2 ^ lo % 2 ^ n
/-- N. -/
def n (o : VecOp) : Nat := o.field 0 13
/-- FMT. -/
def fmt (o : VecOp) : Nat := o.field 16 4
/-- SAT. -/
def sat (o : VecOp) : Bool := o.field 23 1 == 1
/-- INC. -/
def inc (o : VecOp) : Bool := o.field 28 1 == 1
/-- The rounding mode in force. -/
def rmode (o : VecOp) : RMode := RMode.ofRM o.mode

/-- The width of a source element: 4 and 6 bits in the packed forms. -/
def srcBits (o : VecOp) : Nat :=
  if o.major = 0x22 ∧ o.minor = 8 then 4 else if o.major = 0x22 ∧ 9 ≤ o.minor then 6 else elemBits o.fmt

/-- The format code of D. -/
def dstFmt (o : VecOp) : Nat :=
  if o.major = 0x22 then
    match o.minor with
    | 0 => 1 | 1 => 2 | 2 | 4 | 8 | 9 => 3 | 3 | 5 | 10 => 4 | _ => 0
  else o.fmt

/-- The bytes of an element of D: a pair of VNZS takes 8. -/
def dstElem (o : VecOp) : Nat := if o.major = 0x21 ∧ o.minor = 0x30 then 8 else elemBits o.dstFmt / 8

/-- A reduction (R208). -/
def reduces (o : VecOp) : Bool := o.major == 0x21 && (o.minor == 0x20 || o.minor == 0x21 || o.minor == 0x22)

/-- The bytes of D's range. -/
def dstBytes (o : VecOp) : Nat := if o.reduces then o.dstElem else o.n * o.dstElem

/-- The bytes of a memory or stream source. -/
def srcBytes (o : VecOp) : Nat := packedBytes o.srcBits o.n

/-- A stochastic conversion (R210). -/
def stochastic (o : VecOp) : Bool := o.major == 0x22 && (o.minor == 4 || o.minor == 5)

end VecOp

/-- The descriptor checks of R203: unused fields 0, N, FMT and RMODE in their limits. -/
def vecDescOk (f : VecForm) (o : VecOp) : Bool :=
  o.field 64 64 == 0 && o.field 29 3 == 0 && o.field 13 3 == 0 &&
    (f.ibase || o.field 32 32 == 0) && (f.two || o.field 26 2 == 0) && (f.sat || o.field 23 1 == 0) &&
    (if f.rmode && !isIntFmt o.fmt then decide (o.field 20 3 ≤ 4) else o.field 20 3 == 0) &&
    f.fmts.contains o.fmt && decide (1 ≤ o.n) && decide (o.n ≤ 4096)

/-! ### Issue (R203) -/

namespace State

/-- A memory operand of an engine (R31): its pages translated, checked Local, and free of locks that would stop it (R162). The
lock check comes last of all checks. -/
def memSource (s : State) (va : Word) (n al : Nat) : Except Stop (VecSource × State) := do
  let (ps, _, t) ← s.checkLocal .load .engine va n al
  .ok (.memory ps va n, t)

/-- RANGE_LOCKED where a range of n bytes from va hits a lock (R162). -/
def checkLocks (s : State) (ps : Pages) (a : Access) (va : Word) (n : Nat) : Except Stop Unit :=
  let r := ps.span va n
  match place r.1 with
  | some (h, _) => require (!s.ownLockHit h a r.1 (r.2 - r.1 + 1)) .rangeLocked .engine va
  | none => .ok ()

/-- RANGE_LOCKED where a memory source hits a lock as a load. -/
def checkSourceLocks (s : State) : VecSource → Except Stop Unit
  | .memory ps va n => s.checkLocks ps .load va n
  | _ => .ok ()

/-- A source of a form (R203): what SRC names. A stream's elements and a scalar's value are read when the instruction
issues. -/
def vecSource (s : State) (o : VecOp) (src : Nat) (r : Reg) : Except Stop (VecSource × State) :=
  match src with
  | 0 => s.memSource (s.reg r) o.srcBytes (max 1 (o.srcBits / 8))
  | 1 => do
    require (decide (r.val ≤ 3) && decide ((o.srcBytes + 7) / 8 ≤ 16)) .illegal .engine 0
    .ok (.values [], s)
  | 2 => do
    require (decide (8 ≤ o.srcBits) && o.srcBits != 6) .illegal .engine 0
    .ok (.scalar ((s.reg r).toNat % 2 ^ o.srcBits), s)
  | _ => trap .illegal .engine

end State

/-- A memory source that meets D otherwise than as the whole of it (R203). -/
def VecSource.clashes (s : VecSource) (va : Word) (n : Nat) : Bool :=
  match s with
  | .memory _ a k => overlaps a.toNat (a.toNat + k - 1) va.toNat (va.toNat + n - 1) && !(a == va && k == n)
  | _ => false

/-- The entries that a stream source takes from its queue (R203). -/
def VecOp.entries (o : VecOp) : Nat := (o.srcBytes + 7) / 8

/-- The elements of stream entries, oldest first, packed little-endian. -/
def VecOp.streamElems (o : VecOp) (words : List Word) : List Nat :=
  packedElems o.srcBits (words.foldr (fun w acc => w.toNat + 2 ^ 64 * acc) 0) o.n

namespace State

/-- Entries removed from a queue's head: what they held, and the state after. -/
def takeEntries (s : State) (q n : Nat) : List Word × State :=
  let l := s.myCore.q.toList.getD q []
  (l.take n, s.onMyCore fun c => { c with q := c.q.setIfInBounds q (l.drop n) })

/-- A stream source after its entries have been taken. -/
def fillStream (s : State) (o : VecOp) (src : Nat) (r : Reg) (v : VecSource) : VecSource × State :=
  if src = 1 then
    let t := s.takeEntries r.val o.entries
    (.values (o.streamElems t.1), t.2)
  else (v, s)

/-- What a vector instruction waits for before it issues (R203): the entries of its streams, and a free entry of the dispatch
queue. -/
def vecWait (s : State) (o : VecOp) (needs : List (Nat × Nat)) (order : Nat) : Except Stop Unit := do
  waitUnless
    (needs.all fun n =>
      decide (n.2 ≤ (s.myCore.q.toList.getD n.1 []).length) && !readersBefore s.myCore n.1 order)
    (.stream needs 0)
  waitUnless (decide (s.myCore.vq.length < 8) || o.major == 0x28) (.engineQueue 0)

end State

/-- The streams of a form's sources, with the entries that each queue must hold. -/
def streamNeeds (o : VecOp) (two : Bool) : List (Nat × Nat) :=
  let a := if o.field 24 2 = 1 then [(o.rs1.val, o.entries)] else []
  let b := if two && o.field 26 2 == 1 then [(o.rs2.val, o.entries)] else []
  match a, b with
  | [(p, n)], [(q, m)] => if p = q then [(p, n + m)] else [(p, n), (q, m)]
  | _, _ => a ++ b

/-- The registers that a vector instruction reads: those that name memory or a scalar. While an XLD to its descriptor is in
flight, what it reads is not yet known, and it waits for the XLD. -/
def vecReads (s : State) (xn : XIdx) (two : Bool) (rd a b : Reg) : List Reg :=
  if (Tab.look s.myCore.xld xn.val).isSome then []
  else
    let v := (s.xreg xn).toNat
    rd :: (if v / 2 ^ 24 % 4 = 1 then [] else [a]) ++ (if two && v / 2 ^ 26 % 4 != 1 then [b] else [])

/-- The issue of a vector instruction (R203). -/
def vector (s : State) (major minor : Nat) (xn : XIdx) (rd a b : Reg) (engine : Option Engine) :
    Host.Outcome State Fault Refusal :=
  let f := vecForm major minor
  s.issue { Need.plain (vecReads s xn f.two rd a b) [] with xs := [xn], engine := engine } fun t => do
    let mk (x : State) (va vb : VecSource) (ps : Pages) : VecOp :=
      let v := x.xreg xn
      let rm := v.toNat / 2 ^ 20 % 8
      { slot := x.cur.slot, gen := x.me.gen, major := major, minor := minor, desc := v, a := va, b := vb, pages := ps,
        va := x.reg rd, bytes := 0, rd := rd, rs1 := a, rs2 := b,
        mode := if rm = 0 then x.myCore.fpmode.toNat % 4 else rm - 1,
        e4sat := flag x.myCore.fpmode 2, seed := x.myCore.seed, pc := (x.me.pc - 4#56).signExtend 64 }
    let o := mk t .absent .absent []
    let asrc := o.field 24 2
    let bsrc := o.field 26 2
    require (vecDescOk f o) .illegal .engine 0
    let (va, t1) ← t.vecSource o asrc a
    let (vb, t2) ← if f.two then t1.vecSource o bsrc b else .ok (.absent, t1)
    let (ps, _, t3) ← t2.checkLocal .store .engine (t2.reg rd) o.dstBytes o.dstElem
    require (!va.clashes (t.reg rd) o.dstBytes && !vb.clashes (t.reg rd) o.dstBytes) .illegal .engine 0
    let regs := rd :: (if asrc = 0 then [a] else []) ++ (if f.two && bsrc == 0 then [b] else [])
    require (!o.inc || decide (regs.eraseDups.length = regs.length)) .illegal .engine 0
    t3.checkLocks ps .store (t.reg rd) o.dstBytes
    t3.checkSourceLocks va
    t3.checkSourceLocks vb
    t3.vecWait o (streamNeeds o f.two) (waitOrder s)
    let (wa, t4) := t3.fillStream o asrc a va
    let (wb, t5) := if f.two then t4.fillStream o bsrc b vb else (vb, t4)
    let op := { mk t5 wa wb ps with bytes := o.dstBytes }
    let t6 := t5.onMyCore fun c =>
      { c with vq := c.vq ++ [op], seed := if o.stochastic then nextSeed c.seed else c.seed }
    .ok (t6.onMe fun f => { f with hold := some .performing })

/-! ### What the forms compute (R206 to R210) -/

/-- A float form's element (R206): a, b and the old element of D. -/
def vecFloat (minor : Nat) (F : Fmt) (m : RMode) (sat : Bool) (a b d : Nat) : Nat :=
  let x := F.value a
  let y := F.value b
  match minor with
  | 0 => (saturate F sat (fadd F m x y)).bits
  | 1 => (saturate F sat (fadd F m x y.negate)).bits
  | 2 => (saturate F sat (fmul F m x y)).bits
  | 3 => (saturate F sat (ffma F m x y (F.value d))).bits
  | 4 => if x.isNaN || y.isNaN then F.canonNaN else (fminmax F false a b).bits
  | 5 => if x.isNaN || y.isNaN then F.canonNaN else (fminmax F true a b).bits
  | 6 => if x.isNaN then F.canonNaN else a % 2 ^ F.body
  | 7 => if x.isNaN then F.canonNaN else a ^^^ 2 ^ F.body
  | 8 => (saturate F sat (exp2 F m x)).bits
  | _ => (saturate F sat (fdiv F m (.fin ⟨false, 1, 0⟩) x)).bits

/-- Whether two elements compare as a form asks: 0x10 equal, 0x11 less, 0x12 less or equal (R207). -/
def vecCompares (minor fmt a b : Nat) : Bool :=
  if isIntFmt fmt then
    let x := elemInt fmt a
    let y := elemInt fmt b
    match minor with
    | 0x10 => decide (x = y) | 0x11 => decide (x < y) | _ => decide (x ≤ y)
  else
    let x := (fmtOf fmt).value a
    let y := (fmtOf fmt).value b
    if x.isNaN || y.isNaN then false
    else
      match minor with
      | 0x10 => x.eq y | 0x11 => x.lt y | _ => x.lt y || x.eq y

/-- An element of an integer, compare or select form (R207). -/
def vecInt (minor fmt : Nat) (sat : Bool) (a b d : Nat) : Nat :=
  let w := elemBits fmt
  match minor with
  | 0 => intElem fmt sat (elemInt fmt a + elemInt fmt b)
  | 1 => intElem fmt sat (elemInt fmt a - elemInt fmt b)
  | 2 => intElem fmt sat (elemInt fmt a * elemInt fmt b)
  | 3 => a &&& b
  | 4 => a ||| b
  | 5 => a ^^^ b
  | 6 => a * 2 ^ (b % w) % 2 ^ w
  | 7 => intElem fmt false (elemInt fmt a / 2 ^ (b % w))
  | 0x13 => if d ≠ 0 then a else b
  | _ => if vecCompares minor fmt a b then 2 ^ w - 1 else 0

/-- The greater or lesser of two elements, canonical NaN where either is a NaN (R208). -/
def vecExtreme (fmt : Nat) (greater : Bool) (a b : Nat) : Nat :=
  if isIntFmt fmt then
    (if decide (elemInt fmt a < elemInt fmt b) == greater then b else a)
  else
    let F := fmtOf fmt
    if (F.value a).isNaN || (F.value b).isNaN then F.canonNaN else (fminmax F greater a b).bits

/-- A reduction (R208). -/
def vecReduce (minor fmt : Nat) (m : RMode) (sat : Bool) (l : List Nat) : Nat :=
  if minor = 0x20 then
    if isIntFmt fmt then intElem fmt sat ((l.map (elemInt fmt)).sum)
    else (saturate (fmtOf fmt) sat (roundSum (fmtOf fmt) m (l.map (fmtOf fmt).value))).bits
  else
    match l with
    | [] => 0
    | x :: xs => xs.foldl (vecExtreme fmt (minor == 0x21)) (if isIntFmt fmt then x else vecExtreme fmt true x x)

/-- The pairs of VNZS (R209). -/
def vecNonZeros (ibase fmt i : Nat) : List Nat → List Nat
  | [] => []
  | v :: vs =>
    let zero := if isIntFmt fmt then v == 0 else v % 2 ^ (elemBits fmt - 1) == 0
    if zero then vecNonZeros ibase fmt (i + 1) vs
    else ((ibase + i) % 2 ^ 32 + v * 2 ^ 32) :: vecNonZeros ibase fmt (i + 1) vs

/-- The elements of a stochastic conversion (R198, R210): element i by lane i mod W, each lane drawing one word for each of
its elements. -/
def vecStochastic (F : Fmt) (e4sat : Bool) (fmt w : Nat) (seed : BitVec 32) (l : List Nat) : List Nat :=
  let lanes : Vector (BitVec 32) 128 := Vector.ofFn fun i => laneSeed seed i.val
  (l.foldl
    (fun (acc : Vector (BitVec 32) 128 × List Nat × Nat) v =>
      let i := acc.2.2 % w
      let x := xorshift (acc.1.toList.getD i 0)
      (acc.1.setIfInBounds i x, (roundSR F e4sat x.toNat ((fmtOf fmt).value v)).bits :: acc.2.1, acc.2.2 + 1))
    (lanes, [], 0)).2.1.reverse

/-- An element of a conversion that is not stochastic (R210). -/
def vecConvert (minor fmt : Nat) (m : RMode) (sat e4sat : Bool) (v : Nat) : Nat :=
  match minor with
  | 0 => (saturate .bf16 sat (roundVal .bf16 m false (Fmt.fp32.value v))).bits
  | 1 => (saturate .fp16 sat (roundVal .fp16 m false (Fmt.fp32.value v))).bits
  | 2 => (roundVal .e4m3 m e4sat ((fmtOf fmt).value v)).bits
  | 3 => (saturate .e5m2 sat (roundVal .e5m2 m false ((fmtOf fmt).value v))).bits
  | 8 => (expandI4 (BitVec.ofNat 4 v)).toNat
  | 9 => (expandE2M3 (BitVec.ofNat 6 v)).toNat
  | 10 => (expandE3M2 (BitVec.ofNat 6 v)).toNat
  | _ => (roundVal .fp32 .rne false (elemValue fmt v)).bits

namespace VecOp

/-- The elements of D that a vector instruction writes, in order, from its sources' elements and D's old ones; W is the lane
count. -/
def results (o : VecOp) (w : Nat) (a b d : List Nat) : List Nat :=
  let get (l : List Nat) (i : Nat) : Nat := l.getD i 0
  match o.major with
  | 0x20 =>
    (List.range o.n).map fun i => vecFloat o.minor (fmtOf o.fmt) o.rmode o.sat (get a i) (get b i) (get d i)
  | 0x21 =>
    if o.reduces then [vecReduce o.minor o.fmt o.rmode o.sat a]
    else if o.minor = 0x30 then vecNonZeros (o.field 32 32) o.fmt 0 a
    else (List.range o.n).map fun i => vecInt o.minor o.fmt o.sat (get a i) (get b i) (get d i)
  | _ =>
    if o.stochastic then vecStochastic (fmtOf o.dstFmt) o.e4sat o.fmt w o.seed a
    else a.map (vecConvert o.minor o.fmt o.rmode o.sat o.e4sat)

/-- The bytes by which the pointers advance at completion (R201, R208, R209): D, A, B. -/
def advances (o : VecOp) (count : Nat) : List (Reg × Nat) :=
  let nz := o.major == 0x21 && o.minor == 0x30
  let d := if nz then [(o.rd, 8 * count)] else if o.inc then [(o.rd, o.dstBytes)] else []
  let src (v : VecSource) (r : Reg) : List (Reg × Nat) :=
    match v with
    | .memory _ _ k => if o.inc then [(r, k)] else []
    | _ => []
  d ++ src o.a o.rs1 ++ src o.b o.rs2

end VecOp

/-! ### Performance (R204, R205) -/

namespace State

/-- The elements of a source, from the bytes read of it (R203, R204). -/
def sourceElems (o : VecOp) (read : List Byte) : VecSource → List Nat
  | .memory _ _ _ => packedElems o.srcBits (bytesValue read) o.n
  | .values l => l
  | .scalar v => List.replicate o.n v
  | .absent => []

/-- The address of the first 8-byte word of a range that holds an uncorrected error (R204, R332). -/
def badWord (s : State) (ps : Pages) (va : Word) (n : Nat) : Option Word :=
  if s.bad.isEmpty then none
  else
    ((List.range ((va.toNat % 8 + n + 7) / 8)).map fun i => Word.ofNat (va.toNat / 8 * 8 + 8 * i)).find? fun a =>
      s.eccBad (ps.phys a) 8

/-- The lanes of a cluster's vector units (R205). -/
def lanes (cid : Nat) : Nat := if kindOf (cid % 64) = .vector then 128 else 64

end State

/-- Rows of a range of memory: of 256 bytes, 512 in a V quad (R204). -/
def rowsOf (w n : Nat) : Nat := (n + 4 * w - 1) / (4 * w)

/-- The rows of n bytes from va, in increasing address, each as runs that lie in one page (R204). -/
def Pages.rows (ps : Pages) (w : Nat) (va : Word) (n : Nat) : List (List (Nat × Nat)) :=
  (List.range (rowsOf w n)).map fun i => ps.pieces 2 (va + Word.ofNat (4 * w * i)) (min (4 * w) (n - 4 * w * i))

/-- The bytes of runs, in order. -/
def cutRuns : List (Nat × Nat) → List Byte → List (Nat × List Byte)
  | [], _ => []
  | (pa, n) :: l, b => (pa, b.take n) :: cutRuns l (b.drop n)

/-- Bytes over rows; rows that no byte falls in write nothing. -/
def fillRows : List (List (Nat × Nat)) → List Byte → List (List (Nat × List Byte))
  | [], _ => []
  | r :: l, b => ((cutRuns r b).filter fun x => !x.2.isEmpty) :: fillRows l (b.drop (r.map Prod.snd).sum)

namespace VecOp

/-- The rows of a source. -/
def sourceRows (w : Nat) : VecSource → List (List (Nat × Nat))
  | .memory ps va n => ps.rows w va n
  | _ => []

/-- The rows of D (R204, R205). -/
def destRows (o : VecOp) (w : Nat) : List (List (Nat × Nat)) := o.pages.rows w o.va o.dstBytes

/-- The ac of computing of a vector instruction (R204, R205): `fast` says that the exponent unit performs it. -/
def computing (o : VecOp) (w : Nat) (fast : Bool) : Nat :=
  let k := if o.major = 0x20 ∧ (o.minor = 9 ∨ (o.minor = 8 ∧ fast = false)) then 4 else 1
  let x := if o.reduces then (if w = 128 then 7 else 6) else 0
  (o.n + w - 1) / w * k + x

/-- A vector instruction as its unit takes it in an ac (R204): the rows of A, B and D to be read from the next ac on. -/
def taken (o : VecOp) (pid w ac : Nat) (fast : Bool) : VecRun where
  core := pid
  op := o
  reads :=
    ((sourceRows w o.a).map fun r => (0, r)) ++ ((sourceRows w o.b).map fun r => (1, r)) ++ (o.destRows w).map fun r => (2, r)
  a := []
  b := []
  d := []
  gap := o.computing w fast
  writes := []
  moves := []
  failed := none
  next := ac + 1
  pace := 1
  ends := 0

end VecOp

/-- A vector instruction all of whose rows have been read (R204): what it will write, and its advances. -/
def VecRun.computed (r : VecRun) (w : Nat) : VecRun :=
  let o := r.op
  let d := packedElems (8 * o.dstElem) (bytesValue r.d) (if o.reduces then 1 else o.n)
  let res := o.results w (State.sourceElems o r.a o.a) (State.sourceElems o r.b o.b) d
  { r with writes := fillRows (o.destRows w) (res.flatMap (elemBytes o.dstElem)), moves := o.advances res.length }

namespace State

/-- VEXP2 that the exponent unit performs (R211): on an A cluster that holds tokens. -/
def toExponent (s : State) (cid : Nat) (o : VecOp) : Bool :=
  kindOf (cid % 64) == .attention && o.major == 0x20 && o.minor == 8 && (s.cluster cid).tokens.held != 0

/-- The heads of the dispatch queues of a quad's cores, in cyclic order after the core last served (R204). -/
def vectorHeads (s : State) (cid quad last : Nat) : List (Nat × VecOp) :=
  ((List.range 4).map fun i => 4 * quad + (last + 1 + i) % 4).filterMap fun k =>
    match (s.core (8 * cid + k)).vq with
    | o :: _ => if !s.savedNow (8 * cid + k) then some (k, o) else none
    | [] => none

end State

/-- VECTOR_DISPATCH (R204, R205): a quad's vector unit that is free takes the next queue's head. At spot: the cluster and the
quad. -/
def execVectorDispatch (s : State) : Host.Outcome State Fault Refusal :=
  let cid := s.spot.place
  let quad := s.spot.item
  let unit := if quad = 0 then (s.cluster cid).vec0 else (s.cluster cid).vec1
  if unit.run.isNone && decide (unit.freeAt ≤ s.clusterAc cid) && decide (quad < 2) && s.clusterRuns cid then
    match (s.vectorHeads cid quad unit.last).find? fun e => !s.toExponent cid e.2 with
    | some (k, o) =>
      let u : VecUnit := { run := some (o.taken (8 * cid + k) (State.lanes cid) (s.clusterAc cid) false), last := k }
      .next ((s.onCore (8 * cid + k) fun c => { c with vq := c.vq.tail }).onCluster cid fun c =>
        if quad = 0 then { c with vec0 := u } else { c with vec1 := u })
    | none => .next s
  else .next s

/-- A fibre whose vector instruction has ended (R204): it is ready from the ac in which it ends, and after its pass. -/
def Slot.performed (f : Slot) (ac : Nat) : Slot :=
  { f with hold := if f.hold = some .performing then none else f.hold, readyAt := max f.readyAt ac }

namespace State

/-- Runs of bytes written, in order, each an access of the issuing core at its home (R153, R204). -/
def writeRuns (s : State) : List (Nat × List Byte) → State
  | [] => s
  | (pa, b) :: l =>
    (match place pa with
     | some (h, _) => s.performBeat h pa b
     | none => s).writeRuns l

/-- The bytes of runs. -/
def readRuns (s : State) (l : List (Nat × Nat)) : List Byte := l.flatMap fun p => Memory.bytes s.mem p.1 p.2

/-- The virtual address of an uncorrected word that a row meets (R204, R332). -/
def badRow (s : State) (r : VecRun) (which : Nat) (row : List (Nat × Nat)) : Option Word :=
  let src : VecSource :=
    match which with
    | 0 => r.op.a
    | 1 => r.op.b
    | _ => .memory r.op.pages r.op.va 0
  match src, row.find? fun p => s.eccBad p.1 p.2 with
  | .memory ps _ _, some p =>
    match (List.range p.2).find? fun i => s.eccBad (p.1 + i) 1 with
    | some i =>
      (ps.find? fun q => q.2 == (p.1 + i) / 2 ^ 16).map fun q => Word.ofNat (q.1 * 2 ^ 16 + (p.1 + i) / 8 * 8 % 2 ^ 16)
    | none => none
  | _, _ => none

/-- A row read (R204): an uncorrected word ends the instruction with nothing written; after the last row what is to be written
is computed, as `done` says. -/
def readRow (s : State) (r : VecRun) (ac : Nat) (done : VecRun → VecRun) : VecRun :=
  match r.reads with
  | [] => r
  | (which, row) :: l =>
    match s.badRow r which row with
    | some va => { r with reads := [], failed := some va, next := ac + 1 }
    | none =>
      let b := s.readRuns row
      let q : VecRun :=
        match which with
        | 0 => { r with reads := l, a := r.a ++ b, next := ac + r.pace }
        | 1 => { r with reads := l, b := r.b ++ b, next := ac + r.pace }
        | _ => { r with reads := l, d := r.d ++ b, next := ac + r.pace }
      if l.isEmpty then done { q with next := ac + r.pace + r.gap } else q

/-- The homes of a unit's next row have not performed for others in this ac, and run (R153, R154, R204): a row is an access of
the issuing core, after that core's own fibre access. -/
def rowMay (s : State) (r : VecRun) (ac : Nat) : Bool :=
  decide (r.next ≤ ac) && s.clusterRuns (r.core / 8) && !s.tooLate r.core && !(r.reads.isEmpty && r.writes.isEmpty)

/-- A unit's next row accessed (R204). -/
def performRow (s : State) (r : VecRun) (ac : Nat) (done : VecRun → VecRun) : VecRun × State :=
  let t := s.onCore r.core fun c => { c with last := some ac }
  if !r.reads.isEmpty then (s.readRow r ac done, t)
  else
    match r.writes with
    | [] => (r, s)
    | row :: l => ({ r with writes := l, next := if l.isEmpty then ac + 1 else ac + r.pace }, t.writeRuns row)

/-- A run that has ended (R204): no row is left, and its ac has come. -/
def runOver (r : VecRun) (ac : Nat) : Bool := r.reads.isEmpty && r.writes.isEmpty && decide (r.next ≤ ac) && decide (r.ends ≤ ac)

/-- The end of a vector instruction or an SMX (R204): pointers advance, and the fibre goes on; after an uncorrected error the
refusal is owed. -/
def endVector (s : State) (r : VecRun) : State :=
  s.onCore r.core fun c =>
    if (c.slot r.op.slot).live && (c.slot r.op.slot).gen == r.op.gen then
      let f0 := c.slot r.op.slot
      let f1 := r.moves.foldl (fun f m => f.write m.1 (f.reg m.1 + Word.ofNat m.2)) f0
      let f2 := match r.failed with | some va => f1.owe .uncorrected .engine r.op.pc va | none => f1
      c.setSlot r.op.slot (f2.performed r.next)
    else c

end State

/-- The ac in which a unit whose run has ended is free again: the run's occupancy holds the ac of its end too (R205, R273). -/
def VecRun.leaves (r : VecRun) : Nat := max r.next r.ends + 1

/-- VECTOR_COMPLETE (R204): an instruction whose rows are all written ends in the next ac. At spot: the cluster and the quad. -/
def execVectorComplete (s : State) : Host.Outcome State Fault Refusal :=
  let cid := s.spot.place
  let quad := s.spot.item
  let unit := if quad = 0 then (s.cluster cid).vec0 else (s.cluster cid).vec1
  match unit.run with
  | some r =>
    if State.runOver r (s.clusterAc cid) && decide (quad < 2) && s.clusterRuns cid then
      let u : VecUnit := { unit with run := none, freeAt := r.leaves }
      .next ((s.endVector r).onCluster cid fun c => if quad = 0 then { c with vec0 := u } else { c with vec1 := u })
    else .next s
  | none => .next s

/-! ### The instructions -/

def execVadd (xn : XIdx) (rd a b : Reg) (s : State) := vector s 0x20 0x00 xn rd a b none
def execVsub (xn : XIdx) (rd a b : Reg) (s : State) := vector s 0x20 0x01 xn rd a b none
def execVmul (xn : XIdx) (rd a b : Reg) (s : State) := vector s 0x20 0x02 xn rd a b none
def execVfma (xn : XIdx) (rd a b : Reg) (s : State) := vector s 0x20 0x03 xn rd a b none
def execVmin (xn : XIdx) (rd a b : Reg) (s : State) := vector s 0x20 0x04 xn rd a b none
def execVmax (xn : XIdx) (rd a b : Reg) (s : State) := vector s 0x20 0x05 xn rd a b none
def execVabs (xn : XIdx) (rd a : Reg) (s : State) := vector s 0x20 0x06 xn rd a 0 none
def execVneg (xn : XIdx) (rd a : Reg) (s : State) := vector s 0x20 0x07 xn rd a 0 none
def execVexp2 (xn : XIdx) (rd a : Reg) (s : State) := vector s 0x20 0x08 xn rd a 0 none
def execVrcp (xn : XIdx) (rd a : Reg) (s : State) := vector s 0x20 0x09 xn rd a 0 none
def execViadd (xn : XIdx) (rd a b : Reg) (s : State) := vector s 0x21 0x00 xn rd a b none
def execVisub (xn : XIdx) (rd a b : Reg) (s : State) := vector s 0x21 0x01 xn rd a b none
def execVimul (xn : XIdx) (rd a b : Reg) (s : State) := vector s 0x21 0x02 xn rd a b none
def execVand (xn : XIdx) (rd a b : Reg) (s : State) := vector s 0x21 0x03 xn rd a b none
def execVor (xn : XIdx) (rd a b : Reg) (s : State) := vector s 0x21 0x04 xn rd a b none
def execVxor (xn : XIdx) (rd a b : Reg) (s : State) := vector s 0x21 0x05 xn rd a b none
def execVshl (xn : XIdx) (rd a b : Reg) (s : State) := vector s 0x21 0x06 xn rd a b none
def execVshr (xn : XIdx) (rd a b : Reg) (s : State) := vector s 0x21 0x07 xn rd a b none
def execVceq (xn : XIdx) (rd a b : Reg) (s : State) := vector s 0x21 0x10 xn rd a b none
def execVclt (xn : XIdx) (rd a b : Reg) (s : State) := vector s 0x21 0x11 xn rd a b none
def execVcle (xn : XIdx) (rd a b : Reg) (s : State) := vector s 0x21 0x12 xn rd a b none
def execVsel (xn : XIdx) (rd a b : Reg) (s : State) := vector s 0x21 0x13 xn rd a b none
def execVrsum (xn : XIdx) (rd a : Reg) (s : State) := vector s 0x21 0x20 xn rd a 0 none
def execVrmax (xn : XIdx) (rd a : Reg) (s : State) := vector s 0x21 0x21 xn rd a 0 none
def execVrmin (xn : XIdx) (rd a : Reg) (s : State) := vector s 0x21 0x22 xn rd a 0 none

/-- VNZS runs only on S clusters (R43, R209). -/
def execVnzs (xn : XIdx) (rd a : Reg) (s : State) := vector s 0x21 0x30 xn rd a 0 (some .sparse)

def execVcvtBf (xn : XIdx) (rd a : Reg) (s : State) := vector s 0x22 0x00 xn rd a 0 none
def execVcvtH (xn : XIdx) (rd a : Reg) (s : State) := vector s 0x22 0x01 xn rd a 0 none
def execVcvtE4 (xn : XIdx) (rd a : Reg) (s : State) := vector s 0x22 0x02 xn rd a 0 none
def execVcvtE5 (xn : XIdx) (rd a : Reg) (s : State) := vector s 0x22 0x03 xn rd a 0 none
def execVcvtSr4 (xn : XIdx) (rd a : Reg) (s : State) := vector s 0x22 0x04 xn rd a 0 none
def execVcvtSr5 (xn : XIdx) (rd a : Reg) (s : State) := vector s 0x22 0x05 xn rd a 0 none
def execVcvtF (xn : XIdx) (rd a : Reg) (s : State) := vector s 0x22 0x06 xn rd a 0 none
def execVexpI4 (xn : XIdx) (rd a : Reg) (s : State) := vector s 0x22 0x08 xn rd a 0 none
def execVexpP23 (xn : XIdx) (rd a : Reg) (s : State) := vector s 0x22 0x09 xn rd a 0 none
def execVexpP32 (xn : XIdx) (rd a : Reg) (s : State) := vector s 0x22 0x0A xn rd a 0 none

end Sys2Proof.Machine
end

