-- ==== Sys2Proof/Machine/Matrix.lean ====
section
/-!
DEFINITION. The matrix unit: the issue of its commands (R212 to R216, R221, R224 to R226), the arbiter (R238), steps (R217 to
R219), and completion (R220).
-/

namespace Sys2Proof.Machine

/-! ### Pairs (R212) -/

/-- A format pair (R212): A's and B's format codes, the elements of a step, and which operands have block scales. -/
structure MatPair where
  a      : Nat
  b      : Nat
  step   : Nat
  aScale : Bool
  bScale : Bool
deriving DecidableEq, Repr

/-- The pair of a minor8 (R212). -/
def matPair (n : Nat) : Option MatPair :=
  match n with
  | 0 => some ⟨3, 3, 64, false, false⟩
  | 1 => some ⟨3, 4, 64, false, false⟩
  | 2 => some ⟨4, 3, 64, false, false⟩
  | 3 => some ⟨4, 4, 64, false, false⟩
  | 4 => some ⟨3, 3, 64, true, true⟩
  | 5 => some ⟨5, 5, 128, true, true⟩
  | 6 => some ⟨5, 3, 64, true, false⟩
  | 8 => some ⟨1, 1, 32, false, false⟩
  | 9 => some ⟨2, 2, 32, false, false⟩
  | 10 => some ⟨10, 10, 64, false, false⟩
  | _ => none

/-! ### Descriptors (R213) -/

/-- STRIDE of an operand descriptor. -/
def matStride (x : XWord) : Nat := x.toNat / 2 ^ 96
/-- K of an operand descriptor. -/
def matK (x : XWord) : Nat := x.toNat / 2 ^ 80 % 2 ^ 16
/-- FMT of an operand descriptor. -/
def matFmt (x : XWord) : Nat := x.toNat / 2 ^ 76 % 16
/-- ROWS of an operand descriptor. -/
def matRows (x : XWord) : Nat := x.toNat / 2 ^ 64 % 512
/-- ADDR of an operand descriptor, as a virtual address. -/
def matAddr (x : XWord) : Word := (x.setWidth 56).signExtend 64
/-- The reserved fields of an operand descriptor are 0. -/
def matReserved (x : XWord) : Bool := x.toNat / 2 ^ 73 % 8 == 0 && x.toNat / 2 ^ 56 % 256 == 0
/-- The bytes of a row of A that one step takes (R212, R218): 64, but 32 where A is E2M1 and B is not. -/
def MatPair.aBytes (p : MatPair) : Nat := packedBytes (elemBits p.a) p.step
/-- The bytes of a row of B that one step takes: 64 in every pair. -/
def MatPair.bBytes (p : MatPair) : Nat := packedBytes (elemBits p.b) p.step
/-- STRIDE is a multiple of 8 and covers a row of so many bytes. -/
def matStrideOk (x : XWord) (row : Nat) : Bool := matStride x % 8 == 0 && decide (row ≤ matStride x)

/-- The bytes from the first byte of row 0 to the last byte of the last of n rows. -/
def rowSpan (n stride row : Nat) : Nat := if n = 0 then 0 else (n - 1) * stride + row

/-- The checks on A's K, FMT and STRIDE for a pair. -/
def matAOk (p : MatPair) (a : XWord) (kmax : Nat) : Bool :=
  matReserved a && matFmt a == p.a && matK a % p.step == 0 && decide (p.step ≤ matK a) && decide (matK a ≤ kmax) &&
    matStrideOk a (packedBytes (elemBits p.a) (matK a))

/-- The checks on a B descriptor for a pair and a contraction length. -/
def matBOk (p : MatPair) (b : XWord) (k : Nat) : Bool :=
  matReserved b && matFmt b == p.b && matK b == 0 && decide (1 ≤ matRows b) && decide (matRows b ≤ 256) &&
    matStrideOk b (packedBytes (elemBits p.b) k)

/-! ### What issue reads (R215, R216) -/

namespace State

/-- The scale header (R215): ASCL, BSCL, SA, SB. A register that holds 0 stands for no scales. -/
def scaleHeader (s : State) (r : Reg) : Except Stop ((Word × Word × Nat × Nat) × State) := do
  let va := s.reg r
  if va = 0 then .ok ((0, 0, 0x7F, 0x7F), s)
  else
    let (ps, h, t) ← s.checkLocal .load .engine va 24 8
    let v ← t.localRead .engine ps h va 24
    let w (i : Nat) : Word := Word.ofNat (v / 2 ^ (64 * i))
    require (fld (w 2) 16 48 == 0) .illegal .engine 0
    .ok ((w 0, w 1, fld (w 2) 0 8, fld (w 2) 8 8), t)

/-- The checks of a header's words under R215, for a pair and the scales that its form takes. -/
def headerOk (h : Word × Word × Nat × Nat) (hasA hasB isI8 : Bool) : Bool :=
  (h.1 != 0) == hasA && (h.2.1 != 0) == hasB && (!isI8 || (h.2.2.1 == 0x7F && h.2.2.2 == 0x7F))

/-- A range of an engine operand (R216): canonical, aligned, translated, and in the home that its rule names. A range without
bytes has no pages. -/
def operand (s : State) (a : Access) (home : Option Home) (va : Word) (n al : Nat) : Except Stop (Pages × State) := do
  if n = 0 then .ok ([], s)
  else
    let (ps, h, t) ← s.checkLocal a .engine va n al
    require (home.isNone || home == some h) .illegal .engine va
    .ok (ps, t)

/-- The scopes of the homes of a range, for FENCE (R76). -/
def scopesOf (s : State) (ps : Pages) : List Scope :=
  ps.places.filterMap fun p => p.map fun h => h.1.scope s.cur.core

/-- The range-lock table of the issuing core's cluster. -/
def myTable (s : State) : Option LockTable := some (.cluster (s.cur.core / 8))

end State

/-- A range to be locked by an operation: translated pages, address, bytes, and whether the lock is full. -/
structure LockAsk where
  pages : Pages
  va    : Word
  bytes : Nat
  full  : Bool
deriving DecidableEq, Repr

namespace State

/-- The locks of an operation registered at issue (R132, R216, R270), in order; ranges without bytes take none. -/
def lockAll (s : State) (eng op : Nat) : List LockAsk → Except Stop State
  | [] => .ok s
  | a :: l => do
    let r := a.pages.span a.va a.bytes
    let t ← s.registerAtIssue s.myTable
      { first := r.1, last := r.2, full := a.full, eng := eng, owner := s.cur.core, op := op, since := 0 } a.va
    t.lockAll eng op l

/-- The waits and registrations of an engine operation's issue (R216, R270): a queue of 4, an entry for each range. The answer
is the operation's number. -/
def enqueue (s : State) (engine eng queued : Nat) (rd : Reg) (scopes : List Scope) (locks : List LockAsk) :
    Except Stop (Nat × State) := do
  let asks := locks.filter fun l => decide (0 < l.bytes)
  waitUnless (decide (queued < 4)) (.engineQueue engine)
  waitUnless (decide (asks.length ≤ s.freeLocks s.myTable)) .lockTable
  let t ← s.lockAll eng s.myCore.opNo asks
  .ok (t.startOp rd scopes 0)

end State

/-- A matrix command that has just been issued. -/
def MatCmd.issued (s : State) (no : Nat) (rd : Reg) (kind : MatKind) (pair : Nat) (a b : XWord) (place : Word) : MatCmd where
  no := no
  slot := s.cur.slot
  gen := s.me.gen
  reg := rd
  kind := kind
  pair := pair
  a := a
  b := b
  place := place
  aPages := []
  bPages := []
  ascl := 0
  asPages := []
  bscl := 0
  bsPages := []
  sa := 0x7F
  sb := 0x7F
  counts := []
  bgStride := 0
  out := 0
  outPages := []
  oStride := 0
  oFmt := 0
  since := s.coreAc s.cur.core
  tile := 0
  step := 0
  steps := 0
  ovf := false
  nan := false
  fmtErr := false
  pushing := false

/-- The state with a command appended to the issuing core's queue. -/
def State.appendCmd (s : State) (c : MatCmd) : State := s.onMyCore fun k => { k with mq := k.mq ++ [c] }

/-! ### The instructions -/

/-- The issue of MMA (R216). -/
def mma (s : State) (minor : Nat) (xn xm : XIdx) (rd r1 r2 : Reg) : Host.Outcome State Fault Refusal :=
  s.issue { Need.plain [r1, r2] [rd] with xs := [xn, xm], engine := some .matrix } fun t =>
    match matPair minor with
    | none => trap .illegal .engine
    | some p => do
      let a := t.xreg xn
      let b := t.xreg xm
      let w := t.reg r1
      let m := matRows a
      let n := matRows b
      let k := matK a
      let row0 := fld w 0 7
      let col0 := fld w 8 8
      require (matAOk p a (32 * p.step) && decide (1 ≤ m) && decide (m ≤ 128) && matBOk p b k) .illegal .engine 0
      require (fld w 18 46 == 0 && fld w 7 1 == 0 && decide (row0 + m ≤ 128) && decide (col0 + n ≤ 256)) .illegal .engine 0
      let (h, t1) ← t.scaleHeader r2
      require (State.headerOk h p.aScale p.bScale (minor == 10)) .illegal .engine 0
      let abytes := rowSpan m (matStride a) (packedBytes (elemBits p.a) k)
      let bbytes := rowSpan n (matStride b) (packedBytes (elemBits p.b) k)
      let asbytes := if p.aScale then m * (k / 32) else 0
      let bsbytes := if p.bScale then n * (k / 32) else 0
      let tcm := some (Home.tcm t.cur.core)
      let pad := some (Home.scratchpad (t.cur.core / 8))
      let (ap, t2) ← t1.operand .load tcm (matAddr a) abytes 8
      let (bp, t3) ← t2.operand .load pad (matAddr b) bbytes 8
      let (sap, t4) ← t3.operand .load tcm h.1 asbytes 1
      let (sbp, t5) ← t4.operand .load pad h.2.1 bsbytes 1
      let (no, t6) ← t5.enqueue 1 2 t.myCore.mq.length rd [.core, .cluster]
        [⟨ap, matAddr a, abytes, false⟩, ⟨bp, matAddr b, bbytes, false⟩, ⟨sap, h.1, asbytes, false⟩,
          ⟨sbp, h.2.1, bsbytes, false⟩]
      .ok (t6.appendCmd
        { MatCmd.issued t no rd .mma minor a b w with
          aPages := ap, bPages := bp, ascl := h.1, asPages := sap, bscl := h.2.1, bsPages := sbp, sa := h.2.2.1,
          sb := h.2.2.2 })

def execMmaE4e4 (xn xm : XIdx) (rd a b : Reg) (s : State) := mma s 0 xn xm rd a b
def execMmaE4e5 (xn xm : XIdx) (rd a b : Reg) (s : State) := mma s 1 xn xm rd a b
def execMmaE5e4 (xn xm : XIdx) (rd a b : Reg) (s : State) := mma s 2 xn xm rd a b
def execMmaE5e5 (xn xm : XIdx) (rd a b : Reg) (s : State) := mma s 3 xn xm rd a b
def execMmaM8m8 (xn xm : XIdx) (rd a b : Reg) (s : State) := mma s 4 xn xm rd a b
def execMmaF4f4 (xn xm : XIdx) (rd a b : Reg) (s : State) := mma s 5 xn xm rd a b
def execMmaF4e4 (xn xm : XIdx) (rd a b : Reg) (s : State) := mma s 6 xn xm rd a b
def execMmaB16 (xn xm : XIdx) (rd a b : Reg) (s : State) := mma s 8 xn xm rd a b
def execMmaH16 (xn xm : XIdx) (rd a b : Reg) (s : State) := mma s 9 xn xm rd a b
def execMmaI8 (xn xm : XIdx) (rd a b : Reg) (s : State) := mma s 10 xn xm rd a b

namespace State

/-- A rank that names a live D-cluster core of the issuing fibre's task (R223, R224). -/
def dCoreOfTask (s : State) (rank : Nat) : Bool :=
  match s.rankPort s.cur.core rank with
  | some (.core p) =>
    !isService p && kindOf (p / 8 % 64) == .dense && s.entryState p != 0 && s.entryTask p == s.entryTask s.cur.core
  | _ => false

end State

/-- MRING (R224). -/
def execMring (xn : XIdx) (rd r1 r2 : Reg) (s : State) :=
  s.issue { Need.plain [r1, r2] [rd] with xs := [xn], engine := some .matrixFull } fun t => do
    let w := t.reg r1
    match matPair (fld w 24 4) with
    | none => trap .illegal .engine
    | some p =>
      let a := t.xreg xn
      let m := matRows a
      require (matAOk p a p.step && decide (1 ≤ m) && decide (m ≤ 128)) .illegal .engine 0
      require (fld w 49 15 == 0 && fld w 28 4 == 0 && fld w 18 6 == 0 && fld w 7 1 == 0 && decide (fld w 0 7 + m ≤ 128))
        .illegal .engine 0
      require (!flag w 48 || t.dCoreOfTask (fld w 32 16)) .illegal .engine 0
      let (h, t1) ← t.scaleHeader r2
      require (State.headerOk h p.aScale false (fld w 24 4 == 10) && (!p.aScale || t.reg r2 != 0)) .illegal .engine 0
      let abytes := rowSpan m (matStride a) (packedBytes (elemBits p.a) p.step)
      let asbytes := if p.aScale then m * (p.step / 32) else 0
      let tcm := some (Home.tcm t.cur.core)
      let (ap, t2) ← t1.operand .load tcm (matAddr a) abytes 8
      let (sap, t3) ← t2.operand .load tcm h.1 asbytes 1
      let (no, t4) ← t3.enqueue 1 2 t.myCore.mq.length rd [.core]
        [⟨ap, matAddr a, abytes, false⟩, ⟨sap, h.1, asbytes, false⟩]
      .ok (t4.appendCmd
        { MatCmd.issued t no rd .mring (fld w 24 4) a 0 w with
          aPages := ap, ascl := h.1, asPages := sap, sa := h.2.2.1, sb := h.2.2.2 })

/-- The tiles of a grouped product (R225): for each, the group, its first row and its rows, at most 128. -/
def tilesOf : Nat → Nat → List Nat → List (Nat × Nat × Nat)
  | _, _, [] => []
  | g, first, c :: cs =>
    ((List.range ((c + 127) / 128)).map fun i => (g, first + 128 * i, min 128 (c - 128 * i))) ++
      tilesOf (g + 1) (first + c) cs

/-- The element bytes of MST's formats: 4 for bits and binary32, 2 for BF16 and FP16 (R221). -/
def storeElem (fmt : Nat) : Nat := if fmt = 0 then 4 else 2

/-- The completion word (R220). -/
def MatCmd.word (c : MatCmd) (steps : Nat) : Word :=
  Word.ofNat ((if c.fmtErr then 2 ^ 34 else 0) + (if c.ovf then 2 ^ 33 else 0) + (if c.nan then 2 ^ 32 else 0) + 2 ^ 31 + steps)

/-- GMM (R225). -/
def execGmm (xn xm : XIdx) (rd r1 r2 : Reg) (s : State) :=
  s.issue { Need.plain [r1, r2] [rd] with xs := [xn, xm], engine := some .matrixFull } fun t => do
    let a := t.xreg xn
    let b := t.xreg xm
    require (matReserved a && matRows a == 0 && matReserved b && matK b == 0) .illegal .engine 0
    let (gp, gh, t0) ← t.checkLocal .load .engine (t.reg r1) 48 8
    let gv ← t0.localRead .engine gp gh (t.reg r1) 48
    let gw (i : Nat) : Word := Word.ofNat (gv / 2 ^ (64 * i))
    let groups := fld (gw 1) 0 16
    match matPair (fld (gw 1) 24 4) with
    | none => trap .illegal .engine
    | some p =>
      let n := matRows b
      let k := matK a
      let oStride := fld (gw 4) 0 32
      let oFmt := fld (gw 4) 32 4
      require (matAOk p a (32 * p.step) && matBOk p b k) .illegal .engine 0
      require (fld (gw 1) 16 8 == 0 && fld (gw 1) 29 35 == 0 && decide (1 ≤ groups) && decide (groups ≤ 256) &&
        (gw 2).toNat % 8 == 0 && fld (gw 4) 36 28 == 0 && decide (oFmt ≤ 2) && oStride % 8 == 0 &&
        decide (n * storeElem oFmt ≤ oStride) && gw 5 == 0) .illegal .engine 0
      let (h, t1) ← t0.scaleHeader r2
      require (State.headerOk h p.aScale p.bScale (fld (gw 1) 24 4 == 10)) .illegal .engine 0
      let (cp, ch, t2) ← t1.checkLocal .load .engine (gw 0) (4 * groups) 4
      let cv ← t2.localRead .engine cp ch (gw 0) (4 * groups)
      let counts := (List.range groups).map fun i => cv / 2 ^ (32 * i) % 2 ^ 32
      let rows := counts.sum
      require (decide (rows ≤ 65535)) .illegal .engine 0
      let brow := packedBytes (elemBits p.b) k
      let abytes := rowSpan rows (matStride a) (packedBytes (elemBits p.a) k)
      let bbytes := (groups - 1) * (gw 2).toNat + rowSpan n (matStride b) brow
      let asbytes := if p.aScale then rows * (k / 32) else 0
      let bsbytes := if p.bScale then groups * n * (k / 32) else 0
      let obytes := rowSpan rows oStride (n * storeElem oFmt)
      let tcm := some (Home.tcm t.cur.core)
      let pad := some (Home.scratchpad (t.cur.core / 8))
      let (ap, t3) ← t2.operand .load tcm (matAddr a) abytes 8
      let (bp, t4) ← t3.operand .load pad (matAddr b) bbytes 8
      let (sap, t5) ← t4.operand .load tcm h.1 asbytes 1
      let (sbp, t6) ← t5.operand .load pad h.2.1 bsbytes 1
      let (op, t7) ← t6.operand .store none (gw 3) obytes 8
      let (no, t8) ← t7.enqueue 1 2 t.myCore.mq.length rd [.core, .cluster]
        [⟨ap, matAddr a, abytes, false⟩, ⟨sap, h.1, asbytes, false⟩, ⟨bp, matAddr b, bbytes, false⟩,
          ⟨sbp, h.2.1, bsbytes, false⟩, ⟨op, gw 3, obytes, true⟩]
      let cmd :=
        { MatCmd.issued t no rd .gmm (fld (gw 1) 24 4) a b (gw 1) with
          aPages := ap, bPages := bp, ascl := h.1, asPages := sap, bscl := h.2.1, bsPages := sbp, sa := h.2.2.1,
          sb := h.2.2.2, counts := counts, bgStride := (gw 2).toNat, out := gw 3, outPages := op, oStride := oStride,
          oFmt := oFmt }
      if rows = 0 then
        let t9 := (t8.dropLocks t.myTable t.cur.core 2 no).endOp t.cur.core no
        .ok (t9.onMe fun f => f.arrive rd (cmd.word 0))
      else .ok (t8.appendCmd cmd)

/-! ### MMZ, MST and MLDC (R221) -/

/-- ROWS of a station word. -/
def stRows (w : Word) : Nat := fld w 16 7 + 1
/-- COLS of a station word. -/
def stCols (w : Word) : Nat := fld w 24 8 + 1

/-- The checks of a station word (R221): reserved fields, the rectangle in the station. -/
def stationOk (w : Word) (sat : Bool) : Bool :=
  fld w 33 31 == 0 && (sat || !flag w 32) && !flag w 23 && !flag w 7 && decide (fld w 0 7 + stRows w ≤ 128) &&
    decide (fld w 8 8 + stCols w ≤ 256)

/-- MMZ. -/
def execMmz (rd r1 : Reg) (s : State) :=
  s.issue { Need.plain [r1] [rd] with engine := some .matrix } fun t => do
    require (stationOk (t.reg r1) false) .illegal .engine 0
    let (no, t1) ← t.enqueue 1 2 t.myCore.mq.length rd [.core] []
    .ok (t1.appendCmd (MatCmd.issued t no rd .mmz 0 0 0 (t.reg r1)))

/-- MST and MLDC: their memory range lies in the core's TCM or its scratchpad. -/
def stationMove (s : State) (kind : MatKind) (xn : XIdx) (rd r1 : Reg) : Host.Outcome State Fault Refusal :=
  s.issue { Need.plain [r1] [rd] with xs := [xn], engine := some .matrix } fun t => do
    let a := t.xreg xn
    let w := t.reg r1
    let isStore := kind == .mst
    let row := stCols w * storeElem (matFmt a)
    require (matReserved a && matRows a == 0 && matK a == 0 && decide (matFmt a ≤ if isStore then 2 else 0) &&
      matStrideOk a row && stationOk w isStore) .illegal .engine 0
    let bytes := rowSpan (stRows w) (matStride a) row
    let (ps, t1) ← t.operand (if isStore then .store else .load) none (matAddr a) bytes 8
    let (no, t2) ← t1.enqueue 1 2 t.myCore.mq.length rd (t.scopesOf ps) [⟨ps, matAddr a, bytes, isStore⟩]
    .ok (t2.appendCmd { MatCmd.issued t no rd kind 0 a 0 w with aPages := ps })

def execMst (xn : XIdx) (rd r1 : Reg) (s : State) := stationMove s .mst xn rd r1
def execMldc (xn : XIdx) (rd r1 : Reg) (s : State) := stationMove s .mldc xn rd r1

/-! ### MWAIT and MQRY (R226) -/

/-- MWAIT: a threshold already met is answered at once. -/
def execMwait (rd r1 : Reg) (s : State) :=
  s.issue { Need.plain [r1] [rd] with engine := some .matrix } fun t => do
    let n := (t.reg r1).toNat
    require (decide (n ≤ 4)) .illegal .engine 0
    if t.myCore.mq.length ≤ n then .ok (t.setReg rd (Word.ofNat t.myCore.mq.length))
    else
      .ok ((t.setPending rd .engine).onMyCore fun c =>
        { c with mwaits := c.mwaits ++ [{ slot := t.cur.slot, gen := t.me.gen, reg := rd, threshold := n }] })

/-- MQRY. -/
def execMqry (rd : Reg) (s : State) :=
  s.compute { Need.plain [] [rd] with engine := some .matrix } rd fun t =>
    Word.ofNat ((t.cluster (t.cur.core / 8)).mat.level * 2 ^ 8 + (if t.myCore.incoming.isSome then 2 ^ 5 else 0) +
      (if t.myCore.active.isSome then 2 ^ 4 else 0) + t.myCore.mq.length)

/-! ### The station (R222) -/

/-- The cell of a row and column. -/
def cellKey (row col : Nat) : Nat := 256 * row + col

/-- A station with a cell written; +0 is not listed. -/
def putCell (st : Tab (BitVec 32)) (key : Nat) (v : Nat) : Tab (BitVec 32) :=
  if v % 2 ^ 32 = 0 then Tab.remove st key else Tab.put st key (BitVec.ofNat 32 v)

/-- The cells of a rectangle, row by row. -/
def rectangle (row0 col0 rows cols : Nat) : List Nat :=
  (List.range rows).flatMap fun i => (List.range cols).map fun n => cellKey (row0 + i) (col0 + n)

/-- A station with a rectangle's cells zeroed. -/
def zeroCells (st : Tab (BitVec 32)) (row0 col0 rows cols : Nat) : Tab (BitVec 32) :=
  st.filter fun e =>
    !(decide (row0 ≤ e.1 / 256) && decide (e.1 / 256 < row0 + rows) && decide (col0 ≤ e.1 % 256) &&
      decide (e.1 % 256 < col0 + cols))

/-! ### Accumulation (R218, R219) -/

/-- Prod (R219) of two values under four scales. -/
def matProd (x y : FVal) (scales : List Nat) : FVal :=
  if x.isNaN || y.isNaN || scales.contains 0xFF then .nan false
  else
    match exactMul x y with
    | none => .nan false
    | some (.fin d) => if d.num = 0 then .fin (Dyadic.zero false) else .fin { d with exp := d.exp + (scales.sum : Int) - 508 }
    | some v => v

/-- The exact sum of truncated products in units of 2^q (R218). -/
def truncSum (q : Int) (vs : List FVal) : Int :=
  vs.foldl
    (fun acc v =>
      match v with
      | .fin d =>
        let m : Nat := if q ≤ d.exp then d.num * 2 ^ (d.exp - q).toNat else d.num / 2 ^ (q - d.exp).toNat
        if d.neg then acc - m else acc + m
      | _ => acc) 0

/-- The greatest exponent among products that are not zero. -/
def maxExp (vs : List FVal) : Option Int :=
  vs.foldl
    (fun acc v =>
      match v with
      | .fin d => if d.num = 0 then acc else some (match acc with | some e => max e (expOf d.num d.exp) | none => expOf d.num d.exp)
      | _ => acc) none

/-- The sum t of the products of a step (R218), rounded to binary32. -/
def stepSum (sat : Bool) (vs : List FVal) : Rounded :=
  match maxExp vs with
  | none => ⟨0, {}⟩
  | some e => saturate .fp32 sat (roundDyadic .fp32 .rne (.ofInt (truncSum (e - 47) vs) (e - 47)))

/-- Accum (R218) of a cell's bits and a step's products: the new bits, and whether a rounding overflowed. -/
def accum (sat : Bool) (c : Nat) (ps : List FVal) : Nat × Bool :=
  let v := Fmt.fp32.value c
  if v.isNaN || ps.any FVal.isNaN then (Fmt.fp32.canonNaN, false)
  else
    let pos := ps.any fun p => p == .inf false
    let neg := ps.any fun p => p == .inf true
    if pos && neg then (Fmt.fp32.canonNaN, false)
    else
      let t := if pos then ⟨Fmt.fp32.infBits, {}⟩ else if neg then ⟨Fmt.fp32.withSign true Fmt.fp32.infBits, {}⟩
        else stepSum sat ps
      let tv := Fmt.fp32.value t.bits
      if (v == .inf false && tv == .inf true) || (v == .inf true && tv == .inf false) then
        (Fmt.fp32.canonNaN, t.flags.ovf)
      else
        let r := saturate .fp32 sat (fadd .fp32 .rne v tv)
        (if r.bits % 2 ^ 31 = 0 then 0 else r.bits, t.flags.ovf || r.flags.ovf)

/-- Accum of MMA.I8 (R218). -/
def accumInt (c : Nat) (as bs : List Nat) : Nat :=
  (((c : Int) + ((as.zip bs).map fun (e : Nat × Nat) => elemInt 10 e.1 * elemInt 10 e.2).sum) % 2 ^ 32).toNat

/-- A row of an operand in a step: its elements and its block scales. -/
abbrev StepRow := List Nat × List Nat

/-- The products of a row of A and a row of B (R219). -/
def stepProds (p : MatPair) (sa sb : Nat) (a b : StepRow) : List FVal :=
  ((a.1.zip b.1).zipIdx).map fun e =>
    matProd ((fmtOf p.a).value e.1.1) ((fmtOf p.b).value e.1.2)
      [sa, sb, a.2.getD (e.2 / 32) 0x7F, b.2.getD (e.2 / 32) 0x7F]

/-- What a step leaves: the station, whether a rounding overflowed, whether a cell written is NaN. -/
structure StepResult where
  station : Tab (BitVec 32)
  ovf     : Bool
  nan     : Bool
deriving DecidableEq, Repr

/-- A cell of a step. -/
def stepCell (p : MatPair) (sat : Bool) (sa sb key : Nat) (a b : StepRow) (r : StepResult) : StepResult :=
  let c := (Tab.read r.station 0#32 key).toNat
  if p.a = 10 then { r with station := putCell r.station key (accumInt c a.1 b.1) }
  else
    let x := accum sat c (stepProds p sa sb a b)
    { station := putCell r.station key x.1, ovf := r.ovf || x.2, nan := r.nan || (Fmt.fp32.value x.1).isNaN }

/-- A step over the rows of A and of B (R218). -/
def stepAll (p : MatPair) (sat : Bool) (sa sb row0 col0 : Nat) (as bs : List StepRow) (st : Tab (BitVec 32)) : StepResult :=
  as.zipIdx.foldl
    (fun r a =>
      bs.zipIdx.foldl (fun r b => stepCell p sat sa sb (cellKey (row0 + a.2) (col0 + b.2)) a.1 b.1 r) r)
    { station := st, ovf := false, nan := false }

/-! ### What a command covers -/

/-- The work of a command's current start (R216, R224, R225): the rows of A and the first of them, the group, the rows of B,
where the cells stand, and SAT. -/
structure Work where
  first : Nat
  m     : Nat
  group : Nat
  n     : Nat
  row0  : Nat
  col0  : Nat
  sat   : Bool
  steps : Nat
deriving DecidableEq, Repr

namespace MatCmd

/-- The pair of a command. -/
def thePair (c : MatCmd) : MatPair := (matPair c.pair).getD ⟨3, 3, 64, false, false⟩

/-- A command that needs steps (R217). -/
def needsSteps (c : MatCmd) : Bool := c.kind == .mma || c.kind == .mring || c.kind == .gmm

/-- The tile of a grouped product that is next. -/
def theTile (c : MatCmd) : Nat × Nat × Nat := (tilesOf 0 0 c.counts).getD c.tile (0, 0, 0)

/-- The work of the current start; the latch's block gives N of an MRING. -/
def work (c : MatCmd) (active : Option Block) : Work :=
  let w := c.place
  match c.kind with
  | .gmm =>
    { first := c.theTile.2.1, m := c.theTile.2.2, group := c.theTile.1, n := matRows c.b, row0 := 0, col0 := 0,
      sat := flag w 28, steps := matK c.a / c.thePair.step }
  | .mring =>
    { first := 0, m := matRows c.a, group := 0, n := (active.map Block.rows).getD 0, row0 := fld w 0 7, col0 := fld w 8 8,
      sat := flag w 17, steps := 1 }
  | .mma =>
    { first := 0, m := matRows c.a, group := 0, n := matRows c.b, row0 := fld w 0 7, col0 := fld w 8 8,
      sat := flag w 17, steps := matK c.a / c.thePair.step }
  | _ =>
    { first := 0, m := stRows w, group := 0, n := stCols w, row0 := fld w 0 7, col0 := fld w 8 8, sat := flag w 32,
      steps := 0 }

/-- An MRING whose latch does not fit (R224). -/
def misfit (c : MatCmd) (b : Block) : Bool := b.fmt != c.thePair.b || decide (256 < fld c.place 8 8 + b.rows)

end MatCmd

/-- The step duration of a cluster (R212, R235). -/
def stepDuration (cid : Nat) : Nat := if kindOf (cid % 64) = .dense then 64 else 256

/-! ### The arbiter (R238) -/

namespace State

/-- Whether the head of core k's queue is eligible (R238). A pre-empted core starts no command, nor does a fenced one
(R333, R340). -/
def eligible (s : State) (cid k : Nat) : Bool :=
  let c := s.core (8 * cid + k)
  match c.mq with
  | [] => false
  | h :: _ =>
    !h.pushing && decide (h.since < s.clusterAc cid) && !s.savedNow (8 * cid + k) && !c.fenced &&
      (!h.needsSteps || decide (0 < (s.cluster cid).tokens.next)) && (h.kind != .mring || c.active.isSome)

/-- The arbiter's choice (R238): the core, and Used before its start. -/
def arbitrate (s : State) (cid : Nat) : Option (Nat × Nat) :=
  let u := (s.cluster cid).mat
  let cur := u.cur % 8
  if s.eligible cid cur && decide (u.used < fld (s.core (8 * cid + cur)).muweight 0 4) then some (cur, u.used)
  else (((List.range 8).map fun i => (cur + 1 + i) % 8).find? (s.eligible cid)).map fun k => (k, 0)

/-- The state with the head of core k's queue changed. -/
def onHead (s : State) (cid k : Nat) (f : MatCmd → MatCmd) : State :=
  s.onCore (8 * cid + k) fun c =>
    { c with mq := match c.mq with | h :: t => f h :: t | [] => [] }

/-- The state with a core's station changed. -/
def onStation (s : State) (pid : Nat) (f : Tab (BitVec 32) → Tab (BitVec 32)) : State :=
  s.onCore pid fun c => { c with station := f c.station }

end State

/-- The ac that the effect of a start takes beside its steps (R221, R225): a zeroing of 8, a store or load of
8 + Ceil(bytes / 256). -/
def MatCmd.prelude (c : MatCmd) : Nat :=
  let w := c.work none
  match c.kind with
  | .mmz | .gmm => 8
  | .mst | .mldc => 8 + (w.m * w.n * storeElem (matFmt c.a) + 255) / 256
  | _ => 0

/-- MATRIX_COMMAND_START (R217, R233, R238): a notice period that is over has ended before. The arbiter starts a head; its level in force is NEXT, and tokens of a lowered NEXT
pass back (R230). A command that a pre-emption stopped goes on at its next step (R334). At spot: the cluster. -/
def execMatrixCommandStart (s0 : State) : Host.Outcome State Fault Refusal :=
  let cid := s0.spot.place
  let s := s0.endNotice cid
  let u := (s.cluster cid).mat
  if u.core.isNone && s.clusterRuns cid then
    match s.arbitrate cid with
    | none => .next s
    | some (k, used) =>
      match (s.core (8 * cid + k)).mq with
      | [] => .next s
      | h :: _ =>
        let w := h.work (s.core (8 * cid + k)).active
        let zeroes := h.kind == .gmm || (h.kind == .mma && flag h.place 16) ||
          (h.kind == .mring && flag h.place 16 && !((s.core (8 * cid + k)).active.map h.misfit).getD true)
        let t := (s.onTokens cid fun x => { x with level := x.next }).passBack cid
        let v := if zeroes && h.step == 0 then t.onStation (8 * cid + k) (fun st => zeroCells st w.row0 w.col0 w.m w.n) else t
        .next (v.onCluster cid fun c =>
          { c with
            mat := { c.mat with core := some k, until_ := s.clusterAc cid + (if h.step = 0 then h.prelude else 0), cur := k, used := used + 1,
                                level := (s.cluster cid).tokens.next } })
  else .next s

/-! ### Steps (R217, R218) -/

namespace State

/-- The rows of A in a step, with their scales (R213, R215). -/
def rowsOfA (s : State) (c : MatCmd) (w : Work) : List StepRow :=
  let p := c.thePair
  (List.range w.m).map fun i =>
    let va := matAddr c.a + Word.ofNat ((w.first + i) * matStride c.a + p.aBytes * c.step)
    let sva := c.ascl + Word.ofNat ((w.first + i) * (matK c.a / 32) + c.step * (p.step / 32))
    (packedElems (elemBits p.a) (c.aPages.value s.mem va p.aBytes) p.step,
      if p.aScale then packedElems 8 (c.asPages.value s.mem sva (p.step / 32)) (p.step / 32) else [])

/-- The rows of B in a step of MMA or GMM, with their scales. -/
def rowsOfB (s : State) (c : MatCmd) (w : Work) : List StepRow :=
  let p := c.thePair
  (List.range w.n).map fun i =>
    let va := matAddr c.b + Word.ofNat (w.group * c.bgStride + i * matStride c.b + p.bBytes * c.step)
    let sva := c.bscl + Word.ofNat ((w.group * w.n + i) * (matK c.a / 32) + c.step * (p.step / 32))
    (packedElems (elemBits p.b) (c.bPages.value s.mem va p.bBytes) p.step,
      if p.bScale then packedElems 8 (c.bsPages.value s.mem sva (p.step / 32)) (p.step / 32) else [])

/-- The first uncorrected word that a step reads (R220, R332). -/
def badStep (s : State) (c : MatCmd) (w : Work) : Option Word :=
  if s.bad.isEmpty then none
  else
    let p := c.thePair
    let k := matK c.a / 32
    let a := (List.range w.m).findSome? fun i =>
      (s.badWord c.aPages (matAddr c.a + Word.ofNat ((w.first + i) * matStride c.a + p.aBytes * c.step)) p.aBytes).or
        (if p.aScale then
          s.badWord c.asPages (c.ascl + Word.ofNat ((w.first + i) * k + c.step * (p.step / 32))) (p.step / 32)
         else none)
    let b := (List.range w.n).findSome? fun i =>
      (s.badWord c.bPages (matAddr c.b + Word.ofNat (w.group * c.bgStride + i * matStride c.b + p.bBytes * c.step)) p.bBytes).or
        (if p.bScale then
          s.badWord c.bsPages (c.bscl + Word.ofNat ((w.group * w.n + i) * k + c.step * (p.step / 32))) (p.step / 32)
         else none)
    a.or (if c.kind = .mring then none else b)

end State

/-- The scale bytes of a latch block: those that came with it; a pair that has B scales and a block that came without them
have free ones, drawn from a counter (log 3). -/
def Block.scaleBytes (b : Block) (fresh n : Nat) : List Byte :=
  if b.scales.isEmpty then (List.range n).map fun i => (Config.freeWord (fresh + i)).setWidth 8 else b.scales

/-- The rows of a latch block, with their scales (R223). -/
def Block.stepRows (b : Block) (p : MatPair) (fresh : Nat) : List StepRow :=
  let data := bytesValue b.data
  let scales := bytesValue (b.scaleBytes fresh (b.rows * (p.step / 32)))
  (List.range b.rows).map fun i =>
    (packedElems (elemBits p.b) (data / 2 ^ (512 * i)) p.step,
      if p.bScale then packedElems 8 (scales / 2 ^ (8 * (i * (p.step / 32)))) (p.step / 32) else [])

namespace State

/-- The state after a core's command has left its queue: waiting fibres are told (R226). -/
def tellWaits (s : State) (pid : Nat) : State :=
  let n := (s.core pid).mq.length
  let told := (s.core pid).mwaits.filter fun w => decide (n ≤ w.threshold)
  told.foldl (fun u w => u.complete pid w.slot w.gen w.reg .engine (Word.ofNat n))
    (s.onCore pid fun c => { c with mwaits := c.mwaits.filter fun w => !decide (n ≤ w.threshold) })

/-- A command leaves its queue (R220): locks released, operation ended, MWAIT told. -/
def endCommand (s : State) (pid : Nat) (c : MatCmd) : State :=
  (((s.dropLocks (some (.cluster (pid / 8))) pid 2 c.no).endOp pid c.no).onCore pid fun k =>
    { k with mq := k.mq.filter fun x => x.no != c.no }).tellWaits pid

/-- The unit is free. -/
def freeUnit (s : State) (cid : Nat) : State :=
  s.onCluster cid fun c => { c with mat := { c.mat with core := none } }

/-- A command that met an uncorrected word (R220). -/
def failCommand (s : State) (pid : Nat) (c : MatCmd) (va : Word) : State :=
  ((s.endCommand pid c).completeRefused pid c.slot c.gen c.reg va .uncorrected).freeUnit (pid / 8)

/-- A command that ends with its completion word (R220). -/
def finishCommand (s : State) (pid : Nat) (c : MatCmd) (steps : Nat) : State :=
  (s.endCommand pid c).complete pid c.slot c.gen c.reg .engine (c.word steps)

end State

/-- MATRIX_STEP (R217, R218): at a slot boundary, fewer than L steps having started in the 7 slots before, the executing
command's next step is performed; a read that meets an uncorrected word ends the command (R220). At spot: the cluster. -/
def execMatrixStep (s : State) : Host.Outcome State Fault Refusal :=
  let cid := s.spot.place
  let u := (s.cluster cid).mat
  let ac := s.clusterAc cid
  let dur := stepDuration cid
  let slot := ac / dur
  match u.core with
  | none => .next s
  | some k =>
    let pid := 8 * cid + k
    match (s.core pid).mq with
    | [] => .next s
    | c :: _ =>
      let w := c.work (s.core pid).active
      let recent := u.starts.filter fun x => decide (slot ≤ x + 7)
      if c.needsSteps && !s.savedNow pid && s.clusterRuns cid && decide (c.step < w.steps) && decide (u.until_ ≤ ac) && ac % dur == 0 &&
          !u.starts.contains slot && decide (recent.length < u.level) then
        match s.badStep c w with
        | some va => .next ((s.failCommand pid c va).settleTokens cid)
        | none =>
          let p := c.thePair
          let block := (s.core pid).active
          let bad := c.kind == .mring && (block.map c.misfit).getD true
          let rowsB := if c.kind = .mring then (block.map fun b => b.stepRows p s.fresh).getD [] else s.rowsOfB c w
          let st := (s.core pid).station
          let r : StepResult :=
            if bad then { station := st, ovf := false, nan := false }
            else stepAll p w.sat c.sa c.sb w.row0 w.col0 (s.rowsOfA c w) rowsB st
          let store :=
            if c.kind = .gmm ∧ c.step + 1 = w.steps then 8 + (w.m * w.n * storeElem c.oFmt + 255) / 256 else 0
          let t := (s.onStation pid fun _ => r.station).onHead cid k fun x =>
            { x with step := x.step + 1, steps := x.steps + 1, ovf := x.ovf || r.ovf, nan := x.nan || r.nan,
                     fmtErr := x.fmtErr || bad }
          let drawn := if c.kind = .mring && p.bScale then w.n * (p.step / 32) else 0
          .next ({ t with fresh := t.fresh + drawn }.onCluster cid fun x =>
            { x with mat := { x.mat with until_ := ac + dur + store, starts := slot :: recent } })
      else .next s

/-! ### Completion (R220, R221, R224, R225) -/

/-- A cell as MST stores it (R221, R222): the bytes, whether it overflowed, whether it is NaN (R220; log 47: also where the bits are
copied). -/
def storeCell (fmt : Nat) (sat : Bool) (v : Nat) : List Byte × Bool × Bool :=
  if fmt = 0 then (elemBytes 4 v, false, (Fmt.fp32.value v).isNaN)
  else
    let F := fmtOf fmt
    let r := saturate F sat (roundVal F .rne false (Fmt.fp32.value v))
    (elemBytes 2 r.bits, r.flags.ovf, (F.value r.bits).isNaN)

namespace State

/-- A rectangle of a station stored row by row (R221): the state, whether a cell overflowed, whether one is NaN. -/
def storeStation (s : State) (pid fmt : Nat) (sat : Bool) (row0 col0 rows cols : Nat) (ps : Pages) (va : Word)
    (stride : Nat) : State × Bool × Bool :=
  let st := (s.core pid).station
  (List.range rows).foldl
    (fun acc i =>
      let cells := (List.range cols).map fun n =>
        storeCell fmt sat (Tab.read st 0#32 (cellKey (row0 + i) (col0 + n))).toNat
      let bytes := cells.flatMap fun c => c.1
      let cut := cutRuns (ps.pieces 2 (va + Word.ofNat (i * stride)) bytes.length) bytes
      (acc.1.writeRuns cut, acc.2.1 || cells.any fun c => c.2.1, acc.2.2 || cells.any fun c => c.2.2))
    (s, false, false)

/-- A rectangle of a station loaded row by row (R221). -/
def loadStation (s : State) (pid row0 col0 rows cols : Nat) (ps : Pages) (va : Word) (stride : Nat) : State :=
  s.onStation pid fun st =>
    (List.range rows).foldl
      (fun st i =>
        let v := ps.value s.mem (va + Word.ofNat (i * stride)) (4 * cols)
        (List.range cols).foldl (fun st n => putCell st (cellKey (row0 + i) (col0 + n)) (packedElem 32 v n)) st) st

/-- Some cell of a rectangle of a station is NaN (R220; log 47). -/
def stationNaN (s : State) (pid row0 col0 rows cols : Nat) : Bool :=
  (List.range rows).any fun i => (List.range cols).any fun n =>
    (Fmt.fp32.value (Tab.read (s.core pid).station 0#32 (cellKey (row0 + i) (col0 + n))).toNat).isNaN

/-- What happens to a core's latch once a block has left ACTIVE (R223, R224): INCOMING moves up. -/
def latchUp (s : State) (pid : Nat) : State := s.onCore pid fun c => { c with active := c.incoming, incoming := none }

/-- The forward of an MRING (R224): a hod operation that carries the ACTIVE block to rank NEXT. -/
def forwardBlock (s : State) (pid : Nat) (c : MatCmd) (b : Block) : State :=
  let n := (s.core pid).opNo
  s.onCore pid fun k =>
    { k with
      opNo := n + 1
      hods := k.hods ++ [
        { no := n, kind := .forward, slot := c.slot, gen := c.gen, reg := c.reg, pages := [],
          todo := [(0, b.data.length + b.scales.length, 0)], extent := b.data.length + b.scales.length,
          dests := [{ va := 0, pages := [], sent := 0, performed := 0, locked := false, refused := none, told := false,
                      done := false, notes := [] }],
          bytes := 0, clip := none, counter := c.no, failed := none, code := none, block := some b,
          rank := fld c.place 32 16 }] }

/-- The effect of an executing command whose work has ended. -/
def performCommand (s : State) (cid k : Nat) (c : MatCmd) : State :=
  let pid := 8 * cid + k
  let w := c.work (s.core pid).active
  match c.kind with
  | .mma => (s.finishCommand pid c c.steps).freeUnit cid
  | .mmz => ((s.onStation pid fun st => zeroCells st w.row0 w.col0 w.m w.n).finishCommand pid c 0).freeUnit cid
  | .mldc =>
    match (List.range w.m).findSome? fun i =>
        s.badWord c.aPages (matAddr c.a + Word.ofNat (i * matStride c.a)) (4 * w.n) with
    | some va => s.failCommand pid c va
    | none =>
      let t := s.loadStation pid w.row0 w.col0 w.m w.n c.aPages (matAddr c.a) (matStride c.a)
      (t.finishCommand pid { c with nan := t.stationNaN pid w.row0 w.col0 w.m w.n } 0).freeUnit cid
  | .mst =>
    let r := s.storeStation pid (matFmt c.a) w.sat w.row0 w.col0 w.m w.n c.aPages (matAddr c.a) (matStride c.a)
    (r.1.finishCommand pid { c with ovf := r.2.1, nan := r.2.2 } 0).freeUnit cid
  | .gmm =>
    let r := s.storeStation pid c.oFmt w.sat 0 0 w.m w.n c.outPages (c.out + Word.ofNat (w.first * c.oStride)) c.oStride
    let d := { c with ovf := c.ovf || r.2.1, nan := c.nan || r.2.2, tile := c.tile + 1, step := 0 }
    if d.tile < (tilesOf 0 0 c.counts).length then (r.1.onHead cid k fun _ => d).freeUnit cid
    else (r.1.finishCommand pid d c.counts.sum).freeUnit cid
  | .mring =>
    match flag c.place 48, (s.core pid).active with
    | true, some b => ((s.onHead cid k fun x => { x with pushing := true }).forwardBlock pid c b).freeUnit cid
    | _, _ => ((s.latchUp pid).finishCommand pid c c.steps).freeUnit cid

end State

/-- The completions that the end of a core's command brings (R220, R226): its own, and the waits that it meets. -/
def Core.endings (c : Core) : Nat := 1 + (c.mwaits.filter fun w => decide (c.mq.length - 1 ≤ w.threshold)).length

/-- MATRIX_COMPLETE (R220, R224, R225): the executing command's last step, store or zeroing has ended, and what it completes can
be taken; an MST, MMZ or MLDC completes in any case, and its word alone waits for the spill queue (R334, R335). A word that waits so
goes first. At spot: the cluster. -/
def execMatrixComplete (s : State) : Host.Outcome State Fault Refusal :=
  let cid := s.spot.place
  let u := (s.cluster cid).mat
  match (List.range 8).findSome? fun k => s.spillOwed (8 * cid + k) with
  | some t => .next t
  | none =>
    match u.core with
    | none => .next s
    | some k =>
      match (s.core (8 * cid + k)).mq with
      | [] => .next s
      | c :: _ =>
        let w := c.work (s.core (8 * cid + k)).active
        if s.clusterRuns cid && decide (u.until_ ≤ s.clusterAc cid) && decide (w.steps ≤ c.step) &&
            (!c.needsSteps || s.takesCompletions (8 * cid + k) (s.core (8 * cid + k)).endings) then
          .next ((s.performCommand cid k c).settleTokens cid)
        else .next s

end Sys2Proof.Machine
end

