-- ==== Sys2Proof/Machine/Hod.lean ====
section
/-!
DEFINITION. The hod engine: copies, tiles, multicasts and latch blocks (R132 to R136, R223), beats and completions (R245,
R246), combining and free counters (R136 to R139, R248).
-/

namespace Sys2Proof.Machine

/-! ### Ranges (R132) -/

/-- Two lists of runs share a byte. -/
def piecesMeet (a b : List (Nat × Nat)) : Bool :=
  a.any fun x => b.any fun y => decide (x.1 < y.1 + y.2) && decide (y.1 < x.1 + x.2)

/-- The destination unit of a home (R132): a rim stack, host memory and a pod window are one unit each. -/
def Home.unit : Home → Home
  | .hbm t _ => .hbm t 0
  | .system _ => .system 0
  | h => h

/-- A place that may be the destination of a hod operation. -/
def destinationUnit : Option (Home × Area) → Option Home
  | some (h, .memory) => some h.unit
  | some (h, .podWindow) => some h.unit
  | _ => none

namespace State

/-- The checks of a destination range (R132, R134): canonical, aligned, translated, in one unit. -/
def destination (s : State) (va : Word) (n al : Nat) : Except Stop (Pages × Home × State) := do
  require (canonical va) .page .engine va
  require (va.toNat % al == 0) .align .engine va
  let (ps, t) ← s.translateRange s.cur.core s.me .push .engine va n
  match ps.places.map destinationUnit with
  | some h :: rest => if rest.all (· == some h) then .ok (ps, h, t) else trapAt .illegal .engine va
  | _ => trapAt .illegal .engine va

/-- A source and a destination range that share a byte trap ILLEGAL (R132). -/
def apart (ps : Pages) (va : Word) (n : Nat) (qs : Pages) (wa : Word) (m : Nat) : Bool :=
  !piecesMeet (ps.pieces (n / 2 ^ 16 + 2) va n) (qs.pieces (m / 2 ^ 16 + 2) wa m)

/-- The hod operations in flight at the issuing core number less than 128, and the source's locks are registered (R132). -/
def startHod (s : State) (rd : Reg) (scopes : List Scope) (locks : List LockAsk) : Except Stop (Nat × State) := do
  waitUnless (decide (s.myCore.hods.length < 128)) .hodLimit
  waitUnless (decide (locks.length ≤ s.freeLocks s.myTable)) .lockTable
  let t ← s.lockAll 1 s.myCore.opNo locks
  .ok (t.startOp rd scopes 0)

end State

/-- A destination that nothing has been sent to. -/
def HodDest.fresh (va : Word) (ps : Pages) (notes : List Note) : HodDest where
  va := va
  pages := ps
  sent := 0
  performed := 0
  locked := false
  refused := none
  told := false
  done := false
  notes := notes

/-- An operation that has just been issued. -/
def HodOp.issued (s : State) (no : Nat) (kind : HodKind) (rd : Reg) (pages : Pages) (todo : List (Word × Nat × Nat))
    (extent : Nat) (dests : List HodDest) (bytes : Nat) : HodOp where
  no := no
  kind := kind
  slot := s.cur.slot
  gen := s.me.gen
  reg := rd
  pages := pages
  todo := todo
  extent := extent
  dests := dests
  bytes := bytes
  clip := none
  counter := 0
  failed := none
  code := none
  block := none
  rank := 0

/-- The state with an operation in flight at the issuing core. -/
def State.addHod (s : State) (o : HodOp) : State := s.onMyCore fun c => { c with hods := c.hods ++ [o] }

/-! ### HOD.PUSH (R134) -/

/-- The notice of a notice word; 0 is none (R134). -/
def noticeOf (w : Word) : List Note :=
  if w = 0 then [] else [{ rank := fld w 0 16, index := fld w 16 6, tc0 := flag w 24 }]

/-- HOD.PUSH (R134). -/
def execHodPush (xn : XIdx) (rd r1 r2 : Reg) (s : State) :=
  s.issue { Need.plain [r1, r2] [rd] with xs := [xn] } fun t => do
    let d := t.xreg xn
    let w := t.reg r1
    let n := (t.reg r2).toNat
    let src := d.setWidth 64
    let dst := d.extractLsb' 64 64
    require (w == 0 || (flag w 31 && fld w 32 32 == 0 && fld w 25 6 == 0 && fld w 22 2 == 0)) .illegal .engine 0
    require (w == 0 || !isServiceRank (fld w 0 16) || t.me.sup) .privilege .engine 0
    require (w == 0 || (t.rankPort t.cur.core (fld w 0 16)).isSome) .illegal .engine 0
    require (n % 8 == 0 && decide (8 ≤ n) && decide (n ≤ 16777216)) .illegal .engine 0
    let (ps, _, t1) ← t.checkLocal .load .engine src n 8
    let (qs, _, t2) ← t1.destination dst n 8
    require (State.apart ps src n qs dst n) .illegal .engine dst
    let (no, t3) ← t2.startHod rd (t.scopesOf qs) [⟨ps, src, n, false⟩]
    .ok (t3.addHod (HodOp.issued t no .push rd ps [(src, n, 0)] n [.fresh dst qs (noticeOf w)] n))

/-! ### HOD.TILE (R135) -/

/-- A signed 32-bit field. -/
def signed32 (w : Word) (lo : Nat) : Int := ((w >>> lo).setWidth 32).toInt

/-- The box of a tile (R135): top, left, rows, columns. -/
def tileBox (rows cols h w : Nat) (row0 col0 : Int) : Nat × Nat × Nat × Nat :=
  let rlo := max 0 row0
  let rhi := min (rows : Int) (row0 + h)
  let clo := max 0 col0
  let chi := min (cols : Int) (col0 + w)
  if rhi ≤ rlo ∨ chi ≤ clo then (0, 0, 0, 0)
  else ((rlo - row0).toNat, (clo - col0).toNat, (rhi - rlo).toNat, (chi - clo).toNat)

namespace State

/-- A clip record placed in its core's mailbox (R135), for a core that is SAVED in the spill queue; none where it finds no
place, and waits (log 33). -/
def postClip (s : State) (pid : Nat) (f : Slot) (handler : Nat) (data : List Word) : Option State :=
  let m : Msg :=
    { rw := (Routing.mk .run 1 f.ecls f.prio.val true (s.rankOf pid) (s.taskOf pid f) (s.rankOf pid)).word,
      sel := Word.ofNat handler, data := data }
  if s.recordWaits pid m then none else s.placeFor pid m

end State

/-- HOD.TILE (R135). -/
def execHodTile (xn xm : XIdx) (rd r1 : Reg) (s : State) :=
  s.issue { Need.plain [r1] [rd] with xs := [xn, xm] } fun t => do
    let d := (t.xreg xn).toNat
    let e := (t.xreg xm).toNat
    let o := t.reg r1
    let size := 2 ^ (d / 2 ^ 56 % 4)
    let rows := d / 2 ^ 64 % 2 ^ 24
    let cols := d / 2 ^ 88 % 2 ^ 24
    let h := e / 2 ^ 64 % 2 ^ 16
    let w := e / 2 ^ 80 % 2 ^ 16
    let stride := e / 2 ^ 96
    let clip := e / 2 ^ 56 % 256
    let base := matAddr (t.xreg xn)
    let dst := matAddr (t.xreg xm)
    let box := tileBox rows cols h w (signed32 o 0) (signed32 o 32)
    let whole := box == (0, 0, h, w)
    let bytes := box.2.2.1 * box.2.2.2 * size
    require (d / 2 ^ 58 % 64 == 0 && d / 2 ^ 112 == 0 && decide (1 ≤ rows) && decide (1 ≤ cols) && decide (1 ≤ h) &&
      decide (h ≤ 4096) && decide (1 ≤ w) && decide (w ≤ 4096) && decide (cols * size ≤ stride) &&
      decide (h * w * size ≤ 16777216) && !t.handlerEmpty t.cur.core clip) .illegal .engine 0
    let record : List Word :=
      [dst, o, Word.ofNat (h + w * 2 ^ 16 + d / 2 ^ 56 % 4 * 2 ^ 32), Word.ofNat box.1, Word.ofNat box.2.1,
        Word.ofNat box.2.2.1, Word.ofNat box.2.2.2, Word.ofNat bytes]
    if bytes = 0 then
      require (base.toNat % size == 0 && stride % size == 0) .align .engine base
      require (dst.toNat % size == 0) .align .engine dst
      waitUnless (decide (t.myCore.hods.length < 128)) .hodLimit
      -- An empty box registers nothing, and is over in the next ac; no FENCE covers it, and EXIT waits for it (R76, R86).
      let (no, t1) := t.startOp rd [] 0
      let cid := t.cur.core / 8
      .ok ((t1.addHod
        { HodOp.issued t no .tile rd [] [] 0 [.fresh dst [] []] 0 with clip := some (clip, record) }).inject
          (.cluster cid) (.cluster cid) 2 (.landed t.cur.core no 0 (t.coreAc t.cur.core + 1)))
    else
      let row := box.2.2.2 * size
      let src := base + Word.ofInt ((signed32 o 0 + box.1) * stride + (signed32 o 32 + box.2.1) * size)
      let out := dst + Word.ofNat ((box.1 * w + box.2.1) * size)
      let srcExtent := rowSpan box.2.2.1 stride row
      let outExtent := rowSpan box.2.2.1 (w * size) row
      require (canonical src) .page .engine src
      require (base.toNat % size == 0 && stride % size == 0) .align .engine base
      let (ps, _, t1) ← t.checkLocal .load .engine src srcExtent size
      let (qs, _, t2) ← t1.destination out outExtent size
      require (State.apart ps src srcExtent qs out outExtent) .illegal .engine out
      let (no, t3) ← t2.startHod rd (t.scopesOf qs) [⟨ps, src, srcExtent, false⟩]
      let todo := (List.range box.2.2.1).map fun i => (src + Word.ofNat (i * stride), row, i * (w * size))
      .ok (t3.addHod
        { HodOp.issued t no .tile rd ps todo outExtent [.fresh out qs []] bytes with
          clip := if whole then none else some (clip, record) })

/-! ### HOD.MC (R136) -/

namespace State

/-- The ranks of a rectangle of the logical grid of the issuing core's partition (R95, R136); none where it runs past the
grid. -/
def rectangleRanks (s : State) (first cols rows : Nat) : Option (List Nat) :=
  let g := (s.region (s.cur.core / 512)).grid
  if first / g.1 + rows ≤ g.2 ∧ first % g.1 + cols ≤ g.1 ∧ 0 < g.1 then
    some ((List.range rows).flatMap fun i => (List.range cols).map fun j => first + i * g.1 + j)
  else none

/-- The cores of ranks at the issuing core's router; none where a rank names no core. -/
def coresOf (s : State) : List Nat → Option (List (Nat × Nat))
  | [] => some []
  | r :: rs =>
    match s.rankPort s.cur.core r, s.coresOf rs with
    | some (.core p), some l => some ((r, p) :: l)
    | _, _ => none

end State

/-- The identity pages of n physical bytes from pa. -/
def physPages (pa n : Nat) : Pages :=
  (List.range ((pa % 2 ^ 16 + n + 2 ^ 16 - 1) / 2 ^ 16)).map fun i => (pa / 2 ^ 16 + i, pa / 2 ^ 16 + i)

/-- HOD.MC (R136). -/
def execHodMc (xn : XIdx) (ctr : BitVec 4) (rd r1 r2 : Reg) (s : State) :=
  s.issue { Need.plain [r1, r2] [rd] with xs := [xn] } fun t => do
    let d := (t.xreg xn).toNat
    let w := t.reg r1
    let n := (t.reg r2).toNat
    let src := matAddr (t.xreg xn)
    let off := d / 2 ^ 64 % 2 ^ 24
    let pads := d / 2 ^ 88 % 2 == 1
    let noted := d / 2 ^ 95 % 2 == 1
    let index := d / 2 ^ 89 % 64
    require (d / 2 ^ 56 % 256 == 0 && d / 2 ^ 96 == 0 && fld w 32 32 == 0 && decide (1 ≤ fld w 16 8) &&
      decide (1 ≤ fld w 24 8)) .illegal .engine 0
    require (!isServiceRank (fld w 0 16) || t.me.sup) .privilege .engine 0
    require (n % 8 == 0 && decide (8 ≤ n) && decide (n ≤ 16777216) &&
      decide (off + n ≤ if pads then 16777216 else 262144)) .illegal .engine 0
    match (t.rectangleRanks (fld w 0 16) (fld w 16 8) (fld w 24 8)).bind t.coresOf with
    | none => trap .illegal .engine
    | some cores =>
      require (cores.all fun c => c.2 != t.cur.core) .illegal .engine 0
      let (ps, _, t1) ← t.checkLocal .load .engine src n 8
      require (off % 8 == 0) .align .engine (Word.ofNat off)
      let note (l : List (Nat × Nat)) : List Note :=
        if noted then l.map fun c => { rank := c.1, index := index, tc0 := false } else []
      let dests : List HodDest :=
        if pads then
          ((cores.map fun c => c.2 / 8).eraseDups).map fun cid =>
            .fresh (Word.ofNat (clusterBase cid + off)) (physPages (clusterBase cid + off) n)
              (note (cores.filter fun c => c.2 / 8 == cid))
        else
          cores.map fun c => .fresh (Word.ofNat (tcmBase c.2 + off)) (physPages (tcmBase c.2 + off) n) (note [c])
      require (dests.all fun q => State.apart ps src n q.pages q.va n) .illegal .engine 0
      let (no, t2) ← t1.startHod rd (dests.flatMap fun q => t.scopesOf q.pages) [⟨ps, src, n, false⟩]
      let t3 := t2.onMyCore fun c =>
        { c with freeCtr := Tab.put c.freeCtr ctr.toNat ((Tab.read c.freeCtr 0 ctr.toNat + 1) % 2 ^ 16) }
      .ok (t3.addHod { HodOp.issued t no .multicast rd ps [(src, n, 0)] n dests (n * dests.length) with counter := ctr.toNat })

/-! ### HOD.FREE, HOD.WT and HOD.CNT (R138, R139) -/

/-- HOD.FREE (R138): the free goes to the router of the issuing core. -/
def execHodFree (r1 : Reg) (s : State) :=
  s.issue (Need.plain [r1] []) fun t => do
    let w := t.reg r1
    let rank := fld w 0 16
    require (fld w 20 44 == 0 && !isServiceRank rank && (t.rankPort t.cur.core rank).isSome) .illegal .engine 0
    .ok (t.inject (.core t.cur.core) (.router (t.cur.core / 8)) 1 (.free rank (fld w 16 4)))

/-- HOD.WT (R139): a threshold already met is answered at once. -/
def execHodWt (ctr : BitVec 4) (rd r1 : Reg) (s : State) :=
  s.issue (Need.plain [r1] [rd]) fun t => do
    let w := t.reg r1
    require (fld w 16 48 == 0) .illegal .engine 0
    let v := Tab.read t.myCore.freeCtr 0 ctr.toNat
    if v ≤ fld w 0 16 then .ok (t.setReg rd (Word.ofNat v))
    else
      .ok ((t.setPending rd .engine).onMyCore fun c =>
        { c with
          hwaits := c.hwaits ++ [{ slot := t.cur.slot, gen := t.me.gen, reg := rd, counter := ctr.toNat,
                                   threshold := fld w 0 16 }] })

/-- HOD.CNT (R139). -/
def execHodCnt (ctr : BitVec 4) (rd : Reg) (s : State) :=
  s.compute (Need.plain [] [rd]) rd fun t => Word.ofNat (Tab.read t.myCore.freeCtr 0 ctr.toNat)

/-! ### MBPASS (R223) -/

/-- The formats that a B block may have, with whether its scale bytes come with it: none, always, or as BSCL says (R212,
R215, R223). -/
def blockScales (fmt : Nat) : Option (Option Bool) :=
  match fmt with
  | 1 | 2 | 4 | 10 => some (some false)
  | 5 => some (some true)
  | 3 => some none
  | _ => none

/-- The block scales of a row of a B block: K_step / 32. -/
def rowScales (fmt : Nat) : Nat := if fmt = 5 then 4 else if fmt = 1 ∨ fmt = 2 then 1 else 2

/-- MBPASS (R223). -/
def execMbpass (xn : XIdx) (rd r1 r2 : Reg) (s : State) :=
  s.issue { Need.plain [r1, r2] [rd] with xs := [xn], engine := some .matrixFull } fun t => do
    let b := t.xreg xn
    let fmt := matFmt b
    let n := matRows b
    require (matReserved b && matK b == 0 && decide (1 ≤ n) && decide (n ≤ 256) && matStrideOk b 64) .illegal .engine 0
    match blockScales fmt with
    | none => trap .illegal .engine
    | some rule =>
      require (fld (t.reg r1) 16 48 == 0 && t.dCoreOfTask (fld (t.reg r1) 0 16)) .illegal .engine 0
      let (h, t1) ← t.scaleHeader r2
      require (match rule with | some r => (h.2.1 != 0) == r | none => true) .illegal .engine 0
      let scaled := h.2.1 != 0
      let bytes := rowSpan n (matStride b) 64
      let sbytes := if scaled then n * rowScales fmt else 0
      let pad := some (Home.scratchpad (t.cur.core / 8))
      let (bp, t2) ← t1.operand .load pad (matAddr b) bytes 8
      let (sp, t3) ← t2.operand .load pad h.2.1 sbytes 1
      let target : Nat :=
        match t.rankPort t.cur.core (fld (t.reg r1) 0 16) with
        | some (.core p) => p
        | _ => 0
      let (no, t4) ← t3.startHod rd [scopeOfCore t.cur.core target]
        (⟨bp, matAddr b, bytes, false⟩ :: (if scaled then [⟨sp, h.2.1, sbytes, false⟩] else []))
      let rows := (List.range n).map fun i => (matAddr b + Word.ofNat (i * matStride b), 64, 64 * i)
      let all := rows ++ (if scaled then [(h.2.1, sbytes, 64 * n)] else [])
      .ok (t4.addHod
        { HodOp.issued t no .block rd (bp ++ sp) all (64 * n + sbytes) [.fresh 0 [] []] (64 * n + sbytes) with
          block := some { fmt := fmt, rows := n, data := [], scales := [] }, rank := fld (t.reg r1) 0 16 })

/-! ### The multicast tree (R137, R248) -/

/-- A tree as routers with the router before them and their branches. -/
abbrev Tree := List (Nat × Option Nat × List Branch)

/-- A tree with a branch added at a router. -/
def Tree.grow (t : Tree) (cid : Nat) (up : Option Nat) (b : Branch) : Tree :=
  match t with
  | [] => [(cid, up, [b])]
  | (c, u, bs) :: rest =>
    if c = cid then (c, u, if bs.contains b then bs else bs ++ [b]) :: rest else (c, u, bs) :: Tree.grow rest cid up b

/-- A tree with a path added: the routers from one on, and the branch at its end. -/
def Tree.addPath (t : Tree) (up : Option Nat) (cid : Nat) (leaf : Branch) : List Nat → Tree
  | [] => t.grow cid up leaf
  | c :: cs => Tree.addPath (t.grow cid up (.router c)) (some cid) c leaf cs

/-- The home of a destination of physical pages. -/
def HodDest.home (d : HodDest) : Option Home := (place (d.pages.phys d.va)).map Prod.fst

namespace State

/-- The tree of a multicast (R248): the union of the unicast paths to its destinations. -/
def treeOf (s : State) (pid : Nat) (o : HodOp) : Tree :=
  let root := pid / 8
  o.dests.foldl
    (fun t d =>
      match d.home with
      | some (.tcm p) => Tree.addPath t none root (.core p) (s.routeFrom 100 root 2 (p / 8) 2)
      | some (.scratchpad c) => Tree.addPath t none root .pad (s.routeFrom 100 root 2 c 2)
      | _ => t) []

end State

/-- A router's entries with one more tile passed down for a sender and counter (R137). -/
def passTile (es : List Combine) (sender counter : Nat) (up : Option Nat) (bs : List Branch) : List Combine :=
  match es with
  | [] => [{ sender := sender, counter := counter, up := up, tiles := 1, frees := 0, branches := bs.map fun b => (b, 0) }]
  | e :: rest =>
    if e.sender = sender ∧ e.counter = counter then
      { e with
        tiles := e.tiles + 1
        branches := e.branches ++
          ((bs.filter fun b => !(e.branches.any fun x => x.1 == b)).map fun b => (b, e.tiles)) } :: rest
    else e :: passTile rest sender counter up bs

/-- A router has or can make an entry for a sender and counter: it holds 32 (R137, R248). -/
def canPass (es : List Combine) (sender counter : Nat) : Bool :=
  (es.any fun e => e.sender == sender && e.counter == counter) || decide (es.length < 32)

namespace State

/-- The state with a hod operation of a core changed. -/
def onHod (s : State) (pid no : Nat) (f : HodOp → HodOp) : State :=
  s.onCore pid fun c => { c with hods := c.hods.map fun o => if o.no = no then f o else o }

/-- The hod operation of a core with a number. -/
def hodOp (s : State) (pid no : Nat) : Option HodOp := (s.core pid).hods.find? fun o => o.no == no

/-- A multicast's tile comes to a router of its tree: the first beat that does makes or raises the combining entry there; none
where the router has no free entry, and holds it at its input (R137). -/
def passInto (s : State) (pid : Nat) (o : HodOp) (cid : Nat) : Option State :=
  if o.kind != .multicast || o.opened.contains cid then some s
  else
    match (s.treeOf pid o).find? fun n => n.1 == cid with
    | none => some s
    | some n =>
      if canPass (s.cluster cid).combine (s.rankOf pid) o.counter then
        some
          ((s.onCluster cid fun c => { c with combine := passTile c.combine (s.rankOf pid) o.counter n.2.1 n.2.2 }).onHod pid o.no
            fun o => { o with opened := cid :: o.opened })
      else none

/-- The turn of a packet to hop: a beat of a multicast waits for its entry at the next router, while the other branches go on
(R137, R177). -/
def hopTurn (s : State) (n : Nat) : State :=
  match s.mayHop n with
  | some (p, x) =>
    match p.load with
    | .beat b =>
      match s.hodOp b.core b.op with
      | some o =>
        match s.passInto b.core o x with
        | some t => t.hop n
        | none => s
      | none => s.hop n
    | _ => s.hop n
  | none => s

end State

/-! ### Injection (R245) -/

/-- An operation with a beat of n bytes taken from the head of what it has to inject. -/
def HodOp.advance (o : HodOp) (n : Nat) : HodOp :=
  { o with
    todo :=
      match o.todo with
      | (va, k, off) :: rest => if n < k then (va + Word.ofNat n, k - n, off + n) :: rest else rest
      | [] => []
    dests := o.dests.map fun d => { d with sent := d.sent + 1 } }

/-- The bytes of the next beat (R245): at most 256, within one 256-byte block of the destination's physical address, and within
one page of the source. -/
def HodOp.beatSize (o : HodOp) : Nat :=
  match o.todo with
  | [] => 0
  | (va, n, off) :: _ =>
    let at_ := ((o.dests.head?.map HodDest.va).getD 0).toNat + off
    min n (min (256 - at_ % 256) (if o.kind = .forward then n else 2 ^ 16 - va.toNat % 2 ^ 16))

namespace State

/-- The bytes of a beat at its source: memory, or the latch block of a forward. -/
def beatBytes (s : State) (o : HodOp) (n : Nat) : List Byte :=
  match o.todo with
  | [] => []
  | (va, _, off) :: _ =>
    if o.kind = .forward then
      (((o.block.map fun b => b.data ++ b.scales).getD []).drop off).take n
    else o.pages.bytes s.mem va n

/-- Where the beats of a destination go (R132, R147, R223). -/
def beatPort (s : State) (pid : Nat) (o : HodOp) (d : HodDest) (off : Nat) : Option Port :=
  if o.kind = .block ∨ o.kind = .forward then s.rankPort pid o.rank
  else (place (d.pages.phys (d.va + Word.ofNat off))).map fun h => .home h.1

/-- The class of the beats to a place (R245). -/
def beatClass : Port → Nat
  | .home (.hbm _ _) | .home (.flash _ _) | .home (.system _) | .home (.pod _) => 3
  | _ => 2

/-- The ac from which a beat for a home in the issuing cluster may be performed: the one after its injection (R245). -/
def beatSince (s : State) (pid : Nat) : Port → Nat
  | .home (.tcm p) => if p / 8 = pid / 8 then s.coreAc pid + 1 else 0
  | .home (.scratchpad c) => if c = pid / 8 then s.coreAc pid + 1 else 0
  | _ => 0

/-- A beat of an operation injected toward each of its destinations (R245, R248): a rim push's carry the PASID of its ring (R359),
and a block's say where in the block they lie. -/
def sendBeats (s : State) (pid : Nat) (o : HodOp) (off : Nat) (bytes : List Byte) : State :=
  (o.dests.zipIdx).foldl
    (fun u d =>
      match s.beatPort pid o d.1 off with
      | some p =>
        let beat : Payload :=
          .beat { core := pid, op := o.no, dest := d.2, bytes := bytes, since := s.beatSince pid p
                  pa := if o.kind = .block ∨ o.kind = .forward then off else d.1.pages.phys (d.1.va + Word.ofNat off) }
        if o.kind = .rim then u.injectFor (some o.rank) (.cluster (pid / 8)) p 3 beat
        else u.inject (.cluster (pid / 8)) p (beatClass p) beat
      | none => u) s

/-- The lock that an operation registers at a destination (R132). -/
def destLock (pid : Nat) (o : HodOp) (d : HodDest) : Lock :=
  let r := d.pages.span d.va o.extent
  { first := r.1, last := r.2, full := true, eng := if o.kind = .rim then 6 else 1, owner := pid, op := o.no, since := 0 }

/-- The state without the lock of a destination (R246). -/
def dropDest (s : State) (pid : Nat) (o : HodOp) (d : HodDest) : State :=
  match d.home.bind Home.table? with
  | some t => s.releaseLocks t fun l => { l with since := 0 } == destLock pid o d
  | none => s

/-- The oldest operation of a core with bytes still to be injected; those of a fenced core go on (R340). -/
def hodNext (s : State) (pid : Nat) : Option HodOp := (s.core pid).hods.find? fun o => !o.todo.isEmpty && o.kind != .rim

/-- An operation may inject its next beat: a multicast needs its entry at its own router (R137). -/
def mayInject (s : State) (pid : Nat) (o : HodOp) : Bool := (s.passInto pid o (pid / 8)).isSome

/-- The home of the source that an operation reads next has performed a beat (R154, R245): what a core of it stores in this ac
comes before the read. -/
def sourceRead (s : State) (o : HodOp) : State :=
  match o.todo with
  | [] => s
  | (va, _, _) :: _ =>
    if o.kind = .forward then s
    else
      match place (o.pages.phys va) with
      | some (h, _) => s.performed h true
      | none => s

/-- A source read that met an uncorrected word (R132): no beat follows; destinations to which nothing is under way release
their locks and are done. -/
def failHod (s : State) (pid : Nat) (o : HodOp) (va : Word) : State :=
  let s1 := o.dests.foldl (fun u d => if d.performed = d.sent then u.dropDest pid o d else u) s
  s1.onHod pid o.no fun o =>
    { o with
      failed := some va
      code := o.code.or (some (.uncorrected, va))
      todo := []
      dests := o.dests.map fun d => if d.performed = d.sent then { d with told := true, done := true } else d }

/-- A notice COUNT with decrement 1 (R134, R136), sent by a core's engine for a fibre. -/
def sendCount (s : State) (pid : Nat) (f : Slot) (n : Note) : State :=
  s.sendToRank pid n.rank
    { kind := .count, tc := if n.tc0 then 0 else 1, ecls := f.ecls, prio := f.prio.val, size := false, dest := n.rank,
      task := s.taskOf pid f, src := s.rankOf pid }
    (Word.ofNat (n.index * 2 ^ 32 + 1)) [0]

/-- The state after an operation has left its core: source locks released (R132). -/
def endHod (s : State) (pid : Nat) (o : HodOp) : State :=
  (((s.dropLocks (some (.cluster (pid / 8))) pid 1 o.no).endOp pid o.no).onCore pid fun c =>
    { c with hods := c.hods.filter fun x => x.no != o.no })

/-- An MRING whose forward has ended (R224): ACTIVE empties, INCOMING moves up, and the command ends. -/
def endForward (s : State) (at_ : Nat) (o : HodOp) : State :=
  let pid := s.holder at_
  let t := s.latchUp pid
  match (s.core pid).mq.find? fun c => c.no == o.counter with
  | none => t
  | some c =>
    match o.code with
    | some r => (t.endCommand pid c).completeRefused pid c.slot c.gen c.reg r.2 r.1
    | none => t.finishCommand pid c c.steps

/-- An operation all of whose destinations are done (R132, R135): a refusal, the clip record, the token register. -/
def finishHod (s : State) (pid : Nat) (o : HodOp) : State :=
  let t := s.endHod pid o
  if o.kind = .forward then t.endForward pid o
  else
    match o.code with
    | some r => t.completeRefused pid o.slot o.gen o.reg r.2 r.1
    | none =>
      let u := match o.clip with
        | some (h, data) => (t.postClip (s.holder pid) (s.slot (s.holder pid) o.slot) h data).getD t
        | none => t
      u.complete pid o.slot o.gen o.reg .engine (Word.ofNat o.bytes)

/-- An operation that is over can end now: a refusal and the end of a forward wait for a core that is not SAVED, a completion
for room in the spill queue (R335), and a clip record for its place (R135). -/
def hodMayEnd (s : State) (pid : Nat) (o : HodOp) : Bool :=
  if o.code.isSome || o.kind == .forward then s.portRuns pid && !s.savedNow (s.holder pid)
  else
    match o.clip with
    | none => s.takesCompletion pid
    | some (h, data) =>
      match s.postClip (s.holder pid) (s.slot (s.holder pid) o.slot) h data with
      | some t => t.takesCompletion pid
      | none => false

/-- The operation is over. -/
def hodOver (o : HodOp) : Bool := o.todo.isEmpty && o.dests.all HodDest.done

end State

/-- HOD_BEAT_INJECT (R132, R245): the cluster's engine takes one beat, round robin by core; a source read that meets an
uncorrected word ends the operation. At spot: the cluster. -/
def execHodBeatInject (s : State) : Host.Outcome State Fault Refusal :=
  let cid := s.spot.place
  let ac := s.coreAc (8 * cid)
  let c := s.cluster cid
  if s.clusterRuns cid && c.hodAt != some ac then
    match ((List.range 8).map fun i => 8 * cid + (c.hodLast + 1 + i) % 8).findSome? fun pid =>
        match s.hodNext pid with
        | some o => if s.mayInject pid o then some (pid, o) else none
        | none => none with
    | none => .next s
    | some (pid, o) =>
      match o.todo with
      | [] => .next s
      | (va, _, off) :: _ =>
        let n := o.beatSize
        let t := (s.onCluster cid fun c => { c with hodLast := pid % 8, hodAt := some ac }).sourceRead o
        match (if o.kind = .forward then none else s.badWord o.pages va n) with
        | some bad =>
          let u := t.failHod pid o bad
          match u.hodOp pid o.no with
          | some p =>
            -- With no beat under way it is over, and ends as by a completion.
            .next
              (if State.hodOver p then u.inject (.cluster cid) (.cluster cid) 2 (.landed pid o.no 0 (ac + 1)) else u)
          | none => .next u
        | none =>
          let u := (t.passInto pid o cid).getD t
          .next ((u.sendBeats pid o off (s.beatBytes o n)).onHod pid o.no fun o => o.advance n)
  else .next s

/-! ### Arrival (R132, R246) -/

/-- A piece put into its place in a list in the order of the offsets. -/
def insertPiece (x : Nat × List Byte) : List (Nat × List Byte) → List (Nat × List Byte)
  | [] => [x]
  | y :: l => if x.1 ≤ y.1 then x :: y :: l else y :: insertPiece x l

/-- Pieces in the order of their offsets. -/
def sortPieces : List (Nat × List Byte) → List (Nat × List Byte)
  | [] => []
  | x :: l => insertPiece x (sortPieces l)

namespace State

/-- A destination's state changed. -/
def onDest (s : State) (b : Beat) (f : HodDest → HodDest) : State :=
  s.onHod b.core b.op fun o => { o with dests := o.dests.mapIdx fun i d => if i = b.dest then f d else d }

/-- The end of a beat at its destination (R246): after the last, the lock is released and the completion goes to the engine. -/
def beatDone (s : State) (from_ : Port) (b : Beat) : State :=
  let t := s.onDest b fun d => { d with performed := d.performed + 1 }
  match t.hodOp b.core b.op with
  | none => t
  | some o =>
    match o.dests[b.dest]? with
    | none => t
    | some d =>
      if o.todo.isEmpty && d.performed == d.sent && !d.told then
        ((t.dropDest b.core o d).onDest b fun d => { d with told := true }).inject from_ (.cluster (b.core / 8))
          (if o.kind = .rim then 3 else beatClass from_)
          (.landed b.core b.op b.dest (if b.since = 0 then 0 else t.coreAc b.core + 1))
      else t

/-- A beat that its destination refuses (R132): the bytes already written stay, its lock is released, and no later byte is
written there. -/
def beatRefused (s : State) (from_ : Port) (b : Beat) (o : HodOp) (d : HodDest) (c : FaultCode) : State :=
  ((s.dropDest b.core o d).onDest b fun x => { x with refused := some c, locked := false }).beatDone from_ b

/-- A core's latch after a block has landed in INCOMING: it moves to ACTIVE where that is empty (R223). -/
def latchIn (s : State) (pid : Nat) (b : Block) : State :=
  s.onCore pid fun c =>
    if c.active.isNone then { c with active := some b, filling := none } else { c with incoming := some b, filling := none }

/-- The bytes of pieces with their offsets, in the order of the offsets. -/
def assemble (l : List (Nat × List Byte)) : List Byte := (sortPieces l).flatMap Prod.snd

/-- A beat of a block at its target (R223), whose bytes go to their places in it; none where it waits: INCOMING is full or is being
filled by another push, or the target is SAVED. The latch is that of the core that holds the target's context now (R337). -/
def blockBeat (s : State) (at_ : Nat) (b : Beat) (o : HodOp) (d : HodDest) : Option State :=
  let pid := s.holder at_
  let c := s.core pid
  let mine := match c.filling with | some (k, n, _) => k == b.core && n == b.op | none => true
  if d.refused.isSome then some (s.beatDone (.core at_) b)
  else if s.homeRefuses b.core (s.entryTask b.core == 0) (.tcm at_) 0 then
    some ((s.onCore pid fun c => { c with filling := none }).beatRefused (.core at_) b o d .homeFenced)
  else if c.incoming.isSome || !mine || s.savedNow pid || !s.portRuns pid || !s.portRuns at_ then none
  else
    let got := (match c.filling with | some (_, _, l) => l | none => []) ++ [(b.pa, b.bytes)]
    let t :=
      if (got.map fun x => x.2.length).sum < o.extent then s.onCore pid fun c => { c with filling := some (b.core, b.op, got) }
      else
        match o.block with
        | some k =>
          s.latchIn pid { k with data := (assemble got).take (64 * k.rows), scales := (assemble got).drop (64 * k.rows) }
        | none => s
    some (t.beatDone (.core at_) b)

/-- A beat at a home of memory (R132, R162, R246); none where it waits. -/
def memoryBeat (s : State) (h : Home) (b : Beat) (o : HodOp) (d : HodDest) : Option State :=
  let from_ := Port.home h
  if d.refused.isSome then some (s.beatDone from_ b)
  else if s.homeRefuses b.core (o.kind != .rim && (s.entryTask b.core == 0 || isService b.core)) h b.pa then
    some (s.beatRefused from_ b o d .homeFenced)
  else if !s.homeRuns h || s.rimBusy b.pa || decide (s.homeAc h < b.since) then none
  else
    let table := d.home.bind Home.table?
    let lock := destLock b.core o d
    let registered : Option (Except Unit State) :=
      if d.locked then some (.ok s)
      else if s.vectorDefers table lock then none
      else
        match s.addLock table lock with
        | .added u => some (.ok (u.onDest b fun d => { d with locked := true }))
        | .conflict => some (.error ())
        | .full => none
    match registered with
    | none => none
    | some (.error _) => some (s.beatRefused from_ b o d .rangeLocked)
    | some (.ok u) =>
      let head := b.pa % 8 != 0 && s.eccBad b.pa 1
      let tail := (b.pa + b.bytes.length) % 8 != 0 && s.eccBad (b.pa + b.bytes.length - 1) 1
      if head || tail then some (u.beatRefused from_ b o d .uncorrected)
      else
        -- A rim push counts the bytes that it has written (R357).
        let v := if o.kind = .rim then u.onHod b.core b.op fun x => { x with bytes := x.bytes + b.bytes.length } else u
        some (((v.performBeat h b.pa b.bytes).performed h true).beatDone from_ b)

/-- A beat that crosses to another module (R147, R366), where the port performs (R154); none where it waits. A module without a
route refuses it. -/
def podBeat (s : State) (m : Nat) (b : Beat) (o : HodOp) (d : HodDest) : Option State :=
  let from_ := Port.home (.pod m)
  if d.refused.isSome then some (s.beatDone from_ b)
  else if (Tab.look s.host.routes m).isNone then some (s.beatRefused from_ b o d .homeFenced)
  else if !s.homeRuns (.pod m) then none
  else
    -- A rim push counts the bytes that it has written (R357).
    let v := if o.kind = .rim then s.onHod b.core b.op fun x => { x with bytes := x.bytes + b.bytes.length } else s
    some (({ v with host := { v.host with pushed := v.host.pushed ++ [(m, b.pa, b.bytes)] } }).beatDone from_ b)

end State

/-- HOD_BEAT_ARRIVAL (R132, R246, R366): a beat reaches its destination; beats have no order (R160). A beat whose operation is
gone with its fenced core is discarded. At spot: the packet's place in flight. -/
def execHodBeatArrival (s : State) : Host.Outcome State Fault Refusal :=
  match s.moving s.spot.place with
  | some p =>
    match p.load with
    | .beat b =>
      let t := s.taken s.spot.place
      match s.hodOp b.core b.op with
      | none => .next t
      | some o =>
        match o.dests[b.dest]? with
        | none => .next t
        | some d =>
          match p.dst with
          | .core pid => .next ((t.blockBeat pid b o d).getD s)
          | .home (.pod m) => .next ((t.podBeat m b o d).getD s)
          | .home h => .next ((t.memoryBeat h b o d).getD s)
          | _ => .next t
    | _ => .next s
  | none => .next s

/-- HOD_DEST_COMPLETION (R132, R134, R136, R246): a destination's completion reaches the engine, which sends the notices of a
copy that has landed, and ends the operation when every destination is done. At spot: the packet's place in flight. -/
def execHodDestCompletion (s : State) : Host.Outcome State Fault Refusal :=
  match s.moving s.spot.place with
  | some p =>
    match p.load with
    | .landed core no dest since =>
      let t := s.taken s.spot.place
      match s.hodOp core no with
      | none => .next t
      | some o =>
        match o.dests[dest]? with
        | none => .next t
        | some d =>
          if !s.clusterRuns (core / 8) || decide (s.coreAc core < since) then .next s else
          let code := o.code.or (d.refused.map fun c => (c, d.va))
          let o1 := { o with code := code, dests := o.dests.mapIdx fun i x => if i = dest then { x with done := true } else x }
          let u := t.onHod core no fun _ => o1
          let v :=
            if d.refused.isNone && o.failed.isNone then
              d.notes.foldl (fun w n => w.sendCount core (s.slot (s.holder core) o.slot) n) u
            else u
          if !State.hodOver o1 then .next v
          else if o.kind = .rim then .next v
          else if s.hodMayEnd core o1 then .next (v.finishHod core o1)
          else .next s
    | _ => .next s
  | none => .next s

/-! ### Frees (R137 to R139) -/

/-- An entry with a free from a branch; none where the entry has no such branch. -/
def Combine.raise (e : Combine) (b : Branch) : Option Combine :=
  let has (x : Branch) : Bool := e.branches.any fun y => y.1 == x
  let which : Option Branch :=
    match b with
    | .core _ => if has b then some b else if has .pad then some .pad else none
    | _ => if has b then some b else none
  which.map fun x => { e with branches := e.branches.map fun y => if y.1 == x then (y.1, y.2 + 1) else y }

/-- The least of an entry's branch counts. -/
def Combine.least (e : Combine) : Nat :=
  match e.branches with
  | [] => 0
  | b :: bs => bs.foldl (fun m x => min m x.2) b.2

namespace State

/-- A free at a router (R137, R138): a branch count rises; the least of them passing F, a free goes on toward the sender; when
F = D the entry is released. -/
def combineFree (s : State) (cid : Nat) (from_ : Branch) (sender counter : Nat) : State :=
  let lost := s.countError cid
  match (s.cluster cid).combine.find? fun e => e.sender == sender && e.counter == counter with
  | none => lost
  | some e =>
    match e.raise from_ with
    | none => lost
    | some e1 =>
      let go := decide (e1.frees < e1.least)
      let e2 := if go then { e1 with frees := e1.frees + 1 } else e1
      let put (es : List Combine) : List Combine :=
        if e2.frees = e2.tiles then es.filter fun x => !(x.sender == sender && x.counter == counter)
        else es.map fun x => if x.sender = sender ∧ x.counter = counter then e2 else x
      let t := s.onCluster cid fun c => { c with combine := put c.combine }
      if !go then t
      else
        match e.up, s.rankPort (8 * cid) sender with
        | some up, _ => t.inject (.router cid) (.router up) 1 (.free sender counter)
        | none, some p => t.inject (.router cid) p 1 (.free sender counter)
        | none, none => t

end State

/-- FREE_COMBINE (R137, R138): a free reaches a router's combining entry; a held cluster's router does nothing (R178). At spot:
the packet's place in flight. -/
def execFreeCombine (s : State) : Host.Outcome State Fault Refusal :=
  match s.front s.spot.place with
  | some p =>
    if !s.clusterRuns p.here then .next s else
    match p.load, p.dst, p.src with
    | .free sender counter, .router cid, .core pid => .next ((s.taken s.spot.place).combineFree cid (.core pid) sender counter)
    | .free sender counter, .router cid, .router c => .next ((s.taken s.spot.place).combineFree cid (.router c) sender counter)
    | _, _, _ => .next s
  | none => .next s

namespace State

/-- A free counter of a core at a value: the waits in HOD.WT that it meets are answered (R139). -/
def setFree (s : State) (pid counter v : Nat) : State :=
  let met (w : HodWait) : Bool := w.counter == counter && decide (v ≤ w.threshold)
  let t := s.onCore pid fun c =>
    { c with freeCtr := Tab.put c.freeCtr counter v, hwaits := c.hwaits.filter fun w => !met w }
  ((s.core pid).hwaits.filter met).foldl (fun u w => u.complete pid w.slot w.gen w.reg .engine (Word.ofNat v)) t

end State

/-- FREE_COUNTER_DECREMENT (R137, R139): a combined free reaches its sender; waits that are met are answered. A free waits
while the sender is SAVED (log 34). At spot: the packet's place in flight. -/
def execFreeCounterDecrement (s : State) : Host.Outcome State Fault Refusal :=
  match s.front s.spot.place with
  | some p =>
    match p.load, p.dst with
    | .free _ counter, .core at_ =>
      let pid := s.holder at_
      if (s.core at_).fenced then .next (s.taken s.spot.place)
      else if !s.portRuns at_ || !s.portRuns pid || s.savedNow pid then .next s
      else .next ((s.taken s.spot.place).setFree pid counter (Tab.read (s.core pid).freeCtr 0 counter - 1))
    | _, _ => .next s
  | none => .next s

end Sys2Proof.Machine
end

