-- ==== Sys2Proof/Machine/Attention.lean ====
section
/-!
DEFINITION. The rotary load unit (R269 to R272), softmax merging on the exponent unit (R273, R274), and the course descriptor
operations (R268, R275, R276).
-/

namespace Sys2Proof.Machine

/-! ### The course descriptor (R268) -/

/-- A course descriptor as its four words. -/
structure Course where
  addr  : Word
  posb  : Nat
  fmt   : Nat
  pairs : Nat
  ref   : Nat
  legal : Bool
deriving DecidableEq, Repr

/-- The course that 32 bytes describe, and whether they pass R268. A PAIRS of 129 to 255 is not among what traps, and passes (log
82). -/
def courseOf (v : Nat) : Course where
  addr := (BitVec.ofNat 56 v).signExtend 64
  posb := v / 2 ^ 64 % 2 ^ 32
  fmt := v / 2 ^ 96 % 16
  pairs := v / 2 ^ 104 % 256
  ref := v / 2 ^ 128 % 2 ^ 32
  legal := v / 2 ^ 56 % 256 == 0 && v / 2 ^ 102 % 4 == 0 && v / 2 ^ 112 % 2 ^ 16 == 0 && v / 2 ^ 160 % 2 ^ 32 == 0 &&
    decide (v / 2 ^ 96 % 16 ≤ 4) && v / 2 ^ 104 % 256 != 0

/-- The bytes of an element of the formats 0 to 4. -/
def floatBytes (fmt : Nat) : Nat := elemBits fmt / 8

/-- The bytes of a row of so many pairs. -/
def pairRow (pairs fmt : Nat) : Nat := 2 * pairs * floatBytes fmt

namespace State

/-- The descriptor at an address, read as one local access (R268, R270, R275): a lock that hits a load makes it
RANGE_LOCKED. An operation that writes the descriptor needs the right to write, as an atomic does (R308; log 48). -/
def readCourse (s : State) (a : Access) (kind : FaultKind) (va : Word) : Except Stop (Course × Nat × State) := do
  let (ps, h, t) ← s.checkLocal a kind va 32 32
  let v ← t.localRead kind ps h va 32
  let c := courseOf v
  require c.legal .illegal kind va
  .ok (c, ps.phys va, t)

end State

/-! ### KLD.ROT and QROT (R269, R270) -/

/-- A field of a rotary or SMX descriptor. -/
def xfield (x : XWord) (lo n : Nat) : Nat := x.toNat / 2 ^ lo % 2 ^ n

/-- The checks of a rotary descriptor (R269). -/
def rotOk (query : Bool) (x : XWord) : Bool :=
  let nrow := xfield x 78 7
  decide (xfield x 56 4 ≤ 4) && xfield x 61 3 == 0 && xfield x 85 3 == 0 && xfield x 92 4 == 0 && decide (1 ≤ nrow) &&
    decide (nrow ≤ 64) &&
    (if query then
      decide (1 ≤ xfield x 64 8) && decide (xfield x 64 8 ≤ 128) && xfield x 72 6 == 0 && decide (xfield x 88 4 ≤ 4)
     else
      xfield x 64 8 == 0 && xfield x 88 4 == 0 && xfield x 96 32 == 0 && decide (xfield x 72 6 + nrow ≤ 64))

/-- Two ranges of virtual addresses share a byte. -/
def rangesMeet (a : Word) (n : Nat) (b : Word) (m : Nat) : Bool :=
  decide (a.toNat < b.toNat + m) && decide (b.toNat < a.toNat + n)

/-- The issue of KLD.ROT and QROT (R270). A course's ADDR that is not a multiple of 8 is not among what traps, and passes: its
source rows are aligned to their elements, as any (log 83). -/
def rotary (s : State) (query : Bool) (xn : XIdx) (rd r1 r2 : Reg) : Host.Outcome State Fault Refusal :=
  s.issue { Need.plain [r1, r2] [rd] with xs := [xn], engine := some .rotary } fun t => do
    let x := t.xreg xn
    let nrow := xfield x 78 7
    let dfmt := xfield x 56 4
    require (rotOk query x) .illegal .engine 0
    let (c, _, t1) ←
      if query then
        .ok ({ addr := t.reg r1, posb := xfield x 96 32, fmt := xfield x 88 4, pairs := xfield x 64 8, ref := 0,
               legal := true : Course }, 0, t)
      else t.readCourse .load .engine (t.reg r1)
    let row0 := if query then 0 else xfield x 72 6
    let src := c.addr + Word.ofNat (row0 * pairRow c.pairs c.fmt)
    let dst := (x.setWidth 56).signExtend 64
    let sbytes := nrow * pairRow c.pairs c.fmt
    let dbytes := nrow * pairRow c.pairs dfmt
    let tbytes := 4 * c.pairs
    let (sp, t2) ← t1.operand .load none src sbytes (floatBytes c.fmt)
    let (tp, t3) ← t2.operand .load none (t.reg r2) tbytes 4
    let (dp, t4) ← t3.operand .store none dst dbytes (floatBytes dfmt)
    require (!rangesMeet src sbytes (t.reg r2) tbytes && !rangesMeet src sbytes dst dbytes &&
      !rangesMeet (t.reg r2) tbytes dst dbytes) .illegal .engine 0
    let (no, t5) ← t4.enqueue 2 4 t.myCore.rq.length rd (t.scopesOf (sp ++ tp ++ dp))
      [⟨sp, src, sbytes, false⟩, ⟨tp, t.reg r2, tbytes, false⟩, ⟨dp, dst, dbytes, true⟩]
    let op : RotOp :=
      { no := no, slot := t.cur.slot, gen := t.me.gen, reg := rd, query := query, desc := x, src := src, pages := sp,
        sfmt := c.fmt, pairs := c.pairs, base := (c.posb + row0) % 2 ^ 32, table := t.reg r2, tPages := tp, dPages := dp,
        e4sat := flag t.myCore.fpmode 2, row := 0, nan := false, ovf := false }
    .ok (t5.onMyCore fun k => { k with rq := k.rq ++ [op] })

def execKldRot (xn : XIdx) (rd r1 r2 : Reg) (s : State) := rotary s false xn rd r1 r2
def execQrot (xn : XIdx) (rd r1 r2 : Reg) (s : State) := rotary s true xn rd r1 r2

/-! ### The sine table (R271) -/

/-- π in units of 2^-192, rounded down. -/
def piFixed : Nat := 0x3243f6a8885a308d313198a2e03707344a4093822299f31d0

/-- The terms of the sine series from the i-th on, in units of 2^-192: `t` is the term before, x2 the square. -/
def sineTerms : Nat → Nat → Nat → Nat → Int
  | 0, _, _, _ => 0
  | fuel + 1, i, t, x2 =>
    let u : Nat := t * x2 / 2 ^ 192 / (2 * i * (2 * i + 1))
    (if i % 2 = 1 then -(u : Int) else u) + sineTerms fuel (i + 1) u x2

/-- RoundNE(sin(2πk / 1024), FP32) for k from 0 to 256: the series stands so close to the sine that no half-way point lies
between. -/
def sineQuarter (k : Nat) : Nat :=
  if k = 0 then 0
  else if k = 256 then 0x3F800000
  else
    let x := piFixed * k / 512
    let v := ((x : Int) + sineTerms 30 1 x (x * x / 2 ^ 192)).toNat
    (roundMag .fp32 .rne false false v (-192) true).bits

/-- T[k] (R271), k from 0 to 1024. -/
def sineTable (k : Nat) : Nat :=
  if k ≤ 256 then sineQuarter k
  else if k ≤ 512 then sineQuarter (512 - k)
  else if k = 1024 then 0
  else 2 ^ 31 + (if k ≤ 768 then sineQuarter (k - 512) else sineQuarter (1024 - k))

/-- Sn (R271). -/
def sineAt (ph : Nat) : Nat :=
  let k := ph / 2 ^ 22 % 1024
  let f : FVal := .fin ⟨false, ph % 2 ^ 22, -22⟩
  let a := Fmt.fp32.value (sineTable k)
  let b := Fmt.fp32.value (sineTable (k + 1))
  match exactMul b f, exactMul a f with
  | some bf, some af => (roundSum .fp32 .rne [a, bf, af.negate]).bits
  | _, _ => 0

/-! ### Rotation (R271) -/

/-- Rot (R271): a*b + e*g, rounded once; a zero result is +0 (log 84). -/
def rot (a b e g : FVal) : Rounded :=
  match exactMul a b, exactMul e g with
  | some p, some q => roundSum .fp32 .rne [p, q]
  | _, _ => ⟨Fmt.fp32.canonNaN, {}⟩

/-- An element of a rotated row: its bits, whether a rounding overflowed, whether it is NaN. `copied` says that its row is at phase 0
and keeps its format: the element is copied bit for bit, except for a NaN. -/
def rotElem (dfmt : Nat) (e4sat copied : Bool) (old : Nat) (a b e g : FVal) : Nat × Bool × Bool :=
  let F := fmtOf dfmt
  let r := rot a b e g
  let d := roundVal F .rne e4sat (Fmt.fp32.value r.bits)
  if copied && !(Fmt.fp32.value r.bits).isNaN then (old, false, false)
  else (d.bits, r.flags.ovf || d.flags.ovf, (F.value d.bits).isNaN)

/-- A row rotated (R271): its elements in order. -/
def rotateRow (half : Bool) (sfmt dfmt pairs : Nat) (e4sat : Bool) (pos : Nat) (table row : List Nat) :
    List (Nat × Bool × Bool) :=
  let copied := sfmt == dfmt && (List.range pairs).all fun i => pos * table.getD i 0 % 2 ^ 32 == 0
  (List.range (2 * pairs)).map fun j =>
    let i := if half then j % pairs else j / 2
    let second := if half then decide (pairs ≤ j) else j % 2 == 1
    let ix := if half then i else 2 * i
    let iy := if half then i + pairs else 2 * i + 1
    let ph := pos * table.getD i 0 % 2 ^ 32
    let sn := Fmt.fp32.value (sineAt ph)
    let cs := Fmt.fp32.value (sineAt ((ph + 2 ^ 30) % 2 ^ 32))
    let x := (fmtOf sfmt).value (row.getD ix 0)
    let y := (fmtOf sfmt).value (row.getD iy 0)
    if second then rotElem dfmt e4sat copied (row.getD j 0) x sn y cs
    else rotElem dfmt e4sat copied (row.getD j 0) x cs y sn.negate

/-! ### The rotary unit (R272) -/

namespace RotOp

/-- NROW. -/
def nrow (o : RotOp) : Nat := xfield o.desc 78 7
/-- DFMT. -/
def dfmt (o : RotOp) : Nat := xfield o.desc 56 4
/-- DST. -/
def dst (o : RotOp) : Word := (o.desc.setWidth 56).signExtend 64
/-- The ac of a row slot. -/
def slotAc (o : RotOp) : Nat := (o.pairs + 15) / 16

/-- The completion word. -/
def word (o : RotOp) : Word :=
  Word.ofNat ((if o.ovf then 2 ^ 33 else 0) + (if o.nan then 2 ^ 32 else 0) + 2 ^ 31 + o.row)

end RotOp

namespace State

/-- The head of a core's rotary queue. -/
def rotHead (s : State) (pid : Nat) : Option RotOp := (s.core pid).rq.head?

/-- The next core whose queue the rotary unit serves (R272). -/
def rotNext (s : State) (cid : Nat) : Option Nat :=
  ((List.range 8).map fun i => ((s.cluster cid).rot.last + 1 + i) % 8).find? fun k =>
    (s.rotHead (8 * cid + k)).isSome && !s.savedNow (8 * cid + k)

/-- A rotary operation leaves its queue and its unit: locks released (R272). -/
def endRotary (s : State) (cid k : Nat) (o : RotOp) : State :=
  let pid := 8 * cid + k
  (((s.dropLocks (some (.cluster cid)) pid 4 o.no).endOp pid o.no).onCore pid fun c => { c with rq := c.rq.tail }).onCluster
    cid fun c => { c with rot := { c.rot with core := none } }

/-- The state with the head of a core's rotary queue changed. -/
def onRot (s : State) (pid : Nat) (f : RotOp → RotOp) : State :=
  s.onCore pid fun c => { c with rq := match c.rq with | o :: l => f o :: l | [] => [] }

end State

/-- ROTARY_START (R233, R272): a notice period that is over has ended before. The unit takes an operation; its level is NEXT, and tokens of a lowered NEXT pass back (R230). At spot:
the cluster. -/
def execRotaryStart (s0 : State) : Host.Outcome State Fault Refusal :=
  let cid := s0.spot.place
  let s := s0.endNotice cid
  let u := (s.cluster cid).rot
  if u.core.isNone && s.clusterRuns cid && decide (0 < (s.cluster cid).tokens.next) then
    match s.rotNext cid with
    | none => .next s
    | some k =>
      let l := (s.cluster cid).tokens.next
      let t := (s.onTokens cid fun x => { x with level := x.next }).passBack cid
      .next (t.onCluster cid fun c =>
        { c with
          rot := { c.rot with core := some k, last := k, level := l, begun := s.clusterAc cid, until_ := s.clusterAc cid } })
  else .next s

/-- ROTARY_ROW (R271, R272): in a row slot of the operation, fewer than L rows having started in the 7 slots before, the next
row is read, rotated and written; an uncorrected word ends the operation. At spot: the cluster. -/
def execRotaryRow (s : State) : Host.Outcome State Fault Refusal :=
  let cid := s.spot.place
  let u := (s.cluster cid).rot
  let ac := s.clusterAc cid
  match u.core with
  | none => .next s
  | some k =>
    let pid := 8 * cid + k
    match s.rotHead pid with
    | none => .next s
    | some o =>
      let w := o.slotAc
      let recent := u.starts.filter fun x => decide (ac ≤ x + 7 * w)
      if !s.savedNow pid && s.clusterRuns cid && decide (o.row < o.nrow) && decide (u.until_ ≤ ac) && (ac - u.begun) % w == 0 &&
          !u.starts.contains ac && decide (recent.length < u.level) then
        let n := pairRow o.pairs o.sfmt
        let src := o.src + Word.ofNat (o.row * n)
        match (s.badWord o.tPages o.table (4 * o.pairs)).or (s.badWord o.pages src n) with
        | some va => .next (((s.endRotary cid k o).completeRefused pid o.slot o.gen o.reg va .uncorrected).settleTokens cid)
        | none =>
          let bits := 8 * floatBytes o.sfmt
          let row := packedElems bits (o.pages.value s.mem src n) (2 * o.pairs)
          let table := packedElems 32 (o.tPages.value s.mem o.table (4 * o.pairs)) o.pairs
          let pos := (o.base + (if o.query then 0 else o.row)) % 2 ^ 32
          let out := rotateRow (xfield o.desc 60 1 == 1) o.sfmt o.dfmt o.pairs o.e4sat pos table row
          let bytes := out.flatMap fun e => elemBytes (floatBytes o.dfmt) e.1
          let t := s.writeRuns
            (cutRuns (o.dPages.pieces 2 (o.dst + Word.ofNat (o.row * pairRow o.pairs o.dfmt)) bytes.length) bytes)
          .next ((t.onRot pid fun o =>
              { o with row := o.row + 1, ovf := o.ovf || out.any (fun e => e.2.1), nan := o.nan || out.any fun e => e.2.2 }).onCluster
            cid fun c =>
              { c with
                rot := { c.rot with until_ := ac + w, starts := ac :: c.rot.starts.filter fun x => decide (ac ≤ x + 64) } })
      else .next s

/-- ROTARY_COMPLETE (R272): the last row's slot has ended. At spot: the cluster. -/
def execRotaryComplete (s : State) : Host.Outcome State Fault Refusal :=
  let cid := s.spot.place
  let u := (s.cluster cid).rot
  match u.core with
  | none => .next s
  | some k =>
    match s.rotHead (8 * cid + k) with
    | none => .next s
    | some o =>
      if s.clusterRuns cid && o.row == o.nrow && decide (u.until_ ≤ s.clusterAc cid) && s.takesCompletion (8 * cid + k) then
        .next (((s.endRotary cid k o).complete (8 * cid + k) o.slot o.gen o.reg .engine o.word).settleTokens cid)
      else .next s

/-! ### SMX (R273) -/

/-- MODE of an SMX descriptor. -/
def smxMode (x : XWord) : Nat := xfield x 0 2
/-- DIM. -/
def smxDim (x : XWord) : Nat := xfield x 8 9
/-- The bytes of a state. -/
def smxState (x : XWord) : Nat := 16 + 4 * smxDim x

/-- The checks of an SMX descriptor (R273). -/
def smxOk (x : XWord) (r2 : Reg) : Bool :=
  let size := storeSize (xfield x 20 4)
  xfield x 64 64 == 0 && xfield x 31 1 == 0 && xfield x 17 3 == 0 && xfield x 2 6 == 0 && decide (smxMode x ≤ 2) &&
    decide (1 ≤ smxDim x) && decide (smxDim x ≤ 256) &&
    (if smxMode x = 0 then
      decide (xfield x 20 4 ≤ 2) && decide (1 ≤ xfield x 24 7) && decide (xfield x 24 7 ≤ 64) &&
        decide (smxDim x * size ≤ xfield x 32 32) && xfield x 32 32 % size == 0
     else xfield x 20 12 == 0 && xfield x 32 32 == 0 && r2 == 0)
where
  /-- The bytes of a value element: FP32, BF16 or FP16. -/
  storeSize (fmt : Nat) : Nat := if fmt = 0 then 4 else 2

/-- SMX (R273). -/
def execSmx (xn : XIdx) (rd r1 r2 : Reg) (s : State) : Host.Outcome State Fault Refusal :=
  let mode := smxMode (s.xreg xn)
  let reads := if (Tab.look s.myCore.xld xn.val).isSome then [] else rd :: r1 :: (if mode = 0 then [r2] else [])
  s.issue { Need.plain reads [] with xs := [xn], engine := some .exponent } fun t => do
    let x := t.xreg xn
    let size := smxOk.storeSize (xfield x 20 4)
    let n := xfield x 24 7
    let sbytes := smxState x
    let state := t.reg rd
    let abytes := if mode = 0 then 4 * n else if mode = 1 then sbytes else 4 * smxDim x
    let bbytes := if mode = 0 then (n - 1) * xfield x 32 32 + smxDim x * size else 0
    require (smxOk x r2) .illegal .engine 0
    let (sp, t1) ← t.operand .store none state sbytes 4
    let (ap, t2) ← t1.operand (if mode = 2 then .store else .load) none (t.reg r1) abytes 4
    let (bp, t3) ← t2.operand .load none (t.reg r2) bbytes size
    require (!rangesMeet state sbytes (t.reg r1) abytes) .illegal .engine 0
    require (mode != 0 ||
      (!rangesMeet state sbytes (t.reg r2) bbytes && !rangesMeet (t.reg r1) abytes (t.reg r2) bbytes)) .illegal .engine 0
    t3.checkLocks sp .store state sbytes
    t3.checkLocks ap (if mode = 2 then .store else .load) (t.reg r1) abytes
    if mode = 0 then t3.checkLocks bp .load (t.reg r2) bbytes else .ok ()
    waitUnless (decide (t.myCore.sq.length < 2)) (.engineQueue 3)
    let op : VecOp :=
      { slot := t.cur.slot, gen := t.me.gen, major := 0x28, minor := 2, desc := x, a := .memory ap (t.reg r1) abytes,
        b := if mode = 0 then .memory bp (t.reg r2) bbytes else .absent, pages := sp, va := state, bytes := sbytes,
        rd := rd, rs1 := r1, rs2 := r2, mode := 0, e4sat := false, seed := 0, pc := (t.me.pc - 4#56).signExtend 64 }
    .ok ((t3.onMyCore fun c => { c with sq := c.sq ++ [op] }).onMe fun f => { f with hold := some .performing })

/-! ### What SMX computes (R274) -/

/-- A softmax state: m, l, flags and o, as bits. -/
structure Softmax where
  m     : Nat
  l     : Nat
  flags : Nat
  o     : List Nat
deriving DecidableEq, Repr

/-- The state that a value of 16 + 4 × DIM bytes holds. -/
def softmaxOf (dim v : Nat) : Softmax where
  m := packedElem 32 v 0
  l := packedElem 32 v 1
  flags := packedElem 32 v 2
  o := (List.range dim).map fun c => packedElem 32 v (4 + c)

/-- A binary32 pattern's value. -/
def single (v : Nat) : FVal := Fmt.fp32.value v

/-- NaN or +inf. -/
def poisons (v : Nat) : Bool := (single v).isNaN || single v == .inf false

/-- The canonical binary32 NaN. -/
def nan32 : Nat := Fmt.fp32.canonNaN

/-- Poison (R274). -/
def Softmax.poison (t : Softmax) : Softmax where
  m := nan32
  l := nan32
  flags := t.flags ||| 1
  o := t.o.map fun _ => nan32

/-- The weight of a term whose exponent is x under the maximum mn: 0 for -inf, else E(D(x, mn)). -/
def weight (x mn : Nat) : FVal :=
  if single x == .inf true then .fin (Dyadic.zero false)
  else single (exp2 .fp32 .rne (single (fadd .fp32 .rne (single x) (single mn).negate).bits)).bits

/-- A term: a weight of 0 makes it 0, whatever it multiplies. -/
def weighted (w x : FVal) : FVal :=
  if w.isZero then .fin (Dyadic.zero false) else (exactMul w x).getD (.nan false)

/-- Sum (R274); a zero sum is +0 (log 84). -/
def sum32 (ts : List FVal) : Nat := (roundSum .fp32 .rne ts).bits

/-- A state folded with other terms (R274): their exponents, their l and their rows of values. -/
def Softmax.fold (t : Softmax) (ms : List Nat) (ls : List FVal) (rows : List (List FVal)) : Softmax :=
  let mn := ms.foldl (fun a b => (fminmax .fp32 true a b).bits) t.m
  if single mn == .inf true then t
  else
    let a := weight t.m mn
    let ws := ms.map fun x => weight x mn
    { t with
      m := mn
      l := sum32 (weighted a (single t.l) :: (ws.zip ls).map fun e => weighted e.1 e.2)
      o := t.o.zipIdx.map fun e =>
        sum32 (weighted a (single e.1) :: (ws.zip rows).map fun p => weighted p.1 (p.2.getD e.2 (.fin (Dyadic.zero false)))) }

/-- SCORE (R274). -/
def Softmax.score (t : Softmax) (scores : List Nat) (rows : List (List FVal)) : Softmax :=
  if t.flags % 2 = 1 ∨ poisons t.m = true ∨ scores.any poisons = true then t.poison
  else t.fold scores (scores.map fun _ => .fin ⟨false, 1, 0⟩) rows

/-- MERGE (R274). A second state whose m is -inf has the weight 0. -/
def Softmax.merge (t u : Softmax) : Softmax :=
  if t.flags % 2 = 1 ∨ u.flags % 2 = 1 ∨ poisons t.m = true ∨ poisons u.m = true then t.poison
  else t.fold [u.m] [single u.l] [u.o.map single]

/-- FINISH (R274): the outputs, and whether EMPTY is set. -/
def Softmax.finish (t : Softmax) : List Nat × Bool :=
  if t.flags % 2 = 1 then (t.o.map fun _ => nan32, false)
  else if single t.m == .inf true || (single t.l).isZero then (t.o.map fun _ => 0, true)
  else (t.o.map fun x => (fdiv .fp32 .rne (single x) (single t.l)).bits, false)

/-- The bytes of a state: m, l, the flags, a word that SMX does not write, and o. -/
def Softmax.bytes (t : Softmax) : List Byte :=
  elemBytes 4 t.m ++ elemBytes 4 t.l ++ elemBytes 4 t.flags ++ elemBytes 4 0 ++ t.o.flatMap (elemBytes 4)

/-- The rows of a state that SMX writes, with its bytes: all but the word at + 12 (R273, R274). -/
def stateRows (o : VecOp) (u : Softmax) : List (List (Nat × List Byte)) :=
  let b := u.bytes
  let run (lo n : Nat) : List (Nat × List Byte) := cutRuns (o.pages.pieces 2 (o.va + Word.ofNat lo) n) ((b.drop lo).take n)
  (List.range (rowsOf 64 o.bytes)).map fun i =>
    let n := min 256 (o.bytes - 256 * i)
    if i = 0 then run 0 12 ++ run 16 (n - 16) else run (256 * i) n

/-- What an SMX writes, from what it has read (R274): rows. -/
def smxWrites (r : VecRun) : List (List (Nat × List Byte)) :=
  let o := r.op
  let dim := smxDim o.desc
  let t := softmaxOf dim (bytesValue r.d)
  let put (u : Softmax) : List (List (Nat × List Byte)) := if u = t then [] else stateRows o u
  match smxMode o.desc with
  | 0 =>
    let n := xfield o.desc 24 7
    let fmt := xfield o.desc 20 4
    let size := floatBytes fmt
    let scores := packedElems 32 (bytesValue r.a) n
    let v := bytesValue r.b
    put (t.score scores ((List.range n).map fun j =>
      (packedElems (8 * size) (v / 2 ^ (8 * (j * dim * size))) dim).map (fmtOf fmt).value))
  | 1 => put (t.merge (softmaxOf dim (bytesValue r.a)))
  | _ =>
    let q := t.finish
    (if q.2 then put { t with flags := t.flags ||| 2 } else []) ++
      fillRows (VecOp.sourceRows 64 o.a) (q.1.flatMap (elemBytes 4))

/-- An SMX all of whose rows have been read (R274); the last of its writes comes in the ac before its end. -/
def VecRun.smxComputed (r : VecRun) : VecRun :=
  let w := smxWrites r
  { r with writes := w, next := max r.next (r.ends - w.length) }

/-- The rows of an SMX's value rows (R273): of each, its elements. -/
def valueRows (o : VecOp) : List (List (Nat × Nat)) :=
  match o.b with
  | .memory ps va _ =>
    (List.range (xfield o.desc 24 7)).flatMap fun j =>
      ps.rows 64 (va + Word.ofNat (j * xfield o.desc 32 32)) (smxDim o.desc * floatBytes (xfield o.desc 20 4))
  | _ => []

/-- An SMX taken by the exponent unit in an ac (R204, R273): it reads its operands in the order A, B, D, and FINISH only the
state. Its occupancy is R273's, which leaves some SMX less than an ac for each row (log 17). -/
def VecOp.smxTaken (o : VecOp) (pid ac : Nat) : VecRun :=
  let n := xfield o.desc 24 7
  let dim := smxDim o.desc
  { core := pid
    op := o
    reads :=
      (if smxMode o.desc = 2 then [] else (VecOp.sourceRows 64 o.a).map fun r => (0, r)) ++
        (if smxMode o.desc = 0 then (valueRows o).map fun r => (1, r) else []) ++
        ((o.pages.rows 64 o.va o.bytes).map fun r => (2, r))
    a := []
    b := []
    d := []
    gap := 0
    writes := []
    moves := []
    failed := none
    next := ac + 1
    pace := 0
    ends := ac + (if smxMode o.desc = 0 then 8 + n + (n * dim + 63) / 64 else 8 + (dim + 15) / 16) - 1 }

namespace State

/-- What the exponent unit would take from a client (R273): the SMX queue of a core for 0 to 7, the VEXP2 dispatch of a quad for
8 and 9. The answer is the core and the operation. -/
def expClient (s : State) (cid n : Nat) : Option (Nat × VecOp) :=
  if n < 8 then
    match (s.core (8 * cid + n)).sq with
    | o :: _ => if !s.savedNow (8 * cid + n) then some (n, o) else none
    | [] => none
  else
    let last := if n = 8 then (s.cluster cid).vec0.last else (s.cluster cid).vec1.last
    (s.vectorHeads cid (n - 8) last).find? fun e => s.toExponent cid e.2

end State

/-- SMX_DISPATCH (R211, R273): the exponent unit, while the cluster holds tokens, takes an SMX or a VEXP2. At spot: the
cluster. -/
def execSmxDispatch (s : State) : Host.Outcome State Fault Refusal :=
  let cid := s.spot.place
  let u := (s.cluster cid).exp
  if u.run.isNone && decide (u.freeAt ≤ s.clusterAc cid) && s.clusterRuns cid && (s.cluster cid).tokens.held != 0 && kindOf (cid % 64) == .attention then
    match ((List.range 10).map fun i => (u.last + 1 + i) % 10).findSome? fun n => (s.expClient cid n).map fun e => (n, e) with
    | none => .next s
    | some (n, k, o) =>
      let pid := 8 * cid + k
      if n < 8 then
        .next ((s.onCore pid fun c => { c with sq := c.sq.tail }).onCluster cid fun c =>
          { c with exp := { run := some (o.smxTaken pid (s.clusterAc cid)), last := n } })
      else
        .next ((s.onCore pid fun c => { c with vq := c.vq.tail }).onCluster cid fun c =>
          { c with
            exp := { run := some (o.taken pid (State.lanes cid) (s.clusterAc cid) true), last := n }
            vec0 := if n = 8 then { c.vec0 with last := k } else c.vec0
            vec1 := if n = 9 then { c.vec1 with last := k } else c.vec1 })
  else .next s

/-- SMX_COMPLETE (R204, R273, R274): what the exponent unit performs ends. At spot: the cluster. -/
def execSmxComplete (s : State) : Host.Outcome State Fault Refusal :=
  let cid := s.spot.place
  match (s.cluster cid).exp.run with
  | some r =>
    if s.clusterRuns cid && State.runOver r (s.clusterAc cid) then
      .next ((s.endVector r).onCluster cid fun c => { c with exp := { c.exp with run := none, freeAt := r.leaves } })
    else .next s
  | none => .next s

/-! ### Rows (R204, R273) -/

namespace State

/-- What a unit performs: the vector units of quads 0 and 1, and the exponent unit, 2. -/
def unitRun (s : State) (cid unit : Nat) : Option VecRun :=
  match unit with
  | 0 => (s.cluster cid).vec0.run
  | 1 => (s.cluster cid).vec1.run
  | _ => (s.cluster cid).exp.run

/-- The state with what a unit performs changed. -/
def setUnitRun (s : State) (cid unit : Nat) (r : VecRun) : State :=
  s.onCluster cid fun c =>
    match unit with
    | 0 => { c with vec0 := { c.vec0 with run := some r } }
    | 1 => { c with vec1 := { c.vec1 with run := some r } }
    | _ => { c with exp := { c.exp with run := some r } }

/-- A unit accesses its next row, where its time has come (R204). -/
def rowTurn (s : State) (cid unit : Nat) : State :=
  match s.unitRun cid unit with
  | none => s
  | some r =>
    let ac := s.clusterAc cid
    if s.rowMay r ac then
      let done (q : VecRun) : VecRun := if q.op.major = 0x28 then q.smxComputed else q.computed (lanes cid)
      let x := s.performRow r ac done
      x.2.setUnitRun cid unit x.1
    else s

end State

/-! ### Course descriptor operations (R275, R276) -/

namespace State

/-- Four bytes of a descriptor written within its indivisible performance (R159, R275). -/
def writeCourse (s : State) (pa v : Nat) : State :=
  match place pa with
  | some (h, _) => ((s.writeValue pa 4 v).triggerGather h pa 4).traceCount h
  | none => s

end State

/-- CACQ (R275). -/
def execCacq (rd a : Reg) (s : State) :=
  s.issue (.plain [a] [rd]) fun t => do
    let (c, pa, t1) ← t.readCourse .atomic .atomic (t.reg a)
    let u := if c.ref = 2 ^ 32 - 1 then t1 else t1.writeCourse (pa + 16) (c.ref + 1)
    .ok (u.setReg rd (Word.ofNat c.ref))

/-- CPOS (R275). -/
def execCpos (rd a b : Reg) (s : State) :=
  s.issue (.plain [a, b] [rd]) fun t => do
    let (c, pa, t1) ← t.readCourse .atomic .atomic (t.reg a)
    .ok ((t1.writeCourse (pa + 8) (fld (t.reg b) 0 32)).setReg rd ((BitVec.ofNat 32 c.posb).signExtend 64))

/-- CREL (R276). -/
def execCrel (rd a : Reg) (s : State) :=
  s.issue (.plain [a] [rd]) fun t => do
    let (c, pa, t1) ← t.readCourse .atomic .atomic (t.reg a)
    if c.ref = 0 then .ok (t1.setReg rd 3)
    else if 1 < c.ref then .ok ((t1.writeCourse (pa + 16) (c.ref - 1)).setReg rd 0)
    else
      let n := 64 * pairRow c.pairs c.fmt
      let (kp, t2) ← t1.translateRange t.cur.core t.me .load .atomic c.addr n
      let r := kp.span c.addr n
      let home := (kp.places.head?.bind id).map Prod.fst
      let table := home.bind Home.table?
      let own := t.myTable
      let busy (k : LockTable) : Bool := (t2.lockEntries k).any fun e => overlaps r.1 r.2 e.2.first e.2.last
      match table with
      | none => .ok ((t2.writeCourse (pa + 16) 0).setReg rd 1)
      | some k =>
        if some k = own then
          if busy k then .ok (t2.setReg rd 2) else .ok ((t2.writeCourse (pa + 16) 0).setReg rd 1)
        else
          let lock (op : Nat) : Lock :=
            { first := pa, last := pa + 31, full := true, eng := 5, owner := t.cur.core, op := op % 256, since := 0 }
          let mine := (place pa).bind fun h => h.1.table?
          match t2.addLock mine (lock 0) with
          | .conflict => .ok (t2.setReg rd 2)
          | .full => .error (.hold .lockTable)
          | .added _ =>
            if t2.vectorDefers mine (lock 0) then .error (.hold .lockTable)
            else
              let scope := (home.map (Home.scope t.cur.core)).getD .wafer
              let (tag, t3) ← t2.takeTag
                { slot := t.cur.slot, gen := t.me.gen, use := .course rd pa, scope := scope,
                  pc := (t.me.pc - 4#56).signExtend 64, place := t.reg a, issuer := t.cur.core }
              match t3.addLock mine (lock tag) with
              | .added t4 =>
                let dst := Port.home (home.getD (.control 0))
                .ok ((t4.inject (.core t.cur.core) dst 1 (.check t.cur.core tag r.1 r.2)).setPending rd .load)
              | _ => .error (.hold .lockTable)

/-- COURSE_RELEASE_CHECK (R276): a remote table checks a key range and answers 1 when no lock overlaps it, else 2. At spot: the
packet's place in flight. -/
def execCourseReleaseCheck (s : State) : Host.Outcome State Fault Refusal :=
  match s.front s.spot.place with
  | some p =>
    match p.load, p.dst with
    | .check core tag first last, .home h =>
      let t := s.taken s.spot.place
      let answer (status : Nat) (v : Word) : State :=
        t.send (.home h) (.core core)
          { kind := .reply, tc := 1, ecls := 0, prio := 0, size := false, dest := s.rankOf core,
            task := s.entryTask core, src := h.number }
          (Word.ofNat (status * 2 ^ 9 + tag)) [v]
      if s.homeRefuses core (s.entryTask core == 0 || isService core) h first then .next (answer FaultCode.homeFenced.status 0)
      else if !s.homeRuns h then .next s
      else
        let hit := match h.table? with
          | some k => (s.lockEntries k).any fun e => overlaps first last e.2.first e.2.last
          | none => false
        .next (answer 0 (if hit then 2 else 1))
    | _, _ => .next s
  | none => .next s

end Sys2Proof.Machine
end

