-- ==== Sys2Proof/Machine/Clock.lean ====
section
/-!
DEFINITION. Clocks: operating points (R173 to R175), forwarders and holds (R176 to R180), stretching (R181), turn tables and
dark links (R265 to R267).
-/

namespace Sys2Proof.Machine

/-! ### The forwarding tree (R176) -/

/-- The cluster that a forwarder of cluster c (of a region) takes its clock from by PARENT p: none off the grid; STRIP is
answered by c itself at cluster (0,2). -/
def fwdParent (c p : Nat) : Option Nat :=
  match p with
  | 1 => if 6 ≤ c then some (c - 6) else none
  | 2 => if c % 6 < 5 then some (c + 1) else none
  | 3 => if c < 30 then some (c + 6) else none
  | 4 => if 0 < c % 6 then some (c - 1) else none
  | _ => none

/-- The skew class of a depth (R176). -/
def classOf (depth : Nat) : Nat := if depth ≤ 3 then 0 else if depth ≤ 6 then 1 else if depth ≤ 9 then 2 else 3

namespace State

/-- FWDOK of a cluster (R176). -/
def fwdOk (s : State) (cid : Nat) : Bool := !s.fuses.badFwd.contains cid

/-- The clusters of a region on the path of cluster c up to STRIP, itself first, with at most n of them; none where the path
is not valid (R176). -/
def fwdPath (s : State) (r : Nat) : Nat → Nat → Option (List Nat)
  | 0, _ => none
  | n + 1, c =>
    let f := (s.cluster (r * 64 + c)).fwd
    if !s.fwdOk (r * 64 + c) then none
    else if f.parent = 5 then (if c = 2 then some [c] else none)
    else
      match fwdParent c f.parent with
      | none => none
      | some p => (s.fwdPath r n p).map fun l => c :: l

/-- The depth of a cluster, where its path is valid: at most 12 (R176). -/
def fwdDepth (s : State) (cid : Nat) : Option Nat := (s.fwdPath (cid / 64) 13 (cid % 64)).map fun l => l.length - 1

/-- Whether cluster c of a region takes its clock through cluster d, valid or not, in at most n steps (R176). -/
def passes (s : State) (r d : Nat) : Nat → Nat → Bool
  | 0, _ => false
  | n + 1, c =>
    c == d ||
      (match fwdParent c (s.cluster (r * 64 + c)).fwd.parent with
       | some p => s.passes r d n p
       | none => false)

/-- A cluster and every cluster whose path passes through it (R176). -/
def subtree (s : State) (cid : Nat) : List Nat :=
  ((List.range 36).filter fun c => s.passes (cid / 64) (cid % 64) 36 c).map fun c => cid / 64 * 64 + c

/-- The state with a cluster's forwarder changed. -/
def onFwd (s : State) (cid : Nat) (f : Forwarder → Forwarder) : State :=
  s.onCluster cid fun c => { c with fwd := f c.fwd }

/-- A cluster put into hold (R178): its clock stops after a completed cycle. -/
def holdCluster (s : State) (cid : Nat) : State :=
  s.onCluster cid fun c =>
    if c.fwd.hold then { c with leaveAt := none }
    else { c with fwd := { c.fwd with hold := true }, heldAt := some (s.regionAc (cid / 64)), leaveAt := none }

/-- A region's clock runs. -/
def regionRuns (s : State) (r : Nat) : Bool := !(s.region r).clock.stop && !(s.region r).clock.failed

/-- The conditions for leaving hold hold now (R180): HREQ is 0, the path is valid, and the parent runs. -/
def mayLeave (s : State) (cid : Nat) : Bool :=
  let f := (s.cluster cid).fwd
  f.hold && !f.hreq && (s.fwdDepth cid).isSome &&
    (match fwdParent (cid % 64) f.parent with
     | some p => !(s.cluster (cid / 64 * 64 + p)).fwd.hold
     | none => s.regionRuns (cid / 64))

/-- The moments at which a region's clusters may leave hold, after something has changed (R180): 16 rc after the last
condition came to hold. Paths that are not valid read DEPTH 15 and CLASS 3 (R176). -/
def settleHolds (s : State) (r : Nat) : State :=
  (List.range 36).foldl
    (fun u c =>
      let cid := r * 64 + c
      u.onCluster cid fun k =>
        { k with
          leaveAt := if u.mayLeave cid then k.leaveAt.or (some (s.rc + 16)) else none
          fwd := if (u.fwdDepth cid).isNone then { k.fwd with aligned := false, cls := 3, depth := 15 } else k.fwd }) s

/-- CKSTAT.HELD (R174): the number of the region's clusters in hold. After region reset it reads 36, since every cluster is held
then (R176), though R174's table gives the field the reset value 0 (log 75). -/
def heldCount (s : State) (r : Nat) : Nat :=
  ((List.range 36).filter fun c => (s.cluster (r * 64 + c)).fwd.hold).length

/-- FWD of a cluster (R176). -/
def fwdWord (s : State) (cid : Nat) : Word :=
  let f := (s.cluster cid).fwd
  Word.ofNat ((if s.fwdOk cid then 2 ^ 16 else 0) + (if f.los then 2 ^ 15 else 0) + (if f.hold then 2 ^ 14 else 0) +
    (if f.hreq then 2 ^ 13 else 0) + (if f.aligned then 2 ^ 12 else 0) + f.cls * 2 ^ 10 + f.depth * 2 ^ 6 + f.parent)

/-- A write of FWD refused (R176). -/
def refuseClock (s : State) (r : Nat) : State := s.onRegion r fun x => { x with badw := true }

/-- A write of FWD (R176, R180). -/
def writeFwd (s : State) (cid : Nat) (v : Word) : State :=
  let r := cid / 64
  let f := (s.cluster cid).fwd
  let p := fld v 0 3
  if p ≠ f.parent ∧ (6 ≤ p ∨ (s.subtree cid).all (fun c => (s.cluster c).fwd.hold) = false) then s.refuseClock r
  else
    let s1 := s.onFwd cid fun f =>
      { f with parent := p, hreq := flag v 13, los := f.los && !flag v 15 }
    let s2 := if flag v 13 then s1.holdCluster cid else s1
    let s3 :=
      if f.hreq && !flag v 13 && (s1.fwdDepth cid).isNone then s2.onRegion r fun x => { x with badt := true } else s2
    s3.settleHolds r

end State

/-- FWD_WRITE (R176, R180). At spot: the cluster and the value. -/
def execFwdWrite (s : State) : Host.Outcome State Fault Refusal :=
  .next (if s.spot.place % 64 < 36 then s.writeFwd s.spot.place s.spot.v0 else s)

/-- CLUSTER_LEAVES_HOLD (R180, R183): 16 rc after the last condition came to hold, ALIGNED, DEPTH and CLASS take their new
values, and the cluster runs. At spot: the cluster. -/
def execClusterLeavesHold (s : State) : Host.Outcome State Fault Refusal :=
  let cid := s.spot.place
  let k := s.cluster cid
  match k.leaveAt, s.fwdDepth cid with
  | some t, some d =>
    if decide (t ≤ s.rc) && s.mayLeave cid then
      let s1 := s.onCluster cid fun c =>
        { c with
          fwd := { c.fwd with hold := false, aligned := true, depth := d, cls := classOf d }
          leaveAt := none
          lostAc := c.lostAc + (s.regionAc (cid / 64) - c.heldAt.getD (s.regionAc (cid / 64)))
          heldAt := none }
      .next (s1.settleHolds (cid / 64))
    else .next s
  | _, _ => .next s

/-- LOSS_OF_CLOCK (R179): a cluster's input clock fails; it and every cluster whose path passes through it are held, and the
region tells its service core 0. At place 63 of a region its generator fails, and every cluster of it is held. At spot: the
cluster. -/
def execLossOfClock (s : State) : Host.Outcome State Fault Refusal :=
  let cid := s.spot.place
  let r := cid / 64
  if cid % 64 = 63 then
    -- A loss of clock during a region stop is detected only after the clocks restart (R183).
    if (s.region r).clock.stop then .next s
    else
    let s1 := (List.range 36).foldl
      (fun u c =>
        (u.holdCluster (r * 64 + c)).onFwd (r * 64 + c) fun f =>
          { f with hreq := true, aligned := false, cls := 3, depth := 15 }) s
    .next ((s1.onRegion r fun x =>
      { x with clock := { x.clock with failed := true, lock := false, ac := x.clock.acAt s.now, since := s.now,
                                       cycles := 0, extra := 0 } }).settleHolds r)
  else if 36 ≤ cid % 64 ∨ s.regionRuns r = false then .next s
  else
    let s1 := (s.subtree cid).foldl
      (fun u c =>
        (u.holdCluster c).onFwd c fun f =>
          { f with hreq := true, los := f.los || c == cid, aligned := false, cls := 3, depth := 15 }) s
    .next ((s1.settleHolds r).tellFlatar (.region r) (serviceRank r) r
      (Word.ofNat (5 * 2 ^ 48 + s1.heldCount r * 2 ^ 12 + cid % 64 * 2 ^ 6 + r)) 0)

/-! ### Operating points (R173 to R175) -/

namespace State

/-- CKCTL.OP of a region. -/
def clockOp (s : State) (r : Nat) : Nat := fld (s.ctl (controlBase r + 0x400) 0) 0 3

/-- CKSTAT of a region (R174). -/
def ckstat (s : State) (r : Nat) : Word :=
  let x := s.region r
  Word.ofNat (s.heldCount r * 2 ^ 16 + (if x.badt then 2 ^ 7 else 0) + (if x.badw then 2 ^ 6 else 0) +
    (if x.clock.g140 then 2 ^ 5 else 0) + (if x.clock.lock then 2 ^ 4 else 0) + (if x.clock.stop then 2 ^ 3 else 0) +
    x.clock.cur)

/-- A write of CKSTAT (R174): BADT and BADW are cleared by 1. -/
def writeCkstat (s : State) (r : Nat) (v : Word) : State :=
  s.onRegion r fun x => { x with badt := x.badt && !flag v 7, badw := x.badw && !flag v 6 }

/-- A write of CKCTL (R173, R175): GO stops every clock of the region, unless it is refused. -/
def writeCkctl (s : State) (r : Nat) (v : Word) : State :=
  let c := (s.region r).clock
  let op := fld v 0 3
  if 5 ≤ op then s.refuseClock r
  else if !flag v 8 then s.setCtl (controlBase r + 0x400) (Word.ofNat op)
  else if c.stop || op == c.cur || (op == 4 && !c.g140) then s.refuseClock r
  else
    ((s.setCtl (controlBase r + 0x400) (Word.ofNat op)).onRegion r fun x =>
      { x with clock := { x.clock with stop := true, lock := false, goal := some op, ac := x.clock.acAt s.now, since := s.now,
                                       cycles := 0, extra := 0 } }).settleHolds r

end State

/-- CKCTL_GO (R175). At spot: the region and the value. -/
def execCkctlGo (s : State) : Host.Outcome State Fault Refusal :=
  .next (if flag s.spot.v0 8 then s.writeCkctl s.spot.place s.spot.v0 else s)

/-- CLOCK_CHANGE_DONE (R175): the generator has relocked, and every clock of the region restarts. At spot: the region. -/
def execClockChangeDone (s : State) : Host.Outcome State Fault Refusal :=
  let r := s.spot.place
  match (s.region r).clock.goal with
  | some op =>
    let s1 := s.onRegion r fun x =>
      { x with clock := { x.clock with cur := op, stop := false, lock := !x.clock.failed, goal := none, since := s.now } }
    -- The cap of the 1.40 GHz point ends with it (R263), and what waited for it is served.
    .next ((s1.settleHolds r).runBroker r 0)
  | none => .next s

/-! ### Stretching (R181) -/

/-- A clock whose next n cycles each gain some ticks, at most half a period: the cycles that are still stretched stay so, and
by no less. -/
def Clock.stretch (c : Clock) (now n ticks : Nat) : Clock :=
  if c.stop || c.failed then c
  else
    let done := c.acAt now - c.ac
    let start := c.since + min done c.cycles * (period c.cur + c.extra) + (done - c.cycles) * period c.cur
    { c with
      ac := c.ac + done, since := start, cycles := max n (c.cycles - done),
      extra := max (min (period c.cur / 2) ticks) (if done < c.cycles then c.extra else 0) }

/-- DROOP_DETECTED (R181): the next cycles of the region's clock are stretched, and the event is counted by the class of the
detecting cluster. At spot: the region, the detecting cluster, and the stretch: cycles in bits [63:32], ticks in bits
[31:0]. -/
def execDroopDetected (s : State) : Host.Outcome State Fault Refusal :=
  let r := s.spot.place
  let a := controlBase r + 0x610 + 8 * (s.cluster (r * 64 + s.spot.item)).fwd.cls
  .next ((s.onRegion r fun x =>
    { x with clock := x.clock.stretch s.now (fld s.spot.v0 32 32) (fld s.spot.v0 0 32) }).setCtl a
      (Word.ofNat (holdAtTop 32 (fld (s.ctl a 0) 0 32))))

/-! ### Turn tables and dark links (R266, R267) -/

namespace State

/-- A write of TURN(q) (R266): a reserved DIR leaves the field. -/
def writeTurn (s : State) (r q : Nat) (v : Word) : State :=
  if q < 63 ∧ fld v 0 3 ≤ 4 then s.setCtl (controlBase r + 0xE00 + 8 * q) (Word.ofNat (fld v 0 3)) else s

end State

/-- TURN_WRITE (R266). At spot: the region, the destination region and the value. -/
def execTurnWrite (s : State) : Host.Outcome State Fault Refusal :=
  .next (s.writeTurn s.spot.place s.spot.item s.spot.v0)

namespace State

/-- What is not timed out is discarded and counted where its destination lies in a dark region (R267). -/
def dropIfDark (s : State) (n : Nat) (p : Packet) : State :=
  match s.portRegion p.dst with
  | some q => if (s.region q).life = .dark then (s.taken n).countError p.here else s
  | none => s

/-- The fate of a packet that is held at a dark link, at the router that holds it (R267). -/
def darkFate (s : State) (n : Nat) (p : Packet) : State :=
  let t := s.taken n
  let at_ := Port.router p.here
  match p.load with
  | .msg m tagged =>
    if m.kind = MsgKind.reply.num then s.dropIfDark n p
    else if m.kind = MsgKind.migrate.num then t.inject at_ (s.replyPort p m) 1 (.returned m .homeFenced)
    else if tagged then t.reply at_ (s.replyPort p m) m 1 0
    else if isRecordKind m.kind then t.countError p.here
    else s.dropIfDark n p
  | .beat b =>
    match s.hodOp b.core b.op with
    | none => t
    | some o =>
      match o.dests[b.dest]? with
      | none => t
      | some d => t.beatRefused at_ b o d .homeFenced
  | .free _ _ => t.countError p.here
  | .check core tag _ _ =>
    t.send at_ (.core core)
      { kind := .reply, tc := 1, ecls := 0, prio := 0, size := false, dest := s.rankOf core, task := s.entryTask core,
        src := serviceRank (p.here / 64) }
      (Word.ofNat (2 ^ 9 + tag)) [0]
  | _ => s.dropIfDark n p

/-- DARKTO is over for a packet (R261, R267): it has waited at the link that long, and DARKTO is not 0. -/
def darkDue (s : State) (p : Packet) : Bool :=
  let t := fld (s.rbctl (p.here / 64)) 48 16
  t != 0 && p.held.any fun h => decide (h.1 + 100 * t ≤ s.rc)

end State

/-- DARK_LINK_TIMEOUT (R267): a packet held at a dark link, the head of its output queue, meets its fate. At spot: the packet's
place in flight. -/
def execDarkLinkTimeout (s : State) : Host.Outcome State Fault Refusal :=
  let n := s.spot.place
  match s.net[n]? with
  | some p =>
    match s.hopOf p with
    | some x =>
      if s.darkRouter x && !s.behind n p x && (!p.timed || s.darkDue p) then .next (s.darkFate n p) else .next s
    | none => .next s
  | none => .next s

end Sys2Proof.Machine
end

