-- ==== Sys2Proof/Machine/Control.lean ====
section
/-!
DEFINITION. The control registers (R22, R40, R64 to R68, R304, and the pages that give each register).
-/

namespace Sys2Proof.Machine

/-! ### Reading (R22, R64, R304) -/

namespace State

/-- cr.class of a fibre (R68). -/
def crClass (s : State) (pid n : Nat) : Word :=
  let f := s.slot pid n
  Word.ofNat (f.gen.toNat * 2 ^ 40 + n * 2 ^ 32 + s.taskOf pid f * 2 ^ 16 + f.prio.val * 2 ^ 4 + f.ecls.toNat)

/-- cr.mbox (R90). -/
def crMbox (s : State) (pid : Nat) : Word :=
  let c := s.core pid
  let isMig (h : Held) : Bool := h.msg.kind == MsgKind.migrate.num
  Word.ofNat (min 65535 (s.ringCount pid) * 2 ^ 32 + (c.reserve.filter isMig).length * 2 ^ 16 + c.part.length)

/-- cr.barx (R126). -/
def crBarx (s : State) (pid : Nat) : Word :=
  let c := s.core pid
  Word.ofNat (c.grant.toNat * 2 ^ 28 + c.cnt0 * 2 ^ 16 + c.arv.toNat * 2 ^ 9 + c.exc.toNat * 2)

/-- The value of a control register as a fibre reads it; none where no page assigns the number. The registers of a cluster
that a region service core, which belongs to no cluster, reads and writes are its region's own, kept as a cluster 63
(log 72, DESIGN CHOICE). -/
def crRead (s : State) (pid n crn : Nat) : Option Word :=
  let c := s.core pid
  let f := s.slot pid n
  let k := s.cluster (pid / 8)
  if 0x020 ≤ crn ∧ crn < 0x030 then some (Tab.read c.skey 0 (crn - 0x020))
  else if 0x030 ≤ crn ∧ crn < 0x040 then some (Tab.read c.sdst 0 (crn - 0x030))
  else
    match crn with
    | 0x000 => some (Word.ofNat (s.rankOf pid))
    | 0x001 => some (coord pid)
    | 0x002 => some (s.time (pid / 512))
    | 0x003 => some (s.crClass pid n)
    | 0x004 => some c.fpmode
    | 0x005 => some (c.seed.setWidth 64)
    | 0x010 => some (Word.ofBool c.admitting)
    | 0x011 => some (s.crMbox pid)
    | 0x012 => some (Word.ofNat (c.lost * 2 ^ 32 + c.dead))
    | 0x013 => some (Word.ofBool f.amig)
    | 0x014 => some (s.crBarx pid)
    | 0x015 => some k.tknote
    | 0x016 => some c.kvreq
    | 0x100 => some c.tvec
    | 0x102 => some (f.epc.setWidth 64 ||| (if f.epcv then 0x100000000000000#64 else 0))
    | 0x103 => some (f.tcause.setWidth 64)
    | 0x120 => some c.mbcfg
    | 0x121 => some c.muweight
    | 0x123 => some k.tscfg
    | 0x124 => some c.wdog
    | 0x130 => some k.trcfg
    | _ => none

end State

/-- The rw fields of a register, in user or supervisor mode (the registers' pages). -/
def crWritable (sup : Bool) (crn : Nat) : Word :=
  if 0x020 ≤ crn ∧ crn < 0x030 then BitVec.allOnes 64
  else if 0x030 ≤ crn ∧ crn < 0x040 then 0x1FFFF#64
  else
    match crn with
    | 0x004 => 0x1F07#64
    | 0x005 => 0xFFFFFFFF#64
    | 0x010 => 1#64
    | 0x013 => 1#64
    | 0x014 => if sup then 0xF000001E#64 else 0
    | 0x015 => 0x803FFFFF#64
    | 0x016 => 0x800000FF#64
    | 0x100 => 0x00FFFFFFFFFFFFFE#64
    | 0x102 => 0x00FFFFFFFFFFFFFE#64
    | 0x103 => 0xFFFF#64
    | 0x120 => 0x0000003F0FFF07FF#64
    | 0x121 => 0xF#64
    | 0x123 => 0x87FFFFFFFFFFFFFE#64
    | 0x124 => 0x800FFFFF#64
    | 0x130 => 0x0000FFFFFFFFFF87#64
    | _ => 0

/-! ### Writes with behaviour -/

namespace State

/-- A write of cr.skey(i) or cr.sdst(i) (R292): COUNT is cleared when V becomes 1. -/
def writeStub (s : State) (pid crn : Nat) (v : Word) : State :=
  if crn < 0x030 then s.onCore pid fun c => { c with skey := Tab.put c.skey (crn - 0x020) v }
  else
    s.onCore pid fun c =>
      let old := Tab.read c.sdst 0 (crn - 0x030)
      let w := fields 0x1FFFF#64 old v
      { c with sdst := Tab.put c.sdst (crn - 0x030) (if flag v 16 && !flag old 16 then w &&& 0x1FFFF#64 else w) }

/-- A write of cr.tknote (R259): it captures the writer's task and rank. -/
def writeTknote (s : State) (pid task : Nat) (v : Word) : State :=
  s.onCluster (pid / 8) fun c =>
    { c with tknote := (v &&& 0x803FFFFF#64) ||| Word.ofNat (s.rankOf pid * 2 ^ 44 + task * 2 ^ 32) }

/-- The homes that a cluster's trace control covers: scratchpad and TCM ports (R165). -/
def tracedPorts (cid : Nat) : List Nat :=
  (Home.scratchpad cid).number :: (List.range 8).map fun k => (Home.tcm (cid * 8 + k)).number

/-- A trace control after a write of its rw fields: LOST is cleared, and the ports' sequence numbers restart, when EN goes
from 0 to 1 (R165, R166). -/
def traceWritten (s : State) (old new : Word) (ports : List Nat) : Word × State :=
  let w := fields 0x0000FFFFFFFFFF87#64 old new
  if flag new 0 && !flag old 0 then
    (w &&& 0x0000FFFFFFFFFFFF#64, { s with trseq := ports.foldl (fun t p => Tab.remove t p) s.trseq })
  else (w, s)

/-- A write of a cluster's cr.trcfg. -/
def writeTrcfg (s : State) (cid : Nat) (v : Word) : State :=
  let r := s.traceWritten (s.cluster cid).trcfg v (tracedPorts cid)
  r.2.onCluster cid fun c => { c with trcfg := r.1 }

/-- A write of EXC and GRANT of a core (R126, R127): each change of EXC travels as an excuse does. -/
def writeBarx (s : State) (pid : Nat) (v : Word) : State :=
  let exc := v.extractLsb' 1 4
  let s1 := s.onCore pid fun c => { c with grant := v.extractLsb' 28 4 }
  [1, 2, 3, 4].foldl
    (fun u l => if levelBit (u.core pid).exc l = levelBit exc l then u else u.excuse pid l (levelBit exc l)) s1

/-- A control register of a fibre written: v holds the new values of the rw fields. -/
def crWrite (s : State) (pid n crn : Nat) (v : Word) : State :=
  if 0x020 ≤ crn ∧ crn < 0x040 then s.writeStub pid crn v
  else
    match crn with
    | 0x004 => s.onCore pid fun c => { c with fpmode := v &&& 0x1F07#64 }
    | 0x005 => s.onCore pid fun c => { c with seed := v.setWidth 32 }
    | 0x010 => s.writeAdmit pid (flag v 0)
    | 0x013 => s.onSlot pid n fun f => { f with amig := flag v 0 }
    | 0x014 => s.writeBarx pid v
    | 0x015 => s.writeTknote pid (s.taskOf pid (s.slot pid n)) v
    | 0x016 => s.onCore pid fun c => { c with kvreq := v &&& 0x800000FF#64 }
    | 0x100 => s.onCore pid fun c => { c with tvec := v &&& 0x00FFFFFFFFFFFFFE#64 }
    | 0x102 => s.onSlot pid n fun f => { f with epc := (v &&& 0x00FFFFFFFFFFFFFE#64).setWidth 56 }
    | 0x103 => s.onSlot pid n fun f => { f with tcause := v.setWidth 16 }
    | 0x120 => s.onCore pid fun c => { c with mbcfg := v &&& 0x0000003F0FFF07FF#64 }
    | 0x121 =>
      if 1 ≤ fld v 0 4 ∧ fld v 0 4 ≤ 8 then s.onCore pid fun c => { c with muweight := v &&& 0xF#64 } else s
    | 0x123 => s.onCluster (pid / 8) fun c => { c with tscfg := v &&& 0x87FFFFFFFFFFFFFE#64 }
    | 0x124 => s.onCore pid fun c => { c with wdog := fields 0x800FFFFF#64 c.wdog v }
    | 0x130 => s.writeTrcfg (pid / 8) v
    | _ => s

/-- The w1c fields of a register: cr.wdog.EXP (R339). -/
def crClear (s : State) (pid crn : Nat) (v : Word) : State :=
  if crn = 0x124 ∧ flag v 32 = true then s.onCore pid fun c => { c with wdog := c.wdog &&& ~~~0x100000000#64 } else s

/-- What a control-register instruction needs (R20, R22, R29): a number that a page assigns, at decode; supervisor mode for a
supervisor register, and for a write of a register whose every field is ro in user mode. -/
def crNeed (s : State) (crn : Nat) (write : Bool) (reads writes : List Reg) : Need :=
  { Need.plain reads writes with
    legal := decide (crn < 0x800) && (s.crRead s.cur.core s.cur.slot crn).isSome
    priv := decide (0x100 ≤ crn) || (write && crWritable false crn == 0) }

/-- The common effect of CRW, CRSET and CRCLR (R22, R64, R304): `new` forms the rw fields from the old value and
Reg(rs1), whose 1 bits clear w1c fields (R9). -/
def crUpdate (s : State) (crn : Nat) (src : Word) (new : Word → Word) : State :=
  let old := (s.crRead s.cur.core s.cur.slot crn).getD 0
  let m := crWritable s.me.sup crn
  (if m = 0 then s else s.crWrite s.cur.core s.cur.slot crn (fields m old (new old))).crClear s.cur.core crn src

end State

/-- CRR (R64). -/
def execCrr (rd : Reg) (crn : BitVec 12) (s : State) :=
  s.issue (s.crNeed crn.toNat false [] [rd]) fun t =>
    .ok (t.setReg rd ((t.crRead t.cur.core t.cur.slot crn.toNat).getD 0))

/-- CRW (R64). -/
def execCrw (crn : BitVec 12) (a : Reg) (s : State) :=
  s.issue (s.crNeed crn.toNat true [a] []) fun t => .ok (t.crUpdate crn.toNat (t.reg a) fun _ => t.reg a)

/-- CRSET (R64). -/
def execCrset (crn : BitVec 12) (a : Reg) (s : State) :=
  s.issue (s.crNeed crn.toNat true [a] []) fun t => .ok (t.crUpdate crn.toNat (t.reg a) fun old => old ||| t.reg a)

/-- CRCLR (R64). -/
def execCrclr (crn : BitVec 12) (a : Reg) (s : State) :=
  s.issue (s.crNeed crn.toNat true [a] []) fun t => .ok (t.crUpdate crn.toNat (t.reg a) fun old => old &&& ~~~t.reg a)

/-- STUB_WRITE (R292, R296): a request of this ac has been checked against the stubs as they were. At spot: the core, the register
number, the value. -/
def execStubWrite (s : State) : Host.Outcome State Fault Refusal :=
  .next (if 0x020 ≤ s.spot.item ∧ s.spot.item < 0x040 ∧ s.tooLate s.spot.place = false then s.writeStub s.spot.place s.spot.item s.spot.v0 else s)

/-- TKNOTE_WRITE (R259). At spot: the core and the value. -/
def execTknoteWrite (s : State) : Host.Outcome State Fault Refusal :=
  .next (s.writeTknote s.spot.place (s.entryTask s.spot.place) s.spot.v0)

/-- TRCFG_WRITE (R165). At spot: the cluster and the value. -/
def execTrcfgWrite (s : State) : Host.Outcome State Fault Refusal := .next (s.writeTrcfg s.spot.place s.spot.v0)

end Sys2Proof.Machine
end

