-- ==== Sys2Proof/Machine/Scalar.lean ====
section
/-!
DEFINITION. The integer, immediate, control and scalar float instructions (R46 to R63), with their compact forms (R41, R42).
-/

namespace Sys2Proof.Machine

/-! ### Integer operations on values (R48 to R50) -/

/-- The signed quotient and remainder (R49): truncation toward zero, with the stated corner results. -/
def divSigned (a b : Word) : Word × Word :=
  if b = 0 then (Word.ofInt (-1), a)
  else (Word.ofInt (a.toInt.tdiv b.toInt), Word.ofInt (a.toInt.tmod b.toInt))

/-- The unsigned quotient and remainder (R49). -/
def divUnsigned (a b : Word) : Word × Word :=
  if b = 0 then (Word.ofInt (-1), a) else (Word.ofNat (a.toNat / b.toNat), Word.ofNat (a.toNat % b.toNat))

/-- Bits [127:64] of the signed product (R48). -/
def mulHigh (a b : Word) : Word := Word.ofInt ((a.toInt * b.toInt) / 2 ^ 64)

/-- Bits [127:64] of the unsigned product (R48). -/
def mulHighU (a b : Word) : Word := Word.ofNat (a.toNat * b.toNat / 2 ^ 64)

/-- A shift count: bits [5:0] (R50). -/
def shiftCount (b : Word) : Nat := b.toNat % 64

/-- The count of leading zero bits, 0 to 64 (R50). -/
def countLeading (a : Word) : Nat := if a = 0 then 64 else 63 - Nat.log2 a.toNat

/-- The count of trailing zero bits among n bits of a number, n for 0. -/
def trailingZeros : Nat → Nat → Nat
  | 0, _ => 0
  | n + 1, v => if v % 2 = 1 then 0 else 1 + trailingZeros n (v / 2)

/-- The count of one bits among n bits of a number. -/
def onesCount : Nat → Nat → Nat
  | 0, _ => 0
  | n + 1, v => v % 2 + onesCount n (v / 2)

/-- The bytes of a number of n bytes in reverse order. -/
def reverseBytes : Nat → Nat → Nat → Nat
  | 0, _, acc => acc
  | n + 1, v, acc => reverseBytes n (v / 256) (acc * 256 + v % 256)

/-! ### Shapes -/

/-- A form of majors 0x00 and 0x01 with two sources (R48, R50). -/
def binary (s : State) (rd a b : Reg) (f : Word → Word → Word) : Host.Outcome State Fault Refusal :=
  s.compute (.plain [a, b] [rd]) rd fun t => f (t.reg a) (t.reg b)

/-- A form with one source. -/
def unary (s : State) (rd a : Reg) (f : Word → Word) : Host.Outcome State Fault Refusal :=
  s.compute (.plain [a] [rd]) rd fun t => f (t.reg a)

/-- A compare (R50): 1 or 0. -/
def compare (s : State) (rd a b : Reg) (f : Word → Word → Bool) : Host.Outcome State Fault Refusal :=
  binary s rd a b fun x y => Word.ofBool (f x y)

/-- A divide: 5 passes (R46). -/
def divide (s : State) (rd a b : Reg) (f : Word → Word → Word) : Host.Outcome State Fault Refusal :=
  s.compute { Need.plain [a, b] [rd] with passes := 5 } rd fun t => f (t.reg a) (t.reg b)

def execAdd (rd a b : Reg) (s : State) := binary s rd a b fun x y => x + y
def execSub (rd a b : Reg) (s : State) := binary s rd a b fun x y => x - y
def execAnd (rd a b : Reg) (s : State) := binary s rd a b fun x y => x &&& y
def execOr (rd a b : Reg) (s : State) := binary s rd a b fun x y => x ||| y
def execXor (rd a b : Reg) (s : State) := binary s rd a b fun x y => x ^^^ y
def execAndn (rd a b : Reg) (s : State) := binary s rd a b fun x y => x &&& ~~~y
def execOrn (rd a b : Reg) (s : State) := binary s rd a b fun x y => x ||| ~~~y
def execXnor (rd a b : Reg) (s : State) := binary s rd a b fun x y => ~~~(x ^^^ y)
def execMul (rd a b : Reg) (s : State) := binary s rd a b fun x y => x * y
def execMulh (rd a b : Reg) (s : State) := binary s rd a b mulHigh
def execMulhu (rd a b : Reg) (s : State) := binary s rd a b mulHighU
def execDiv (rd a b : Reg) (s : State) := divide s rd a b fun x y => (divSigned x y).1
def execDivu (rd a b : Reg) (s : State) := divide s rd a b fun x y => (divUnsigned x y).1
def execRem (rd a b : Reg) (s : State) := divide s rd a b fun x y => (divSigned x y).2
def execRemu (rd a b : Reg) (s : State) := divide s rd a b fun x y => (divUnsigned x y).2
def execMin (rd a b : Reg) (s : State) := binary s rd a b fun x y => if x.toInt ≤ y.toInt then x else y
def execMax (rd a b : Reg) (s : State) := binary s rd a b fun x y => if x.toInt ≤ y.toInt then y else x
def execMinu (rd a b : Reg) (s : State) := binary s rd a b fun x y => if x.toNat ≤ y.toNat then x else y
def execMaxu (rd a b : Reg) (s : State) := binary s rd a b fun x y => if x.toNat ≤ y.toNat then y else x
def execMov (rd a : Reg) (s : State) := unary s rd a fun x => x
def execSll (rd a b : Reg) (s : State) := binary s rd a b fun x y => x <<< shiftCount y
def execSrl (rd a b : Reg) (s : State) := binary s rd a b fun x y => x >>> shiftCount y
def execSra (rd a b : Reg) (s : State) := binary s rd a b fun x y => x.sshiftRight (shiftCount y)
def execRol (rd a b : Reg) (s : State) := binary s rd a b fun x y => x.rotateLeft (shiftCount y)
def execRor (rd a b : Reg) (s : State) := binary s rd a b fun x y => x.rotateRight (shiftCount y)
def execSeq (rd a b : Reg) (s : State) := compare s rd a b fun x y => x == y
def execSne (rd a b : Reg) (s : State) := compare s rd a b fun x y => x != y
def execSlt (rd a b : Reg) (s : State) := compare s rd a b fun x y => decide (x.toInt < y.toInt)
def execSltu (rd a b : Reg) (s : State) := compare s rd a b fun x y => decide (x.toNat < y.toNat)
def execSle (rd a b : Reg) (s : State) := compare s rd a b fun x y => decide (x.toInt ≤ y.toInt)
def execSleu (rd a b : Reg) (s : State) := compare s rd a b fun x y => decide (x.toNat ≤ y.toNat)

/-- SEL (R50): rd is read as the condition. -/
def execSel (rd a b : Reg) (s : State) :=
  s.compute (.plain [a, b, rd] [rd]) rd fun t => if t.reg rd = 0 then t.reg b else t.reg a

def execClz (rd a : Reg) (s : State) := unary s rd a fun x => Word.ofNat (countLeading x)
def execCtz (rd a : Reg) (s : State) := unary s rd a fun x => Word.ofNat (trailingZeros 64 x.toNat)
def execPopc (rd a : Reg) (s : State) := unary s rd a fun x => Word.ofNat (onesCount 64 x.toNat)
def execBswap (rd a : Reg) (s : State) := unary s rd a fun x => Word.ofNat (reverseBytes 8 x.toNat 0)

/-- LEA (R50): mod8 is the shift. -/
def execLea (rd a b : Reg) (sh : BitVec 2) (s : State) := binary s rd a b fun x y => x + y <<< sh.toNat

/-! ### Immediate forms (R51, R52) -/

def execAddi (rd a : Reg) (imm : BitVec 16) (s : State) := unary s rd a fun x => x + imm.signExtend 64
def execAndi (rd a : Reg) (imm : BitVec 16) (s : State) := unary s rd a fun x => x &&& imm.signExtend 64
def execOri (rd a : Reg) (imm : BitVec 16) (s : State) := unary s rd a fun x => x ||| imm.setWidth 64
def execXori (rd a : Reg) (imm : BitVec 16) (s : State) := unary s rd a fun x => x ^^^ imm.setWidth 64
def execSlti (rd a : Reg) (imm : BitVec 16) (s : State) :=
  unary s rd a fun x => Word.ofBool (decide (x.toInt < (imm.signExtend 64).toInt))
def execSltiu (rd a : Reg) (imm : BitVec 16) (s : State) :=
  unary s rd a fun x => Word.ofBool (decide (x.toNat < (imm.signExtend 64).toNat))
def execMuli (rd a : Reg) (imm : BitVec 16) (s : State) := unary s rd a fun x => x * imm.signExtend 64
def execSlli (rd a : Reg) (n : BitVec 6) (s : State) := unary s rd a fun x => x <<< n.toNat
def execSrli (rd a : Reg) (n : BitVec 6) (s : State) := unary s rd a fun x => x >>> n.toNat
def execSrai (rd a : Reg) (n : BitVec 6) (s : State) := unary s rd a fun x => x.sshiftRight n.toNat
def execSeqi (rd a : Reg) (imm : BitVec 16) (s : State) := unary s rd a fun x => Word.ofBool (x == imm.signExtend 64)
def execSnei (rd a : Reg) (imm : BitVec 16) (s : State) := unary s rd a fun x => Word.ofBool (x != imm.signExtend 64)

def execLi (rd : Reg) (imm : BitVec 22) (s : State) := s.compute (.plain [] [rd]) rd fun _ => imm.signExtend 64

/-- LIS (R52): rd is read. -/
def execLis (rd : Reg) (imm : BitVec 22) (s : State) :=
  s.compute (.plain [rd] [rd]) rd fun t => t.reg rd <<< (22 : Nat) + imm.signExtend 64

def execAddpc (rd : Reg) (imm : BitVec 22) (s : State) :=
  s.compute (.plain [] [rd]) rd fun t => relTarget t 4 (imm.signExtend 64)

/-! ### Control transfers (R53 to R57) -/

/-- A compare-and-branch (R53). -/
def branch (s : State) (len : Nat) (a b : Reg) (off : Word) (taken : Word → Word → Bool) :
    Host.Outcome State Fault Refusal :=
  s.issue { Need.plain [a, b] [] with len := len } fun t =>
    .ok (if taken (t.reg a) (t.reg b) then t.jump (relTarget t len off) else t)

def execBeq (a b : Reg) (off : BitVec 16) (s : State) := branch s 4 a b (off.signExtend 64) fun x y => x == y
def execBne (a b : Reg) (off : BitVec 16) (s : State) := branch s 4 a b (off.signExtend 64) fun x y => x != y
def execBlt (a b : Reg) (off : BitVec 16) (s : State) :=
  branch s 4 a b (off.signExtend 64) fun x y => decide (x.toInt < y.toInt)
def execBge (a b : Reg) (off : BitVec 16) (s : State) :=
  branch s 4 a b (off.signExtend 64) fun x y => decide (x.toInt ≥ y.toInt)
def execBltu (a b : Reg) (off : BitVec 16) (s : State) :=
  branch s 4 a b (off.signExtend 64) fun x y => decide (x.toNat < y.toNat)
def execBgeu (a b : Reg) (off : BitVec 16) (s : State) :=
  branch s 4 a b (off.signExtend 64) fun x y => decide (x.toNat ≥ y.toNat)

/-- A relative jump (R54). -/
def jumpRel (s : State) (len : Nat) (off : Word) : Host.Outcome State Fault Refusal :=
  s.issue { Need.plain [] [] with len := len } fun t => .ok (t.jump (relTarget t len off))

def execJ (imm : BitVec 22) (s : State) := jumpRel s 4 (imm.signExtend 64)

/-- JAL (R54): the link is NextPC. -/
def execJal (rd : Reg) (imm : BitVec 22) (s : State) :=
  s.issue (.plain [] [rd]) fun t => .ok ((t.setReg rd t.me.pcWord).jump (relTarget t 4 (imm.signExtend 64)))

/-- A register jump (R15, R55): an odd target traps ALIGN, and no link is written; the target is read before the link. -/
def jumpReg (s : State) (len : Nat) (a : Reg) (off : Word) (link : List Reg) : Host.Outcome State Fault Refusal :=
  s.issue { Need.plain [a] link with len := len } fun t => do
    let target := t.reg a + off
    require (!target.getLsbD 0) .align .instruction target
    .ok ((link.foldl (fun u r => u.setReg r t.me.pcWord) t).jump target)

def execJalr (rd a : Reg) (imm : BitVec 16) (s : State) := jumpReg s 4 a (imm.signExtend 64) [rd]
def execJr (a : Reg) (imm : BitVec 16) (s : State) := jumpReg s 4 a (imm.signExtend 64) []

/-- LOOP (R56). -/
def execLoop (rd : Reg) (off : BitVec 16) (s : State) :=
  s.issue (.plain [rd] [rd]) fun t =>
    .ok (if (t.reg rd).toNat > 1 then
        (t.setReg rd (t.reg rd - 1)).jump (relTarget t 4 (off.signExtend 64))
      else t.setReg rd 0)

/-- The hint block (R28): it advances the PC and changes no other state. -/
def hint (s : State) (len : Nat) : Host.Outcome State Fault Refusal := s.issue { Need.plain [] [] with len := len } .ok

def execNop (_h : BitVec 25) (s : State) := hint s 4
def execNopS (_h : BitVec 5) (s : State) := hint s 2

/-! ### Scalar float (R58 to R63) -/

/-- The FP32 operand of a g register: bits [31:0] (R58). -/
def f32 (w : Word) : FVal := Fmt.fp32.value (w.toNat % 2 ^ 32)

/-- A form of major 0x0C: the result, zero-extended, and its exceptions ORed into cr.fpmode (R58, R60). -/
def floatForm (s : State) (passes : Nat) (reads : List Reg) (rd : Reg) (f : State → Word × FpFlags) :
    Host.Outcome State Fault Refusal :=
  s.issue { Need.plain reads [rd] with passes := passes } fun t =>
    .ok ((t.setReg rd (f t).1).onMyCore fun c => { c with fpmode := raiseFlags c.fpmode (f t).2 })

/-- A rounded pattern as a register value. -/
def Rounded.word (r : Rounded) : Word × FpFlags := (Word.ofNat r.bits, r.flags)

/-- The mode of a form that rounds: RM is read at issue (R60, R61). -/
def State.mode (s : State) (m : RoundSel) : RMode := RMode.select m s.myCore.fpmode

def execFadd (rd a b : Reg) (m : RoundSel) (s : State) :=
  floatForm s 1 [a, b] rd fun t => (fadd .fp32 (t.mode m) (f32 (t.reg a)) (f32 (t.reg b))).word
def execFsub (rd a b : Reg) (m : RoundSel) (s : State) :=
  floatForm s 1 [a, b] rd fun t => (fadd .fp32 (t.mode m) (f32 (t.reg a)) (f32 (t.reg b)).negate).word
def execFmul (rd a b : Reg) (m : RoundSel) (s : State) :=
  floatForm s 1 [a, b] rd fun t => (fmul .fp32 (t.mode m) (f32 (t.reg a)) (f32 (t.reg b))).word
def execFdiv (rd a b : Reg) (m : RoundSel) (s : State) :=
  floatForm s 3 [a, b] rd fun t => (fdiv .fp32 (t.mode m) (f32 (t.reg a)) (f32 (t.reg b))).word
def execFsqrt (rd a : Reg) (m : RoundSel) (s : State) :=
  floatForm s 3 [a] rd fun t => (fsqrt .fp32 (t.mode m) (f32 (t.reg a))).word

/-- FMA (R61): rd is the addend. -/
def execFma (rd a b : Reg) (m : RoundSel) (s : State) :=
  floatForm s 1 [a, b, rd] rd fun t =>
    (ffma .fp32 (t.mode m) (f32 (t.reg a)) (f32 (t.reg b)) (f32 (t.reg rd))).word

def execFmin (rd a b : Reg) (s : State) :=
  floatForm s 1 [a, b] rd fun t =>
    (fminmax .fp32 false ((t.reg a).toNat % 2 ^ 32) ((t.reg b).toNat % 2 ^ 32)).word
def execFmax (rd a b : Reg) (s : State) :=
  floatForm s 1 [a, b] rd fun t =>
    (fminmax .fp32 true ((t.reg a).toNat % 2 ^ 32) ((t.reg b).toNat % 2 ^ 32)).word
def execFabs (rd a : Reg) (s : State) := floatForm s 1 [a] rd fun t => (t.reg a &&& 0x7FFFFFFF#64, .none)
def execFneg (rd a : Reg) (s : State) :=
  floatForm s 1 [a] rd fun t => ((t.reg a &&& 0xFFFFFFFF#64) ^^^ 0x80000000#64, .none)

/-- A float compare (R62): 0 for a NaN; NV for any NaN, or in FEQ for a signalling one only. -/
def floatCompare (s : State) (rd a b : Reg) (quiet : Bool) (f : FVal → FVal → Bool) :
    Host.Outcome State Fault Refusal :=
  floatForm s 1 [a, b] rd fun t =>
    let x := f32 (t.reg a)
    let y := f32 (t.reg b)
    let nan := x.isNaN || y.isNaN
    (Word.ofBool (!nan && f x y), { nv := if quiet then x.isSNaN || y.isSNaN else nan })

def execFeq (rd a b : Reg) (s : State) := floatCompare s rd a b true FVal.eq
def execFlt (rd a b : Reg) (s : State) := floatCompare s rd a b false FVal.lt
def execFle (rd a b : Reg) (s : State) := floatCompare s rd a b false fun x y => x.lt y || x.eq y

def execFclass (rd a : Reg) (s : State) :=
  floatForm s 1 [a] rd fun t => (Word.ofNat (2 ^ fclass .fp32 ((t.reg a).toNat % 2 ^ 32)), .none)

def execFtoi (rd a : Reg) (m : RoundSel) (s : State) :=
  floatForm s 1 [a] rd fun t =>
    let r := ftoInt (-(2 ^ 63)) (2 ^ 63 - 1) (t.mode m) (f32 (t.reg a))
    (Word.ofInt r.1, r.2)
def execFtou (rd a : Reg) (m : RoundSel) (s : State) :=
  floatForm s 1 [a] rd fun t =>
    let r := ftoInt 0 (2 ^ 64 - 1) (t.mode m) (f32 (t.reg a))
    (Word.ofInt r.1, r.2)
def execItof (rd a : Reg) (m : RoundSel) (s : State) :=
  floatForm s 1 [a] rd fun t => (intToF .fp32 (t.mode m) (t.reg a).toInt).word
def execUtof (rd a : Reg) (m : RoundSel) (s : State) :=
  floatForm s 1 [a] rd fun t => (intToF .fp32 (t.mode m) (t.reg a).toNat).word

/-- A conversion between float formats (R63). -/
def floatConvert (s : State) (rd a : Reg) (m : RoundSel) (src dst : Fmt) : Host.Outcome State Fault Refusal :=
  floatForm s 1 [a] rd fun t =>
    (fconv src dst (t.mode m) false ((t.reg a).toNat % 2 ^ (src.body + 1))).word

def execFtob (rd a : Reg) (m : RoundSel) (s : State) := floatConvert s rd a m .fp32 .bf16
def execBtof (rd a : Reg) (s : State) := floatConvert s rd a .rne .bf16 .fp32
def execFtoh (rd a : Reg) (m : RoundSel) (s : State) := floatConvert s rd a m .fp32 .fp16
def execHtof (rd a : Reg) (s : State) := floatConvert s rd a .rne .fp16 .fp32

/-! ### Compact forms (R18, R41, R42): those of one stated 32-bit instruction, 2 bytes long -/

/-- A compact form with one source. -/
def compactUnary (s : State) (rd a : Reg) (f : Word → Word) : Host.Outcome State Fault Refusal :=
  s.compute { Need.plain [a] [rd] with len := 2 } rd fun t => f (t.reg a)

def execAddiS (rd a : Reg) (imm : BitVec 5) (s : State) := compactUnary s rd a fun x => x + imm.signExtend 64
def execLiS (rd : Reg) (imm : BitVec 8) (s : State) :=
  s.compute { Need.plain [] [rd] with len := 2 } rd fun _ => imm.signExtend 64

/-- The operation of fn5 (R42). -/
def compactApply (f : CompactOp) (x y : Word) : Word :=
  match f with
  | .add => x + y
  | .sub => x - y
  | .and => x &&& y
  | .or => x ||| y
  | .xor => x ^^^ y
  | .mov => y
  | .sll => x <<< shiftCount y
  | .srl => x >>> shiftCount y
  | .sra => x.sshiftRight (shiftCount y)
  | .mul => x * y
  | .slt => Word.ofBool (decide (x.toInt < y.toInt))
  | .sltu => Word.ofBool (decide (x.toNat < y.toNat))

/-- ALU.S (R41): OP rd, rd, rs; MOV reads rs alone. -/
def execAluS (rd a : Reg) (f : CompactOp) (s : State) :=
  s.compute { Need.plain (if f = .mov then [a] else [rd, a]) [rd] with len := 2 } rd fun t =>
    compactApply f (t.reg rd) (t.reg a)

/-- ACC.S (R41): OP g0, rd, rs; MOV g0, rd reads rd alone. -/
def execAccS (rd a : Reg) (f : CompactOp) (s : State) :=
  s.compute { Need.plain (if f = .mov then [rd] else [rd, a]) [0] with len := 2 } 0 fun t =>
    if f = .mov then t.reg rd else compactApply f (t.reg rd) (t.reg a)

def execSlliS (rd a : Reg) (n : BitVec 5) (s : State) := compactUnary s rd a fun x => x <<< n.toNat
def execSrliS (rd a : Reg) (n : BitVec 5) (s : State) := compactUnary s rd a fun x => x >>> n.toNat
def execSraiS (rd a : Reg) (n : BitVec 5) (s : State) := compactUnary s rd a fun x => x.sshiftRight n.toNat
def execBeqS (a b : Reg) (off : BitVec 5) (s : State) := branch s 2 a b (off.signExtend 64) fun x y => x == y
def execBneS (a b : Reg) (off : BitVec 5) (s : State) := branch s 2 a b (off.signExtend 64) fun x y => x != y
def execJS (off : BitVec 11) (s : State) := jumpRel s 2 (off.signExtend 64)
def execJrS (a : Reg) (s : State) := jumpReg s 2 a 0 []

/-! ### Extension registers (R25, R26) -/

/-- XSET (R26). -/
def execXset (xn : XIdx) (a b : Reg) (s : State) :=
  s.issue { Need.plain [a, b] [] with xs := [xn] } fun t => .ok (t.setXreg xn (t.reg b ++ t.reg a))

/-- XMOV (R26). -/
def execXmov (xn xm : XIdx) (s : State) :=
  s.issue { Need.plain [] [] with xs := [xn, xm] } fun t => .ok (t.setXreg xn (t.xreg xm))

/-- XMOV.D gD, xn, #h (R26). -/
def execXmovDRead (rd : Reg) (xn : XIdx) (h : BitVec 1) (s : State) :=
  s.compute { Need.plain [] [rd] with xs := [xn] } rd fun t => (t.xreg xn).extractLsb' (64 * h.toNat) 64

/-- XMOV.D xn, gS, #h (R26): the other half is kept. -/
def execXmovDWrite (xn : XIdx) (a : Reg) (h : BitVec 1) (s : State) :=
  s.issue { Need.plain [a] [] with xs := [xn] } fun t =>
    let x := t.xreg xn
    .ok (t.setXreg xn
      (if h = 0 then x.extractLsb' 64 64 ++ t.reg a else t.reg a ++ x.extractLsb' 0 64))

/-- XMOV.W xn, gS, #w (R26): the other words are kept. -/
def execXmovW (xn : XIdx) (a : Reg) (w : BitVec 2) (s : State) :=
  s.issue { Need.plain [a] [] with xs := [xn] } fun t =>
    let keep := t.xreg xn &&& ~~~(0xFFFFFFFF#128 <<< (32 * w.toNat))
    .ok (t.setXreg xn (keep ||| (((t.reg a).setWidth 32).setWidth 128 <<< (32 * w.toNat))))

end Sys2Proof.Machine
end

