-- ==== Sys2Proof/Machine/Gather.lean ====
section
/-!
DEFINITION. The gather unit (R277 to R280, R317, R318): its three forms, and the runs of its kernel.
-/

namespace Sys2Proof.Machine

/-! ### Kernels (R277) -/

/-- The meaning of an instruction of the kernel subset that reads and writes g registers alone, or branches (R277); none for
any other. -/
def kernelAlu : Instr → Option (State → Host.Outcome State Fault Refusal)
  | .add rd rs1 rs2 => some (execAdd rd rs1 rs2)
  | .sub rd rs1 rs2 => some (execSub rd rs1 rs2)
  | .and rd rs1 rs2 => some (execAnd rd rs1 rs2)
  | .or rd rs1 rs2 => some (execOr rd rs1 rs2)
  | .xor rd rs1 rs2 => some (execXor rd rs1 rs2)
  | .andn rd rs1 rs2 => some (execAndn rd rs1 rs2)
  | .orn rd rs1 rs2 => some (execOrn rd rs1 rs2)
  | .xnor rd rs1 rs2 => some (execXnor rd rs1 rs2)
  | .mul rd rs1 rs2 => some (execMul rd rs1 rs2)
  | .mulh rd rs1 rs2 => some (execMulh rd rs1 rs2)
  | .mulhu rd rs1 rs2 => some (execMulhu rd rs1 rs2)
  | .min rd rs1 rs2 => some (execMin rd rs1 rs2)
  | .max rd rs1 rs2 => some (execMax rd rs1 rs2)
  | .minu rd rs1 rs2 => some (execMinu rd rs1 rs2)
  | .maxu rd rs1 rs2 => some (execMaxu rd rs1 rs2)
  | .mov rd rs1 => some (execMov rd rs1)
  | .sll rd rs1 rs2 => some (execSll rd rs1 rs2)
  | .srl rd rs1 rs2 => some (execSrl rd rs1 rs2)
  | .sra rd rs1 rs2 => some (execSra rd rs1 rs2)
  | .rol rd rs1 rs2 => some (execRol rd rs1 rs2)
  | .ror rd rs1 rs2 => some (execRor rd rs1 rs2)
  | .seq rd rs1 rs2 => some (execSeq rd rs1 rs2)
  | .sne rd rs1 rs2 => some (execSne rd rs1 rs2)
  | .slt rd rs1 rs2 => some (execSlt rd rs1 rs2)
  | .sltu rd rs1 rs2 => some (execSltu rd rs1 rs2)
  | .sle rd rs1 rs2 => some (execSle rd rs1 rs2)
  | .sleu rd rs1 rs2 => some (execSleu rd rs1 rs2)
  | .sel rd rs1 rs2 => some (execSel rd rs1 rs2)
  | .clz rd rs1 => some (execClz rd rs1)
  | .ctz rd rs1 => some (execCtz rd rs1)
  | .popc rd rs1 => some (execPopc rd rs1)
  | .bswap rd rs1 => some (execBswap rd rs1)
  | .lea rd rs1 rs2 shift => some (execLea rd rs1 rs2 shift)
  | .addi rd rs1 imm => some (execAddi rd rs1 imm)
  | .andi rd rs1 imm => some (execAndi rd rs1 imm)
  | .ori rd rs1 imm => some (execOri rd rs1 imm)
  | .xori rd rs1 imm => some (execXori rd rs1 imm)
  | .slti rd rs1 imm => some (execSlti rd rs1 imm)
  | .sltiu rd rs1 imm => some (execSltiu rd rs1 imm)
  | .muli rd rs1 imm => some (execMuli rd rs1 imm)
  | .slli rd rs1 count => some (execSlli rd rs1 count)
  | .srli rd rs1 count => some (execSrli rd rs1 count)
  | .srai rd rs1 count => some (execSrai rd rs1 count)
  | .seqi rd rs1 imm => some (execSeqi rd rs1 imm)
  | .snei rd rs1 imm => some (execSnei rd rs1 imm)
  | .li rd imm => some (execLi rd imm)
  | .lis rd imm => some (execLis rd imm)
  | .beq rs1 rs2 off => some (execBeq rs1 rs2 off)
  | .bne rs1 rs2 off => some (execBne rs1 rs2 off)
  | .blt rs1 rs2 off => some (execBlt rs1 rs2 off)
  | .bge rs1 rs2 off => some (execBge rs1 rs2 off)
  | .bltu rs1 rs2 off => some (execBltu rs1 rs2 off)
  | .bgeu rs1 rs2 off => some (execBgeu rs1 rs2 off)
  | .addiS rd rs imm => some (execAddiS rd rs imm)
  | .liS rd imm => some (execLiS rd imm)
  | .aluS rd rs fn => some (execAluS rd rs fn)
  | .accS rd rs fn => some (execAccS rd rs fn)
  | .slliS rd rs imm => some (execSlliS rd rs imm)
  | .srliS rd rs imm => some (execSrliS rd rs imm)
  | .sraiS rd rs imm => some (execSraiS rd rs imm)
  | .beqS rd rs off => some (execBeqS rd rs off)
  | .bneS rd rs off => some (execBneS rd rs off)
  | _ => none

/-- A load or store of the kernel subset. -/
structure KernelAccess where
  store  : Bool
  signed : Bool
  bytes  : Nat
  rd     : Reg
  base   : Reg
  ea     : MemMode
deriving DecidableEq, Repr

/-- The load or store of majors 0x10 and 0x11, or a 16-bit form of one, that an instruction is (R277). -/
def kernelAccess : Instr → Option KernelAccess
  | .ldB rd base ea => some ⟨false, true, 1, rd, base, ea⟩
  | .ldH rd base ea => some ⟨false, true, 2, rd, base, ea⟩
  | .ldW rd base ea => some ⟨false, true, 4, rd, base, ea⟩
  | .ldD rd base ea => some ⟨false, false, 8, rd, base, ea⟩
  | .ldBu rd base ea => some ⟨false, false, 1, rd, base, ea⟩
  | .ldHu rd base ea => some ⟨false, false, 2, rd, base, ea⟩
  | .ldWu rd base ea => some ⟨false, false, 4, rd, base, ea⟩
  | .stB rd base ea => some ⟨true, false, 1, rd, base, ea⟩
  | .stH rd base ea => some ⟨true, false, 2, rd, base, ea⟩
  | .stW rd base ea => some ⟨true, false, 4, rd, base, ea⟩
  | .stD rd base ea => some ⟨true, false, 8, rd, base, ea⟩
  | .ldS rd rs imm => some ⟨false, false, 8, rd, rs, .disp (imm.setWidth 11)⟩
  | .stS rd rs imm => some ⟨true, false, 8, rd, rs, .disp (imm.setWidth 11)⟩
  | .ldpS rd rs fn1 size => some ⟨false, fn1 == 0#1, 2 ^ size.toNat, rd, rs, .postInc⟩
  | .stpS rd rs size => some ⟨true, false, 2 ^ size.toNat, rd, rs, .postInc⟩
  | _ => none

/-- An EXIT, of either length. -/
def isExit : Instr → Bool
  | .exit | .exitS => true
  | _ => false

/-- The offset in parcels of a branch of the kernel subset. -/
def kernelBranch : Instr → Option Int
  | .beq _ _ off | .bne _ _ off | .blt _ _ off | .bge _ _ off | .bltu _ _ off | .bgeu _ _ off => some off.toInt
  | .beqS _ _ off | .bneS _ _ off => some off.toInt
  | _ => none

/-- The kernel in a store (R277): its instructions through the first EXIT, at most n, each with its byte offset; none where
no EXIT is found or an encoding does not decode. -/
def kernelOf (at_ : Nat) : Nat → List Parcel → Option (List (Nat × Instr))
  | 0, _ => none
  | n + 1, ps =>
    match decodeParcels ps with
    | .error _ => none
    | .ok (i, rest) =>
      if isExit i then some [(at_, i)]
      else
        match kernelOf (at_ + i.length) n rest with
        | some l => some ((at_, i) :: l)
        | none => none

/-- A kernel keeps the subset (R277). -/
def kernelLegal (l : List (Nat × Instr)) : Bool :=
  l.all fun e =>
    match kernelBranch e.2 with
    | some off => decide (0 < off) && l.any fun d => decide ((e.1 : Int) + 2 * off = d.1)
    | none => isExit e.2 || (kernelAlu e.2).isSome || (kernelAccess e.2).isSome

/-! ### The forms (R277, R278, R280) -/

/-- GK.SET (R277). -/
def execGkSet (a : Reg) (s : State) :=
  s.issue (.plain [a] []) fun t => do
    require (t.myCore.gk.mode == .idle) .illegal .engine 0
    let va := t.reg a
    let (ps, h, t1) ← t.checkLocal .load .engine va 128 8
    let v ← t1.localRead .engine ps h va 128
    let parcels := (List.range 64).map fun i => BitVec.ofNat 16 (v / 2 ^ (16 * i))
    match kernelOf 0 32 parcels with
    | some l => do
      require (kernelLegal l) .illegal .engine 0
      .ok (t1.onMyCore fun c => { c with gk := { c.gk with store := parcels } })
    | none => trap .illegal .engine

/-- A range of n bytes lies in the issuing core's TCM, as GK.ARM asks (R278). -/
def ownTcm (s : State) (a : Access) (va : Word) (n al : Nat) : Except Stop (Pages × State) := do
  let (ps, h, t) ← s.checkLocal a .engine va n al
  require (h == .tcm s.cur.core) .illegal .engine va
  .ok (ps, t)

/-- GK.ARM (R278). -/
def execGkArm (xn : XIdx) (rd a : Reg) (s : State) :=
  s.issue { Need.plain [a] [rd] with xs := [xn] } fun t => do
    let x := t.xreg xn
    let watch := (x.extractLsb' 0 56).signExtend 64
    let lines := (x.extractLsb' 56 6).toNat + 1
    let buf := (x.extractLsb' 64 56).signExtend 64
    let bytes := 256 * (x.extractLsb' 120 8).toNat
    let g := t.myCore.gk
    require (g.mode == .idle && !g.store.isEmpty) .illegal .engine 0
    require ((x.extractLsb' 62 2) == 0#2 && bytes != 0) .illegal .engine 0
    require (!(overlaps watch.toNat (watch.toNat + 64 * lines - 1) buf.toNat (buf.toNat + bytes - 1))) .illegal .engine 0
    let (pages, t1) ← ownTcm t .load watch (64 * lines) 64
    let (_, t2) ← ownTcm t1 .store buf bytes 8
    let f := t2.me
    .ok ((t2.onMyCore fun c =>
      { c with
        gk := { Gather.initial with
          mode := .armed, store := g.store, slot := t.cur.slot, gen := f.gen, reg := rd, arg := t.reg a, watch := watch,
          pages := pages, lines := lines, buf := buf, bytes := bytes, tags := c.gk.tags,
          ctx := { Slot.free with sup := f.sup, fw := f.fw, ecls := f.ecls, prio := f.prio, eff := f.prio } } }).setPending
      rd .gather)

/-- GK.STOP (R280). -/
def execGkStop (rd : Reg) (s : State) :=
  s.issue (.plain [] [rd]) fun t =>
    let g := t.myCore.gk
    if g.mode = .idle then .ok (t.setReg rd 0)
    else
      let u := (t.onMyCore fun c =>
        { c with gk := { c.gk with mode := .stopping, stop := c.gk.stop ++ [(t.cur.slot, t.me.gen, rd)] } }).setPending
          rd .gather
      .ok (if g.mode = .faulted ∨ g.ctx.live = false then u.endGather t.cur.core true else u)

/-! ### Runs (R278) -/

namespace State

/-- The gather unit of a core may act: the core acts, and is not dead (R340). -/
def gatherRuns (s : State) (pid : Nat) : Bool := s.acts pid && !s.coreDead pid

end State

/-- A run begun for a line (R278): g0 the line's address, g1 its index, g2 Reg(rs1) of GK.ARM, g3 BUF. -/
def Gather.begin_ (g : Gather) (j : Nat) (ac : Nat) : Gather :=
  { g with
    waits := g.waits.tail
    line := some j
    ctx := { g.rest with
      live := true
      g := #v[g.watch + Word.ofNat (64 * j), Word.ofNat j, g.arg, g.buf, 0, 0, 0, 0]
      readyAt := ac + 1 } }

/-- GATHER_RUN_START (R278, R318): the first triggered line runs the kernel. At spot: the core. -/
def execGatherRunStart (s : State) : Host.Outcome State Fault Refusal :=
  let pid := s.spot.place
  let g := (s.core pid).gk
  match g.waits with
  | j :: _ =>
    if g.mode == .armed && !g.ctx.live && s.gatherRuns pid then
      .next (s.onCore pid fun c => { c with gk := c.gk.begin_ j (s.coreAc pid) })
    else .next s
  | [] => .next s

namespace State

/-- The context of a gather kernel replaced. -/
def setKernel (s : State) (pid : Nat) (f : Slot) : State := s.onCore pid fun c => { c with gk := { c.gk with ctx := f } }

/-- A core as its gather kernel's instructions see it: the kernel's context stands in slot 256. -/
def kernelView (s : State) (pid : Nat) : State :=
  { s.setSlot pid 256 (s.core pid).gk.ctx with cur := { core := pid, slot := 256 } }

/-- A fault that a kernel meets at its instruction (R279). -/
def kernelFault (s : State) (pid : Nat) (code : FaultCode) (va : Word) : State :=
  s.gatherFaulted pid code va (s.kernelOffset pid)

/-- A kernel's context after one instruction: one issues in 8 ac (R278). -/
def kernelAfter (s : State) (pid : Nat) (f : Slot) : State :=
  s.setKernel pid { f with readyAt := s.coreAc pid + 8, hold := none, walked := [] }

/-- The state after a kernel's context in slot 256 of a view has taken one instruction. -/
def kernelTake (s v : State) (pid : Nat) : State := s.kernelAfter pid (v.slot pid 256)

/-- What a stop does to a gather kernel: a trap is a fault of the kernel, a hold leaves the instruction unissued, and a miss
holds the kernel (R279, R320). -/
def kernelStopped (s : State) (pid : Nat) : Stop → State
  | .trap t => s.kernelFault pid t.code t.va
  | .hold _ => s
  | .walk e utlb =>
    (s.onCore pid fun c => { c with utlb := (e :: utlb).take 32 }).setKernel pid
      { (s.core pid).gk.ctx with readyAt := s.coreAc pid + 4, walked := e :: (s.core pid).gk.ctx.walked }
  | .miss pasid va kind =>
    (s.setKernel pid { (s.core pid).gk.ctx with hold := some (.miss pasid (fld va 16 40) va kind) }).sendMiss pid pasid va

/-- A kernel has accessed its core's memory in this ac: its fibres' accesses come before (R278). -/
def kernelAccessed (s : State) (pid : Nat) : State := s.onCore pid fun c => { c with last := some (s.coreAc pid) }

/-- A remote load of a kernel under a tag of its unit (R278): with all eight in use, it waits. -/
def kernelRemote (s v : State) (pid : Nat) (h : Home) (k : KernelAccess) (pa : Nat) (va : Word) (f : Slot) :
    Except Stop State :=
  match freeIndex (s.core pid).gk.tags 8 with
  | none => .error (.hold .tags)
  | some n =>
    let route : Routing :=
      { kind := .access, tc := h.accessClass, ecls := f.ecls, prio := f.prio.val, size := false, dest := h.number,
        task := s.taskOf pid f, src := s.rankOf pid }
    let t := s.onCore pid fun c =>
      { c with gk := { c.gk with
          tags := Tab.put c.gk.tags n { reg := k.rd, va := va, scope := h.scope pid, snap := false, stale := false } } }
    .ok ((t.sendTagged (.gather pid) (.home h) route n
      (Word.ofNat ((if k.signed then 2 ^ 54 else 0) + Nat.log2 k.bytes * 2 ^ 52 + pa)) [0]).kernelTake
        (memUpdate (v.setPending k.rd .load) k.base k.bytes (f.reg k.base) k.ea) pid)

/-- A load or store of a kernel (R278, R279), whose context's PC stands after it in the view v. -/
def kernelMemory (s v : State) (pid : Nat) (k : KernelAccess) : Except Stop State := do
  let f := v.slot pid 256
  let reads := k.base :: memReads k.ea ++ (if k.store then [k.rd] else [])
  waitUnless (f.pendingMask (k.rd :: reads) == 0#8) (.regs 0)
  match reads.find? fun r => f.refused[r].isSome with
  | some r =>
    match f.refused[r] with
    | some c => trapAt c.code .gather (f.reg r)
    | none => .ok ()
  | none => .ok ()
  require (!(!k.store && memIsPost k.ea && k.rd == k.base)) .illegal .gather 0
  let va := memEA v k.base k.bytes k.ea
  let old := f.reg k.base
  let g := (s.core pid).gk
  require (canonical va) .page .gather va
  require (va.toNat % k.bytes == 0) .align .gather va
  require (!k.store || decide (g.buf.toNat ≤ va.toNat) && decide (va.toNat + k.bytes ≤ g.buf.toNat + g.bytes))
    .illegal .gather va
  let (pa, s1) ← s.translate pid f (if k.store then .store else .load) (if k.store then .store else .load) va
  let whole := Memory.value s1.mem pa k.bytes
  match place pa with
  | some (h, .memory) =>
    if k.store then do
      require (h == .tcm pid) .illegal .gather va
      match s1.localFault h .store pa k.bytes with
      | some c => trapAt c .gather va
      | none =>
        .ok ((((s1.writeValue pa k.bytes ((f.reg k.rd).toNat % 256 ^ k.bytes)).trace h true (s1.rankOf pid) 1
          (Nat.log2 k.bytes) pa (f.reg k.rd)).kernelTake (memUpdate v k.base k.bytes old k.ea) pid).kernelAccessed pid)
    else if h.isLocal pid then
      match s1.localFault h .load pa k.bytes with
      | some c => trapAt c .gather va
      | none =>
        .ok ((s1.kernelTake (memUpdate (v.setReg k.rd (extendBytes k.bytes k.signed whole)) k.base k.bytes old k.ea)
          pid).kernelAccessed pid)
    else s1.kernelRemote v pid h k pa va f
  | some (h, _) => if k.store then trapAt .illegal .gather va else s1.kernelRemote v pid h k pa va f
  | none => trapAt .page .gather va

/-- The refused operand at which a kernel instruction traps: a register such that the instruction, with this one refused
alone, freezes. -/
def kernelRefused (v : State) (pid : Nat) (run : State → Host.Outcome State Fault Refusal) : Option Reg :=
  (List.finRange 8).find? fun r =>
    (v.slot pid 256).refused[r].isSome &&
      (match run (v.onSlot pid 256 fun f => { f with refused := (Vector.replicate 8 none).set r f.refused[r] }) with
       | .next t => (t.slot pid 256).frozen
       | _ => false)

/-- A kernel instruction that acts on g registers alone. -/
def kernelCompute (s v : State) (pid : Nat) (run : State → Host.Outcome State Fault Refusal) : State :=
  match run v with
  | .next t =>
    let f := t.slot pid 256
    if f.frozen then
      match kernelRefused v pid run with
      | some r =>
        match (v.slot pid 256).refused[r] with
        | some c => s.kernelFault pid c.code ((v.slot pid 256).reg r)
        | none => s
      | none => s
    else if f.hold.isSome then s
    else s.kernelAfter pid f
  | _ => s

/-- A run that has ended with EXIT (R278, R280, R317): what its loads still bring writes nothing (log 35). -/
def kernelExit (s : State) (pid : Nat) : State :=
  let t := s.onCore pid fun c => { c with gk := { c.gk.abandon with line := none, runs := c.gk.runs + 1 } }
  let g := (t.core pid).gk
  if g.mode = .stopping then t.endGather pid true
  else if g.waits.isEmpty && (List.range g.lines).all g.seen.getLsbD then t.endGather pid false
  else t

/-- The instruction at which a gather kernel stands. -/
def kernelInstr (g : Gather) : Option Instr := ((kernelOf 0 32 g.store).getD []).find? (fun e => e.1 == g.ctx.pc.toNat) |>.map Prod.snd

end State

/-- GATHER_KERNEL_STEP (R278, R279, R280): the kernel issues one instruction, before what R154 puts after it in this ac. At
spot: the core. -/
def execGatherKernelStep (s : State) : Host.Outcome State Fault Refusal :=
  let pid := s.spot.place
  let g := (s.core pid).gk
  if g.ctx.live && g.ctx.hold.isNone && decide (g.ctx.readyAt ≤ s.coreAc pid) && s.gatherRuns pid && !s.tooLate pid then
    match State.kernelInstr g with
    | none => .next s
    | some i =>
      if isExit i then .next (s.kernelExit pid)
      else
        match kernelAccess i with
        | some k =>
          let v := (s.kernelView pid).onSlot pid 256 fun f => { f with pc := f.pc + BitVec.ofNat 56 i.length }
          match s.kernelMemory v pid k with
          | .ok t => .next t
          | .error st => .next (s.kernelStopped pid st)
        | none =>
          match kernelAlu i with
          | some run => .next (s.kernelCompute (s.kernelView pid) pid run)
          | none => .next s
  else .next s

end Sys2Proof.Machine
end

