-- ==== Sys2Proof/Machine/Window.lean ====
section
/-!
DEFINITION. The control windows: what each register reads and what a write of it does (R9, R10, R100, R145, R164, R165, R171,
R174, R176, R181, R253, R254, R261, R264, R266, R323, R340, R343, R345, R347, R348, R350, R354 to R356, R368, R370, R372), and
the starts of the commands that registers give: training tests, flash commands, rim wipes, measurement extensions.
-/

namespace Sys2Proof.Machine

/-! ### Windows -/

/-- STKST of a stack (R354). -/
def stkstAddr (t : Nat) : Nat := 0x7F0000000000 + t * 0x100000000 + 0x200000

/-- The base of the control window of flash stack f (R354). -/
def flashBase (f : Nat) : Nat := 0x7F8000000000 + f * 0x100000000

/-- WEAR(b) of a flash stack (R300). -/
def wearAddr (f b : Nat) : Nat := flashBase f + 0x40000000 + b * 8



/-! ### Training blocks (R347 to R350) -/

namespace State

/-- PSTAT of a channel without BUSY: DONE and ERR. -/
def pstat (s : State) (t c : Nat) : Word := s.ctl (phyBase t c + 0x908) 0

/-- A write that is refused while a test runs sets ERR (R350). -/
def testError (s : State) (t c : Nat) : State := s.setCtl (phyBase t c + 0x908) (s.pstat t c ||| 4)

/-- One tap written to every lane of a set (R348): its first register's offset. -/
def writeAllTaps (s : State) (t c o : Nat) (v : Word) : State :=
  if s.testing t c then s.testError t c
  else (List.range 68).foldl (fun u l => u.setCtl (phyBase t c + o + 8 * l) (v &&& 0x3F#64)) s

/-- A write of PCTL (R348, R350): a LEN of 0 leaves LEN; GO starts a test with the fields as written. -/
def writePctl (s : State) (t c : Nat) (v : Word) : State :=
  if s.testing t c then s.testError t c
  else
    let a := phyBase t c + 0x900
    let w := fields (if fld v 16 8 = 0 then 0x6#64 else 0xFF0006#64) (s.ctl a 0x10000) v
    let s1 := s.setCtl a w
    if flag v 0 then
      (s1.setCtl (phyBase t c + 0x908) (s.pstat t c &&& 4)).onRegion (stackRegion t) fun r =>
        { r with tests := Tab.put r.tests c w }
    else s1

/-- A register of a training block (R347): a channel and an offset. -/
def readPhy (s : State) (t c o : Nat) : Word :=
  let a := phyBase t c + o
  if o < 68 * 8 then s.ctl a 32
  else if 0x400 ≤ o ∧ o < 0x400 + 68 * 8 then s.ctl a 32
  else if o = 0x800 ∨ o = 0x808 then s.ctl a 0
  else if o = 0x900 then s.ctl a 0x10000
  else if o = 0x908 then s.pstat t c ||| (if s.testing t c then 1 else 0)
  else if o = 0x910 ∨ o = 0x918 then s.ctl a 0
  else 0

/-- A write of a register of a training block (R347, R348, R350). -/
def writePhy (s : State) (t c o : Nat) (v : Word) : State :=
  let a := phyBase t c + o
  let set (m : Word) : State := if s.testing t c then s.testError t c else s.setCtl a (v &&& m)
  if o < 68 * 8 then set 0x3F
  else if 0x400 ≤ o ∧ o < 0x400 + 68 * 8 then set 0x3F
  else if o = 0x800 ∨ o = 0x808 then set 0x5F5F
  else if o = 0x900 then s.writePctl t c v
  else if o = 0x908 then (if flag v 2 then s.setCtl a (s.pstat t c &&& ~~~4#64) else s)
  else if o = 0x920 then s.writeAllTaps t c 0 v
  else if o = 0x928 then s.writeAllTaps t c 0x400 v
  else s

/-! ### Flash control (R300, R301, R355) -/

/-- STATE of a flash block. -/
def wearState (s : State) (f b : Nat) : Nat := fld (s.ctl (wearAddr f b) 0) 62 2

/-- The state with STATE of a flash block set. -/
def setWearState (s : State) (f b st : Nat) : State :=
  s.setCtl (wearAddr f b) (fields 0xC000000000000000#64 (s.ctl (wearAddr f b) 0) (Word.ofNat (st * 2 ^ 62)))

/-- A completed erase of a flash block (R301): the one that reaches 4,500 sets STATE to 1, whatever it has become since. -/
def countErase (s : State) (f b : Nat) : State :=
  let n := holdAtTop 32 (fld (s.ctl (wearAddr f b) 0) 0 32)
  let s1 := s.setCtl (wearAddr f b) (fields 0xFFFFFFFF#64 (s.ctl (wearAddr f b) 0) (Word.ofNat n))
  if n = 4500 then s1.setWearState f b 1 else s1

/-- A flash stack's command runs. -/
def flashBusy (s : State) (f : Nat) : Bool := (s.region (flashRegion f)).flash.isSome

/-- FSTAT.RES of a flash stack set. -/
def flashResult (s : State) (f res : Nat) : State := s.setCtl (flashBase f + 0x18) (Word.ofNat (res * 2))

/-- The source of a PROGRAM keeps its limits (R355). -/
def programSourceOk (src : Nat) : Bool :=
  src % 4096 == 0 &&
    (match place src, place (src + 0x1FFFFF) with
     | some (.hbm _ _, .memory), some (.hbm _ _, .memory) => true
     | some (.sram _ _, .memory), some (.sram _ _, .memory) => true
     | _, _ => false)

/-- A write of FCMD (R355): it starts a command, or is refused. -/
def writeFcmd (s : State) (f op : Nat) : State :=
  let b := fld (s.ctl (flashBase f + 0x08) 0) 0 19
  let src := fld (s.ctl (flashBase f + 0x10) 0) 0 48
  let start (program : Bool) : State :=
    (s.flashResult f 0).onRegion (flashRegion f) fun r => { r with flash := some { block := b, program := program, src := src, copied := 0, failed := false } }
  if op ≠ 1 ∧ op ≠ 2 then s
  else if s.flashBusy f || decide (2 ≤ s.wearState f b) then s.flashResult f 1
  else if op = 1 then start false
  else if (s.region (flashRegion f)).programmed.contains b then s.flashResult f 3
  else if programSourceOk src then start true
  else s.flashResult f 1

/-- A register of a flash control window. -/
def readFlash (s : State) (f o : Nat) : Word :=
  if o = 0x08 ∨ o = 0x10 then s.ctl (flashBase f + o) 0
  else if o = 0x18 then s.ctl (flashBase f + o) 0 ||| (if s.flashBusy f then 1 else 0)
  else if 0x40000000 ≤ o ∧ o < 0x40400000 then s.ctl (flashBase f + o) 0
  else 0

/-- A write of a register of a flash control window: a WEAR entry takes a STATE of 2 alone (R300). -/
def writeFlash (s : State) (f o : Nat) (v : Word) : State :=
  if o = 0 then s.writeFcmd f (fld v 0 2)
  else if o = 0x08 then s.setCtl (flashBase f + o) (v &&& 0x7FFFF#64)
  else if o = 0x10 then s.setCtl (flashBase f + o) (v &&& 0xFFFFFFFFFFFF#64)
  else if 0x40000000 ≤ o ∧ o < 0x40400000 then
    (if fld v 62 2 = 2 then s.setWearState f ((o - 0x40000000) / 8) 2 else s)
  else s

/-! ### Rim wipes (R345) -/

/-- The memory of a region's rim stacks holds a range: HBM, or the flash stack of a corner. -/
def rimHolds (r lo n : Nat) : Bool :=
  (match regionStack r with
   | some t => decide (hbmMemory t ≤ lo) && decide (lo + n ≤ hbmMemory t + hbmSize)
   | none => false) ||
  (match regionFlash r with
   | some f => decide (flashMemory f ≤ lo) && decide (lo + n ≤ flashMemory f + 0x10000000000)
   | none => false)

/-- A write of word 2 of RIMWIPE (R345): GO starts a wipe of BASE and LEN. A range that is not one of the stack, or one that is
misaligned, starts nothing, and neither does GO while a wipe runs (log 36). -/
def writeRimwipe (s : State) (r : Nat) (v : Word) : State :=
  let a := controlBase r + 0x300
  let lo := (s.ctl a 0).toNat
  let n := (s.ctl (a + 8) 0).toNat * 2 ^ 21
  if flag v 0 && (s.region r).rimwipe.isNone && lo % 2 ^ 21 == 0 && rimHolds r lo n then
    (s.setCtl (a + 16) (s.ctl (a + 16) 0 &&& ~~~2#64)).onRegion r fun x => { x with rimwipe := some (lo, n) }
  else s

/-- A write of word i of the RIMQ registers (R356). A ring whose word 0 is written is registered anew: it is served from its
next kick on; the slot in hand ends as it began. -/
def writeRimq (s : State) (r i : Nat) (v : Word) : State :=
  let a := controlBase r + 0x3000 + 8 * i
  if i % 2 = 1 then s.setCtl a (v &&& 0xFFFFF#64)
  else
    (s.setCtl a (v &&& 0x8000FFFFFFFFFFFF#64)).onRegion r fun x =>
      { x with
        rings :=
          match Tab.look x.rings (i / 2) with
          | some q => Tab.put x.rings (i / 2) { q with producer := none }
          | none => x.rings }

/-! ### Measurement (R370) -/

/-- The bytes of n registers from an address up. -/
def ctlBytes (s : State) (a n : Nat) : List Byte :=
  (List.range n).flatMap fun j => (List.range 8).map fun i => ((s.ctl (a + 8 * j) 0) >>> (8 * i)).setWidth 8

/-- The state with registers from an address up holding bytes, eight to a register. -/
def setCtlBytes (s : State) (a n : Nat) (b : List Byte) : State :=
  (List.range n).foldl
    (fun u j =>
      u.setCtl (a + 8 * j)
        (Word.ofNat (((List.range 8).map fun i => ((b.drop (8 * j)).getD i 0).toNat * 256 ^ i).sum))) s

/-- MEAS(n) of a region. -/
def meas (s : State) (r n : Nat) : List Byte := s.ctlBytes (controlBase r + 0xA000 + 64 * n) 8

/-- An extension of MEAS(n) by a digest and a slot. -/
def extendMeas (s : State) (r n : Nat) (d : List Byte) (slot : Nat) : State :=
  s.setCtlBytes (controlBase r + 0xA000 + 64 * n) 8 (Config.shake256 64 (s.meas r n ++ d ++ [BitVec.ofNat 8 slot]))

/-- A write of MXCTL: GO extends MEAS(N) with MXDATA and SLOT. -/
def writeMxctl (s : State) (r : Nat) (v : Word) : State :=
  if (s.region r).extending.isSome then s
  else
    let s1 := s.setCtl (controlBase r + 0xA240) (v &&& 0xFF07#64)
    if flag v 16 then
      s1.onRegion r fun x =>
        { x with extending := some (fld v 0 3, s.ctlBytes (controlBase r + 0xA200) 8, fld v 8 8) }
    else s1

end State

/-! ### Range-lock tables, queue banks, task entries (R100, R145, R164) -/

/-- Word i of a range-lock entry (R164). -/
def Lock.word (l : Lock) (i : Nat) : Word :=
  match i with
  | 0 => Word.ofNat l.first
  | 1 => Word.ofNat l.last
  | 2 => Word.ofNat (1 + (if l.full then 2 else 0) + l.eng * 2 ^ 8 + (0x8000 + l.owner) * 2 ^ 16 + l.op % 256 * 2 ^ 32)
  | _ => 0

/-- Word i of a queue bank entry: the record in the first 10 words (R145). -/
def Held.word (h : Held) (i : Nat) : Word := (slotWords h.msg []).getD i 0

/-- A held record with word i replaced. -/
def Held.setWord (h : Held) (i : Nat) (v : Word) : Held :=
  match i with
  | 0 => { h with msg := { h.msg with rw := v } }
  | 1 => { h with msg := { h.msg with sel := v } }
  | n => { h with msg := { h.msg with data := h.msg.data.set (n - 2) v } }

namespace State

/-- The core and the record that entry e of queue bank b holds (R110, R145): a partition's general entries in arrival order
from BASE up, and its reserve after them (log 37). -/
def bankEntry (s : State) (cid b e : Nat) : Option (Nat × Bool × Nat) :=
  [cid * 8 + 2 * b, cid * 8 + 2 * b + 1].findSome? fun pid =>
    let c := s.core pid
    let base := fld c.mbInForce 0 11
    if base ≤ e ∧ e < base + c.part.length then some (pid, false, e - base)
    else if base + c.general ≤ e ∧ e < base + c.general + c.reserve.length then some (pid, true, e - base - c.general)
    else none

/-- A word of a queue bank. -/
def readBank (s : State) (cid o : Nat) : Word :=
  match s.bankEntry cid (o / 0x40000) (o % 0x40000 / 128) with
  | some (pid, res, i) =>
    (((if res then (s.core pid).reserve else (s.core pid).part)[i]?).map fun h => h.word (o % 128 / 8)).getD 0
  | none => 0

/-- A word of a queue bank written; where no record stands, nothing is. -/
def writeBank (s : State) (cid o : Nat) (v : Word) : State :=
  match s.bankEntry cid (o / 0x40000) (o % 0x40000 / 128) with
  | some (pid, res, i) =>
    s.onCore pid fun c =>
      if res then { c with reserve := c.reserve.modify i fun h => h.setWord (o % 128 / 8) v }
      else { c with part := c.part.modify i fun h => h.setWord (o % 128 / 8) v }
  | none => s

/-- A word of a range-lock table. -/
def readLock (s : State) (t : LockTable) (o : Nat) : Word :=
  ((Tab.look (s.lockEntries t) (o / 32)).map fun l => l.word (o % 32 / 8)).getD 0

/-- A supervisor store of 0 to word 2 releases the lock, and no other store has an effect (R164). -/
def writeLock (s : State) (t : LockTable) (o : Nat) (v : Word) : State :=
  if o % 32 = 16 ∧ v = 0 then s.releaseEntry t (o / 32) else s

/-- A word of a task entry (R100). -/
def readEntry (s : State) (cid o : Nat) : Word :=
  if o % 0x100 < 64 then (s.core (cid * 8 + o / 0x100)).entry.toList.getD (o % 0x100 / 8) 0 else 0

/-- A word of a task entry stored (R100). -/
def storeEntry (s : State) (cid o : Nat) (v : Word) : State :=
  if h : o % 0x100 / 8 < 8 then s.writeEntry (cid * 8 + o / 0x100) ⟨o % 0x100 / 8, h⟩ v else s

/-! ### Region control -/

/-- BARCFG as it reads (R171): LDARK of each side whose region is dark. -/
def readBarcfg (s : State) (r : Nat) : Word :=
  s.barcfg r |||
    Word.ofNat (((List.range 4).map fun d =>
      match neighbour r d with
      | some q => if (s.region q).life = .dark then 2 ^ (16 + d) else 0
      | none => 0).sum)

/-- RLC (R343). -/
def readRlc (s : State) (r : Nat) : Word :=
  let x := s.region r
  Word.ofNat (x.wipes % 2 ^ 32 * 2 ^ 32 + x.part * 2 ^ 8 + x.life.num)

/-- SYSDRN of a cluster (R323). -/
def readSysdrn (s : State) (cid : Nat) : Word := if (s.cluster cid).draining then 0 else 2

/-- RIMWIPE (R345): BASE, LEN, and DONE with COUNT. -/
def readRimwipe (s : State) (r i : Nat) : Word := if (regionStack r).isSome then s.ctl (controlBase r + 0x300 + 8 * i) 0 else 0

/-- The index of offset o in n registers of 8 bytes from a base. -/
def regAt (o base n : Nat) : Option Nat := if base ≤ o ∧ o < base + 8 * n then some ((o - base) / 8) else none

/-- A register of region control, by its offset. An offset that no rule assigns reads 0 (log 38). -/
def readRegion (s : State) (r o : Nat) : Word :=
  let a := controlBase r + o
  let rim := (regionStack r).isSome
  if o = 0x10 then s.readRlc r
  else if o = 0x20 then s.ctl a 0
  else if o = 0x100 then s.ctl a 0
  else if o = 0x108 then (if rim then s.ctl a 0 else 0)
  else if let some i := regAt o 0x300 3 then s.readRimwipe r i
  else if o = 0x400 then Word.ofNat (s.clockOp r)
  else if o = 0x408 then s.ckstat r
  else if let some c := regAt o 0x480 36 then s.fwdWord (r * 64 + c)
  else if o = 0x600 then s.readBarcfg r
  else if (regAt o 0x610 4).isSome then s.ctl a 0
  else if let some z := regAt o 0x700 4 then s.zbrk r z
  else if (regAt o 0x740 8).isSome then s.ctl a 0
  else if o = 0x780 then s.readRbctl r
  else if let some c := regAt o 0x800 36 then (if kindOf c = .vector then 0 else (s.tokens (r * 64 + c)).entry)
  else if let some c := regAt o 0xB00 36 then s.fencec (r * 64 + c)
  else if let some c := regAt o 0xC80 36 then s.readSysdrn (r * 64 + c)
  else if (regAt o 0xE00 63).isSome then s.ctl a 0
  else if (regAt o 0x1000 256).isSome then s.readLock (.region r) (o - 0x1000)
  else if (regAt o 0x2000 256).isSome then
    (match regionStack r with
     | some t => s.readLock (.stack t) (o - 0x2000)
     | none => 0)
  else if (regAt o 0x3000 32).isSome then (if rim then s.ctl a 0 else 0)
  else if (regAt o 0x4000 2624).isSome then s.ctl a 0
  else if (regAt o 0xA000 64).isSome then s.ctl a 0
  else if (regAt o 0xA200 8).isSome then s.ctl a 0
  else if o = 0xA240 then s.ctl a 0 ||| (if (s.region r).extending.isSome then 0x20000#64 else 0)
  else 0

/-- The homes that a trace control of region control covers (R165). -/
def regionPorts (r : Nat) (stack : Bool) : List Nat :=
  if stack then
    match regionStack r with
    | some t => (List.range 32).map fun c => (Home.hbm t c).number
    | none => []
  else (List.range 16).map fun k => (Home.sram r k).number

/-- A write of a trace control of region control (R165). -/
def writeRegionTrace (s : State) (r o : Nat) (v : Word) : State :=
  let a := controlBase r + o
  let w := s.traceWritten (s.ctl a 0) v (regionPorts r (o == 0x108))
  w.2.setCtl a w.1

end State

/-- The changes of RLC.STATE that a write of Flatar makes (R344). -/
def rlcAllows (old : Life) (new : Nat) : Bool :=
  match old, new with
  | .free, 3 => true
  | .assigned, 1 | .free, 1 | .quarantined, 1 => true
  | .dark, 4 => false
  | _, 4 => true
  | _, 0 => true
  | _, _ => false

/-! ### Wipes, power and reset of a region (R265, R313, R343, R344) -/

namespace State

/-- The cores of a region as the machine numbers them, its service cores among them. -/
def inRegion (r : Nat) (pid : Nat) : Bool := pid / 512 == r

/-- What the wipe sequencer clears of a cluster: TLB, range locks, instruction cache, units (R313); its clock, its tokens and
the registers of Flatar stay. -/
def wipedCluster (c : Cluster) (cid : Nat) : Cluster :=
  { Cluster.initial (cid % 64) with
    fwd := c.fwd, leaveAt := c.leaveAt, heldAt := c.heldAt, lostAc := c.lostAc, tokens := c.tokens
    tscfg := c.tscfg, trcfg := c.trcfg, errs := c.errs
    mat := { c.mat with core := none }, rot := { c.rot with core := none } }

/-- The core state of a region lost: fibres, entries, contexts; their signals in the barrier networks with them, but not a
release that a root has decided (R172). -/
def dropCores (s : State) (r : Nat) : State :=
  { s with
    cores := s.cores.filter fun e => !inRegion r e.1
    bars := s.bars.filter fun b => !inRegion r b.core || (match b.kind with | .wave _ _ => true | _ => false) }

/-- The wipe sequencer of a region starts (R313): its state is Wiping, and what the sequencer clears is no longer there. -/
def startWipe (s : State) (r : Nat) (w : Option Packet) : State :=
  let s1 := s.dropCores r
  let s2 : State :=
    { s1 with clusters := s1.clusters.map fun (e : Nat × Cluster) => if e.1 / 64 = r then (e.1, wipedCluster e.2 e.1) else e }
  -- No level-paced engine executes any more: tokens above NEXT pass back (R233, R258).
  ((s2.clusters.map Prod.fst).filter fun c => c / 64 == r).foldl (fun u c => u.settleTokens c)
    (s2.onRegion r fun x =>
      { x with life := .wiping, wiper := w, locks := [], slocks := [], rings := [], halted := false })

/-- The memory of a region: its window up to its control (R144). -/
def clearRegionMemory (s : State) (r : Nat) : State :=
  let lo := regionBase r
  let hi := controlBase r
  { s with
    mem := Memory.clear s.mem lo hi
    bad := s.bad.filter fun w => !(decide (lo ≤ 8 * w) && decide (8 * w < hi)) }

/-- Registers of a region's control windows that a reset or a loss of power leaves: COUNT of RIMWIPE, WEAR (R300, R345). -/
def keptRegister (a : Nat) : Bool := decide (a % 0x100000000 / 0x40000000 = 1 ∧ 0x7F8000000000 ≤ a)

/-- A register of a region's control: its own, those of its stack and of its flash stack. -/
def regionRegister (r a : Nat) : Bool :=
  (decide (controlBase r ≤ a) && decide (a < controlBase r + 0x10000)) ||
  (match place a with
   | some (.control q, .phy) => q == r
   | some (.control q, .flashControl) => q == r
   | _ => false)

/-- A region without power, or freshly reset, in a life-cycle state: everything volatile is as after reset; WIPES, COUNT of
RIMWIPE, WEAR and which flash blocks stand programmed are kept, and cr.time restarts (R67, R300, R343, R345). What stood in its
routers is gone, and what is bound for it waits at its links once they are reported dark (R265, R267). -/
def resetRegion (s : State) (r : Nat) (life : Life) : State :=
  let s1 := ((s.darkenBars r).dropCores r).clearRegionMemory r
  let count := s.ctl (controlBase r + 0x310) 0 &&& 0xFFFFFFFF00000000#64
  let x := s.region r
  let s2 : State :=
    { s1 with
      net := s1.net.filter fun p => p.here / 64 != r
      clusters := s1.clusters.filter fun e => e.1 / 64 != r
      regs := s1.regs.filter fun e => keptRegister e.1 || !regionRegister r e.1 }
  ((s2.setRegion r
    { Region.initial with
      life := life, wipes := x.wipes, programmed := x.programmed, time0 := 0 - Word.ofNat s.rc, segment := (s1.region r).segment
      clock := { Region.initial.clock with since := s.now, failed := life == .dark } }).setCtl (controlBase r + 0x310) count).markAll

/-- The REPLY to the WIPE that a region's wipe was started by (R311, R313): a status of R79, and RES of the status word. -/
def answerWiper (s : State) (r status res : Nat) : State :=
  match (s.region r).wiper with
  | none => s
  | some p =>
    let t := s.onRegion r fun x => { x with wiper := none }
    match p.load with
    | .msg m _ =>
      t.reply p.dst (s.replyPort p m) m status
        (Word.ofNat ((if res = 0 then (s.region r).wipes % 2 ^ 32 * 2 ^ 32 else 0) + 2 ^ 31 + res))
    | _ => t

/-- A write of RLC (R343, R344). A write of the state that stands changes PART alone. A WIPE in progress is answered: with
HOME_FENCED where the region goes dark, with RES 1 where it is quarantined (log 39). -/
def writeRlc (s : State) (r : Nat) (v : Word) : State :=
  let x := s.region r
  if x.life = .dark then s
  else
    let s1 := s.onRegion r fun y => { y with part := fld v 8 12 }
    let n := fld v 0 3
    if n = x.life.num then s1
    else if !rlcAllows x.life n then s1.refuseClock r
    else
      match n with
      | 0 => (s1.answerWiper r 1 0).resetRegion r .dark
      | 1 => s1.startWipe r none
      | 3 => s1.onRegion r fun y => { y with life := .assigned }
      | _ => (s1.answerWiper r 0 1).onRegion r fun y => { y with life := .quarantined }

/-- A write of ECNT (R372): what has been counted in its bank in this ac is counted after the write. -/
def writeEcnt (s : State) (r b : Nat) (v : Word) : State :=
  let x := (s.region r).counted
  let now := if x.1 = s.regionAc r then x.2.filter fun e => e.1 == b else []
  s.setCtl (controlBase r + 0x4000 + 8 * b) (now.foldl (fun w e => errorCounted w e.2) v)

/-- A write of a register of region control, by its offset. An offset that no rule assigns ignores it (log 38). -/
def writeRegion (s : State) (r o : Nat) (v : Word) : State :=
  let a := controlBase r + o
  let rim := (regionStack r).isSome
  if o = 0x10 then s.writeRlc r v
  else if o = 0x100 then s.writeRegionTrace r o v
  else if o = 0x108 then (if rim then s.writeRegionTrace r o v else s)
  else if let some i := regAt o 0x300 3 then
    (if !rim then s else if i = 2 then s.writeRimwipe r v else s.setCtl a v)
  else if o = 0x400 then s.writeCkctl r v
  else if o = 0x408 then s.writeCkstat r v
  else if let some c := regAt o 0x480 36 then s.writeFwd (r * 64 + c) v
  else if o = 0x600 then s.writeBarcfg r v
  else if (regAt o 0x610 4).isSome then s.setCtl a (v &&& 0xFFFFFFFF#64)
  else if let some z := regAt o 0x700 4 then s.writeZbrk r z v
  else if (regAt o 0x740 8).isSome then s.setCtl a (v &&& 0xFFFFFFFF#64)
  else if o = 0x780 then s.writeRbctl r v
  else if let some c := regAt o 0x800 36 then (if kindOf c = .vector then s else s.writeTkent (r * 64 + c) v)
  else if let some c := regAt o 0xB00 36 then s.writeFencec (r * 64 + c) v
  else if let some c := regAt o 0xC80 36 then (if flag v 0 then s.snap (r * 64 + c) else s)
  else if let some q := regAt o 0xE00 63 then s.writeTurn r q v
  else if (regAt o 0x1000 256).isSome then s.writeLock (.region r) (o - 0x1000) v
  else if (regAt o 0x2000 256).isSome then
    (match regionStack r with
     | some t => s.writeLock (.stack t) (o - 0x2000) v
     | none => s)
  else if let some i := regAt o 0x3000 32 then (if rim then s.writeRimq r i v else s)
  else if let some b := regAt o 0x4000 2624 then s.writeEcnt r b v
  else if (regAt o 0xA200 8).isSome then (if (s.region r).extending.isSome then s else s.setCtl a v)
  else if o = 0xA240 then s.writeMxctl r v
  else s

/-! ### Any register -/

/-- The 8-byte word of a control space at an aligned physical address (R145, R347, R354). -/
def controlRead (s : State) (pa : Nat) : Word :=
  let o := pa % 0x2000000
  let cid := pa / 0x100000000 * 64 + pa % 0x100000000 / 0x2000000
  match place pa with
  | some (_, .queueBank) => s.readBank cid (o - 0x1800000)
  | some (_, .lockEntries) => s.readLock (.cluster cid) (o - 0x1900000)
  | some (_, .taskEntries) => s.readEntry cid (o - 0x1901000)
  | some (.control r, .regionControl) => s.readRegion r (pa - controlBase r)
  | some (_, .phy) =>
    let t := (pa - 0x7F0000000000) / 0x100000000
    let i := pa % 0x100000000
    if i < 0x200000 then s.readPhy t (i / 0x10000) (i % 0x10000)
    else if i = 0x200000 then s.ctl (stkstAddr t) 0
    else 0
  | some (_, .flashControl) => s.readFlash ((pa - 0x7F8000000000) / 0x100000000) (pa % 0x100000000)
  | _ => 0

/-- The 8-byte word of a control space at an aligned physical address written. -/
def controlWrite (s : State) (pa : Nat) (v : Word) : State :=
  let o := pa % 0x2000000
  let cid := pa / 0x100000000 * 64 + pa % 0x100000000 / 0x2000000
  match place pa with
  | some (_, .queueBank) => s.writeBank cid (o - 0x1800000) v
  | some (_, .lockEntries) => s.writeLock (.cluster cid) (o - 0x1900000) v
  | some (_, .taskEntries) => s.storeEntry cid (o - 0x1901000) v
  | some (.control r, .regionControl) => s.writeRegion r (pa - controlBase r) v
  | some (_, .phy) =>
    let t := (pa - 0x7F0000000000) / 0x100000000
    let i := pa % 0x100000000
    if i < 0x200000 then s.writePhy t (i / 0x10000) (i % 0x10000) v
    else if i = 0x200000 then
      s.setCtl (stkstAddr t) (fields 0xFFFFFFFF#64 (s.ctl (stkstAddr t) 0) v)
    else s
  | some (_, .flashControl) => s.writeFlash ((pa - 0x7F8000000000) / 0x100000000) (pa % 0x100000000) v
  | _ => s

end State

/-- REGISTER_WRITE (R9, R10): a store to a register of a control space sets its writable fields, with what its page makes of it.
At spot: the address and the value. -/
def execRegisterWrite (s : State) : Host.Outcome State Fault Refusal :=
  .next (if s.spot.place % 8 = 0 then s.controlWrite s.spot.place s.spot.v0 else s)

end Sys2Proof.Machine
end

