-- ==== Sys2Proof/Machine/Region.lean ====
section
/-!
DEFINITION. The life of a region: power, reset, wipes (R265, R313, R343, R344), boot (R367 to R370), and the SUPERVISOR words
that reach it (R338).
-/

namespace Sys2Proof.Machine

/-! ### Life cycle -/

/-- RLC_STATE_WRITE (R344). At spot: the region and the value of RLC. -/
def execRlcStateWrite (s : State) : Host.Outcome State Fault Refusal := .next (s.writeRlc s.spot.place s.spot.v0)

/-- REGION_RESET_RELEASE (R344): a dark region, its regulator group good, comes out of reset and is wiped. At spot: the
region. -/
def execRegionResetRelease (s : State) : Host.Outcome State Fault Refusal :=
  .next (if (s.region s.spot.place).life = .dark then s.resetRegion s.spot.place .wiping else s)

/-- REGULATOR_FAILURE (R265, R172): a region goes dark at once, and loses everything volatile. At spot: the region. -/
def execRegulatorFailure (s : State) : Host.Outcome State Fault Refusal :=
  let r := s.spot.place
  .next (if (s.region r).life = .dark then s else (s.answerWiper r 1 0).resetRegion r .dark)

namespace State

/-- What power-off leaves of memory (R143, R353): flash and host memory. -/
def keptMemory (a : Nat) : Bool := decide (0x200000000000 ≤ a) && decide (a < 0x600000000000)

/-- The module after its reset is released (R367): as after reset, but for what is kept without power: the fuses, WIPES,
WEAR and RIMWIPE's COUNT, flash, and what stands on the companion's side. Time goes on, and cr.time restarts (R67). -/
def powerCycle (s : State) : State :=
  { State.reset with
    plan := s.plan, cur := s.cur, spot := s.spot, fresh := s.fresh, seq := s.seq, now := s.now
    mem := s.mem.filter fun c => keptMemory c.1
    bad := s.bad.filter fun w => keptMemory (8 * w)
    regs :=
      (List.range 63).foldl
        (fun t r =>
          let a := controlBase r + 0x310
          match Tab.look s.regs a with
          | some w => Tab.put t a (w &&& 0xFFFFFFFF00000000#64)
          | none => t) (s.regs.filter fun e => keptRegister e.1)
    regions := (List.range 63).map fun r =>
      (r, { Region.initial with
              wipes := (s.region r).wipes, programmed := (s.region r).programmed
              time0 := 0 - Word.ofNat s.rc, clock := { Region.initial.clock with since := s.now } })
    fuses := s.fuses
    host :=
      { Companion.initial with
        retrains := s.host.retrains, interval := s.host.interval, recordedAt := s.host.recordedAt
        records := s.host.records, written := s.host.written, bundle := s.host.bundle, crossed := s.host.crossed
        returned := s.host.returned, pushed := s.host.pushed } }

end State

/-- MODULE_RESET_RELEASE (R367): the companion applies power and releases the module's reset; every region is Wiping. -/
def execModuleResetRelease (s : State) : Host.Outcome State Fault Refusal := .next s.powerCycle

/-- WIPE_START (R313, R344): a WIPE word reaches service core 0 of its region, whose state permits a wipe: the sequencer starts,
and the word waits for its end. At spot: the packet's place in flight. -/
def execWipeStart (s : State) : Host.Outcome State Fault Refusal :=
  match s.front s.spot.place with
  | some p =>
    match p.load, p.dst with
    | .msg m tagged, .core pid =>
      let t := s.taken s.spot.place
      let r := pid / 512
      if !isService pid || m.event ≠ 1 then .next s
      else if s.portRefuses p.src pid true then .next (t.answer p m tagged 1)
      else if rlcAllows (s.region r).life 1 then .next (t.startWipe r (if tagged then some p else none))
      else .next (if tagged then t.reply p.dst (s.replyPort p m) m 0 (Word.ofNat (2 ^ 31 + 1)) else t)
    | _, _ => .next s
  | none => .next s

/-! ### Verification of images (R368 to R370) -/

/-- The bytes of an image's header, public key and signature (R368). -/
def headerBytes : Nat := 64
/-- The bytes of an ML-DSA-65 public key. -/
def keyBytes : Nat := 1952
/-- The bytes of an ML-DSA-65 signature. -/
def signatureBytes : Nat := 3309

/-- An image as its bytes spell it (R368): kind, key slot, key, the bytes that are digested, and the signature. -/
structure Image where
  kind      : Nat
  slot      : Nat
  key       : List Byte
  digested  : List Byte
  signature : List Byte
  size      : Nat
deriving DecidableEq, Repr

/-- The image at the head of a list of bytes; none where the bytes end within it. -/
def imageOf (b : List Byte) : Option Image :=
  let len := bytesValue ((b.drop 4).take 4)
  let size := headerBytes + keyBytes + len + signatureBytes
  if b.length < size then none
  else
    some
      { kind := bytesValue (b.take 2), slot := bytesValue ((b.drop 2).take 1)
        key := (b.drop headerBytes).take keyBytes
        digested := b.take headerBytes ++ (b.drop (headerBytes + keyBytes)).take len
        signature := (b.drop (headerBytes + keyBytes + len)).take signatureBytes, size := size }

/-- The digest D of an image (R368). -/
def Image.digest (i : Image) : List Byte := Config.shake256 64 i.digested

/-- A key slot is usable (R369). -/
def Fuses.usable (f : Fuses) (n : Nat) : Bool :=
  match f.slots.toList[n]? with
  | some k => k.state == 1 && (!f.owned || decide (2 ≤ n))
  | none => false

/-- BOOTSTAT.CODE of an image of an expected kind (R368): 1 where every check holds. -/
def imageCode (f : Fuses) (kind : Nat) (i : Image) : Nat :=
  if i.kind ≠ kind ∨ 6 ≤ i.slot then 2
  else if Config.shake256 32 i.key ≠ (f.slots.toList[i.slot]?.map KeySlot.hash).getD [] then 3
  else if !f.usable i.slot then 4
  else if !Config.mldsaVerify i.key i.digest i.signature then 5
  else 1

namespace State

/-- BOOTSTAT of a region set (R368): KIND is its 8 bits. -/
def setBootstat (s : State) (r kind code : Nat) : State := s.setCtl (controlBase r + 0x20) (Word.ofNat (kind % 256 * 2 ^ 8 + code))

/-- BOOTSTAT.CODE of a region. -/
def bootCode (s : State) (r : Nat) : Nat := fld (s.ctl (controlBase r + 0x20) 0) 0 8

/-- A region's ROM stops (R368): BOOTSTAT is written and both service cores halt. -/
def haltBoot (s : State) (r kind code : Nat) : State :=
  (s.setBootstat r kind code).onRegion r fun x => { x with halted := true }

/-- A region's ROM measures an image that it has verified (R370). A ROM that runs again after a wipe, which clears no MEAS register,
does not extend for the image that it has measured already: regions booted from one bundle report the same MEAS (log 44). -/
def measure (s : State) (r : Nat) (i : Image) : State :=
  if Tab.look (s.region r).measured i.kind = some (i.digest, i.slot) then s
  else
    (s.extendMeas r (i.kind % 8) i.digest i.slot).onRegion r fun x =>
      { x with measured := Tab.put x.measured i.kind (i.digest, i.slot) }

/-- A region's ROM verifies and measures one image (R368, R370): the bytes after it; none where it has stopped. -/
def bootImage (s : State) (r kind : Nat) (b : List Byte) : Option (List Byte) × State :=
  match imageOf b with
  | none => (none, s.haltBoot r kind 2)
  | some i =>
    let c := imageCode s.fuses kind i
    if c ≠ 1 then (none, s.haltBoot r i.kind c)
    else (some (b.drop i.size), (s.setBootstat r i.kind 1).measure r i)

/-- A region's ROM verifies the loader and Flatar of a bundle (R367, R368). What they then run is software. -/
def bootFrom (s : State) (r : Nat) (b : List Byte) : State :=
  match s.bootImage r 1 b with
  | (none, t) => t
  | (some rest, t) => (t.bootImage r 2 rest).2

/-- The first byte of a region's SRAM, where its ROM puts the bundle (log 40). -/
def bundleBase (r : Nat) : Nat := regionBase r + 0xC0000000

/-- The boot region (R367): the lowest-numbered Free region whose service core 0 is live. -/
def bootRegion (s : State) : Option Nat :=
  (List.range 63).find? fun r => (s.region r).life == .free && !s.coreDead (512 * r + 504)

/-- The word by which the boot region tells a region where the bundle stands (R367; its EVENT is not given, log 40). -/
def tellBundle (s : State) (b r : Nat) : State :=
  s.tellFlatar (.core (512 * b + 504)) (serviceRank b) r (Word.ofNat (bundleBase b)) 0

/-- The region that has verified its images and tells the others of the bundle (R367). -/
def verified (s : State) : Option Nat :=
  (List.range 63).find? fun b => s.bootCode b == 1 && (s.region b).life != .dark && (s.region b).life != .wiping

/-- The bundle can be fetched (R367, R368): it is there, and the region's SRAM holds it. -/
def bundleOk (s : State) : Bool := !s.host.bundle.isEmpty && decide (s.host.bundle.length ≤ 0x4000000)

/-- A region that has become Free starts its ROM (R367): the boot region fetches the bundle, verifies it, and tells the regions
that wait; another region is told by the boot region that has verified. -/
def startRom (s : State) (r : Nat) : State :=
  if s.coreDead (512 * r + 504) then s
  else if s.bootRegion = some r then
    if !s.bundleOk then s.haltBoot r 0 6
    else
      let t := (s.writeBytes (bundleBase r) s.host.bundle).bootFrom r s.host.bundle
      if t.bootCode r = 1 then
        (List.range 63).foldl
          (fun u q => if q ≠ r ∧ (u.region q).life = .free ∧ u.bootCode q = 0 then u.tellBundle r q else u) t
      else t
  else
    match s.verified with
    | some b => s.tellBundle b r
    | none => s

end State

/-- WIPE_DONE (R313, R344, R367): the wipe ends: memory is cleared, WIPES rises, the region is Free, the WIPE is answered, and the
ROM starts. The clock generator has locked by then, if no change of its point is in progress: the spec gives no moment at which it
first locks after reset (log 76). At spot: the region. -/
def execWipeDone (s : State) : Host.Outcome State Fault Refusal :=
  let r := s.spot.place
  if (s.region r).life = .wiping then
    let t := (s.clearRegionMemory r).onRegion r fun x =>
      { x with life := .free, wipes := x.wipes + 1,
               clock := { x.clock with lock := x.clock.goal.isNone && !x.clock.failed } }
    .next (((t.answerWiper r 0 0).setBootstat r 0 0).startRom r)
  else .next s

/-! ### SUPERVISOR words (R338) -/

namespace State

/-- A region's ROM told where the bundle stands (R367): it verifies it where it waits for that. -/
def takeBundle (s : State) (r a : Nat) : State :=
  if s.bootCode r ≠ 0 ∨ (s.region r).life ≠ .free then s
  else
    match place a with
    | some (.sram q _, .memory) =>
      if s.homeDark (.sram q 0) then s.haltBoot r 0 6
      else s.bootFrom r (Memory.bytes s.mem a (bundleBase q + 0x4000000 - a))
    | _ => s.haltBoot r 0 6

/-- A SUPERVISOR word at a core whose event no other step takes: the bundle's address at a ROM, a report to Flatar, or a word
that the core discards and counts (R338). -/
def takeSupervisor (s : State) (pid : Nat) (m : Msg) : State :=
  let e := m.event
  if isService pid && e == 0 then s.takeBundle (pid / 512) (fld m.sel 0 48)
  else if isService pid && decide (5 ≤ e) && decide (e ≤ 8) then s
  else s.onCore pid fun c => { c with errs := c.errs + 1 }

end State

/-- The events of R338 that another step takes: WIPE at a service core, MISS and NOMAP at a cluster's core. -/
def otherEvent (pid e : Nat) : Bool := if isService pid then e == 1 else e == 3 || e == 4

/-- SUPERVISOR_WORD_ARRIVAL (R338, R367): a SUPERVISOR word reaches a core; a cluster discards and counts what is no ICFLUSH. At
spot: the packet's place in flight. -/
def execSupervisorWordArrival (s : State) : Host.Outcome State Fault Refusal :=
  match s.front s.spot.place with
  | some p =>
    match p.load, p.dst with
    | .msg m tagged, .core pid =>
      let t := s.taken s.spot.place
      if m.kind ≠ MsgKind.supervisor.num ∨ otherEvent pid m.event = true then .next s
      else if s.portRefuses p.src pid true then .next (t.answer p m tagged 1)
      else if !s.portRuns pid then .next s
      else .next ((t.takeSupervisor pid m).answer p m tagged 0)
    | .msg m _, .cluster cid =>
      if m.kind ≠ MsgKind.supervisor.num ∨ m.event = 2 then .next s
      else .next ((s.taken s.spot.place).countError cid)
    | _, _ => .next s
  | none => .next s

end Sys2Proof.Machine
end

