-- ==== Sys2Proof/Machine/Rim.lean ====
section
/-!
DEFINITION. The rim: training tests (R347 to R350), flash commands (R300, R301, R355), STKST (R354), rim wipes (R345), rim pushes
(R356 to R358), measurement extensions (R370), and Bondlink's retrains (R359).
-/

namespace Sys2Proof.Machine

/-! ### Training (R348 to R350) -/

/-- A stack and a channel of it. -/
def isChannel (t c : Nat) : Bool := decide (t < 28) && decide (c < 32)

/-- RDALL_WRITE (R348). At spot: the stack, the channel and the value. -/
def execRdallWrite (s : State) : Host.Outcome State Fault Refusal :=
  .next (if isChannel s.spot.place s.spot.item then s.writeAllTaps s.spot.place s.spot.item 0 s.spot.v0 else s)

/-- WDALL_WRITE (R348). At spot: the stack, the channel and the value. -/
def execWdallWrite (s : State) : Host.Outcome State Fault Refusal :=
  .next (if isChannel s.spot.place s.spot.item then s.writeAllTaps s.spot.place s.spot.item 0x400 s.spot.v0 else s)

/-- PRBS_TEST_GO (R350): a write of PCTL with GO. At spot: the stack, the channel and the value. -/
def execPrbsTestGo (s : State) : Host.Outcome State Fault Refusal :=
  .next
    (if isChannel s.spot.place s.spot.item && flag s.spot.v0 0 then s.writePctl s.spot.place s.spot.item s.spot.v0 else s)

namespace State

/-- A lane of a test that has ended failed (R348, R349): a physical lane, or in a LOGIC test the lane that carries the logical
one. A read test depends on the read delays alone. -/
def laneFails (s : State) (t c : Nat) (pctl : Word) (l : Nat) : Bool :=
  let p := if flag pctl 2 then s.carrier t c l else l
  !(s.laneReads t c p && (!flag pctl 1 || s.laneWrites t c p))

/-- The lanes of a test that failed, from lane l on, n of them, as bits. -/
def failMask (s : State) (t c : Nat) (pctl : Word) (l n : Nat) : Word :=
  Word.ofNat (((List.range n).map fun i => if s.laneFails t c pctl (l + i) then 2 ^ i else 0).sum)

end State

/-- PRBS_TEST_END (R349): PFAIL0 and PFAIL1 are written, BUSY clears and DONE is set. At spot: the stack and the channel. -/
def execPrbsTestEnd (s : State) : Host.Outcome State Fault Refusal :=
  let t := s.spot.place
  let c := s.spot.item
  let a := phyBase t c
  match Tab.look (s.region (stackRegion t)).tests c with
  | some w =>
    if isChannel t c then
      .next (((((s.setCtl (a + 0x910) (s.failMask t c w 0 64)).setCtl (a + 0x918)
        (if flag w 2 then 0 else s.failMask t c w 64 4)).setCtl
        (a + 0x908) (s.pstat t c ||| 2)).onRegion (stackRegion t) fun r => { r with tests := Tab.remove r.tests c }))
    else .next s
  | none => .next s

/-- STKST_TEMP_UPDATE (R354): the stack's sensor gives its temperature. At spot: the stack and the temperature. -/
def execStkstTempUpdate (s : State) : Host.Outcome State Fault Refusal :=
  let a := stkstAddr s.spot.place
  .next
    (if s.spot.place < 28 then
      s.setCtl a (fields 0xFF0000000000#64 (s.ctl a 0) (Word.ofNat (fld s.spot.v0 0 8 * 2 ^ 40)))
    else s)

/-! ### Flash (R300, R301, R355) -/

/-- FLASH_ERASE (R355): a write of FCMD with ERASE. At spot: the stack and the value. -/
def execFlashErase (s : State) : Host.Outcome State Fault Refusal :=
  .next (if s.spot.place < 4 ∧ fld s.spot.v0 0 2 = 1 then s.writeFcmd s.spot.place 1 else s)

/-- FLASH_PROGRAM (R355): a write of FCMD with PROGRAM. At spot: the stack and the value. -/
def execFlashProgram (s : State) : Host.Outcome State Fault Refusal :=
  .next (if s.spot.place < 4 ∧ fld s.spot.v0 0 2 = 2 then s.writeFcmd s.spot.place 2 else s)

/-- The first byte of block b of a flash stack. -/
def blockBase (f b : Nat) : Nat := flashMemory f + b * blockBytes

namespace State

/-- The blocks programmed since their last erase changed. -/
def onProgrammed (s : State) (f : Nat) (g : List Nat → List Nat) : State :=
  s.onRegion (flashRegion f) fun r => { r with programmed := g r.programmed }

/-- The bytes from lo below hi as after a clear, their words good. -/
def clearRange (s : State) (lo hi : Nat) : State :=
  { s with
    mem := Memory.clear s.mem lo hi
    bad := s.bad.filter fun w => !(decide (lo ≤ 8 * w) && decide (8 * w < hi)) }

/-- A block erased (R301, R355): every byte is 0xFF, and the erase counts. -/
def eraseBlock (s : State) (f b : Nat) : State :=
  ((s.clearRange (blockBase f b) (blockBase f b + blockBytes)).countErase f b).onProgrammed f fun l => l.filter fun x => x != b

/-- The next beat of a PROGRAM (R154, R355): 256 bytes, read where the source's home performs and its channel is free. A home
that is dark, or an uncorrected word, fails the command (log 20). -/
def flashBeat (s : State) (f : Nat) : State :=
  match (s.region (flashRegion f)).flash with
  | some c =>
    let pa := c.src + c.copied
    match place pa with
    | some (h, _) =>
      if !c.program || c.failed || decide (blockBytes ≤ c.copied) then s
      else if s.homeDark h || s.eccBad pa 256 then
        s.onRegion (flashRegion f) fun r => { r with flash := some { c with failed := true } }
      else if !s.homeRuns h || s.rimBusy pa then s
      else
        let b := s.passedBytes (s.readsWell h) (Memory.bytes s.mem pa 256)
        ((b.2.writeBytes (blockBase f c.block + c.copied) b.1).performed h true).onRegion (flashRegion f) fun r =>
          { r with flash := some { c with copied := c.copied + 256 } }
    | none => s
  | none => s

/-- A block after a failed command (R301, R355): its contents are free values (log 20), and STATE is 3. -/
def failBlock (s : State) (f b : Nat) : State :=
  ((s.writeBytes (blockBase f b) ((List.range blockBytes).map fun i => Config.freeByte s.fresh i)).tickFree).setWearState f b 3

end State

/-- FLASH_COMMAND_END (R300, R301, R355): the command that runs ends, well or not. At spot: the stack, and 1 where it has succeeded,
0 where it has failed; a PROGRAM succeeds when all is copied. -/
def execFlashCommandEnd (s : State) : Host.Outcome State Fault Refusal :=
  let f := s.spot.place
  match (s.region (flashRegion f)).flash with
  | some c =>
    if 4 ≤ f then .next s
    else
      let t := s.onRegion (flashRegion f) fun r => { r with flash := none }
      if s.spot.item = 0 ∨ c.failed = true then .next ((t.failBlock f c.block).flashResult f 2)
      else if !c.program then .next ((t.eraseBlock f c.block).flashResult f 0)
      else if c.copied < blockBytes then .next s
      else .next ((t.onProgrammed f fun l => c.block :: l.filter fun x => x != c.block).flashResult f 0)
  | none => .next s

/-- WEAR_RETIRE (R300): a write of WEAR with STATE 2. At spot: the stack, the block and the value. -/
def execWearRetire (s : State) : Host.Outcome State Fault Refusal :=
  .next
    (if s.spot.place < 4 ∧ s.spot.item < 2 ^ 19 ∧ fld s.spot.v0 62 2 = 2 then s.setWearState s.spot.place s.spot.item 2 else s)

/-! ### Rim wipes (R345) -/

/-- RIMWIPE_GO (R345): a write of GO. At spot: the region and the value. -/
def execRimwipeGo (s : State) : Host.Outcome State Fault Refusal :=
  .next
    (if (regionStack s.spot.place).isSome && flag s.spot.v0 0 then s.writeRimwipe s.spot.place s.spot.v0 else s)

namespace State

/-- A wiped range (R345): HBM is zero; flash blocks are erased, but for those in STATE 2 or 3; which erases fail is free
(R301, log 20). -/
def wipeRange (s : State) (r lo n : Nat) : State :=
  match regionFlash r with
  | some f =>
    if flashMemory f ≤ lo then
      (List.range (n / blockBytes)).foldl
        (fun u i =>
          let b := (lo - flashMemory f) / blockBytes + i
          if 2 ≤ u.wearState f b then u else if Config.eraseFails s.fresh b then u.failBlock f b else u.eraseBlock f b)
        s.tickFree
    else s.clearRange lo (lo + n)
  | none => s.clearRange lo (lo + n)

end State

/-- RIMWIPE_DONE (R345): the wipe ends, DONE is set and COUNT rises. At spot: the region. -/
def execRimwipeDone (s : State) : Host.Outcome State Fault Refusal :=
  let r := s.spot.place
  let a := controlBase r + 0x310
  match (s.region r).rimwipe with
  | some (lo, n) =>
    let t := (s.wipeRange r lo n).onRegion r fun x => { x with rimwipe := none }
    .next (t.setCtl a (Word.ofNat ((fld (s.ctl a 0) 32 32 + 1) % 2 ^ 32 * 2 ^ 32 + 2)))
  | none => .next s

/-! ### Measurement (R370) -/

/-- MXCTL_GO (R370): a write of GO. At spot: the region and the value. -/
def execMxctlGo (s : State) : Host.Outcome State Fault Refusal :=
  .next (if flag s.spot.v0 16 then s.writeMxctl s.spot.place s.spot.v0 else s)

/-- MEAS_EXTEND_DONE (R370): MEAS(N) takes its new value, and BUSY clears. At spot: the region. -/
def execMeasExtendDone (s : State) : Host.Outcome State Fault Refusal :=
  let r := s.spot.place
  match (s.region r).extending with
  | some (n, d, slot) => .next ((s.extendMeas r n d slot).onRegion r fun x => { x with extending := none })
  | none => .next s

/-! ### Bondlink (R359) -/

/-- BONDLINK_RETRAIN (R359): a port holds its traffic, and Flatar counts. At spot: the port. -/
def execBondlinkRetrain (s : State) : Host.Outcome State Fault Refusal :=
  let p := s.spot.place
  if p < 4 ∧ s.host.retraining.contains p = false then
    .next
      { s with
        host :=
          { s.host with
            retraining := p :: s.host.retraining
            retrains := Tab.put s.host.retrains p (Tab.read s.host.retrains 0 p + 1) } }
  else .next s

/-- BONDLINK_RETRAIN_END (R359): the port releases what it held. At spot: the port. -/
def execBondlinkRetrainEnd (s : State) : Host.Outcome State Fault Refusal :=
  .next { s with host := { s.host with retraining := s.host.retraining.filter fun p => p != s.spot.place } }

/-! ### Rim pushes (R356 to R358) -/

namespace State

/-- Ring i of a rim region, where it is registered and its header can be used: k lies within the limits of R115. -/
def requestRing (s : State) (r i : Nat) : Option Request :=
  let w := s.ctl (controlBase r + 0x3000 + 16 * i) 0
  let h := fld w 0 48
  let k := (s.word (h + 8)).toNat
  if (regionStack r).isSome && flag w 63 && decide (i < 16) && decide (4 ≤ k) && decide (k ≤ 20) then
    some
      { header := h, base := (s.word h).toNat, k := k, producer := s.word (h + 16), consumer := s.word (h + 24)
        pasid := fld (s.ctl (controlBase r + 0x3008 + 16 * i) 0) 0 20 }
  else none

/-- A kick of ring i (R358): the producer index that stands there is taken, unless it moves backward or passes the ring. -/
def kickRing (s : State) (r i : Nat) : State :=
  match s.requestRing r i with
  | none => s
  | some q =>
    let old : Word :=
      match Tab.look (s.region r).rings i with
      | some x => (x.producer.map Word.ofNat).getD q.consumer
      | none => q.consumer
    let d := (q.producer - q.consumer).toNat
    if 2 ^ q.k < d ∨ d < (old - q.consumer).toNat then s
    else
      s.onRegion r fun x =>
        { x with
          rings :=
            Tab.put x.rings i
              { producer := some q.producer.toNat, op := ((Tab.look x.rings i).map RimRing.op).getD none } }

/-- The kick of a store of n bytes performed at pa (R358): it has written a registered ring's producer index. -/
def kickAt (s : State) (pa n : Nat) : State :=
  match place pa with
  | some (.sram r _, .memory) =>
    (List.range 16).foldl
      (fun u i =>
        match u.requestRing r i with
        | some q => if overlaps pa (pa + n - 1) (q.header + 16) (q.header + 23) then u.kickRing r i else u
        | none => u) s
  | _ => s

end State

/-- RIM_PUSH_KICK (R166, R358): a store to a registered ring's producer index. At spot: the region, the ring, the producer index and
the rank that stores it. -/
def execRimPushKick (s : State) : Host.Outcome State Fault Refusal :=
  match s.requestRing s.spot.place s.spot.item with
  | some q => .next ((s.unitStore (fld s.spot.v1 0 16) (q.header + 16) s.spot.v0).kickRing s.spot.place s.spot.item)
  | none => .next s

/-- RES of a request (R357). -/
inductive RimResult where
  | done | page | homeFenced | rangeLocked | uncorrected | illegal
deriving DecidableEq, Repr

/-- The number of a result. -/
def RimResult.num : RimResult → Nat
  | .done => 0 | .page => 1 | .homeFenced => 2 | .rangeLocked => 3 | .uncorrected => 4 | .illegal => 5

/-- The result of a refused push. -/
def RimResult.ofCode : FaultCode → RimResult
  | .homeFenced => .homeFenced
  | .rangeLocked => .rangeLocked
  | .uncorrected => .uncorrected
  | .page => .page
  | _ => .illegal

namespace State

/-- A user address under a PASID as a walker of the rim region finds it: by an entry of any cluster's TLB (log 41). -/
def rimTranslate (s : State) (pasid : Nat) (a : Access) (va : Word) : Option Nat :=
  if !canonical va then none
  else
    (s.clusters.map fun e => e.2).findSome? fun c =>
      (c.tlb.find? fun e => e.2.hits pasid va).bind fun e =>
        if (e.2.permits false a).isNone && (physFault false a (e.2.phys va)).isNone then some (e.2.phys va) else none

/-- The translated pages of n bytes from va. -/
def rimPages (s : State) (pasid : Nat) (a : Access) : Nat → Word → Option Pages
  | 0, _ => some []
  | n + 1, va =>
    match s.rimTranslate pasid a va, s.rimPages pasid a n (Word.ofNat ((va.toNat / 2 ^ 16 + 1) * 2 ^ 16)) with
    | some pa, some l => some ((va.toNat / 2 ^ 16, pa / 2 ^ 16) :: l)
    | _, _ => none

/-- The translated pages of a range that is not empty; none where a part of it lies in a hole that begins within a page (R143). -/
def rimRange (s : State) (pasid : Nat) (a : Access) (va : Word) (n : Nat) : Option Pages :=
  (s.rimPages pasid a ((va.toNat % 2 ^ 16 + n - 1) / 2 ^ 16 + 1) va).filter fun ps =>
    (ps.pieces (ps.length + 1) va n).all fun x => (place (x.1 + x.2 - 1)).isSome

/-- A home that a rim region's engine may push from (R357). -/
def rimSource (r : Nat) : Option (Home × Area) → Bool
  | some (.hbm t _, .memory) => stackRegion t == r
  | some (.flash f _, .memory) => flashRegion f == r
  | _ => false

/-- The service core in whose name a region's rim engine pushes. -/
def rimCore (r : Nat) : Nat := 512 * r + 504

/-- The physical address of the slot of a ring's consumer index. -/
def rimSlot (q : Request) : Nat := q.base + q.consumer.toNat % 2 ^ q.k * 128

/-- The notice of a request's notice word; none for 0. -/
def rimNotice (s : State) (r w : Nat) : Except Unit (Option Note) :=
  if w = 0 then .ok none
  else if w / 2 ^ 31 % 2 = 1 ∧ w / 2 ^ 25 % 64 = 0 ∧ w / 2 ^ 22 % 4 = 0 ∧ isServiceRank (w % 2 ^ 16) = false ∧
      (s.rankPort (rimCore r) (w % 2 ^ 16)).isSome then
    .ok (some { rank := w % 2 ^ 16, index := w / 2 ^ 16 % 64, tc0 := w / 2 ^ 24 % 2 == 1 })
  else .error ()

/-- The task that holds a PASID on a listed core (log 41). -/
def taskOfPasid (s : State) (pasid : Nat) : Nat :=
  match (s.cores.map Prod.fst).find? fun p => !isService p && s.entryState p != 0 && s.entryPasid p == pasid with
  | some p => s.entryTask p
  | none => 0

/-- The end of the slot at a ring's consumer index (R358): word 3, then the consumer index, then the notice of a push that is
done. -/
def endSlot (s : State) (r i : Nat) (q : Request) (bytes : Nat) (res : RimResult) : State :=
  let a := rimSlot q
  let note := s.rimNotice r (fld (s.word (a + 16)) 32 32)
  let t :=
    (s.unitStore (serviceRank r) (a + 24) (Word.ofNat (bytes * 2 ^ 32 + 2 ^ 31 + res.num))).unitStore (serviceRank r) (q.header + 24)
      (q.consumer + 1)
  let u := t.onRegion r fun x =>
    { x with rings := Tab.put x.rings i { producer := (Tab.look x.rings i).bind RimRing.producer, op := none } }
  match res, note with
  | .done, .ok (some n) =>
    u.sendToRank (rimCore r) n.rank
      { kind := .count, tc := if n.tc0 then 0 else 1, ecls := 0, prio := 0, size := false, dest := n.rank
        task := s.taskOfPasid q.pasid, src := serviceRank r }
      (Word.ofNat (n.index * 2 ^ 32 + 1)) [0]
  | _, _ => u

/-- The slot at a ring's consumer index begun (R358 steps 1 to 3); none where it waits for an entry of the lock table. -/
def beginSlot (s : State) (r i : Nat) (q : Request) : Option State :=
  let a := rimSlot q
  let src := s.word a
  let dst := s.word (a + 8)
  let n := fld (s.word (a + 16)) 0 32
  let fail (x : RimResult) : Option State := some (s.endSlot r i q 0 x)
  match s.rimNotice r (fld (s.word (a + 16)) 32 32) with
  | .error _ => fail .illegal
  | .ok _ =>
    if n % 8 ≠ 0 ∨ n < 8 ∨ 16777216 < n ∨ src.toNat % 8 ≠ 0 ∨ dst.toNat % 8 ≠ 0 then fail .illegal
    else
      match s.rimRange q.pasid .load src n, s.rimRange q.pasid .push dst n with
      | some ps, some qs =>
        match qs.places.map destinationUnit with
        | some h :: rest =>
          if !(ps.places.all (rimSource r)) || !(rest.all (· == some h)) || !State.apart ps src n qs dst n then fail .illegal
          else if ps.any fun p =>
              match place (p.2 * 2 ^ 16) with
              | some (g, _) => s.rimWiping g (max (p.2 * 2 ^ 16) (ps.phys src))
              | none => false then fail .homeFenced
          else
            let no := (s.core (rimCore r)).opNo
            let range := ps.span src n
            match s.addLock ((regionStack r).map LockTable.stack)
                { first := range.1, last := range.2, full := false, eng := 6, owner := rimCore r, op := no, since := 0 } with
            | .conflict => fail .rangeLocked
            | .full => none
            | .added t =>
              let o : HodOp :=
                { no := no, kind := .rim, slot := 256, gen := 0, reg := 0, pages := ps, todo := [(src, n, 0)], extent := n
                  dests := [.fresh dst qs []], bytes := 0, clip := none, counter := 0, failed := none, code := none
                  block := none, rank := q.pasid }
              some
                (((t.onCore (rimCore r) fun c => { c with opNo := no + 1, hods := c.hods ++ [o] })).onRegion r fun x =>
                  { x with
                    rings :=
                      Tab.put x.rings i
                        { producer := (Tab.look x.rings i).bind RimRing.producer, op := some (no, q) } })
        | _ => fail .illegal
      | _, _ => fail .page

/-- The push of a slot goes on (R245, R358): its next beat, or its end; none where it waits. -/
def pushSlot (s : State) (r i : Nat) (q : Request) (o : HodOp) : Option State :=
  let pid := rimCore r
  let finish (t : State) (p : HodOp) : State :=
    let res : RimResult := (p.code.map fun c => RimResult.ofCode c.1).getD .done
    ((t.dropLocks ((regionStack r).map LockTable.stack) pid 6 p.no).onCore pid fun c =>
      { c with hods := c.hods.filter fun x => x.no != p.no }).endSlot r i q p.bytes res
  match o.todo with
  | [] => if State.hodOver o then some (finish s o) else none
  | (va, _, off) :: _ =>
    let n := o.beatSize
    let pa := o.pages.phys va
    let well := ((place pa).map fun h => s.readsWell h.1).getD true
    if !s.structReady pa then none
    else
      match s.badWord o.pages va n with
      | some bad =>
        let u := s.failHod pid o bad
        match u.hodOp pid o.no with
        | some p => some (if State.hodOver p then finish u p else u)
        | none => some u
      | none =>
        let b := s.passedBytes well (s.beatBytes o n)
        some (((b.2.sourceRead o).sendBeats pid o off b.1).onHod pid o.no fun o => o.advance n)

/-- What the engine can do for a ring now (R358); none where nothing is to be done or it waits, as for the homes of the ring's header
and slot (R154). -/
def serveRing (s : State) (r i : Nat) : Option State :=
  match Tab.look (s.region r).rings i with
  | none => none
  | some x =>
    if (s.requestRing r i).any fun q => !s.structReady q.header || !s.structReady (rimSlot q) then none
    else
    match x.op.bind fun e => (s.hodOp (rimCore r) e.1).map fun o => (o, e.2) with
    | some (o, q) => s.pushSlot r i q o
    | none =>
      match s.requestRing r i, x.producer with
      | some q, some p => if q.consumer = Word.ofNat p then none else s.beginSlot r i q
      | _, _ => none

end State

/-- RIM_PUSH_SLOT (R245, R246, R358): the engine of a rim region serves its rings round robin: it begins a slot, injects a beat, or
ends a slot. At spot: the region and the ring whose turn it is. -/
def execRimPushSlot (s : State) : Host.Outcome State Fault Refusal :=
  let r := s.spot.place
  let last := (s.region r).ringLast
  match ((List.range 16).map fun j => (last + 1 + j) % 16).findSome? fun i => (s.serveRing r i).map fun t => (i, t) with
  | some (i, t) =>
    if i = s.spot.item ∧ s.regionRuns r = true then .next (t.onRegion r fun x => { x with ringLast := i }) else .next s
  | none => .next s

end Sys2Proof.Machine
end

