-- ==== Sys2Proof/Machine/Host.lean ====
section
/-!
DEFINITION. The companion's side: the host's aperture (R360), EQI kicks (R363), the driver mailbox (R361), measurement reports
(R370), key slots (R369) and lifetime records (R371).
-/

namespace Sys2Proof.Machine

/-! ### Kicks (R363) -/

/-- A queue after a kick with a producer index: it is accepted, or ignored and counted. -/
def Queue.kicked (q : Queue) (p : Nat) : Queue :=
  if p < q.producer ∨ 2 ^ q.k < p - q.consumer then { q with errors := q.errors + 1 } else { q with producer := p }

namespace State

/-- An 8-byte store to + 0 of a queue's kick page (R363). -/
def kickQueue (s : State) (n p : Nat) : State :=
  match Tab.look s.host.queues n with
  | some q => { s with host := { s.host with queues := Tab.put s.host.queues n (q.kicked p) } }
  | none => s

end State

/-- EQI_KICK (R363): an 8-byte store to + 0 of a queue's kick page. At spot: the queue and the producer index. -/
def execEqiKick (s : State) : Host.Outcome State Fault Refusal := .next (s.kickQueue s.spot.place s.spot.v0.toNat)

/-! ### The driver mailbox (R361) -/

namespace State

/-- The mailbox answered: DONE, STATUS (0 done, 1 bad argument, 2 refused by policy) and a result word; the command is over. -/
def mailbox (s : State) (status : Nat) (result : Word) : State :=
  { s with host := { s.host with asked := none, answer := { done := true, status := status, result := result } } }

/-- Argument word i of the mailbox. -/
def argument (s : State) (i : Nat) : Word := s.host.args.getD i 0

/-- The command that runs in the mailbox is the one of a number (R361); a mailbox that is not open runs none (R367). -/
def asks (s : State) (n : Nat) : Bool := s.host.opened && s.host.asked == some (Word.ofNat n)

/-- Flatar answers a command, if it is the one that runs. -/
def answers (s : State) (n : Nat) (t : State) : Host.Outcome State Fault Refusal := .next (if s.asks n then t else s)

/-- A store to the mailbox (R361), of a value of some bytes: to + 0 it starts a command unless one runs; the argument words
stand from + 8 up. A number that names no command is answered with a bad argument (log 43). -/
def mailboxStore (s : State) (o n : Nat) (v : Word) : State :=
  if !s.host.opened then s
  else if o = 0 ∧ n = 8 then
    if !s.host.answer.done then s
    else if v = 0#64 ∨ 5 < v.toNat then s.mailbox 1 0
    else
      { s with host := { s.host with asked := some v, answer := { s.host.answer with done := false } } }
  else if 8 ≤ o ∧ o < 72 ∧ n = 8 ∧ o % 8 = 0 then
    { s with host := { s.host with args := s.host.args.set ((o - 8) / 8) v } }
  else s

/-- The host stores a value of some bytes at an offset of its aperture (R360, R363): a kick page or the mailbox; any other store
is ignored. -/
def aperture (s : State) (offset n : Nat) (v : Word) : State :=
  if offset < 0x4000000 then (if offset % 4096 = 0 ∧ n = 8 then s.kickQueue (offset / 4096) v.toNat else s)
  else if offset < 0x4001000 then s.mailboxStore (offset - 0x4000000) n v
  else s

/-- What the host's load of the 8 bytes at an offset of its aperture returns (R360, R361, R363): C of a queue, the mailbox's
words, else 0. -/
def apertureLoad (s : State) (offset : Nat) : Word :=
  if offset < 0x4000000 then
    (if offset % 4096 = 8 then Word.ofNat (((Tab.look s.host.queues (offset / 4096)).map Queue.consumer).getD 0) else 0)
  else
    let o := offset - 0x4000000
    if o = 0 then s.host.asked.getD 0
    else if 8 ≤ o ∧ o < 72 ∧ o % 8 = 0 then s.argument ((o - 8) / 8)
    else if o = 0x100 then Word.ofNat ((if s.host.answer.done then 2 ^ 31 else 0) + s.host.answer.status)
    else if o = 0x108 then s.host.answer.result
    else 0

end State

namespace State

/-- A queue made with the lowest free number (R361, R362, log 43). -/
def makeQueue (s : State) (ring : Word) (k pasid : Nat) (completion : Word) : State :=
  if k < 4 ∨ 16 < k ∨ 2 ^ 20 ≤ pasid then s.mailbox 1 0
  else
    match freeIndex s.host.queues 16384 with
    | none => s.mailbox 2 0
    | some n =>
      let q : Queue :=
        { ring := ring, k := k, pasid := pasid, completion := completion, producer := 0, consumer := 0, errors := 0,
          launch := none }
      ({ s with host := { s.host with queues := Tab.put s.host.queues n q } }).mailbox 0 (Word.ofNat n)

/-- A queue destroyed (R361). -/
def dropQueue (s : State) (n : Nat) : State :=
  if (Tab.look s.host.queues n).isSome then
    ({ s with host := { s.host with queues := Tab.remove s.host.queues n } }).mailbox 0 0
  else s.mailbox 1 0

/-- A lifetime record copied into the host's buffer, and the record count (R361, R371). -/
def copyRecord (s : State) (i : Nat) (va : Word) : State :=
  match s.host.records[i]? with
  | none => s.mailbox 1 (Word.ofNat s.host.records.length)
  | some r =>
    ({ s with host := { s.host with written := s.host.written ++ [(va, Written.record r)] } }).mailbox 0
      (Word.ofNat s.host.records.length)

end State

/-- QCREATE (R361, R362): the arguments are the ring's address, k, the PASID, and the completion ring's address. -/
def execQcreate (s : State) : Host.Outcome State Fault Refusal :=
  s.answers 1 (s.makeQueue (s.argument 0) (s.argument 1).toNat (s.argument 2).toNat (s.argument 3))

/-- QDESTROY (R361): the argument is the queue. -/
def execQdestroy (s : State) : Host.Outcome State Fault Refusal := s.answers 2 (s.dropQueue (s.argument 0).toNat)

/-- LIFEREAD (R361, R371): the arguments are the record's index and the buffer's address. -/
def execLiferead (s : State) : Host.Outcome State Fault Refusal :=
  s.answers 3 (s.copyRecord (s.argument 0).toNat (s.argument 1))

/-! ### Reports (R370) -/

/-- The bytes of a word, lowest first. -/
def wordBytes (w : Word) : List Byte := (List.range 8).map fun i => (w >>> (8 * i)).setWidth 8

/-- What a report signs, as bytes, in the order in which R370 lists it (log 44). -/
def Report.bytes (r : Report) : List Byte :=
  r.nonce.flatMap wordBytes ++ r.meas.flatten ++ r.boot.flatMap wordBytes ++
    (r.wipes.flatMap fun n => wordBytes (Word.ofNat n)) ++ (r.slots.map fun n => BitVec.ofNat 8 n) ++
    [if r.owned then 1 else 0]

namespace State

/-- The digest of the loader that runs (R370), as the boot region's ROM has measured it. -/
def loaderDigest (s : State) : List Byte :=
  ((s.verified.bind fun r => Tab.look (s.region r).measured 1).map Prod.fst).getD []

/-- The report of a nonce (R370), over every region; a dark one has lost its registers, and has its WIPES. -/
def report (s : State) (nonce : List Word) : Report :=
  let r : Report :=
    { nonce := nonce
      meas := (List.range 63).map fun r => s.ctlBytes (controlBase r + 0xA000) 64
      boot := (List.range 63).map fun r => s.ctl (controlBase r + 0x20) 0
      wipes := (List.range 63).map fun r => (s.region r).wipes
      slots := s.fuses.slots.toList.map KeySlot.state
      owned := s.fuses.owned
      signature := [] }
  { r with signature := Config.deviceSign s.fuses.secret s.loaderDigest r.bytes }

end State

/-- MEASURE (R361, R370): a signed report is written into the host's buffer; its length is a free value, at most the buffer's
16 KiB (log 44). The arguments are the nonce's two words and the buffer's address. -/
def execMeasure (s : State) : Host.Outcome State Fault Refusal :=
  let r := s.report [s.argument 0, s.argument 1]
  s.answers 4
    ((({ s with host := { s.host with written := s.host.written ++ [(s.argument 2, Written.report r)] } }).tickFree).mailbox 0
      (Word.ofNat ((Config.freeWord s.fresh).toNat % 16385)))

/-! ### Key slots (R369) -/

/-- An enrolment record as its bytes in host memory spell it (R369; the layout is the model's, log 45): the new key hash, the
state asked for, the OWNED request, the signer's slot, the signer's key and the signature over what is before it. -/
structure Enrolment where
  hash      : List Byte
  state     : Nat
  owned     : Bool
  signer    : Nat
  key       : List Byte
  signature : List Byte
deriving DecidableEq, Repr

/-- The enrolment record of some bytes. -/
def enrolmentOf (b : List Byte) : Enrolment where
  hash := b.take 32
  state := bytesValue ((b.drop 32).take 1)
  owned := bytesValue ((b.drop 33).take 1) % 2 == 1
  signer := bytesValue ((b.drop 34).take 1)
  key := (b.drop 35).take keyBytes
  signature := (b.drop (35 + keyBytes)).take signatureBytes

/-- The bytes of an enrolment that are signed, with the slot that the command names. -/
def Enrolment.signed (e : Enrolment) (slot : Nat) : List Byte :=
  BitVec.ofNat 8 slot :: e.hash ++ [BitVec.ofNat 8 e.state, if e.owned then 1 else 0]

/-- An enrolment is accepted (R369): a state only rises, to enrolled or revoked; the signer's key is usable, a vendor's for the first
owner key and an owner's later, and the signature holds. -/
def Fuses.accepts (f : Fuses) (slot : Nat) (e : Enrolment) : Bool :=
  let state (n : Nat) : Nat := (f.slots.toList[n]?.map KeySlot.state).getD 2
  let first := [2, 3, 4, 5].all fun n => state n == 0
  decide (state slot < e.state) && decide (e.state ≤ 2) && f.usable e.signer && (first == decide (e.signer < 2)) &&
    Config.shake256 32 e.key == (f.slots.toList[e.signer]?.map KeySlot.hash).getD [] &&
    Config.mldsaVerify e.key (Config.shake256 64 (e.signed slot)) e.signature

/-- The fuses after an enrolment: the hash of a slot that was empty, its state, and OWNED where it is asked for. -/
def Fuses.enrol (f : Fuses) (slot : Nat) (e : Enrolment) : Fuses :=
  match f.slots.toList[slot]? with
  | none => f
  | some k =>
    { f with
      slots := f.slots.setIfInBounds slot { hash := if k.state = 0 then e.hash else k.hash, state := e.state }
      owned := f.owned || e.owned }

namespace State

/-- An enrolment record judged and, where it is accepted, the fuses blown (R369). -/
def enrol (s : State) (slot : Nat) (va : Word) : State :=
  let e := enrolmentOf (Memory.bytes s.mem (0x400000000000 + fld va 0 45) (35 + keyBytes + signatureBytes))
  if 6 ≤ slot then s.mailbox 1 0
  else if s.fuses.accepts slot e then ({ s with fuses := s.fuses.enrol slot e }).mailbox 0 0
  else s.mailbox 2 0

end State

/-- KEYENROLL (R361, R369): Flatar verifies an enrolment or revocation and blows the fuses. The arguments are the slot and the
record's address in host memory. -/
def execKeyenroll (s : State) : Host.Outcome State Fault Refusal :=
  s.answers 5 (s.enrol (s.argument 0).toNat (s.argument 1))

/-! ### Lifetime records (R371, R372) -/

namespace State

/-- The count of a 32-bit register of region control, from a bit up. -/
def count32 (s : State) (r o lo : Nat) : Nat := fld (s.ctl (controlBase r + o) 0) lo 32

/-- The last lifetime record of a region. -/
def lastRecord (s : State) (r : Nat) : Option LifeRecord := s.host.records.reverse.find? fun x => x.region == r

/-- WEAR entries of a flash stack that are not as after manufacture. -/
def wornBlocks (s : State) (f : Nat) : List Word :=
  (s.regs.filter fun e => decide (wearAddr f 0 ≤ e.1) && decide (e.1 < wearAddr f 524288)).map fun e => e.2

/-- Flash blocks by STATE (R371). -/
def blockStates (s : State) (f : Nat) : List Nat :=
  let w := s.wornBlocks f
  [524288 - (w.filter fun x => fld x 62 2 != 0).length] ++ [1, 2, 3].map fun n => (w.filter fun x => fld x 62 2 == n).length

/-- Flash blocks by bin of 500 ERASES; the last bin holds all from 5,000 up (log 42). -/
def blockErases (s : State) (f : Nat) : List Nat :=
  let w := s.wornBlocks f
  (List.range 11).map fun b =>
    (w.filter fun x => min 10 (fld x 0 32 / 500) == b).length + (if b = 0 then 524288 - w.length else 0)

/-- The eye of a lane: its last right tap less its first, plus 1; 0 where no tap is right (R371). -/
def eyeWidth (f : Nat → Bool) : Nat :=
  match (List.range 64).filter f with
  | [] => 0
  | a :: l => (a :: l).getLastD a - a + 1

/-- The eye widths of a stack at the last training, by channel and physical lane, read and write (R371): a channel that Flatar has
trained has the eyes of its lanes, another keeps what the last record had (log 42). -/
def eyes (s : State) (t : Nat) (old : List (Nat × Nat)) : List (Nat × Nat) :=
  (List.range (32 * 68)).map fun i =>
    if flag (s.ctl (0x7F0000000000 + t * 0x100000000 + 0x200000) 0) (i / 68) then
      (eyeWidth (Config.readEye t (i / 68) (i % 68)), eyeWidth (Config.writeEye t (i / 68) (i % 68)))
    else old.getD i (0, 0)

/-- The links whose retrains a region's record counts (R371): Bondlink ports, bond ports, its stitch links. -/
def linksOf (r : Nat) : List Nat := List.range 4 ++ List.range' 8 8 ++ List.range' (16 + 4 * r) 4

/-- The lifetime record that Flatar makes of a region now (R371): each count is added to the previous record's. -/
def lifeRecord (s : State) (r : Nat) : LifeRecord :=
  let old := s.lastRecord r
  let add (l : Option (List Nat)) (now : List Nat) : List Nat := now.mapIdx fun i n => n + (l.getD []).getD i 0
  let bank (b : Nat) : Nat × Nat :=
    let o := ((old.map LifeRecord.errors).getD []).find? fun x => x.1 == b
    ((o.map fun x => x.2.1).getD 0 + s.count32 r (0x4000 + 8 * b) 0,
     (o.map fun x => x.2.2).getD 0 + s.count32 r (0x4000 + 8 * b) 32)
  { region := r
    index := s.host.records.length
    time := s.time r
    meas2 := s.meas r 2
    errors := ((List.range 2624).map fun b => (b, bank b)).filter fun x => decide (0 < x.2.1) || decide (0 < x.2.2)
    retrains := (linksOf r).map fun p => Tab.read s.host.retrains 0 p
    stretch := add (old.map LifeRecord.stretch) ((List.range 4).map fun k => s.count32 r (0x610 + 8 * k) 0)
    orphans :=
      add (old.map LifeRecord.orphans) ((List.range 36).map fun c => if (s.cluster (64 * r + c)).fwd.los then 1 else 0)
    history := add (old.map LifeRecord.history) ((List.range 8).map fun b => s.count32 r (0x740 + 8 * b) 0)
    eyes := (regionStack r).elim [] fun t => s.eyes t ((old.map LifeRecord.eyes).getD [])
    states := (regionFlash r).elim [] s.blockStates
    erases := (regionFlash r).elim [] s.blockErases }

/-- The registers whose counts a lifetime record has taken, cleared (R181, R264, R371, R372). -/
def clearCounts (s : State) (r : Nat) : State :=
  let t := (List.range 36).foldl (fun u c => u.onFwd (64 * r + c) fun f => { f with los := false }) s
  let offsets := (List.range 4).map (fun k => 0x610 + 8 * k) ++ (List.range 8).map (fun b => 0x740 + 8 * b) ++
    (List.range 2624).map fun b => 0x4000 + 8 * b
  { t with regs := t.regs.filter fun e => !(offsets.any fun o => e.1 == controlBase r + o) }

end State

namespace State

/-- The owner's interval has passed since a region's last record (R371). -/
def recordDue (s : State) (r : Nat) : Bool := decide (Tab.read s.host.recordedAt 0 r + s.host.interval ≤ s.rc)

end State

/-- LIFETIME_RECORD_APPEND (R371): at the owner's interval Flatar appends the record of a live region and clears the registers. At
spot: the region. -/
def execLifetimeRecordAppend (s : State) : Host.Outcome State Fault Refusal :=
  let r := s.spot.place
  if (s.region r).life = .dark ∨ 63 ≤ r ∨ s.recordDue r = false then .next s
  else
    .next
      ({ s with
        host :=
          { s.host with
            records := s.host.records ++ [s.lifeRecord r], recordedAt := Tab.put s.host.recordedAt r s.rc } }.clearCounts r)

end Sys2Proof.Machine
end

