-- ==== Sys2Proof/Machine/Perform.lean ====
section
/-!
DEFINITION. Remote accesses performed at their homes (R73 to R75, R79, R80, R153 to R159), memory and control windows alike.
-/

namespace Sys2Proof.Machine

/-- An ACCESS as its words spell it (R79). -/
structure AccessAsk where
  op     : Nat
  bytes  : Nat
  signed : Bool
  pa     : Nat
deriving DecidableEq, Repr

/-- The fields of an ACCESS. -/
def accessAsk (m : Msg) : AccessAsk where
  op := fld m.sel 48 4
  bytes := 2 ^ fld m.sel 52 2
  signed := flag m.sel 54
  pa := fld m.sel 0 48

/-- What an ACCESS does: load, store or atomic. -/
def AccessAsk.access (a : AccessAsk) : Access := if a.op = 0 then .load else if a.op = 1 then .store else .atomic

/-- An ACCESS in flight. -/
def Packet.isAccess (p : Packet) : Bool :=
  match p.load with
  | .msg m _ => m.kind == MsgKind.access.num
  | _ => false

/-- The core that has sent a packet, or whose gather unit has. -/
def Packet.sender (p : Packet) : Option Nat :=
  match p.src with
  | .core q => some q
  | .gather q => some q
  | _ => none

namespace State

/-- MEAS(N) is being extended, and a load of it waits (R370). -/
def measBusy (s : State) (pa : Nat) : Bool :=
  match place pa with
  | some (.control r, .regionControl) =>
    match (s.region r).extending, regAt (pa - controlBase r) 0xA000 64 with
    | some (n, _, _), some i => i / 8 == n
    | _, _ => false
  | _ => false

/-- An ACCESS waits at its home: the home does not run, a beat has been performed there in this ac, the channel is being
tested, the flash block is under a command, or the register is being extended (R154, R350, R355, R359, R370). -/
def accessWaits (s : State) (h : Home) (a : AccessAsk) : Bool :=
  !s.homeRuns h || s.hadBeat h || s.rimBusy a.pa || (a.op == 0 && s.measBusy a.pa)

/-- An earlier ACCESS stands at the port of the same home: ACCESSes are performed in the order of their arrival (R154). -/
def arrivedBefore (s : State) (n : Nat) (p : Packet) : Bool :=
  (s.net.take n).any fun e => e.isAccess && e.dst == p.dst && e.here == p.here

/-- The low bytes of a control register that an access names, from its offset in the register (R100, R347). -/
def namedBytes (w : Word) (pa n : Nat) : Nat := w.toNat / 256 ^ (pa % 8) % 256 ^ n

/-- An address lies in a window on a range-lock table (R161). -/
def lockWindow (pa : Nat) : Bool :=
  match place pa with
  | some (_, .lockEntries) => true
  | some (.control r, .regionControl) =>
    decide (0x1000 ≤ pa - controlBase r) && decide (pa - controlBase r < 0x1800) ||
      decide (0x2000 ≤ pa - controlBase r) && decide (pa - controlBase r < 0x2800)
  | _ => false

/-- An ACCESS to a control space performed (R100, R145, R347): its value, and the state after it. A store of fewer than 8 bytes
is ignored, an atomic of 4 bytes reads (log 38), and only a store releases a range lock (R164). -/
def performControl (s : State) (a : AccessAsk) (m : Msg) : Word × State :=
  let pa := a.pa / 8 * 8
  let old := s.controlRead pa
  let v := namedBytes old a.pa a.bytes
  match a.access with
  | .store => (0, if a.bytes = 8 then s.controlWrite pa (m.word 0) else s)
  | .atomic =>
    let t :=
      if a.bytes = 8 ∧ !lockWindow pa then
        match (AtomOp.ofCode a.op).apply 8 old.toNat (m.word 0).toNat (m.word 1).toNat with
        | some n => s.controlWrite pa (Word.ofNat n)
        | none => s
      else s
    (extendBytes a.bytes true v, t)
  | _ => (extendBytes a.bytes a.signed v, s)

/-- An ACCESS to memory performed (R73 to R75, R153): its value, and the state after it, with the kick that a store to a
registered producer index is (R358). -/
def performMemory (s : State) (h : Home) (a : AccessAsk) (m : Msg) : Word × State :=
  match a.access with
  | .store => (0, (s.performWrite h false m.src 1 a.pa a.bytes (m.word 0) (m.word 0).toNat).kickAt a.pa a.bytes)
  | .atomic =>
    let r := s.performAtomic h false m.src (AtomOp.ofCode a.op) a.pa a.bytes (m.word 0) (m.word 1)
    (extendBytes a.bytes true r.1, r.2.kickAt a.pa a.bytes)
  | _ =>
    let r := s.passed (s.readsWell h) a.bytes (Memory.value s.mem a.pa a.bytes)
    (extendBytes a.bytes a.signed r.1, r.2)

/-- An ACCESS at its home, which runs: performed, or refused by a lock or an uncorrected word (R73, R162, R332); with the status
of its REPLY. -/
def performAccess (s : State) (h : Home) (area : Area) (a : AccessAsk) (m : Msg) : Nat × Word × State :=
  match area with
  | .memory =>
    match s.remoteFault h a.access a.pa a.bytes with
    | some c => (c.status, 0, s)
    | none => (0, s.performMemory h a m)
  | .podWindow => (FaultCode.homeFenced.status, 0, s)
  | _ => (0, s.performControl a m)

end State

/-- ACCESS_PERFORM (R80, R154, R155): an ACCESS is performed at its home, or refused there, and answered with a REPLY. At spot: the
packet's place in flight. -/
def execAccessPerform (s : State) : Host.Outcome State Fault Refusal :=
  match s.front s.spot.place with
  | some p =>
    match p.load, p.dst with
    | .msg m _, .home h =>
      let a := accessAsk m
      let t := s.taken s.spot.place
      let refuse : Host.Outcome State Fault Refusal :=
        .next (t.reply p.dst (s.replyPort p m) m FaultCode.homeFenced.status 0)
      if m.kind ≠ MsgKind.access.num then .next s
      else
        match place a.pa with
        | none => refuse
        | some (_, area) =>
          if s.homeRefuses ((Packet.sender p).getD 0) (m.task == 0 || (Packet.sender p).isNone) h a.pa then refuse
          else if s.accessWaits h a || s.arrivedBefore s.spot.place p then .next s
          else
            let r := t.performAccess h area a m
            .next ((r.2.2.performed h false).reply p.dst (s.replyPort p m) m r.1 r.2.1)
    | _, _ => .next s
  | none => .next s

end Sys2Proof.Machine
end

