-- ==== Sys2Proof/Machine/Area.lean ====
section
/-!
DEFINITION. The save area (R336): a context as the words of its 1 MiB, and read from them.

R336 gives each part its place and its room and, inside most of them, no packing: where within its part a word stands is the
model's (log 23).
-/

namespace Sys2Proof.Machine

/-! ### Words and lists of words -/

/-- Fields put together, lowest first: of each its width and its value. -/
def pack : List (Nat × Nat) → Nat
  | [] => 0
  | (w, v) :: t => v % 2 ^ w + 2 ^ w * pack t

/-- Bits lo up to lo + n of a number. -/
def cut (v lo n : Nat) : Nat := v / 2 ^ lo % 2 ^ n

/-- A flag as a field of one bit. -/
def bit (b : Bool) : Nat × Nat := (1, if b then 1 else 0)

/-- Bit i of a number. -/
def on (v i : Nat) : Bool := v / 2 ^ i % 2 == 1

/-- The two words of a 128-bit value. -/
def halves (x : XWord) : List Nat := [x.toNat % 2 ^ 64, x.toNat / 2 ^ 64]

/-- The least width of 4, 8, 16, 32 and 64 bits that holds every number of a list. -/
def packWidth (l : List Nat) : Nat := ([4, 8, 16, 32].find? fun w => l.all fun v => decide (v < 2 ^ w)).getD 64

/-- A list of numbers in few words: its length and the width of an entry, the least number, and what each has above it. -/
def packed (l : List Nat) : List Nat :=
  let lo := l.foldl min (l.headD 0)
  let d := l.map fun v => v - lo
  let w := packWidth d
  let k := 64 / w
  [pack [(32, l.length), (8, w)], lo] ++
    (List.range ((l.length + k - 1) / k)).map fun i => pack (((d.drop (i * k)).take k).map fun v => (w, v))

/-- A list with its length before it. -/
def counted {α : Type} (f : α → List Nat) (l : List α) : List Nat := l.length :: l.flatMap f

/-- What is read from an address up: a value, and the address after it. -/
abbrev Tape (α : Type) := Nat → α × Nat

/-- A list read from a tape, item after item. -/
def Tape.many {α : Type} (t : Tape α) : Nat → Tape (List α)
  | 0, a => ([], a)
  | n + 1, a =>
    let x := t a
    let l := Tape.many t n x.2
    (x.1 :: l.1, l.2)

namespace State

/-- A word of a tape. -/
def readNat (s : State) : Tape Nat := fun a => ((s.word a).toNat, a + 8)

/-- A word of a tape as a word. -/
def readWord (s : State) : Tape Word := fun a => (s.word a, a + 8)

/-- A 128-bit value of a tape. -/
def readX (s : State) : Tape XWord := fun a => (s.word (a + 8) ++ s.word a, a + 16)

/-- A packed list of a tape. -/
def readPacked (s : State) : Tape (List Nat) := fun a =>
  let h := (s.word a).toNat
  let n := cut h 0 16
  let w := cut h 32 8
  let k := 64 / w
  let lo := (s.word (a + 8)).toNat
  ((List.range n).map fun i => lo + cut (s.word (a + 16 + 8 * (i / k))).toNat (w * (i % k)) w, a + 16 + 8 * ((n + k - 1) / k))

/-- A counted list of a tape, of at most 4,095 items. -/
def readCounted {α : Type} (s : State) (t : Tape α) : Tape (List α) := fun a => t.many ((s.word a).toNat % 4096) (a + 8)

end State

/-! ### The codes of a save area -/

/-- The fault codes (R325). -/
def faultCodes : List FaultCode :=
  [.illegal, .engineAbsent, .privilege, .align, .page, .rangeLocked, .homeFenced, .uncorrected, .overflowExhausted, .entryFetch]

/-- The fault code of a number; none for any other (R325). -/
def faultCodeOf (n : Nat) : Option FaultCode := faultCodes.find? fun c => c.num == n

/-- The kind of a number (R328). -/
def faultKindOf (n : Nat) : FaultKind :=
  ([.fetch, .load, .store, .atomic, .engine, .message, .gather, .context, .migration] : List FaultKind).find?
    (fun k => k.num == n) |>.getD .instruction

/-- PSRC of a pending mark (R101). -/
def PSrc.num : PSrc → Nat
  | .bind => 0 | .load => 1 | .barrier _ => 2 | .engine => 3 | .gather => 4

/-- The level of a barrier's mark. -/
def PSrc.levelNum : PSrc → Nat
  | .barrier l => Machine.levelNum l
  | _ => 0

/-- A pending mark by its PSRC and level. -/
def psrcOf (n level : Nat) : PSrc :=
  match n with
  | 0 => .bind
  | 1 => .load
  | 2 => .barrier (if level = 0 then .core else levelOf level)
  | 3 => .engine
  | _ => .gather

/-- The scopes by their numbers. -/
def scopeList : List Scope := [.core, .quad, .cluster, .region, .wafer, .system]

/-- The scope of a number. -/
def scopeOf (n : Nat) : Scope := scopeList.getD n .system

/-- The g register of a number. -/
def regOf (n : Nat) : Reg := (BitVec.ofNat 3 n).toFin

/-! ### Slots -/

/-- The bits of a settling instruction that waits: its code and what it names. -/
def Settling.saved : Option Settling → Nat × Nat
  | none => (0, 0)
  | some (.fence c) => (1, scopeNum c)
  | some .exit => (2, 0)
  | some (.mig r) => (3, r)
  | some (.predict r) => (4, r)

/-- A settling instruction by its code. -/
def settlingOf (k v : Nat) : Option Settling :=
  match k with
  | 1 => some (.fence (scopeOf v))
  | 2 => some .exit
  | 3 => some (.mig v)
  | 4 => some (.predict v)
  | _ => none

/-- The place of a fibre among those of its core that wait at queues. -/
def holdRank (c : Core) (order : Nat) : Nat :=
  (c.slots.filter fun e =>
    match e.2.hold with
    | some (.queueRead _ o) => decide (o < order)
    | some (.queueWrite _ o) => decide (o < order)
    | some (.stream _ o) => decide (o < order)
    | _ => false).length

/-- The bits of what a fibre waits for: its code, its place among those that wait at queues, and what it names. What a fibre finds
again at its next attempt is not kept. -/
def Hold.saved (c : Core) : Option Hold → Nat
  | some (.regs m) => pack [(4, 1), (8, 0), (8, m.toNat)]
  | some (.queueRead q o) => pack [(4, 2), (8, holdRank c o), (3, q)]
  | some (.queueWrite q o) => pack [(4, 3), (8, holdRank c o), (3, q)]
  | some (.stream [a] o) => pack [(4, 4), (8, holdRank c o), (3, a.1), (6, a.2)]
  | some (.stream [a, b] o) => pack [(4, 5), (8, holdRank c o), (3, a.1), (6, a.2), (3, b.1), (6, b.2)]
  | _ => 0

/-- What a fibre waits for, by its bits; waits at queues go on in their order, from the number seq up. -/
def holdOf (seq v : Nat) : Option Hold :=
  let o := seq + cut v 4 8
  match cut v 0 4 with
  | 1 => some (.regs (BitVec.ofNat 8 (cut v 12 8)))
  | 2 => some (.queueRead (cut v 12 3) o)
  | 3 => some (.queueWrite (cut v 12 3) o)
  | 4 => some (.stream [(cut v 12 3, cut v 15 6)] o)
  | 5 => some (.stream [(cut v 12 3, cut v 15 6), (cut v 21 3, cut v 24 6)] o)
  | _ => none

/-- The 16 words of a slot in a save area, in R336's order; a free slot keeps its GEN. -/
def Slot.saved (c : Core) (n : Nat) (f : Slot) : List Nat :=
  let settle := Settling.saved f.settle
  if f.live then
    f.g.toList.map BitVec.toNat ++
    [ (f.pcWord ^^^ (if f.far then 0xFF00000000000000#64 else 0)).toNat,
      pack
        (((List.finRange 8).map fun r => bit (f.mark[r]).isSome) ++
          ((List.finRange 8).map fun r => (3, ((f.mark[r]).map PSrc.num).getD 0)) ++
          ((List.finRange 8).map fun r => bit (f.refused[r]).isSome) ++
          (List.finRange 8).map fun r => (3, ((f.mark[r]).map PSrc.levelNum).getD 0)),
      pack ((List.finRange 8).flatMap fun r =>
        [(4, ((f.refused[r]).map fun x => x.code.num).getD 0), (4, ((f.refused[r]).map fun x => x.kind.num).getD 0)]),
      (f.owed.map fun o => o.pc.toNat).getD 0,
      (f.owed.map fun o => o.place.toNat).getD 0,
      pack
        [(2, f.prio.val), (2, f.eff.val), (12, f.age), bit f.yld, (3, f.ecls.toNat), bit f.amig, (7, f.lastH.getD 64),
          (8, f.gen.toNat), bit f.sup, bit f.fw, bit f.epcv, bit f.frozen, bit f.owed.isSome,
          (5, (f.owed.map fun o => o.code.num).getD 0), (4, (f.owed.map fun o => o.kind.num).getD 0),
          (8, (f.owed.map Owed.count).getD 0), bit true, bit (c.unmapping.contains n), bit f.unc, (3, settle.1)],
      f.epc.toNat,
      pack [(16, f.tcause.toNat), (30, Hold.saved c f.hold), (16, settle.2)] ]
  else
    List.replicate 13 0 ++ [pack [(28, 0), (8, f.gen.toNat)], 0, 0]

/-- A slot by the words of a save area: nothing of the old core's time or translation keeps its fibre, and one whose slot met an
uncorrected error is frozen (R336). Bit 0 of its PC is 0 (R15). -/
def Slot.ofSaved (w : Nat → Word) (ac seq : Nat) (bad : Bool) : Slot :=
  let p := (w 9).toNat
  let r := (w 10).toNat
  let v := (w 13).toNat
  let t := (w 15).toNat
  let failed := bad || on v 60
  if on v 58 then
    { Slot.free with
      live := true
      pc := (w 8 &&& ~~~1#64).setWidth 56
      far := !canonical (w 8)
      g := Vector.ofFn fun i => w i.val
      mark := Vector.ofFn fun i =>
        if on p i.val then some (psrcOf (cut p (8 + 3 * i.val) 3) (cut p (40 + 3 * i.val) 3)) else none
      refused := Vector.ofFn fun i =>
        if on p (32 + i.val) then
          some { code := (faultCodeOf (cut r (8 * i.val) 4)).getD .illegal, kind := faultKindOf (cut r (8 * i.val + 4) 4) }
        else none
      owed :=
        if on v 40 then
          some { code := (faultCodeOf (cut v 41 5)).getD .illegal, pc := w 11, place := w 12, kind := faultKindOf (cut v 46 4),
                 count := cut v 50 8 }
        else none
      prio := (BitVec.ofNat 2 v).toFin
      eff := (BitVec.ofNat 2 (cut v 2 2)).toFin
      age := cut v 4 12
      yld := on v 16
      ecls := BitVec.ofNat 3 (cut v 17 3)
      amig := on v 20
      lastH := if cut v 21 7 < 64 then some (cut v 21 7) else none
      gen := BitVec.ofNat 8 (cut v 28 8)
      sup := on v 36
      fw := on v 37
      epcv := on v 38
      frozen := on v 39 || failed
      epc := (w 14).setWidth 56
      tcause := BitVec.ofNat 16 t
      hold := holdOf seq (cut t 16 30)
      settle := settlingOf (cut v 61 3) (cut t 46 16)
      readyAt := ac + 1
      unc := failed }
  else { Slot.free with gen := BitVec.ofNat 8 (cut v 28 8) }

/-! ### Tags, records -/

/-- An entry of the tag table in a save area, of 4 bytes. -/
def Tag.saved (t : Tag) : Nat :=
  let use : Nat × Nat × Nat :=
    match t.use with
    | .value r k => (0, r.val, k.num) | .posted k => (1, 0, k.num) | .status r => (2, r.val, 0) | .course r _ => (3, r.val, 0)
  pack [bit true, (8, t.slot), (8, t.gen.toNat), (2, use.1), (3, use.2.1), (4, use.2.2), (3, scopeNum t.scope)]

/-- What a tag keeps beside its entry: the PC of its instruction, its address or rank, and its issuing core with the address of a
course's descriptor. -/
def Tag.more (t : Tag) : List Nat :=
  [t.pc.toNat, t.place.toNat, pack [(48, match t.use with | .course _ pa => pa | _ => 0), (16, t.issuer)]]

/-- A tag by its entry and what it keeps beside it. -/
def Tag.ofSaved (e : Nat) (pc place more : Word) : Tag :=
  let r := regOf (cut e 19 3)
  let k := faultKindOf (cut e 22 4)
  { slot := cut e 1 8
    gen := BitVec.ofNat 8 (cut e 9 8)
    use :=
      match cut e 17 2 with
      | 0 => .value r k
      | 1 => .posted k
      | 2 => .status r
      | _ => .course r (fld more 0 48)
    scope := scopeOf (cut e 26 3)
    pc := pc
    place := place
    issuer := fld more 48 16 }

/-- The words of a record, as a ring's slot holds it (R115). -/
def Msg.saved (m : Msg) : List Nat := (slotWords m []).map BitVec.toNat

/-- A record by the words of a slot. -/
def Msg.ofSaved (w : Nat → Word) : Msg :=
  { rw := w 0, sel := w 1, data := (List.range (if flag (w 0) 52 then 8 else 1)).map fun i => w (2 + i) }

/-- An entry of the mailbox in a save area: the record; what a COUNT starts, and a start RUN; its place in the order. -/
def Held.saved (h : Held) : List Nat :=
  Msg.saved h.msg ++
    [pack [bit h.start.isSome, bit h.first, (8, (h.start.map Prod.fst).getD 0), (6, (h.start.map Prod.snd).getD 0)], 0, 0, 0, h.order]

/-- A mailbox entry by its words, as placed in this ac. -/
def Held.ofSaved (w : Nat → Word) (ac : Nat) : Held :=
  let v := (w 10).toNat
  { msg := Msg.ofSaved w, start := if on v 0 then some (cut v 2 8, cut v 10 6) else none, first := on v 1, order := (w 14).toNat,
    ac := ac }

/-! ### Engines -/

/-- The slot, generation and register of an operation, as fields. -/
def opBits (slot : Nat) (gen : BitVec 8) (reg : Reg) : List (Nat × Nat) := [(8, slot), (8, gen.toNat), (3, reg.val)]

/-- Translated pages. -/
def Pages.saved (ps : Pages) : List Nat := packed (ps.map Prod.fst) ++ packed (ps.map Prod.snd)

/-- A block of the B latch. -/
def Block.saved (b : Block) : List Nat :=
  [b.fmt, b.rows] ++ packed (b.data.map BitVec.toNat) ++ packed (b.scales.map BitVec.toNat)

/-- A slot of the B latch. -/
def Block.slot (b : Option Block) : List Nat := counted Block.saved b.toList

/-- A block that has come into INCOMING in part (R223). -/
def fillingSaved (f : Nat × Nat × List (Nat × List Byte)) : List Nat :=
  [f.1, f.2.1] ++ counted (fun p => p.1 :: packed (p.2.map BitVec.toNat)) f.2.2

/-- The kinds of matrix commands by their numbers. -/
def matKinds : List MatKind := [.mma, .mring, .gmm, .mmz, .mst, .mldc]

/-- A matrix command, with its step index (R334). -/
def MatCmd.saved (m : MatCmd) : List Nat :=
  [pack (opBits m.slot m.gen m.reg ++
      [(3, matKinds.idxOf m.kind), (4, m.pair), (8, m.sa), (8, m.sb), (4, m.oFmt), bit m.ovf, bit m.nan, bit m.fmtErr,
        bit m.pushing]), m.no] ++
    halves m.a ++ halves m.b ++
    [m.place.toNat, m.ascl.toNat, m.bscl.toNat, m.bgStride, m.out.toNat, m.oStride, m.tile, m.step, m.steps] ++ packed m.counts ++
    m.aPages.saved ++ m.bPages.saved ++ m.asPages.saved ++ m.bsPages.saved ++ m.outPages.saved

/-- A rotary operation, with the rows done (R334). -/
def RotOp.saved (r : RotOp) : List Nat :=
  [pack (opBits r.slot r.gen r.reg ++
      [bit r.query, (4, r.sfmt), (8, r.pairs), bit r.e4sat, bit r.nan, bit r.ovf, (16, r.row)]), r.no] ++
    halves r.desc ++ [r.src.toNat, r.base, r.table.toNat] ++ r.pages.saved ++ r.tPages.saved ++ r.dPages.saved

/-- A source of a vector instruction: its issue-time copies (R334). -/
def VecSource.saved : VecSource → List Nat
  | .memory ps va n => [0, va.toNat, n] ++ ps.saved
  | .values l => 1 :: packed l
  | .scalar v => [2, v]
  | .absent => [3]

/-- A vector instruction or SMX. -/
def VecOp.saved (o : VecOp) : List Nat :=
  [pack (opBits o.slot o.gen o.rd ++
      [(8, o.major), (8, o.minor), (3, o.rs1.val), (3, o.rs2.val), (8, o.mode), bit o.e4sat]),
    o.seed.toNat, o.va.toNat, o.bytes, o.pc.toNat] ++ halves o.desc ++ o.a.saved ++ o.b.saved ++ o.pages.saved

/-- A gather unit: its kernel store comes first. The context of an abandoned run is not kept (R317, R334). -/
def Gather.saved (g : Gather) : List Nat :=
  packed (g.store.map BitVec.toNat) ++
  [ pack (opBits g.slot g.gen g.reg ++
      [(2, match g.mode with | .idle => 0 | .armed => 1 | .faulted => 2 | .stopping => 3), bit g.ctx.sup, bit g.ctx.fw,
        (3, g.ctx.ecls.toNat), (2, g.ctx.prio.val), bit g.line.isSome, (6, g.line.getD 0), bit g.fault.isSome,
        (4, (g.fault.map fun f => f.code.num).getD 0)]),
    g.arg.toNat, g.watch.toNat, g.lines, g.buf.toNat, g.bytes, g.seen.toNat, g.runs,
    (g.fault.map fun f => f.va.toNat).getD 0, (g.fault.map GatherFault.offset).getD 0 ] ++
  packed g.waits ++ g.pages.saved ++ counted (fun e => [pack (opBits e.1 e.2.1 e.2.2)]) g.stop

/-- An operation that has started and not completed. -/
def EngineOp.saved (o : EngineOp) : List Nat :=
  [pack (opBits o.slot o.gen o.reg ++ (scopeList.map fun c => bit (o.scopes.contains c)) ++ [(16, o.issuer)]), o.no, o.va.toNat]

/-- The fibre that a wait of an engine answers is still there. -/
def Core.waits (c : Core) (slot : Nat) (gen : BitVec 8) : Bool := (c.slot slot).live && (c.slot slot).gen == gen

/-- What a save area holds of the engines (R334, R336), with what the tag table keeps beside its entries, as one run of words. -/
def Core.tape (c : Core) : List Nat :=
  Block.slot c.active ++ Block.slot c.incoming ++ counted fillingSaved c.filling.toList ++ counted MatCmd.saved c.mq ++
  counted RotOp.saved c.rq ++ counted VecOp.saved c.vq ++ counted VecOp.saved c.sq ++ c.gk.saved ++
  counted EngineOp.saved (c.ops.filter fun o => decide (o.slot < 256)) ++
  (c.tags.filter fun e => decide (e.2.slot < 256)).flatMap (fun e => e.2.more) ++
  counted (fun w => [pack (opBits w.slot w.gen w.reg ++ [(4, w.counter), (16, w.threshold)])])
    (c.hwaits.filter fun w => c.waits w.slot w.gen) ++
  counted (fun w => [pack (opBits w.slot w.gen w.reg ++ [(32, w.threshold)])])
    (c.mwaits.filter fun w => c.waits w.slot w.gen)

namespace State

/-- Translated pages of a tape. -/
def readPages (s : State) : Tape Pages := fun a =>
  let v := s.readPacked a
  let p := s.readPacked v.2
  (v.1.zip p.1, p.2)

/-- Bytes of a tape. -/
def readBytes (s : State) : Tape (List Byte) := fun a =>
  let l := s.readPacked a
  (l.1.map (BitVec.ofNat 8), l.2)

/-- A block of the B latch of a tape. -/
def readBlock (s : State) : Tape Block := fun a =>
  let d := s.readBytes (a + 16)
  let e := s.readBytes d.2
  ({ fmt := (s.word a).toNat, rows := (s.word (a + 8)).toNat, data := d.1, scales := e.1 }, e.2)

/-- A block of a tape that has come into INCOMING in part. -/
def readFilling (s : State) : Tape (Nat × Nat × List (Nat × List Byte)) := fun a =>
  let l := s.readCounted (fun b => let d := s.readBytes (b + 8); (((s.word b).toNat, d.1), d.2)) (a + 16)
  (((s.word a).toNat, (s.word (a + 8)).toNat, l.1), l.2)

/-- The generation in the first word of an operation. -/
def genOf (h : Nat) : BitVec 8 := BitVec.ofNat 8 (cut h 8 8)

/-- A matrix command of a tape, as appended in this ac. -/
def readMat (s : State) (ac : Nat) : Tape MatCmd := fun a =>
  let h := (s.word a).toNat
  let w := fun i => s.word (a + 48 + 8 * i)
  let n := s.readPacked (a + 120)
  let p1 := s.readPages n.2
  let p2 := s.readPages p1.2
  let p3 := s.readPages p2.2
  let p4 := s.readPages p3.2
  let p5 := s.readPages p4.2
  ({ no := (s.word (a + 8)).toNat, slot := cut h 0 8, gen := genOf h, reg := regOf (cut h 16 3)
     kind := matKinds.getD (cut h 19 3) .mma, pair := cut h 22 4, sa := cut h 26 8, sb := cut h 34 8, oFmt := cut h 42 4
     ovf := on h 46, nan := on h 47, fmtErr := on h 48, pushing := on h 49
     a := (s.readX (a + 16)).1, b := (s.readX (a + 32)).1, place := w 0, ascl := w 1, bscl := w 2, bgStride := (w 3).toNat
     out := w 4, oStride := (w 5).toNat, tile := (w 6).toNat, step := (w 7).toNat, steps := (w 8).toNat, counts := n.1
     aPages := p1.1, bPages := p2.1, asPages := p3.1, bsPages := p4.1, outPages := p5.1, since := ac }, p5.2)

/-- A rotary operation of a tape. -/
def readRot (s : State) : Tape RotOp := fun a =>
  let h := (s.word a).toNat
  let p1 := s.readPages (a + 56)
  let p2 := s.readPages p1.2
  let p3 := s.readPages p2.2
  ({ no := (s.word (a + 8)).toNat, slot := cut h 0 8, gen := genOf h, reg := regOf (cut h 16 3), query := on h 19
     sfmt := cut h 20 4, pairs := cut h 24 8, e4sat := on h 32, nan := on h 33, ovf := on h 34, row := cut h 35 16
     desc := (s.readX (a + 16)).1, src := s.word (a + 32), base := (s.word (a + 40)).toNat, table := s.word (a + 48)
     pages := p1.1, tPages := p2.1, dPages := p3.1 }, p3.2)

/-- A source of a vector instruction of a tape. -/
def readSource (s : State) : Tape VecSource := fun a =>
  match (s.word a).toNat with
  | 0 =>
    let p := s.readPages (a + 24)
    (.memory p.1 (s.word (a + 8)) (s.word (a + 16)).toNat, p.2)
  | 1 =>
    let l := s.readPacked (a + 8)
    (.values l.1, l.2)
  | 2 => (.scalar (s.word (a + 8)).toNat, a + 16)
  | _ => (.absent, a + 8)

/-- A vector instruction or SMX of a tape. -/
def readVec (s : State) : Tape VecOp := fun a =>
  let h := (s.word a).toNat
  let x := s.readSource (a + 56)
  let y := s.readSource x.2
  let p := s.readPages y.2
  ({ slot := cut h 0 8, gen := genOf h, rd := regOf (cut h 16 3), major := cut h 19 8, minor := cut h 27 8
     rs1 := regOf (cut h 35 3), rs2 := regOf (cut h 38 3), mode := cut h 41 8, e4sat := on h 49
     seed := (s.word (a + 8)).setWidth 32, va := s.word (a + 16), bytes := (s.word (a + 24)).toNat, pc := s.word (a + 32)
     desc := (s.readX (a + 40)).1, a := x.1, b := y.1, pages := p.1 }, p.2)

/-- A gather unit of a tape. -/
def readGather (s : State) : Tape Gather := fun a0 =>
  let st := s.readPacked a0
  let a := st.2
  let h := (s.word a).toNat
  let w := fun i => s.word (a + 8 * i)
  let l := s.readPacked (a + 80)
  let p := s.readPages l.2
  let e := s.readCounted (fun b => let v := (s.word b).toNat; ((cut v 0 8, genOf v, regOf (cut v 16 3)), b + 8)) p.2
  let prio : Fin 4 := (BitVec.ofNat 2 (cut h 26 2)).toFin
  ({ Gather.initial with
     mode := match cut h 19 2 with | 0 => .idle | 1 => .armed | 2 => .faulted | _ => .stopping
     store := st.1.map (BitVec.ofNat 16)
     slot := cut h 0 8, gen := genOf h, reg := regOf (cut h 16 3)
     ctx := { Slot.free with
       sup := on h 21, fw := on h 22, ecls := BitVec.ofNat 3 (cut h 23 3), prio := prio, eff := prio }
     line := if on h 28 then some (cut h 29 6) else none
     fault :=
       if on h 35 then
         some { code := (faultCodeOf (cut h 36 4)).getD .illegal, va := w 8, offset := (w 9).toNat }
       else none
     arg := w 1, watch := w 2, lines := (w 3).toNat, buf := w 4, bytes := (w 5).toNat, seen := w 6, runs := (w 7).toNat
     waits := l.1, pages := p.1, stop := e.1 }, e.2)

/-- An operation of a tape that has started and not completed. -/
def readOp (s : State) : Tape EngineOp := fun a =>
  let h := (s.word a).toNat
  ({ no := (s.word (a + 8)).toNat, slot := cut h 0 8, gen := genOf h, reg := regOf (cut h 16 3)
     scopes := scopeList.filter fun c => on h (19 + scopeNum c), va := s.word (a + 16), issuer := cut h 25 16 }, a + 24)

/-! ### The parts of an area -/

/-- The entries of n of a part of an area, each of k bytes, that hold something; where the lanes of its home do not read rightly, all
of them. -/
def filled (s : State) (lo n k : Nat) : List Nat :=
  if ((place lo).map fun h => s.readsWell h.1).getD true then
    ((s.mem.filter fun c => decide (lo ≤ c.1) && decide (c.1 < lo + n * k)).map fun c => (c.1 - lo) / k).eraseDups
  else List.range n

/-- A table of words of an area. -/
def areaTab {α : Type} (s : State) (lo n : Nat) (f : Nat → α) : Tab α := (s.filled lo n 8).map fun i => (i, f (s.word (lo + 8 * i)).toNat)

/-- The 4 bytes of an area from an address up. -/
def half (s : State) (a : Nat) : Nat := cut (s.word (a / 8 * 8)).toNat (a % 8 * 8) 32

/-- The control registers that a save area holds from offset 0xA000 up, in the order of R336. -/
def savedCrs : List Nat :=
  [0x004, 0x005, 0x010, 0x012, 0x016] ++ List.range' 0x020 32 ++ [0x015, 0x014, 0x100, 0x124]

/-- Words of a save area from an offset up. -/
def wordsAt (o : Nat) (l : List Nat) : List (Nat × Nat) := l.mapIdx fun i v => (o + 8 * i, v)

/-- Entries of 4 bytes from an offset up, two to a word. -/
def pairsAt (o : Nat) (t : Tab Nat) : List (Nat × Nat) :=
  ((t.map fun e => e.1 / 2).eraseDups).map fun i => (o + 8 * i, Tab.read t 0 (2 * i) + Tab.read t 0 (2 * i + 1) * 2 ^ 32)

/-- Lists of words of equal room in a save area. -/
def listsAt (o room : Nat) (l : List (List Nat)) : List (Nat × Nat) := (l.mapIdx fun i w => wordsAt (o + room * i) w).flatten

/-- What a save area holds of a core (R336), as offsets and words: the header; the slots; x, q, counters, predictor, free counters,
Ptr, and what orders the mailbox; the control registers, the tag table, the fault inbox; the engines; the station; the
mailbox. -/
def areaWords (s : State) (pid : Nat) : List (Nat × Nat) :=
  let c := s.core pid
  let slots := c.slots.filter fun e => decide (e.1 < 256)
  let tags := c.tags.filter fun e => decide (e.2.slot < 256)
  wordsAt 0
    [s.entryTask pid, s.entryPasid pid, (coord pid).toNat, s.rc, pack [bit (c.unc || slots.any fun e => e.2.live && e.2.unc)]] ++
  slots.flatMap (fun e => wordsAt (0x1000 + 128 * e.1) (e.2.saved c e.1)) ++
  wordsAt 0x9000 (c.x.toList.flatMap halves) ++
  listsAt 0x9100 136 (c.q.toList.map fun l => l.length :: l.map BitVec.toNat) ++
  c.counters.map (fun e => (0x9540 + 8 * e.1, e.2.1 * 2 ^ 8 + e.2.2)) ++
  c.pred.map (fun e => (0x9740 + 8 * e.1, e.2)) ++
  c.freeCtr.map (fun e => (0x9940 + 8 * e.1, e.2)) ++
  wordsAt 0x99C0 c.ptr.toList ++
  wordsAt 0x99E0
    [c.opNo, c.wdogCount, pack [bit c.resuming.isSome], (c.resuming.map Prod.fst).getD 0, (c.resuming.map Prod.snd).getD 0] ++
  wordsAt 0xA000 (savedCrs.map fun n => ((s.crRead pid 0 n).getD 0).toNat) ++
  pairsAt 0xA200 (tags.map fun e => (e.1, e.2.saved)) ++
  listsAt 0xAA00 80 (c.inbox.map fun r => Msg.saved r.msg) ++
  wordsAt 0xAF00 [c.inbox.length, pack (c.inbox.map fun r => (4, (r.back.map FaultCode.num).getD 0))] ++
  wordsAt 0xB000 (c.tape.take 10752) ++
  pairsAt 0x20000 (c.station.map fun e => (e.1, e.2.toNat)) ++
  listsAt 0x40000 128 ((c.part ++ c.reserve).map Held.saved) ++
  wordsAt 0x40058 [c.part.length, c.reserve.length, s.ringCount pid]

/-- The homes of a save area can be accessed now (R154, R350). -/
def areaReady (s : State) (area : Nat) : Bool :=
  ((List.range 32).all fun i => s.structReady (area + 256 * i)) && s.structReady (area + 0xFFFFF)

/-- The homes of a save area write what they are sent (R354). -/
def areaWell (s : State) (area : Nat) : Bool :=
  (List.range 32).all fun i => ((place (area + 256 * i)).map fun h => s.writesWell h.1).getD true

/-- A save area filled with zeros; where a lane of its homes does not write rightly, word by word as its lanes write (R354). -/
def clearArea (s : State) (area : Nat) : State :=
  if s.areaWell area then
    { s with
      mem := Memory.clear s.mem area (area + 0x100000)
      bad := s.bad.filter fun w => !(decide (area ≤ 8 * w) && decide (8 * w < area + 0x100000)) }
  else s.putWords area (List.replicate 0x20000 0)

/-- A save area written (R336): what is unused is 0. -/
def writeArea (s : State) (pid area : Nat) : State :=
  (s.areaWords pid).foldl (fun u e => u.putWord (area + e.1) (Word.ofNat e.2)) (s.clearArea area)

/-! ### A context by its area -/

/-- The slots of an area. -/
def areaSlots (s : State) (area ac : Nat) : Tab Slot :=
  (s.filled (area + 0x1000) 256 128).map fun n =>
    let a := area + 0x1000 + 128 * n
    (n, Slot.ofSaved (fun i => s.word (a + 8 * i)) ac s.seq (s.eccBad a 128))

/-- The slots of an area whose PAGEOUT waits for its drain. -/
def areaUnmapping (s : State) (area : Nat) : List Nat :=
  (s.filled (area + 0x1000) 256 128).filter fun n => on (s.word (area + 0x1000 + 128 * n + 104)).toNat 59

/-- The entries of 4 bytes of a part of an area, that are not 0. -/
def areaHalves (s : State) (lo n : Nat) : Tab Nat :=
  ((s.filled lo n 4).map fun i => (i, s.half (lo + 4 * i))).filter fun e => e.2 != 0

/-- The records of an area's mailbox from entry i up. -/
def areaHeld (s : State) (area ac i n : Nat) : List Held :=
  (List.range n).map fun k => Held.ofSaved (fun j => s.word (area + 0x40000 + 128 * (i + k) + 8 * j)) ac

/-- The fault inbox of an area. -/
def areaInbox (s : State) (area ac : Nat) : List Inboxed :=
  (List.range ((s.word (area + 0xAF00)).toNat % 32)).map fun i =>
    { msg := Msg.ofSaved fun j => s.word (area + 0xAA00 + 80 * i + 8 * j)
      back := faultCodeOf (cut (s.word (area + 0xAF08)).toNat (4 * i) 4), ac := ac }

/-- The engines of an area, put into a core. -/
def areaEngines (s : State) (area ac : Nat) (c : Core) : Core :=
  let act := s.readCounted s.readBlock (area + 0xB000)
  let inc := s.readCounted s.readBlock act.2
  let fil := s.readCounted s.readFilling inc.2
  let mq := s.readCounted (s.readMat ac) fil.2
  let rq := s.readCounted s.readRot mq.2
  let vq := s.readCounted s.readVec rq.2
  let sq := s.readCounted s.readVec vq.2
  let gk := s.readGather sq.2
  let ops := s.readCounted s.readOp gk.2
  let tags := s.areaHalves (area + 0xA200) 512
  let hw := s.readCounted
    (fun a =>
      let h := (s.word a).toNat
      (({ slot := cut h 0 8, gen := genOf h, reg := regOf (cut h 16 3), counter := cut h 19 4, threshold := cut h 23 16 } :
        HodWait), a + 8)) (ops.2 + 24 * tags.length)
  let mw := s.readCounted
    (fun a =>
      let h := (s.word a).toNat
      (({ slot := cut h 0 8, gen := genOf h, reg := regOf (cut h 16 3), threshold := cut h 19 32 } : MatWait), a + 8)) hw.2
  let queued (n : Nat) : Bool := (vq.1 ++ sq.1).any fun o => o.slot == n
  { c with
    active := act.1.head?, incoming := inc.1.head?, filling := fil.1.head?, mq := mq.1, rq := rq.1, vq := vq.1, sq := sq.1
    gk := { gk.1 with tags := c.gk.tags }
    ops := ops.1
    tags := tags.mapIdx fun i e =>
      let a := ops.2 + 24 * i
      (e.1, Tag.ofSaved e.2 (s.word a) (s.word (a + 8)) (s.word (a + 16)))
    hwaits := hw.1, mwaits := mw.1
    -- A fibre whose vector instruction or SMX stands in its queue waits for it (R204).
    slots := c.slots.map fun e => (e.1, if queued e.1 then { e.2 with hold := some .performing } else e.2) }

/-- The context of an area put into a core (R337), the control registers apart: what belongs to the core's place stays as it is
there. -/
def areaCore (s : State) (area ac : Nat) (c : Core) : Core :=
  let w := fun o => s.word (area + o)
  let n := fun o => (s.word (area + o)).toNat
  let part := n 0x40058 % 4096
  s.areaEngines area ac
    { c with
      slots := s.areaSlots area ac
      unmapping := s.areaUnmapping area
      x := Vector.ofFn fun i => w (0x9000 + 16 * i.val + 8) ++ w (0x9000 + 16 * i.val)
      q := Vector.ofFn fun i => (List.range (n (0x9100 + 136 * i.val) % 32)).map fun k => w (0x9108 + 136 * i.val + 8 * k)
      counters := s.areaTab (area + 0x9540) 64 fun v => (v / 2 ^ 8, v % 2 ^ 8)
      pred := s.areaTab (area + 0x9740) 64 id
      freeCtr := s.areaTab (area + 0x9940) 16 id
      ptr := Vector.ofFn fun i => n (0x99C0 + 8 * i.val)
      opNo := max c.opNo (n 0x99E0)
      wdogCount := n 0x99E8
      resuming := if on (n 0x99F0) 0 then some (n 0x99F8, n 0x9A00) else none
      station := (s.areaHalves (area + 0x20000) 0x8000).map fun e => (e.1, BitVec.ofNat 32 e.2)
      part := s.areaHeld area ac 0 part
      reserve := s.areaHeld area ac part (n 0x40060 % 4096)
      ringLen := n 0x40068
      inbox := s.areaInbox area ac }

end State

end Sys2Proof.Machine
end

