-- ==== Sys2Proof/Machine/Save.lean ====
section
/-!
DEFINITION. Pre-emption: PRE, the save of a context and its resume (R312, R333 to R337).
-/

namespace Sys2Proof.Machine

/-! ### PRE (R312, R333, R334) -/

/-- The status word of CTX.SAVE, CTX.LOAD and WIPE (R311). -/
def statusWord (val res : Nat) : Word := Word.ofNat (val % 2 ^ 32 * 2 ^ 32 + 2 ^ 31 + res)

/-- A gather unit at a pre-emption (R334): a run in progress is abandoned, and its line comes first again. -/
def Gather.preempted (g : Gather) : Gather :=
  if g.ctx.live then { g.abandon with line := none, waits := g.line.toList ++ g.waits } else g

/-- PRE_ARRIVAL (R312, R333): a PRE at a RUNNING core begins its pre-emption; at any other it is answered with RES 1. At spot:
the packet's place in flight. -/
def execPreArrival (s : State) : Host.Outcome State Fault Refusal :=
  match s.front s.spot.place with
  | some p =>
    match p.load, p.dst with
    | .msg m tagged, .core pid =>
      let s1 := s.taken s.spot.place
      if m.kind ≠ MsgKind.pre.num then .next s
      else if s.portRefuses p.src pid true then .next (s1.answer p m tagged 1)
      else if !s.portRuns pid then .next s
      else if s.entryState pid = 2 ∧ (s.core pid).saving.isNone = true then
        .next (s1.onCore pid fun c =>
          { c with
            saving := some { area := fld m.sel 0 48, pre := p, since := s.rc }
            gk := c.gk.preempted })
      else .next (s1.reply p.dst (s.replyPort p m) m 0 (statusWord 0 1))
    | _, _ => .next s
  | none => .next s

namespace State

/-- The units that still work for a core in its cluster (R334): an instruction of the vector or exponent unit; a step, a
store, a load or a zeroing of the matrix unit; a row of the rotary unit. -/
def engagedFor (s : State) (pid : Nat) : Bool :=
  let c := s.cluster (pid / 8)
  let k := pid % 8
  let ac := s.clusterAc (pid / 8)
  ([c.vec0.run, c.vec1.run, c.exp.run].any fun r => (r.map VecRun.core) == some pid) || !(s.core pid).xld.isEmpty ||
    (c.mat.core == some k &&
      (decide (ac < c.mat.until_) ||
        ((s.core pid).mq.head?.map fun h => !h.needsSteps) == some true)) ||
    (c.rot.core == some k && decide (ac < c.rot.until_))

end State

/-- CONTEXT_SAVED (R333, R336): every unit stands at its boundary; the area is written, the entry becomes SAVED, and the PRE is
answered. What the area's homes cannot take now waits (R154, R350). At spot: the core. -/
def execContextSaved (s : State) : Host.Outcome State Fault Refusal :=
  let pid := s.spot.place
  match (s.core pid).saving with
  | some v =>
    match v.pre.load with
    | .msg m _ =>
      if !s.portRuns pid || s.engagedFor pid || !s.areaReady v.area then .next s
      else
        let done (u : State) (res : Nat) : State :=
          (u.onCore pid fun c => { c with saving := none }).reply (.core pid) (s.replyPort v.pre m) m 0
            (statusWord (if res = 0 then s.rc - v.since else 0) res)
        if s.entryState pid ≠ 2 then .next (done s 1)
        else
          let s1 := (s.leaveUnits pid).writeArea pid v.area
          .next (done (s1.onCore pid fun c => { c with entry := c.entry.set 0 (c.entry[0] ||| 3#64) }) 0 |>.settleTokens (pid / 8))
    | _ => .next s
  | none => .next s

/-! ### RESUME (R312, R334, R337) -/

namespace State

/-- A control register of a core restored, whatever a store could change of it (R336, R337). -/
def restoreCr (s : State) (pid crn : Nat) (w : Word) : State :=
  match crn with
  | 0x010 => s.onCore pid fun c => { c with admitting := flag w 0 }
  | 0x012 => s.onCore pid fun c => { c with dead := fld w 0 32, lost := fld w 32 32 }
  | 0x014 => (s.writeBarx pid w).onCore pid fun c => { c with cnt0 := fld w 16 12 }
  | 0x015 => s.onCluster (pid / 8) fun c => { c with tknote := w }
  | 0x124 => s.onCore pid fun c => { c with wdog := w }
  | n =>
    if 0x030 ≤ n ∧ n < 0x040 then s.onCore pid fun c => { c with sdst := Tab.put c.sdst (n - 0x030) w }
    else s.crWrite pid 0 n w

/-- A latched arrival of a restored context reaches the root of its new core (R130). -/
def restoreArrivals (s : State) (pid : Nat) (arv : BitVec 4) : State :=
  [1, 2, 3, 4].foldl
    (fun u l =>
      if levelBit arv l && !levelBit (u.core pid).arv l then
        (u.onCore pid fun c => { c with arv := setLevelBit c.arv l true }).signal pid l .arrive
      else u) s

/-- The core whose context a save area holds, by the area's header. -/
def areaOwner (s : State) (area : Nat) : Option Nat := (s.cores.map Prod.fst).find? fun p => coord p == s.word (area + 16)

/-- The core that still holds the context of a save area (R337): SAVED with the area's task, and its context has gone nowhere else. -/
def areaHolder (s : State) (area : Nat) : Option Nat :=
  (s.areaOwner area).filter fun p =>
    s.entryState p == 3 && (s.core p).went.isNone && (s.word area).toNat == s.entryTask p

/-- What is in flight and would meet a context that comes to a core: what an earlier task has left there, and what a context that has
gone from there waits for. The load waits until it has ended (log 23). -/
def strays (s : State) (pid : Nat) : Bool :=
  let c := s.core pid
  (s.entryState pid == 1 && !(c.tags.isEmpty && c.ops.isEmpty && c.hods.isEmpty && c.gk.tags.isEmpty)) ||
    s.cores.any fun e => e.1 != pid && ((e.2.tags.any fun t => t.2.issuer == pid) || e.2.ops.any fun o => o.issuer == pid)

/-- A core whose context has been loaded on core pid (R337): it keeps its place, and the hod operations that go on there. -/
def Core.left (pid : Nat) (c : Core) : Core :=
  { c with
    kept := [], inbox := [], tags := [], ops := [], owedWords := [], slots := [], part := [], reserve := [], hwaits := [], mwaits := [],
    vq := [], sq := [], mq := [], rq := [], active := none, incoming := none, filling := none, station := [],
    gk := { Gather.initial with tags := c.gk.tags }, went := some pid }

/-- The locks of queued matrix and rotary operations at a cluster's table after their context has moved from core `old` to core pid:
in the same cluster they are the new core's, and another cluster's table lets them go (log 23). -/
def moveLocks (s : State) (old pid : Nat) : State :=
  let c := s.core old
  let mine (l : Lock) : Bool :=
    l.owner == old && ((l.eng == 2 && c.mq.any fun m => m.no == l.op) || (l.eng == 4 && c.rq.any fun r => r.no == l.op))
  if old / 8 = pid / 8 then
    s.onCluster (old / 8) fun k => { k with locks := k.locks.map fun e => (e.1, if mine e.2 then { e.2 with owner := pid } else e.2) }
  else s.releaseLocks (.cluster (old / 8)) mine

/-- The context of a save area at a core (R337): it is read from the area; what the saved core has kept and received since goes with
it, and the marks that SYSDRN has set on its operations (R323). -/
def restore (s : State) (pid area : Nat) : State :=
  let cur := s.core pid
  let ac := s.coreAc pid
  let old := (s.areaHolder area).getD pid
  let was := if s.areaHolder area = none then Core.initial pid else s.core old
  let waiting := s.entryState pid == 1
  let c := s.areaCore area ac cur
  let marked (n : Nat) : Bool := (Tab.look was.tags n).any fun t => t.snap
  let c1 : Core :=
    { c with
      kept := was.kept, owedWords := was.owedWords
      tags := c.tags.map fun e => (e.1, { e.2 with snap := marked e.1 })
      ops := c.ops.map fun o => { o with snap := was.ops.any fun p => p.no == o.no && p.snap }
      part := c.part ++ (if waiting then cur.part.map fun h => { h with ac := ac } else [])
      reserve := c.reserve ++ (if waiting then cur.reserve.map fun h => { h with ac := ac } else [])
      inbox :=
        (c.inbox ++ was.inbox.drop c.inbox.length ++ (if s.areaHolder area = some pid then [] else cur.inbox)).map fun r =>
          { r with ac := ac }
      xld := [], utlb := [], missing := [], clearing := false, saving := none, loading := none, went := none, unc := false
      last := none, issuedRc := none, delivAt := none }
  let s0 : State :=
    if old = pid then s
    else
      let t := (s.moveLocks old pid).onCore old (Core.left pid)
      { t with cores := t.cores.map fun e => (e.1, if e.2.went = some old then { e.2 with went := some pid } else e.2) }
  let s1 := { s0.setCore pid c1 with seq := s0.seq + 256 }
  let s2 := (savedCrs.zipIdx).foldl (fun u e => u.restoreCr pid e.1 (s.word (area + 0xA000 + 8 * e.2))) s1
  s2.restoreArrivals pid ((s.word (area + 0xA000 + 8 * savedCrs.idxOf 0x014)).extractLsb' 9 4)

/-- A TYPE 1 entry replayed (R335, R337): it writes its register and clears its mark, and the operation that it ends is no
longer outstanding. -/
def replayWrite (s : State) (pid : Nat) (m : Msg) : State :=
  let n := fld m.rw 0 8
  let g := BitVec.ofNat 8 (fld m.rw 8 8)
  let r : Reg := (m.rw.extractLsb' 16 3).toFin
  s.onCore pid fun c =>
    ({ c with ops := c.ops.filter fun o => !(o.slot == n && o.gen == g && o.reg == r) }).onFibre (s.coreAc pid) n g
      fun f => f.arrive r m.sel

/-- A TYPE 0 entry replayed (R337): a REPLY is applied, a DEPOSIT is applied where its register waits for it, and every other
record is placed. -/
def replayRecord (s : State) (pid : Nat) (m : Msg) : State :=
  if m.kind = MsgKind.reply.num then (s.endCheck pid m).onCore pid fun c => c.takeReply (s.coreAc pid) m
  else if m.kind = MsgKind.deposit.num ∧ depositCase (s.core pid) m = .applied then
    s.onSlot pid (fld m.sel 0 8) fun f => (f.arrive (m.sel.extractLsb' 16 3).toFin (m.word 0)).wake (s.coreAc pid)
  else (s.placeRecord pid m false).getD ((s.hold pid m false false s.seq).tick)

/-- The spill queue replayed (R337), at most n entries. -/
def replay (s : State) (pid : Nat) : Nat → State
  | 0 => s
  | n + 1 =>
    match s.ringHead pid (s.entryPasid pid) (s.entryAddr pid 5) with
    | none => s
    | some (m, type) =>
      let t := s.consumeRing pid (s.entryPasid pid) (s.entryAddr pid 5)
      (if fld type 0 8 = 1 then t.replayWrite pid m else t.replayRecord pid m).replay pid n

/-- The entries of a core's spill queue. -/
def spillCount (s : State) (pid : Nat) : Nat :=
  match s.ringAt pid (s.entryPasid pid) (s.entryAddr pid 5) with
  | none => 0
  | some r => r.count

/-- The task's spill queue can be read now: it has none, or its header is mapped and stands where it can be reached (log 9). -/
def spillReady (s : State) (pid : Nat) : Bool :=
  let hdr := s.entryAddr pid 5
  hdr == 0 || (s.ringAddr pid (s.entryPasid pid) hdr).any s.structReady

/-- Completions that waited at the port replayed, behind the spill queue (R335, R337). -/
def replayOwed (s : State) (pid : Nat) : State :=
  (s.core pid).owedWords.foldl
    (fun u e => u.replayWrite pid
      { rw := Word.ofNat (e.1 + e.2.1.toNat * 2 ^ 8 + e.2.2.1.val * 2 ^ 16), sel := e.2.2.2, data := [] })
    (s.onCore pid fun c => { c with owedWords := [] })

/-- A core that resumes (R337): the context, the spill queue, the releases that were kept, and RUNNING. -/
def resume (s : State) (pid area : Nat) : State :=
  let s1 := s.restore pid area
  let s2 := (s1.replay pid (s1.spillCount pid)).replayOwed pid
  let kept := (s2.core pid).kept
  let s3 := kept.foldl (fun u e => u.releaseAt pid (levelNum e.1) e.2) (s2.onCore pid fun c => { c with kept := [] })
  s3.onCore pid fun c => { c with entry := c.entry.set 0 ((c.entry[0] &&& ~~~3#64) ||| 2#64) }

/-- A context can be loaded now: the area's homes and the spill queue can be reached, and nothing of another context is in flight at
the core (R154, R350, log 23). -/
def mayLoad (s : State) (pid area : Nat) : Bool := s.areaReady area && s.spillReady pid && !s.strays pid

end State

/-- RESUME_ARRIVAL (R311, R312, R337): RES 1 where the core is neither SAVED nor PLACING, RES 2 where the area's task is another;
else the load begins, and at the next such step it ends: the context is restored, the core runs, and VAL is the rc that it
took. The load waits for what it cannot reach now. At spot: the packet's place in flight. -/
def execResumeArrival (s : State) : Host.Outcome State Fault Refusal :=
  match s.front s.spot.place with
  | some p =>
    match p.load, p.dst with
    | .msg m tagged, .core pid =>
      let s1 := s.taken s.spot.place
      let area := fld m.sel 0 48
      if m.kind ≠ MsgKind.resume.num then .next s
      else if s.portRefuses p.src pid true then .next (s1.answer p m tagged 1)
      else if !s.portRuns pid || (s.core pid).clearing then .next s
      else if s.entryState pid ≠ 1 ∧ s.entryState pid ≠ 3 then
        .next (s1.reply p.dst (s.replyPort p m) m 0 (statusWord 0 1))
      else if !s.areaReady area then .next s
      else if (s.word area).toNat ≠ s.entryTask pid then
        .next (s1.reply p.dst (s.replyPort p m) m 0 (statusWord 0 2))
      else
        match (s.core pid).loading with
        | none => .next (s.onCore pid fun c => { c with loading := some s.rc })
        | some t =>
          let u := s1.resume pid area
          if !s.mayLoad pid area || u.spillCount pid != 0 then .next s
          else .next (u.reply p.dst (s.replyPort p m) m 0 (statusWord (s.rc - t) 0))
    | _, _ => .next s
  | none => .next s

end Sys2Proof.Machine
end

