-- ==== Sys2Proof/Machine/Dispatch.lean ====
section
/-!
DEFINITION. The meaning of every instruction, one arm per constructor.
-/

namespace Sys2Proof.Machine

def exec (i : Instr) (s : State) : Host.Outcome State Fault Refusal :=
  match i with
  | .add rd rs1 rs2 => Sys2Proof.Machine.execAdd rd rs1 rs2 s
  | .sub rd rs1 rs2 => Sys2Proof.Machine.execSub rd rs1 rs2 s
  | .and rd rs1 rs2 => Sys2Proof.Machine.execAnd rd rs1 rs2 s
  | .or rd rs1 rs2 => Sys2Proof.Machine.execOr rd rs1 rs2 s
  | .xor rd rs1 rs2 => Sys2Proof.Machine.execXor rd rs1 rs2 s
  | .andn rd rs1 rs2 => Sys2Proof.Machine.execAndn rd rs1 rs2 s
  | .orn rd rs1 rs2 => Sys2Proof.Machine.execOrn rd rs1 rs2 s
  | .xnor rd rs1 rs2 => Sys2Proof.Machine.execXnor rd rs1 rs2 s
  | .mul rd rs1 rs2 => Sys2Proof.Machine.execMul rd rs1 rs2 s
  | .mulh rd rs1 rs2 => Sys2Proof.Machine.execMulh rd rs1 rs2 s
  | .mulhu rd rs1 rs2 => Sys2Proof.Machine.execMulhu rd rs1 rs2 s
  | .div rd rs1 rs2 => Sys2Proof.Machine.execDiv rd rs1 rs2 s
  | .divu rd rs1 rs2 => Sys2Proof.Machine.execDivu rd rs1 rs2 s
  | .rem rd rs1 rs2 => Sys2Proof.Machine.execRem rd rs1 rs2 s
  | .remu rd rs1 rs2 => Sys2Proof.Machine.execRemu rd rs1 rs2 s
  | .min rd rs1 rs2 => Sys2Proof.Machine.execMin rd rs1 rs2 s
  | .max rd rs1 rs2 => Sys2Proof.Machine.execMax rd rs1 rs2 s
  | .minu rd rs1 rs2 => Sys2Proof.Machine.execMinu rd rs1 rs2 s
  | .maxu rd rs1 rs2 => Sys2Proof.Machine.execMaxu rd rs1 rs2 s
  | .mov rd rs1 => Sys2Proof.Machine.execMov rd rs1 s
  | .sll rd rs1 rs2 => Sys2Proof.Machine.execSll rd rs1 rs2 s
  | .srl rd rs1 rs2 => Sys2Proof.Machine.execSrl rd rs1 rs2 s
  | .sra rd rs1 rs2 => Sys2Proof.Machine.execSra rd rs1 rs2 s
  | .rol rd rs1 rs2 => Sys2Proof.Machine.execRol rd rs1 rs2 s
  | .ror rd rs1 rs2 => Sys2Proof.Machine.execRor rd rs1 rs2 s
  | .seq rd rs1 rs2 => Sys2Proof.Machine.execSeq rd rs1 rs2 s
  | .sne rd rs1 rs2 => Sys2Proof.Machine.execSne rd rs1 rs2 s
  | .slt rd rs1 rs2 => Sys2Proof.Machine.execSlt rd rs1 rs2 s
  | .sltu rd rs1 rs2 => Sys2Proof.Machine.execSltu rd rs1 rs2 s
  | .sle rd rs1 rs2 => Sys2Proof.Machine.execSle rd rs1 rs2 s
  | .sleu rd rs1 rs2 => Sys2Proof.Machine.execSleu rd rs1 rs2 s
  | .sel rd rs1 rs2 => Sys2Proof.Machine.execSel rd rs1 rs2 s
  | .clz rd rs1 => Sys2Proof.Machine.execClz rd rs1 s
  | .ctz rd rs1 => Sys2Proof.Machine.execCtz rd rs1 s
  | .popc rd rs1 => Sys2Proof.Machine.execPopc rd rs1 s
  | .bswap rd rs1 => Sys2Proof.Machine.execBswap rd rs1 s
  | .lea rd rs1 rs2 shift => Sys2Proof.Machine.execLea rd rs1 rs2 shift s
  | .addi rd rs1 imm => Sys2Proof.Machine.execAddi rd rs1 imm s
  | .andi rd rs1 imm => Sys2Proof.Machine.execAndi rd rs1 imm s
  | .ori rd rs1 imm => Sys2Proof.Machine.execOri rd rs1 imm s
  | .xori rd rs1 imm => Sys2Proof.Machine.execXori rd rs1 imm s
  | .slti rd rs1 imm => Sys2Proof.Machine.execSlti rd rs1 imm s
  | .sltiu rd rs1 imm => Sys2Proof.Machine.execSltiu rd rs1 imm s
  | .muli rd rs1 imm => Sys2Proof.Machine.execMuli rd rs1 imm s
  | .slli rd rs1 count => Sys2Proof.Machine.execSlli rd rs1 count s
  | .srli rd rs1 count => Sys2Proof.Machine.execSrli rd rs1 count s
  | .srai rd rs1 count => Sys2Proof.Machine.execSrai rd rs1 count s
  | .seqi rd rs1 imm => Sys2Proof.Machine.execSeqi rd rs1 imm s
  | .snei rd rs1 imm => Sys2Proof.Machine.execSnei rd rs1 imm s
  | .li rd imm => Sys2Proof.Machine.execLi rd imm s
  | .lis rd imm => Sys2Proof.Machine.execLis rd imm s
  | .addpc rd imm => Sys2Proof.Machine.execAddpc rd imm s
  | .jal rd imm => Sys2Proof.Machine.execJal rd imm s
  | .j imm => Sys2Proof.Machine.execJ imm s
  | .beq rs1 rs2 off => Sys2Proof.Machine.execBeq rs1 rs2 off s
  | .bne rs1 rs2 off => Sys2Proof.Machine.execBne rs1 rs2 off s
  | .blt rs1 rs2 off => Sys2Proof.Machine.execBlt rs1 rs2 off s
  | .bge rs1 rs2 off => Sys2Proof.Machine.execBge rs1 rs2 off s
  | .bltu rs1 rs2 off => Sys2Proof.Machine.execBltu rs1 rs2 off s
  | .bgeu rs1 rs2 off => Sys2Proof.Machine.execBgeu rs1 rs2 off s
  | .loop rd off => Sys2Proof.Machine.execLoop rd off s
  | .jalr rd rs1 imm => Sys2Proof.Machine.execJalr rd rs1 imm s
  | .jr rs1 imm => Sys2Proof.Machine.execJr rs1 imm s
  | .fadd rd rs1 rs2 mode => Sys2Proof.Machine.execFadd rd rs1 rs2 mode s
  | .fsub rd rs1 rs2 mode => Sys2Proof.Machine.execFsub rd rs1 rs2 mode s
  | .fmul rd rs1 rs2 mode => Sys2Proof.Machine.execFmul rd rs1 rs2 mode s
  | .fdiv rd rs1 rs2 mode => Sys2Proof.Machine.execFdiv rd rs1 rs2 mode s
  | .fsqrt rd rs1 mode => Sys2Proof.Machine.execFsqrt rd rs1 mode s
  | .fma rd rs1 rs2 mode => Sys2Proof.Machine.execFma rd rs1 rs2 mode s
  | .fmin rd rs1 rs2 => Sys2Proof.Machine.execFmin rd rs1 rs2 s
  | .fmax rd rs1 rs2 => Sys2Proof.Machine.execFmax rd rs1 rs2 s
  | .fabs rd rs1 => Sys2Proof.Machine.execFabs rd rs1 s
  | .fneg rd rs1 => Sys2Proof.Machine.execFneg rd rs1 s
  | .feq rd rs1 rs2 => Sys2Proof.Machine.execFeq rd rs1 rs2 s
  | .flt rd rs1 rs2 => Sys2Proof.Machine.execFlt rd rs1 rs2 s
  | .fle rd rs1 rs2 => Sys2Proof.Machine.execFle rd rs1 rs2 s
  | .fclass rd rs1 => Sys2Proof.Machine.execFclass rd rs1 s
  | .ftoi rd rs1 mode => Sys2Proof.Machine.execFtoi rd rs1 mode s
  | .ftou rd rs1 mode => Sys2Proof.Machine.execFtou rd rs1 mode s
  | .itof rd rs1 mode => Sys2Proof.Machine.execItof rd rs1 mode s
  | .utof rd rs1 mode => Sys2Proof.Machine.execUtof rd rs1 mode s
  | .ftob rd rs1 mode => Sys2Proof.Machine.execFtob rd rs1 mode s
  | .btof rd rs1 => Sys2Proof.Machine.execBtof rd rs1 s
  | .ftoh rd rs1 mode => Sys2Proof.Machine.execFtoh rd rs1 mode s
  | .htof rd rs1 => Sys2Proof.Machine.execHtof rd rs1 s
  | .ldB rd base ea => Sys2Proof.Machine.execLdB rd base ea s
  | .ldH rd base ea => Sys2Proof.Machine.execLdH rd base ea s
  | .ldW rd base ea => Sys2Proof.Machine.execLdW rd base ea s
  | .ldD rd base ea => Sys2Proof.Machine.execLdD rd base ea s
  | .ldBu rd base ea => Sys2Proof.Machine.execLdBu rd base ea s
  | .ldHu rd base ea => Sys2Proof.Machine.execLdHu rd base ea s
  | .ldWu rd base ea => Sys2Proof.Machine.execLdWu rd base ea s
  | .stB rd base ea => Sys2Proof.Machine.execStB rd base ea s
  | .stH rd base ea => Sys2Proof.Machine.execStH rd base ea s
  | .stW rd base ea => Sys2Proof.Machine.execStW rd base ea s
  | .stD rd base ea => Sys2Proof.Machine.execStD rd base ea s
  | .aaddW rd base op ea => Sys2Proof.Machine.execAaddW rd base op ea s
  | .aaddD rd base op ea => Sys2Proof.Machine.execAaddD rd base op ea s
  | .aswapW rd base op ea => Sys2Proof.Machine.execAswapW rd base op ea s
  | .aswapD rd base op ea => Sys2Proof.Machine.execAswapD rd base op ea s
  | .aminW rd base op ea => Sys2Proof.Machine.execAminW rd base op ea s
  | .aminD rd base op ea => Sys2Proof.Machine.execAminD rd base op ea s
  | .amaxW rd base op ea => Sys2Proof.Machine.execAmaxW rd base op ea s
  | .amaxD rd base op ea => Sys2Proof.Machine.execAmaxD rd base op ea s
  | .aandW rd base op ea => Sys2Proof.Machine.execAandW rd base op ea s
  | .aandD rd base op ea => Sys2Proof.Machine.execAandD rd base op ea s
  | .aorW rd base op ea => Sys2Proof.Machine.execAorW rd base op ea s
  | .aorD rd base op ea => Sys2Proof.Machine.execAorD rd base op ea s
  | .axorW rd base op ea => Sys2Proof.Machine.execAxorW rd base op ea s
  | .axorD rd base op ea => Sys2Proof.Machine.execAxorD rd base op ea s
  | .acasW rd base op ea => Sys2Proof.Machine.execAcasW rd base op ea s
  | .acasD rd base op ea => Sys2Proof.Machine.execAcasD rd base op ea s
  | .fence scope => Sys2Proof.Machine.execFence scope s
  | .send rs1 rs2 => Sys2Proof.Machine.execSend rs1 rs2 s
  | .sendc rs1 rs2 => Sys2Proof.Machine.execSendc rs1 rs2 s
  | .dep rs1 rs2 => Sys2Proof.Machine.execDep rs1 rs2 s
  | .bind rd rs1 => Sys2Proof.Machine.execBind rd rs1 s
  | .cntset rs1 rs2 => Sys2Proof.Machine.execCntset rs1 rs2 s
  | .spawn rd rs1 rs2 => Sys2Proof.Machine.execSpawn rd rs1 rs2 s
  | .mig rs1 => Sys2Proof.Machine.execMig rs1 s
  | .qput q rs1 => Sys2Proof.Machine.execQput q rs1 s
  | .qget rd q => Sys2Proof.Machine.execQget rd q s
  | .qputNb q rs1 rs2 => Sys2Proof.Machine.execQputNb q rs1 rs2 s
  | .qgetNb rd q rs2 => Sys2Proof.Machine.execQgetNb rd q rs2 s
  | .qlen rd q => Sys2Proof.Machine.execQlen rd q s
  | .barArv rd rs1 level => Sys2Proof.Machine.execBarArv rd rs1 level s
  | .barWt rd rs1 level => Sys2Proof.Machine.execBarWt rd rs1 level s
  | .barExc level => Sys2Proof.Machine.execBarExc level s
  | .barRjn level => Sys2Proof.Machine.execBarRjn level s
  | .hodPush xn rd rs1 rs2 => Sys2Proof.Machine.execHodPush xn rd rs1 rs2 s
  | .hodTile xn xm rd rs1 => Sys2Proof.Machine.execHodTile xn xm rd rs1 s
  | .hodMc xn ctr rd rs1 rs2 => Sys2Proof.Machine.execHodMc xn ctr rd rs1 rs2 s
  | .hodFree rs1 => Sys2Proof.Machine.execHodFree rs1 s
  | .hodWt ctr rd rs1 => Sys2Proof.Machine.execHodWt ctr rd rs1 s
  | .hodCnt ctr rd => Sys2Proof.Machine.execHodCnt ctr rd s
  | .vadd xn rd rs1 rs2 => Sys2Proof.Machine.execVadd xn rd rs1 rs2 s
  | .vsub xn rd rs1 rs2 => Sys2Proof.Machine.execVsub xn rd rs1 rs2 s
  | .vmul xn rd rs1 rs2 => Sys2Proof.Machine.execVmul xn rd rs1 rs2 s
  | .vfma xn rd rs1 rs2 => Sys2Proof.Machine.execVfma xn rd rs1 rs2 s
  | .vmin xn rd rs1 rs2 => Sys2Proof.Machine.execVmin xn rd rs1 rs2 s
  | .vmax xn rd rs1 rs2 => Sys2Proof.Machine.execVmax xn rd rs1 rs2 s
  | .vabs xn rd rs1 => Sys2Proof.Machine.execVabs xn rd rs1 s
  | .vneg xn rd rs1 => Sys2Proof.Machine.execVneg xn rd rs1 s
  | .vexp2 xn rd rs1 => Sys2Proof.Machine.execVexp2 xn rd rs1 s
  | .vrcp xn rd rs1 => Sys2Proof.Machine.execVrcp xn rd rs1 s
  | .viadd xn rd rs1 rs2 => Sys2Proof.Machine.execViadd xn rd rs1 rs2 s
  | .visub xn rd rs1 rs2 => Sys2Proof.Machine.execVisub xn rd rs1 rs2 s
  | .vimul xn rd rs1 rs2 => Sys2Proof.Machine.execVimul xn rd rs1 rs2 s
  | .vand xn rd rs1 rs2 => Sys2Proof.Machine.execVand xn rd rs1 rs2 s
  | .vor xn rd rs1 rs2 => Sys2Proof.Machine.execVor xn rd rs1 rs2 s
  | .vxor xn rd rs1 rs2 => Sys2Proof.Machine.execVxor xn rd rs1 rs2 s
  | .vshl xn rd rs1 rs2 => Sys2Proof.Machine.execVshl xn rd rs1 rs2 s
  | .vshr xn rd rs1 rs2 => Sys2Proof.Machine.execVshr xn rd rs1 rs2 s
  | .vceq xn rd rs1 rs2 => Sys2Proof.Machine.execVceq xn rd rs1 rs2 s
  | .vclt xn rd rs1 rs2 => Sys2Proof.Machine.execVclt xn rd rs1 rs2 s
  | .vcle xn rd rs1 rs2 => Sys2Proof.Machine.execVcle xn rd rs1 rs2 s
  | .vsel xn rd rs1 rs2 => Sys2Proof.Machine.execVsel xn rd rs1 rs2 s
  | .vrsum xn rd rs1 => Sys2Proof.Machine.execVrsum xn rd rs1 s
  | .vrmax xn rd rs1 => Sys2Proof.Machine.execVrmax xn rd rs1 s
  | .vrmin xn rd rs1 => Sys2Proof.Machine.execVrmin xn rd rs1 s
  | .vnzs xn rd rs1 => Sys2Proof.Machine.execVnzs xn rd rs1 s
  | .vcvtBf xn rd rs1 => Sys2Proof.Machine.execVcvtBf xn rd rs1 s
  | .vcvtH xn rd rs1 => Sys2Proof.Machine.execVcvtH xn rd rs1 s
  | .vcvtE4 xn rd rs1 => Sys2Proof.Machine.execVcvtE4 xn rd rs1 s
  | .vcvtE5 xn rd rs1 => Sys2Proof.Machine.execVcvtE5 xn rd rs1 s
  | .vcvtSr4 xn rd rs1 => Sys2Proof.Machine.execVcvtSr4 xn rd rs1 s
  | .vcvtSr5 xn rd rs1 => Sys2Proof.Machine.execVcvtSr5 xn rd rs1 s
  | .vcvtF xn rd rs1 => Sys2Proof.Machine.execVcvtF xn rd rs1 s
  | .vexpI4 xn rd rs1 => Sys2Proof.Machine.execVexpI4 xn rd rs1 s
  | .vexpP23 xn rd rs1 => Sys2Proof.Machine.execVexpP23 xn rd rs1 s
  | .vexpP32 xn rd rs1 => Sys2Proof.Machine.execVexpP32 xn rd rs1 s
  | .mmaE4e4 xn xm rd rs1 rs2 => Sys2Proof.Machine.execMmaE4e4 xn xm rd rs1 rs2 s
  | .mmaE4e5 xn xm rd rs1 rs2 => Sys2Proof.Machine.execMmaE4e5 xn xm rd rs1 rs2 s
  | .mmaE5e4 xn xm rd rs1 rs2 => Sys2Proof.Machine.execMmaE5e4 xn xm rd rs1 rs2 s
  | .mmaE5e5 xn xm rd rs1 rs2 => Sys2Proof.Machine.execMmaE5e5 xn xm rd rs1 rs2 s
  | .mmaM8m8 xn xm rd rs1 rs2 => Sys2Proof.Machine.execMmaM8m8 xn xm rd rs1 rs2 s
  | .mmaF4f4 xn xm rd rs1 rs2 => Sys2Proof.Machine.execMmaF4f4 xn xm rd rs1 rs2 s
  | .mmaF4e4 xn xm rd rs1 rs2 => Sys2Proof.Machine.execMmaF4e4 xn xm rd rs1 rs2 s
  | .mmaB16 xn xm rd rs1 rs2 => Sys2Proof.Machine.execMmaB16 xn xm rd rs1 rs2 s
  | .mmaH16 xn xm rd rs1 rs2 => Sys2Proof.Machine.execMmaH16 xn xm rd rs1 rs2 s
  | .mmaI8 xn xm rd rs1 rs2 => Sys2Proof.Machine.execMmaI8 xn xm rd rs1 rs2 s
  | .mmz rd rs1 => Sys2Proof.Machine.execMmz rd rs1 s
  | .mst xn rd rs1 => Sys2Proof.Machine.execMst xn rd rs1 s
  | .mldc xn rd rs1 => Sys2Proof.Machine.execMldc xn rd rs1 s
  | .mring xn rd rs1 rs2 => Sys2Proof.Machine.execMring xn rd rs1 rs2 s
  | .gmm xn xm rd rs1 rs2 => Sys2Proof.Machine.execGmm xn xm rd rs1 rs2 s
  | .mwait rd rs1 => Sys2Proof.Machine.execMwait rd rs1 s
  | .mqry rd => Sys2Proof.Machine.execMqry rd s
  | .mbpass xn rd rs1 rs2 => Sys2Proof.Machine.execMbpass xn rd rs1 rs2 s
  | .tkreq rd rs1 => Sys2Proof.Machine.execTkreq rd rs1 s
  | .tklend rd rs1 => Sys2Proof.Machine.execTklend rd rs1 s
  | .tkret rd rs1 => Sys2Proof.Machine.execTkret rd rs1 s
  | .tkq rd => Sys2Proof.Machine.execTkq rd s
  | .ecls rd rs1 => Sys2Proof.Machine.execEcls rd rs1 s
  | .kldRot xn rd rs1 rs2 => Sys2Proof.Machine.execKldRot xn rd rs1 rs2 s
  | .qrot xn rd rs1 rs2 => Sys2Proof.Machine.execQrot xn rd rs1 rs2 s
  | .smx xn rd rs1 rs2 => Sys2Proof.Machine.execSmx xn rd rs1 rs2 s
  | .cacq rd rs1 => Sys2Proof.Machine.execCacq rd rs1 s
  | .crel rd rs1 => Sys2Proof.Machine.execCrel rd rs1 s
  | .cpos rd rs1 rs2 => Sys2Proof.Machine.execCpos rd rs1 rs2 s
  | .gkSet rs1 => Sys2Proof.Machine.execGkSet rs1 s
  | .gkArm xn rd rs1 => Sys2Proof.Machine.execGkArm xn rd rs1 s
  | .gkStop rd => Sys2Proof.Machine.execGkStop rd s
  | .xld xn base ea => Sys2Proof.Machine.execXld xn base ea s
  | .xset xn rs1 rs2 => Sys2Proof.Machine.execXset xn rs1 rs2 s
  | .xmov xn xm => Sys2Proof.Machine.execXmov xn xm s
  | .xmovDRead rd xn half => Sys2Proof.Machine.execXmovDRead rd xn half s
  | .xmovDWrite xn rs1 half => Sys2Proof.Machine.execXmovDWrite xn rs1 half s
  | .xmovW xn rs1 word => Sys2Proof.Machine.execXmovW xn rs1 word s
  | .crr rd crn => Sys2Proof.Machine.execCrr rd crn s
  | .crw crn rs1 => Sys2Proof.Machine.execCrw crn rs1 s
  | .crset crn rs1 => Sys2Proof.Machine.execCrset crn rs1 s
  | .crclr crn rs1 => Sys2Proof.Machine.execCrclr crn rs1 s
  | .trap rs1 => Sys2Proof.Machine.execTrap rs1 s
  | .tlbW rd rs1 rs2 => Sys2Proof.Machine.execTlbW rd rs1 rs2 s
  | .tlbInv rs1 => Sys2Proof.Machine.execTlbInv rs1 s
  | .tlbInva rs1 => Sys2Proof.Machine.execTlbInva rs1 s
  | .ctxSave rd rs1 rs2 => Sys2Proof.Machine.execCtxSave rd rs1 rs2 s
  | .ctxLoad rd rs1 rs2 => Sys2Proof.Machine.execCtxLoad rd rs1 rs2 s
  | .fres rd rs1 rs2 => Sys2Proof.Machine.execFres rd rs1 rs2 s
  | .fkill rd rs1 => Sys2Proof.Machine.execFkill rd rs1 s
  | .wipe rd rs1 => Sys2Proof.Machine.execWipe rd rs1 s
  | .icflush rd rs1 => Sys2Proof.Machine.execIcflush rd rs1 s
  | .nop hint => Sys2Proof.Machine.execNop hint s
  | .addiS rd rs imm => Sys2Proof.Machine.execAddiS rd rs imm s
  | .liS rd imm => Sys2Proof.Machine.execLiS rd imm s
  | .aluS rd rs fn => Sys2Proof.Machine.execAluS rd rs fn s
  | .accS rd rs fn => Sys2Proof.Machine.execAccS rd rs fn s
  | .ldS rd rs imm => Sys2Proof.Machine.execLdS rd rs imm s
  | .stS rd rs imm => Sys2Proof.Machine.execStS rd rs imm s
  | .ldpS rd rs fn1 size => Sys2Proof.Machine.execLdpS rd rs fn1 size s
  | .stpS rd rs size => Sys2Proof.Machine.execStpS rd rs size s
  | .beqS rd rs off => Sys2Proof.Machine.execBeqS rd rs off s
  | .bneS rd rs off => Sys2Proof.Machine.execBneS rd rs off s
  | .jS off => Sys2Proof.Machine.execJS off s
  | .slliS rd rs imm => Sys2Proof.Machine.execSlliS rd rs imm s
  | .srliS rd rs imm => Sys2Proof.Machine.execSrliS rd rs imm s
  | .sraiS rd rs imm => Sys2Proof.Machine.execSraiS rd rs imm s
  | .jrS rs1 => Sys2Proof.Machine.execJrS rs1 s
  | .nopS hint => Sys2Proof.Machine.execNopS hint s
  | .exit => Sys2Proof.Machine.execExit s
  | .yield => Sys2Proof.Machine.execYield s
  | .tret => Sys2Proof.Machine.execTret s
  | .exitS => Sys2Proof.Machine.execExitS s
  | .yieldS => Sys2Proof.Machine.execYieldS s
  | .agingPromotion => Sys2Proof.Machine.execAgingPromotion s
  | .icacheFill => Sys2Proof.Machine.execIcacheFill s
  | .xldComplete => Sys2Proof.Machine.execXldComplete s
  | .settle => Sys2Proof.Machine.execSettle s
  | .recordArrival => Sys2Proof.Machine.execRecordArrival s
  | .spillRefill => Sys2Proof.Machine.execSpillRefill s
  | .delivery => Sys2Proof.Machine.execDelivery s
  | .crAdmitWrite => Sys2Proof.Machine.execCrAdmitWrite s
  | .replyArrival => Sys2Proof.Machine.execReplyArrival s
  | .accessPerform => Sys2Proof.Machine.execAccessPerform s
  | .hodBeatInject => Sys2Proof.Machine.execHodBeatInject s
  | .hodBeatArrival => Sys2Proof.Machine.execHodBeatArrival s
  | .hodDestCompletion => Sys2Proof.Machine.execHodDestCompletion s
  | .freeCombine => Sys2Proof.Machine.execFreeCombine s
  | .freeCounterDecrement => Sys2Proof.Machine.execFreeCounterDecrement s
  | .barrierInputAtRoot => Sys2Proof.Machine.execBarrierInputAtRoot s
  | .barrierRelease => Sys2Proof.Machine.execBarrierRelease s
  | .vectorDispatch => Sys2Proof.Machine.execVectorDispatch s
  | .vectorComplete => Sys2Proof.Machine.execVectorComplete s
  | .matrixCommandStart => Sys2Proof.Machine.execMatrixCommandStart s
  | .matrixStep => Sys2Proof.Machine.execMatrixStep s
  | .matrixComplete => Sys2Proof.Machine.execMatrixComplete s
  | .rotaryStart => Sys2Proof.Machine.execRotaryStart s
  | .rotaryRow => Sys2Proof.Machine.execRotaryRow s
  | .rotaryComplete => Sys2Proof.Machine.execRotaryComplete s
  | .smxDispatch => Sys2Proof.Machine.execSmxDispatch s
  | .smxComplete => Sys2Proof.Machine.execSmxComplete s
  | .courseReleaseCheck => Sys2Proof.Machine.execCourseReleaseCheck s
  | .gatherRunStart => Sys2Proof.Machine.execGatherRunStart s
  | .gatherKernelStep => Sys2Proof.Machine.execGatherKernelStep s
  | .brokerRequest => Sys2Proof.Machine.execBrokerRequest s
  | .brokerReturn => Sys2Proof.Machine.execBrokerReturn s
  | .brokerLend => Sys2Proof.Machine.execBrokerLend s
  | .lendExpiry => Sys2Proof.Machine.execLendExpiry s
  | .noticeLands => Sys2Proof.Machine.execNoticeLands s
  | .noticePeriodEnd => Sys2Proof.Machine.execNoticePeriodEnd s
  | .regionBrokerMove => Sys2Proof.Machine.execRegionBrokerMove s
  | .ckctlGo => Sys2Proof.Machine.execCkctlGo s
  | .clockChangeDone => Sys2Proof.Machine.execClockChangeDone s
  | .lossOfClock => Sys2Proof.Machine.execLossOfClock s
  | .fwdWrite => Sys2Proof.Machine.execFwdWrite s
  | .clusterLeavesHold => Sys2Proof.Machine.execClusterLeavesHold s
  | .droopDetected => Sys2Proof.Machine.execDroopDetected s
  | .barcfgWrite => Sys2Proof.Machine.execBarcfgWrite s
  | .tkentGlWrite => Sys2Proof.Machine.execTkentGlWrite s
  | .zbrkBudgetWrite => Sys2Proof.Machine.execZbrkBudgetWrite s
  | .rbctlWrite => Sys2Proof.Machine.execRbctlWrite s
  | .turnWrite => Sys2Proof.Machine.execTurnWrite s
  | .darkLinkTimeout => Sys2Proof.Machine.execDarkLinkTimeout s
  | .regulatorFailure => Sys2Proof.Machine.execRegulatorFailure s
  | .fencecWrite => Sys2Proof.Machine.execFencecWrite s
  | .rangeLockRelease => Sys2Proof.Machine.execRangeLockRelease s
  | .trcfgWrite => Sys2Proof.Machine.execTrcfgWrite s
  | .stubWrite => Sys2Proof.Machine.execStubWrite s
  | .tknoteWrite => Sys2Proof.Machine.execTknoteWrite s
  | .taskEntryPlace => Sys2Proof.Machine.execTaskEntryPlace s
  | .taskEntryRun => Sys2Proof.Machine.execTaskEntryRun s
  | .taskEntryFree => Sys2Proof.Machine.execTaskEntryFree s
  | .placementClearDone => Sys2Proof.Machine.execPlacementClearDone s
  | .missArrival => Sys2Proof.Machine.execMissArrival s
  | .nomapArrival => Sys2Proof.Machine.execNomapArrival s
  | .sysdrnSnap => Sys2Proof.Machine.execSysdrnSnap s
  | .sysdrnDrained => Sys2Proof.Machine.execSysdrnDrained s
  | .faultArrival => Sys2Proof.Machine.execFaultArrival s
  | .faultDelivery => Sys2Proof.Machine.execFaultDelivery s
  | .migrateReturn => Sys2Proof.Machine.execMigrateReturn s
  | .pagein => Sys2Proof.Machine.execPagein s
  | .pagerSet => Sys2Proof.Machine.execPagerSet s
  | .pageout => Sys2Proof.Machine.execPageout s
  | .uncorrectedReport => Sys2Proof.Machine.execUncorrectedReport s
  | .preArrival => Sys2Proof.Machine.execPreArrival s
  | .contextSaved => Sys2Proof.Machine.execContextSaved s
  | .resumeArrival => Sys2Proof.Machine.execResumeArrival s
  | .wipeStart => Sys2Proof.Machine.execWipeStart s
  | .wipeDone => Sys2Proof.Machine.execWipeDone s
  | .icflushArrival => Sys2Proof.Machine.execIcflushArrival s
  | .watchdogExpiry => Sys2Proof.Machine.execWatchdogExpiry s
  | .rlcStateWrite => Sys2Proof.Machine.execRlcStateWrite s
  | .regionResetRelease => Sys2Proof.Machine.execRegionResetRelease s
  | .moduleResetRelease => Sys2Proof.Machine.execModuleResetRelease s
  | .bondlinkRetrain => Sys2Proof.Machine.execBondlinkRetrain s
  | .rdallWrite => Sys2Proof.Machine.execRdallWrite s
  | .wdallWrite => Sys2Proof.Machine.execWdallWrite s
  | .prbsTestGo => Sys2Proof.Machine.execPrbsTestGo s
  | .prbsTestEnd => Sys2Proof.Machine.execPrbsTestEnd s
  | .flashErase => Sys2Proof.Machine.execFlashErase s
  | .flashProgram => Sys2Proof.Machine.execFlashProgram s
  | .flashCommandEnd => Sys2Proof.Machine.execFlashCommandEnd s
  | .wearRetire => Sys2Proof.Machine.execWearRetire s
  | .stkstTempUpdate => Sys2Proof.Machine.execStkstTempUpdate s
  | .rimwipeGo => Sys2Proof.Machine.execRimwipeGo s
  | .rimwipeDone => Sys2Proof.Machine.execRimwipeDone s
  | .rimPushKick => Sys2Proof.Machine.execRimPushKick s
  | .rimPushSlot => Sys2Proof.Machine.execRimPushSlot s
  | .mxctlGo => Sys2Proof.Machine.execMxctlGo s
  | .measExtendDone => Sys2Proof.Machine.execMeasExtendDone s
  | .eqiKick => Sys2Proof.Machine.execEqiKick s
  | .qcreate => Sys2Proof.Machine.execQcreate s
  | .qdestroy => Sys2Proof.Machine.execQdestroy s
  | .liferead => Sys2Proof.Machine.execLiferead s
  | .measure => Sys2Proof.Machine.execMeasure s
  | .keyenroll => Sys2Proof.Machine.execKeyenroll s
  | .lifetimeRecordAppend => Sys2Proof.Machine.execLifetimeRecordAppend s
  | .registerWrite => Sys2Proof.Machine.execRegisterWrite s
  | .iommuInvalidation => Sys2Proof.Machine.execIommuInvalidation s
  | .supervisorWordArrival => Sys2Proof.Machine.execSupervisorWordArrival s
  | .bondlinkRetrainEnd => Sys2Proof.Machine.execBondlinkRetrainEnd s

end Sys2Proof.Machine
end

