-- ==== Sys2Proof/Machine/Launch.lean ====
section
/-!
DEFINITION. What Flatar does to the machine in its own time: partitions and ranks (R95, R96), launches (R98, R122, R362 to R365),
and the inputs of the companion. These are no instructions: turns of the plan say when they happen (log 1).
-/

namespace Sys2Proof.Machine

/-! ### Partitions and the rank walk (R95) -/

namespace State

/-- The cores that the rank walk of some regions visits: by region, cluster and core, without dead cores and spares (R95). -/
def walk (s : State) (regions spares : List Nat) : List Nat :=
  ((List.range 63).filter regions.contains).flatMap fun r =>
    (List.range 36).flatMap fun c =>
      ((List.range 8).map fun k => 512 * r + 8 * c + k).filter fun p => !s.coreDead p && !spares.contains p

/-- The direction from a region to its parent in the tree that Flatar builds toward a keystone (R171), numbered as PARENT: along
the row of regions first, then along the keystone's column; 0 for the keystone itself. -/
def parentToward (key r : Nat) : Nat :=
  if r % 9 < key % 9 then 2 else if key % 9 < r % 9 then 4 else if key / 9 < r / 9 then 1 else if r / 9 < key / 9 then 3 else 0

/-- BARCFG of a region in the tree of a partition (R171): KEY, PARENT, and CHILD for each neighbour of the partition whose parent
the region is. -/
def barcfgFor (regions : List Nat) (key r : Nat) : Word :=
  let child (d : Nat) : Nat :=
    match neighbour r d with
    | some n => if regions.contains n && parentToward key n == (d + 2) % 4 + 1 then 2 ^ (8 + d) else 0
    | none => 0
  Word.ofNat (parentToward key r + (if r = key then 2 ^ 7 else 0) + ((List.range 4).map child).sum)

/-- Regions that a partition may have (R342): a rectangle of whole regions, one of them a rim region. -/
def isPartition (regions : List Nat) : Bool :=
  let rows := (List.range 7).filter fun y => regions.any fun r => r / 9 == y
  let cols := (List.range 9).filter fun x => regions.any fun r => r % 9 == x
  let all := (List.range 63).filter fun r => rows.contains (r / 9) && cols.contains (r % 9)
  regions.all (· < 63) && all.all regions.contains && all.any (fun r => (regionStack r).isSome) &&
    rows == List.range' (rows.headD 0) rows.length && cols == List.range' (cols.headD 0) cols.length

/-- A partition formed (R95, R96, R171, R322, R342): each of its regions holds the table of its walk, its mask, its grid, and its place in
the wafer tree. Flatar chooses W × H no larger than the number of cores that the walk visits. -/
def formPartition (s : State) (regions : List Nat) (key w h : Nat) (spares : List Nat) : State :=
  let cores := (s.walk regions spares).take (w * h)
  if !isPartition regions || !regions.contains key || decide (cores.length < w * h) then s
  else
    let table : Tab (BitVec 16) := cores.mapIdx fun i p => (i, BitVec.ofNat 16 (0x8000 + p))
    let mask : BitVec 63 := regions.foldl (fun m r => m ||| (1#63 <<< r)) 0#63
    regions.foldl
      (fun u r =>
        ({ u with ranks := Tab.put u.ranks r table, ranksAt := u.ranksAt.filter fun e => e.1 / 64 != r }.onRegion r fun x =>
          { x with mask := mask, grid := (w, h) }).writeBarcfg r (barcfgFor regions key r)) s

end State

/-! ### Launch records (R364) -/

/-- The fields of a launch record that a launch uses (R364). -/
structure Record where
  words : List Word
deriving DecidableEq, Repr

namespace Record

/-- Word i. -/
def word (r : Record) (i : Nat) : Word := r.words.getD i 0
/-- SHAPE is a run. -/
def isRun (r : Record) : Bool := flag (r.word 0) 8
/-- PAYALL: one payload for every rank. -/
def payAll (r : Record) : Bool := flag (r.word 0) 10
/-- The length of the data image. -/
def dataBytes (r : Record) : Nat := fld (r.word 5) 32 32
/-- The TCM offset of the data image. -/
def dataOffset (r : Record) : Nat := fld (r.word 7) 0 18

/-- Every reserved bit is 0 and every limit is kept (R362, R364). -/
def wellFormed (r : Record) : Bool :=
  let w := r.word 0
  fld w 0 8 == 1 && fld w 14 2 == 0 && fld w 19 5 == 0 &&
    (if r.isRun then fld (r.word 1) 16 16 == 0 && fld (r.word 1) 48 16 == 0 && decide (0 < fld (r.word 1) 32 16)
     else decide (0 < fld (r.word 1) 32 16) && decide (0 < fld (r.word 1) 48 16)) &&
    decide (r.dataBytes ≤ 262144) && r.dataOffset % 64 == 0 && fld (r.word 7) 18 46 == 0 &&
    decide (r.dataOffset + r.dataBytes ≤ 262144) && r.word 14 == 0 && (r.word 15).toNat % 16 == 0

/-- Word i of the task entry of the core of the j-th rank (R100), for a task of a PASID; STATE is PLACING. -/
def entry (r : Record) (task pasid j i : Nat) : Word :=
  let w := r.word 0
  let addr (v : Word) : Word := v &&& 0x00FFFFFFFFFFFFFF#64
  match i with
  | 0 =>
    Word.ofNat (1 + task * 2 ^ 8 + pasid * 2 ^ 24 + fld w 12 2 * 2 ^ 44 + fld w 16 3 * 2 ^ 46 +
      fld w 9 1 * 2 ^ 49 + fld w 11 1 * 2 ^ 50 + (if flag w 11 then fld w 24 8 * 2 ^ 56 else 0))
  | 1 => addr (r.word 3)
  | 2 => Word.ofNat (fld w 32 16 + fld w 48 8 * 2 ^ 16 + fld w 56 8 * 2 ^ 24)
  | 3 => addr (r.word 9 + Word.ofNat (32 * j))
  | 4 => addr (r.word 10)
  | 5 => addr (r.word 11)
  | 6 => addr (r.word 12)
  | _ => addr (r.word 13)

end Record

/-- STATUS of a completion (R365). -/
inductive LaunchStatus where
  | launched | malformed | noPlacement | badLimit | page | noTask
deriving DecidableEq, Repr

/-- The number of a status. -/
def LaunchStatus.num : LaunchStatus → Nat
  | .launched => 0 | .malformed => 1 | .noPlacement => 2 | .badLimit => 3 | .page => 4 | .noTask => 5

namespace State

/-! ### Memory under a PASID -/

/-- An 8-byte word under a PASID, as Flatar reads it (log 41); none for a page that is not there. -/
def pasidWord (s : State) (pasid : Nat) (va : Word) : Option Word :=
  (s.rimTranslate pasid .load va).bind fun pa => if s.eccBad pa 8 then none else some (s.word pa)

/-- n words under a PASID. -/
def pasidWords (s : State) (pasid : Nat) : Nat → Word → Option (List Word)
  | 0, _ => some []
  | n + 1, va =>
    match s.pasidWord pasid va, s.pasidWords pasid n (va + 8) with
    | some w, some l => some (w :: l)
    | _, _ => none

/-- n bytes under a PASID; none where a page is not there. -/
def pasidBytes (s : State) (pasid : Nat) (va : Word) (n : Nat) : Option (List Byte) :=
  if n = 0 then some [] else (s.rimRange pasid .load va n).map fun ps => ps.bytes s.mem va n

/-- A word written under a PASID, where its page may be written. -/
def pasidWrite (s : State) (pasid : Nat) (va v : Word) : State :=
  match s.rimTranslate pasid .store va with
  | some pa => s.putWord pa v
  | none => s

/-- The completion of a record (R365). -/
def writeCompletion (s : State) (pasid region task : Nat) (at_ : Word) (st : LaunchStatus) : State :=
  (s.pasidWrite pasid at_ (Word.ofNat (st.num + 2 ^ 31 + task * 2 ^ 32))).pasidWrite pasid (at_ + 8) (s.time region)

/-! ### Placement (R98, R110, R115, R122) -/

/-- The ranks of a record's footprint in row-major order (R98); none where a rectangle runs past the grid. -/
def footprint (s : State) (region : Nat) (r : Record) : Option (List Nat) :=
  let w := r.word 1
  if r.isRun then some ((List.range (fld w 32 16)).map fun i => fld w 0 16 + i)
  else
    let g := (s.region region).grid
    if fld w 0 16 + fld w 32 16 ≤ g.2 ∧ fld w 16 16 + fld w 48 16 ≤ g.1 then
      some ((List.range (fld w 32 16)).flatMap fun i =>
        (List.range (fld w 48 16)).map fun j => (fld w 0 16 + i) * g.1 + fld w 16 16 + j)
    else none

/-- The cores of ranks, each live, not fenced and FREE, in an Assigned region; none where there is no such placement (R98). -/
def placement (s : State) (region : Nat) : List Nat → Option (List Nat)
  | [] => some []
  | n :: ns =>
    match s.rankPort (rimCore region) n, s.placement region ns with
    | some (.core p), some l =>
      if !isService p && s.entryState p == 0 && !s.coreDead p && !(s.core p).fenced && (s.region (p / 512)).life == .assigned
      then some (p :: l) else none
    | _, _ => none

/-- The minimum numbers of cores by kind are met (R98). -/
def kindsMet (r : Record) (cores : List Nat) : Bool :=
  let n (k : Kind) : Nat := (cores.filter fun p => kindOf (p / 8 % 64) == k).length
  decide (fld (r.word 2) 0 16 ≤ n .dense) && decide (fld (r.word 2) 16 16 ≤ n .attention) &&
    decide (fld (r.word 2) 32 16 ≤ n .sparse) && decide (fld (r.word 2) 48 16 ≤ n .vector)

/-- A ring header keeps its limits (R115); none where its page is not there. -/
def ringHeaderOk (s : State) (pasid : Nat) (va : Word) : Option Bool :=
  (s.pasidWords pasid 2 va).map fun l =>
    (l.getD 0 0).toNat % 128 == 0 && decide (4 ≤ (l.getD 1 0).toNat) && decide ((l.getD 1 0).toNat ≤ 20)

/-- The headers of a launch's rings: every one is there and keeps its limits. -/
def headersOk (s : State) (pasid : Nat) : List Word → Option Bool
  | [] => some true
  | va :: l =>
    match s.ringHeaderOk pasid va, s.headersOk pasid l with
    | some a, some b => some (a && b)
    | _, _ => none

/-- The lowest task id that the directory does not show as placed or running (R94, log 43). -/
def freeTask (s : State) : Option Nat :=
  (List.range' 1 4095).find? fun t =>
    match Tab.look s.host.directory t with
    | some i => i.phase == .exited
    | none => true

/-- A queue replaced. -/
def setQueue (s : State) (n : Nat) (q : Queue) : State := { s with host := { s.host with queues := Tab.put s.host.queues n q } }

/-- A task's directory entry set (R116). -/
def setTask (s : State) (t : Nat) (i : TaskInfo) : State :=
  { s with host := { s.host with directory := Tab.put s.host.directory t i } }

/-- The task entries of a launch written in state PLACING (R122 step 4). -/
def placeTask (s : State) (r : Record) (task pasid : Nat) (cores : List Nat) : State :=
  cores.zipIdx.foldl
    (fun u e => ([1, 2, 3, 4, 5, 6, 7, 0] : List (Fin 8)).foldl (fun v i => v.writeEntry e.1 i (r.entry task pasid e.2 i.val)) u) s

/-- Whether a task may use a level (R127): no other task holds a core in a unit of the level that the task occupies. -/
def levelFree (s : State) (task l : Nat) (cores : List Nat) : Bool :=
  cores.all fun p => (s.unitCores p l).all fun q => s.entryState q == 0 || s.entryTask q == task

/-- Flatar grants a level to a placed task (R127): GRANT, and EXC at the level, 0 on the task's cores and 1 on every other core of
their units. -/
def openLevel (s : State) (cores : List Nat) (l : Nat) : State :=
  let others := ((cores.flatMap fun p => s.unitCores p l).filter fun q => !cores.contains q).eraseDups
  let t := cores.foldl
    (fun u p => (u.onCore p fun c => { c with grant := setLevelBit c.grant l true }).excuse p l false) s
  others.foldl (fun u q => if levelBit (u.core q).exc l then u else u.excuse q l true) t

/-- The levels that Flatar grants at placement (R127): the cores' GRANT names no other level. -/
def grantLevels (s : State) (task : Nat) (cores : List Nat) : State :=
  let t := cores.foldl (fun u p => u.onCore p fun c => { c with grant := 0 }) s
  ([1, 2, 3, 4] : List Nat).foldl (fun u l => if s.levelFree task l cores then u.openLevel cores l else u) t

/-- Flatar writes cr.tvec before RUNNING (R303): where its supervisor code stands is free (log 46). -/
def setVectors (s : State) (cores : List Nat) : State :=
  cores.foldl (fun u p => u.onCore p fun c => { c with tvec := Word.ofNat (Config.trapEntry.toNat * 2) }) s

/-- The mailbox share that a core takes in a launch does not overlap that of its bank's other core, where the launch places that
too (R110). -/
def sharesApart (s : State) (cores : List Nat) (pid : Nat) : Bool :=
  let other := if pid % 2 = 0 then pid + 1 else pid - 1
  let a := (s.core pid).mbcfg
  let b := (s.core other).mbcfg
  !cores.contains other || decide (fld a 0 11 + fld a 16 12 ≤ fld b 0 11) || decide (fld b 0 11 + fld b 16 12 ≤ fld a 0 11)

/-- What a record is: refused, or placed as a task on cores (R122 steps 2 and 3, R365). -/
def judge (s : State) (region pasid : Nat) (r : Record) : Except LaunchStatus (Nat × List Nat) :=
  if !r.wellFormed then .error .malformed
  else
    match s.freeTask with
    | none => .error .noTask
    | some task =>
      match (s.footprint region r).bind (s.placement region) with
      | none => .error .noPlacement
      | some cores =>
        if !kindsMet r cores then .error .noPlacement
        else if !cores.all s.mailboxOk || !cores.all (s.sharesApart cores) then .error .badLimit
        else
          match s.headersOk pasid
              ([r.word 10, r.word 11, r.word 12] ++ (List.range cores.length).map fun j => r.word 9 + Word.ofNat (32 * j)) with
          | none => .error .page
          | some false => .error .badLimit
          | some true => .ok (task, cores)

/-- Where the completion of a record goes that cannot be read whole (R365): the address in its word 15 if that can be read, else
a slot of 16 bytes of the queue's completion ring (log 27). -/
def completionFor (s : State) (q : Queue) : Word :=
  (s.pasidWord q.pasid (q.ring + Word.ofNat (q.consumer % 2 ^ q.k * 128 + 120))).getD
    (q.completion + Word.ofNat (q.consumer % 2 ^ q.k * 16))

/-- Flatar takes the next record of a queue (R122 steps 2 to 4, R363): a record that it refuses, or cannot read, gets its
completion at once. -/
def takeRecord (s : State) (n region : Nat) : State :=
  match Tab.look s.host.queues n with
  | none => s
  | some q =>
    if q.launch.isSome ∨ q.producer ≤ q.consumer then s
    else
      let next : Queue := { q with consumer := q.consumer + 1 }
      match s.pasidWords q.pasid 16 (q.ring + Word.ofNat (q.consumer % 2 ^ q.k * 128)) with
      | none => (s.setQueue n next).writeCompletion q.pasid region 0 (s.completionFor q) .page
      | some words =>
        let r : Record := { words := words }
        match s.judge region q.pasid r with
        | .error st => (s.setQueue n next).writeCompletion q.pasid region 0 (r.word 15) st
        | .ok (task, cores) =>
          (((s.setQueue n { next with launch := some { task := task, cores := cores, words := words, sent := 0, tags := [] } }).setTask task
            { phase := .placing, pasid := q.pasid, inbound := r.word 10, deadl := r.word 12 }).placeTask r task q.pasid cores
              ).grantLevels task cores

/-- The data image of the core of the j-th rank pushed, and its start RUN sent by the region's service core under a tag of it
(R122 steps 4 and 5); none where a page is not there. -/
def startRun (s : State) (r : Record) (region task pasid j pid tag : Nat) : Option State :=
  let svc := rimCore region
  let va := r.word 8 + (if r.payAll then 0 else Word.ofNat (64 * j))
  match s.pasidBytes pasid (r.word 6) r.dataBytes, s.pasidWords pasid 8 va with
  | some image, some payload =>
    let t := (s.writeBytes (tcmBase pid + r.dataOffset) image).onCore svc fun c =>
      { c with
        tags := Tab.put c.tags tag
          { slot := 256, gen := 0, use := .posted .message, scope := .wafer, pc := 0, place := Word.ofNat (s.rankOf pid),
            issuer := svc } }
    some
      (t.sendTagged (.core svc) (.core pid)
        { kind := .run, tc := 1, ecls := 0, prio := 0, size := true, dest := s.rankOf pid, task := task,
          src := serviceRank region }
        tag 0 payload)
  | _, _ => none

/-- The ring at a header under a PASID, as Flatar reads it: its header's words; none where a page is not there. -/
def inboundRing (s : State) (pasid : Nat) (hdr : Word) : Option Ring :=
  match s.rimTranslate pasid .store hdr, s.pasidWords pasid 4 hdr with
  | some pa, some [base, k, p, c] =>
    some { header := pa, base := base, slots := 2 ^ k.toNat, producer := p.toNat, consumer := c.toNat }
  | _, _ => none

/-- The records of a task's inbound ring, sent again by Flatar in ring order (R116, R122 step 7), at most n; and whether the ring
is empty then. A record whose page is not there now waits for a later turn. -/
def redeliver (s : State) (region pid pasid : Nat) (hdr : Word) : Nat → Bool × State
  | 0 => ((s.inboundRing pasid hdr).any fun r => r.count == 0, s)
  | n + 1 =>
    match s.inboundRing pasid hdr with
    | none => (false, s)
    | some r =>
      if r.count = 0 then (true, s)
      else
        match s.pasidWords pasid 10 (r.slot r.consumer) with
        | none => (false, s)
        | some l =>
          let rw := l.getD 0 0
          let m : Msg := { rw := rw, sel := l.getD 1 0, data := (l.drop 2).take (if flag rw 52 then 8 else 1) }
          let t := s.putWord (r.header + 24) (Word.ofNat (r.consumer + 1))
          (match t.rankPort pid m.dest with
           | some p => t.inject (.core (rimCore region)) p m.tc (.msg m false)
           | none => t).redeliver region pid pasid hdr n

/-- The entries of a launch's cores with a STATE. -/
def launchState (s : State) (q : Queue) (l : Launch) (st : Nat) : State :=
  l.cores.zipIdx.foldl
    (fun v e =>
      v.writeEntry e.1 0
        ((({ words := l.words } : Record).entry l.task q.pasid e.2 0 &&& ~~~3#64) ||| Word.ofNat st)) s

/-- Flatar goes on with a launch that is placed (R122 steps 4 to 7, R365). Once the clears of its cores have ended it sends the
start RUNs, one each time, and waits for their REPLYs; then the cores run, and the inbound ring is redelivered, in later turns where
a page of it is not there. A page that is not there before ends it with STATUS 4, its entries FREE again. -/
def startLaunch (s : State) (n region : Nat) : State :=
  match Tab.look s.host.queues n with
  | none => s
  | some q =>
    match q.launch with
    | none => s
    | some l =>
      let r : Record := { words := l.words }
      let svc := rimCore region
      let done := s.setQueue n { q with launch := none }
      if l.cores.any fun p => (s.core p).clearing then s
      else
        match l.cores[l.sent]? with
        | some pid =>
          match freeIndex (s.core svc).tags 512 with
          | none => s
          | some tag =>
            match s.startRun r region l.task q.pasid l.sent pid tag with
            | some t => t.setQueue n { q with launch := some { l with sent := l.sent + 1, tags := tag :: l.tags } }
            | none =>
              let t := done.launchState q l 0
              ({ t with host := { t.host with directory := Tab.remove t.host.directory l.task } }).writeCompletion
                q.pasid region 0 (r.word 15) .page
        | none =>
          let again (v : State) : State :=
            let e := v.redeliver region (l.cores.headD 0) q.pasid (r.word 10)
              (((v.inboundRing q.pasid (r.word 10)).map Ring.count).getD 0)
            e.2.setQueue n { q with launch := if e.1 then none else some { l with sent := l.cores.length + 1 } }
          if l.cores.length < l.sent then again s
          else if l.tags.any fun g => (Tab.look (s.core svc).tags g).any fun e => e.slot == 256 then s
          else
            again ((((done.setVectors l.cores).launchState q l 2).setTask l.task
              { phase := .running, pasid := q.pasid, inbound := r.word 10, deadl := r.word 12 }).writeCompletion
                q.pasid region l.task (r.word 15) .launched)

/-- Flatar notes that a task has exited (R116): no core holds it any more. -/
def exitTask (s : State) (task : Nat) : State :=
  match Tab.look s.host.directory task with
  | none => s
  | some i =>
    if (s.cores.map Prod.fst).any fun p => !isService p && s.entryState p != 0 && s.entryTask p == task then s
    else s.setTask task { i with phase := .exited }

/-! ### Inputs -/

/-- The route to a module opened or closed (R366): bond ports are 8 to 15 (R151). -/
def setPodRoute (s : State) (m : Nat) (p : Option Nat) : State :=
  let t := match p with | some b => Tab.put s.host.routes m b | none => Tab.remove s.host.routes m
  if m < 16 then { s with host := { s.host with routes := t } } else s

/-- The region of the partition that Flatar names for arrivals from a module (R366). -/
def setIngress (s : State) (m : Nat) (r : Option Nat) : State :=
  let t := match r with | some q => Tab.put s.host.ingress m q | none => Tab.remove s.host.ingress m
  if m < 16 then { s with host := { s.host with ingress := t } } else s

/-- A message that comes in from another module (R366): DEST is looked up in the table of the partition named for that module,
and a missing entry refuses it with HOME_FENCED. A REPLY that comes back goes to the core that it names. -/
def podArrival (s : State) (m : Nat) (w : Msg) (tagged : Bool) : State :=
  let from_ := Port.home (.pod m)
  let refused : State :=
    if w.kind = MsgKind.migrate.num then s.inject from_ from_ 1 (.returned w .homeFenced)
    else if tagged then s.reply from_ from_ w FaultCode.homeFenced.status 0
    else s
  if 16 ≤ m then s
  else
    match (Tab.look s.host.ingress m).bind fun r => s.rankPort (rimCore r) w.dest with
    | some p => s.inject from_ p w.tc (.msg w tagged)
    | none => refused

/-- Bytes of a hod push that come in from another module (R147, R366): performed at their home without a lock, where that stands
in the partition named for the module and performs. -/
def podPushed (s : State) (m pa : Nat) (b : List Byte) : State :=
  match place pa, Tab.look s.host.ingress m with
  | some (h, .memory), some r =>
    let inside := h.region?.all fun q => (s.region r).mask.getLsbD q
    if !inside || s.homeDark h || !s.homeRuns h || s.rimBusy pa then s
    else (s.performBeat h pa b).performed h true
  | _, _ => s

/-- Bytes stored by the companion in host memory (R147). -/
def hostWrite (s : State) (pa : Nat) (b : List Byte) : State :=
  if 0x400000000000 ≤ pa ∧ pa + b.length ≤ 0x600000000000 then s.writeBytes pa b else s

/-- A list of word numbers with one put in its place. -/
def insertWord (n : Nat) : List Nat → List Nat
  | [] => [n]
  | w :: l => if n < w then n :: w :: l else if n = w then w :: l else w :: insertWord n l

/-- The SRAM bank of an address as ECNT counts it, with its region (R372). -/
def bankOf (pa : Nat) : Option (Nat × Nat) :=
  match place pa with
  | some (.scratchpad c, .memory) => some (c / 64, 72 * (c % 64) + pa / 8 % 64)
  | some (.tcm p, .memory) => if isService p then none else some (p / 512, 72 * (p / 8 % 64) + 64 + p % 8)
  | some (.sram r k, .memory) => some (r, 2592 + k)
  | _ => none

/-- A memory word errs (R332, R372): the error is counted where its bank is numbered; beyond correction, the word is bad until
it is written. -/
def upsetWord (s : State) (pa : Nat) (hard : Bool) : State :=
  let t : State := if hard && (place pa).any (fun h => h.2 == .memory) then { s with bad := insertWord (pa / 8) s.bad } else s
  match bankOf pa with
  | none => t
  | some (r, b) => t.countEcc r b hard

/-- A word of a region's context SRAM, queue banks, TLBs or stations errs, and is counted in its bank (R332, R372). What an
uncorrected one does beside is UNCORRECTED_REPORT's. -/
def upsetBank (s : State) (r b : Nat) (hard : Bool) : State := if r < 63 then s.countEcc r (otherBank b) hard else s

/-- A fibre's slot holds an uncorrected word (R332), counted in its bank (R372): the fibre traps at its next issue. -/
def upsetSlot (s : State) (pid n b : Nat) : State :=
  let t := s.countEcc (pid / 512) (otherBank b) true
  if (t.slot pid n).live then t.onSlot pid n fun f => { f with unc := true } else t

/-- A bond port's or a stitch link's retrain counted by Flatar (R371). -/
def linkRetrain (s : State) (l : Nat) : State :=
  if 8 ≤ l ∧ l < 16 + 4 * 63 then
    { s with host := { s.host with retrains := Tab.put s.host.retrains l (Tab.read s.host.retrains 0 l + 1) } }
  else s

/-- The interval of the lifetime records as the owner sets it: at least 10⁹ rc (R371). -/
def setInterval (s : State) (n : Nat) : State := { s with host := { s.host with interval := max 1000000000 n } }

end State

end Sys2Proof.Machine
end

