-- ==== Sys2Proof/Machine/Turn.lean ====
section
/-!
DEFINITION. The turns of the plan: a core issues, a step without an encoding happens, time passes; and the turn that comes
when the plan is empty (log 1).
-/

namespace Sys2Proof.Machine

namespace State

/-- An instruction attempted by a fibre: if it issues, the picker's own effects happen with it (R105); if it is held, they
do not. -/
def attempt (s : State) (pid n lvl : Nat) (run : State → Host.Outcome State Fault Refusal) :
    Host.Outcome State Fault Refusal :=
  let s1 := { s with cur := { core := pid, slot := n } }
  match run s1 with
  | .next t =>
    if (t.core pid).last = (s1.core pid).last then .next t else run (s1.picked pid n lvl)
  | o => o

/-- What keeps a fibre out of the ready set though no attempt has found it yet (R104), with the order number that then follows: a
pending register, an XLD in flight, a line that is not in the instruction cache, a queue, the tag limits, the outbound queue, or
what else holds its instruction. A translation is looked up when the instruction is picked (R320). -/
def blockedBy (s : State) (pid n : Nat) : Option (Hold × Nat) :=
  match s.fetch pid n with
  | .error (.hold h) => some (h, s.seq)
  | .error _ => none
  | .ok (i, t) =>
    match exec i { t with cur := { core := pid, slot := n } } with
    | .next u =>
      if (u.core pid).last = (t.core pid).last then
        match (u.slot pid n).hold with
        | some (.miss _ _ _ _) | none => none
        | some h => some (h, u.seq)
      else none
    | _ => none

/-- A core whose fibres that are not ready by R104 are known as such, where the picker has a choice: they neither are picked nor
age (R105). -/
def park (s : State) (pid : Nat) : State :=
  let ready := s.readySlots pid
  if ready.length ≤ 1 then s
  else
    ready.foldl
      (fun u n =>
        match u.blockedBy pid n with
        | some (h, q) => { u.onSlot pid n fun f => { f with hold := some h } with seq := q }
        | none => u) s

/-- The picker's choice is fetched, decoded and executed (R104, R105). -/
def issuePick (s : State) (pid : Nat) : Host.Outcome State Fault Refusal :=
  match s.pick pid with
  | some (n, lvl) =>
    match s.fetch pid n with
    | .ok (i, t) => t.attempt pid n lvl (exec i)
    | .error st => s.attempt pid n lvl fun t => .next (t.stopped st)
  | none => .next s

/-- A core's turn. -/
def issueTurn (s : State) (pid : Nat) : Host.Outcome State Fault Refusal :=
  if s.mayIssue pid then (s.park pid).issuePick pid else .next s

/-- A step without an encoding happens at a spot. An encoded instruction is no such step. -/
def happenTurn (s : State) (i : Instr) (spot : Spot) : Host.Outcome State Fault Refusal :=
  if i.length = 0 then exec i { s with spot := spot } else .next s

/-- cr.wdog of a core counts the rc that end (R339): those in which it runs, holds a fibre that is not frozen, and has not
issued. -/
def countRc (s : State) (pid : Nat) (before after : Nat) : State :=
  let c := s.core pid
  if before < after && flag c.wdog 31 && s.running pid && c.slots.any fun e => e.2.live && !e.2.frozen then
    let n := after - before - (if c.issuedRc = some before then 1 else 0)
    s.setCore pid { c with wdogCount := c.wdogCount + n }
  else s

/-- A cluster's notice period that runs ends at a moment (R257). -/
def noticeMoment (s : State) (cid : Nat) : Option Nat :=
  let t := s.tokens cid
  if t.notice && decide (t.tgt < t.next) then t.landed.map fun l => l + 200 * 1400 else none

/-- A cluster's lend that runs ends at a moment (R260), unless its broker's clock does not run (R178). -/
def lendMoment (s : State) (cid : Nat) : Option Nat :=
  let t := s.tokens cid
  if t.lending && t.reclaim.isNone && s.clusterRuns (cid / 64 * 64 + 63) then t.lendEnd else none

/-- A cluster that may leave hold does so at a moment (R180). -/
def leaveMoment (s : State) (cid : Nat) : Option Nat :=
  if s.mayLeave cid && (s.fwdDepth cid).isSome then (s.cluster cid).leaveAt.map fun t => t * 1400 else none

/-- The moments at which a rule has something happen: the ends of notice periods, lends and holds (R180, R257, R260), and of the
parts of a barrier signal's path (R168, R169). -/
def moments (s : State) : List Nat :=
  (s.clusters.flatMap fun e =>
    (s.noticeMoment e.1).toList ++ (s.lendMoment e.1).toList ++ (s.leaveMoment e.1).toList) ++ s.barMoments

/-- Something is due now, and no time passes before it has happened (R168, R180, R257, R260). -/
def due (s : State) : Bool :=
  s.bars.any (fun b => b.due) ||
    s.clusters.any fun e =>
      [s.noticeMoment e.1, s.lendMoment e.1, s.leaveMoment e.1].any fun m => m.any fun t => decide (t ≤ s.now)

/-- Time passes, in ticks of 1/140 GHz: at most up to the next moment at which a rule has something happen. -/
def elapse (s : State) (ticks : Nat) : State :=
  if s.due then s
  else
    let later := s.moments.filter fun m => decide (s.now < m)
    let t := { s with now := later.foldl min (s.now + ticks) }
    ((s.cores.map Prod.fst).foldl (fun u pid => u.countRc pid s.rc t.rc) t).advanceBars

/-- Flatar runs in some region (R367): its ROM has verified both images. -/
def flatarRuns (s : State) : Bool :=
  (List.range 63).any fun r => (s.region r).life != .dark && fld (s.ctl (controlBase r + 0x20) 0) 0 16 == 0x201

/-- EXC and GRANT as Flatar writes them (R127, R140, R341). -/
def barxWord (exc grant : BitVec 4) : Word := Word.ofNat (grant.toNat * 2 ^ 28 + exc.toNat * 2)

/-- A core holds a task by its entry, and which (R100). -/
def holdsTask (s : State) (pid : Nat) : Option Nat := if s.entryState pid = 0 then none else some (s.entryTask pid)

/-- What Flatar writes into cr.barx: every EXC bit of a core that it fences, beside its GRANT (R127, R341); and the GRANT of its
task into a core that holds the task, EXC left as it is (R140). -/
def mayWriteBarx (s : State) (pid : Nat) (exc grant : BitVec 4) : Bool :=
  let c := s.core pid
  (c.fenced && exc == 0xF#4 && grant == c.grant) ||
    (exc == c.exc && (s.holdsTask pid).isSome &&
      s.cores.any fun e => e.1 != pid && s.holdsTask e.1 == s.holdsTask pid && e.2.grant == grant)

/-- Flatar rewrites a rank's entry in a cluster's router (R99). Where it takes the rank from one core of a task to another, the
spare's GRANT is the task's, and its EXC stays as it is (R140, R341). -/
def remap (s : State) (cid rank : Nat) (e : BitVec 16) : State :=
  let s1 := { s with ranksAt := Tab.put s.ranksAt cid (Tab.put (Tab.read s.ranksAt [] cid) rank e) }
  match s.rankPort (8 * cid) rank, s1.rankPort (8 * cid) rank with
  | some (.core old), some (.core new) =>
    if old ≠ new ∧ s.holdsTask new = s.holdsTask old ∧ (s.holdsTask new).isSome then
      s1.onCore new fun c => { c with grant := (s.core old).grant }
    else s1
  | _, _ => s1

/-- A turn of the plan. -/
def runTurn (s : State) : Turn → Host.Outcome State Fault Refusal
  | .issue pid => s.issueTurn pid
  | .happen i spot => s.happenTurn i spot
  | .elapse ticks => .next (s.elapse ticks)
  | .inject p => .next (s.enter p)
  | .route cid rank e => .next (s.remap cid rank e)
  | .mask r m => .next (s.onRegion r fun x => { x with mask := m })
  | .form rs k w h sp => .next (s.formPartition rs k w h sp)
  | .take q r => .next (s.takeRecord q r)
  | .start q r => .next (s.startLaunch q r)
  | .exited t => .next (s.exitTask t)
  | .podRoute m p => .next (s.setPodRoute m p)
  | .podIngress m r => .next (s.setIngress m r)
  | .podMessage m w tagged => .next (s.podArrival m w tagged)
  | .podPush m pa b => .next (s.podPushed m pa b)
  | .hostStore pa b => .next (s.hostWrite pa b)
  | .aperture o n v => .next (s.aperture o n v)
  | .openMailbox => .next (if s.flatarRuns then { s with host := { s.host with opened := true } } else s)
  | .bundle b => .next { s with host := { s.host with bundle := b } }
  | .upset pa hard => .next (s.upsetWord pa hard)
  | .upsetBank r b hard => .next (s.upsetBank r b hard)
  | .upsetSlot pid n b => .next (s.upsetSlot pid n b)
  | .linkRetrain l => .next (s.linkRetrain l)
  | .recordInterval n => .next (s.setInterval n)
  | .hop n => .next (s.hopTurn n)
  | .row cid unit => .next (s.rowTurn cid unit)
  | .traceEntry n => .next (s.traceEntry n)
  | .flashBeat f => .next (s.flashBeat f)
  | .barx pid exc grant => .next (if s.mayWriteBarx pid exc grant then s.writeBarx pid (barxWord exc grant) else s)
  | .freeCounter pid ctr => .next (s.setFree pid (ctr % 16) 0)
  | .loadTime r v => .next (s.onRegion r fun x => { x with time0 := v - Word.ofNat s.rc })
  | .deadRing r h => .next (s.onRegion r fun x => { x with ddl := h })
  | .service cid w => .next (s.onCluster cid fun c => { c with tscfg := w &&& 0x87FFFFFFFFFFFFFE#64 })
  | .share pid w => .next (s.onCore pid fun c => { c with mbcfg := w &&& 0x0000003F0FFF07FF#64 })

/-- The cores that State lists, the one of State.cur first. -/
def listedCores (s : State) : List Nat := s.cur.core :: (s.cores.map Prod.fst).filter fun p => p != s.cur.core

/-- A step without an encoding, with where it happens. -/
def occur (i : Instr) (place item : Nat) : Turn := .happen i { place := place, item := item, v0 := 0, v1 := 0, v2 := 0, v3 := 0 }

/-- The step that a packet in flight is next in (R78, R338). -/
def packetStep (p : Packet) : Instr :=
  match p.load, p.dst with
  | .msg m _, d =>
    if m.kind = 4 then .accessPerform
    else if m.kind = 5 then .replyArrival
    else if m.kind = 8 then .preArrival
    else if m.kind = 9 then .resumeArrival
    else if m.kind = 10 then .faultArrival
    else if m.kind = 11 then
      match d with
      | .cluster _ => if m.event = 2 then .icflushArrival else .supervisorWordArrival
      | .core pid =>
        if otherEvent pid m.event then
          (if isService pid then .wipeStart else if m.event = 3 then .missArrival else .nomapArrival)
        else .supervisorWordArrival
      | _ => .supervisorWordArrival
    else .recordArrival
  | .returned _ _, _ => .migrateReturn
  | .beat _, _ => .hodBeatArrival
  | .landed _ _ _ _, _ => .hodDestCompletion
  | .free _ _, .router _ => .freeCombine
  | .free _ _, _ => .freeCounterDecrement
  | .token _ ask _ _ _, _ => if ask = 0 then .brokerRequest else if ask = 1 then .brokerReturn else .brokerLend
  | .notice _, _ => .noticeLands
  | .check _ _ _ _, _ => .courseReleaseCheck
  | .entry _ _, _ => .accessPerform

/-- The turn that a packet in flight, by its place, is next in: a trace entry's is no step of the opcode table (R166). -/
def packetTurn (p : Packet) (n : Nat) : Turn :=
  match p.load with
  | .entry _ _ => .traceEntry n
  | _ => occur (packetStep p) n 0

/-- The steps that a core may be in. -/
def coreSteps (s : State) (pid : Nat) : List Turn :=
  let c := s.core pid
  (c.xld.map fun e => occur .xldComplete pid e.1) ++
    ((c.slots.filter fun e => e.2.settle.isSome).map fun e => occur .settle pid e.1) ++
    (c.slots.filterMap fun e =>
      match e.2.hold with
      | some (.icache pa) => some (occur .icacheFill (pid / 8) pa)
      | _ => none) ++
    ([.faultDelivery, .delivery, .spillRefill, .gatherRunStart, .gatherKernelStep, .placementClearDone, .contextSaved,
      .watchdogExpiry] : List Instr).map fun i => occur i pid 0

/-- The steps that a cluster may be in. -/
def clusterSteps (cid : Nat) : List Turn :=
  [occur .vectorDispatch cid 0, occur .vectorDispatch cid 1, .row cid 0, .row cid 1, .row cid 2, occur .vectorComplete cid 0,
    occur .vectorComplete cid 1] ++
    ([.smxDispatch, .smxComplete, .matrixCommandStart, .matrixStep, .matrixComplete, .rotaryStart, .rotaryRow, .rotaryComplete,
      .hodBeatInject, .noticePeriodEnd, .lendExpiry, .sysdrnDrained, .clusterLeavesHold] : List Instr).map fun i => occur i cid 0

/-- The steps that a region may be in. -/
def regionSteps (r : Nat) : List Turn :=
  (([.wipeDone, .clockChangeDone, .regionBrokerMove, .rimwipeDone, .measExtendDone] : List Instr).map fun i => occur i r 0) ++
    (List.range 16).map fun i => occur .rimPushSlot r i

/-- The steps that may come next without an input from outside (log 1): arrivals, in the order of injection, and what the cores,
clusters, regions and stacks have begun. -/
def nextSteps (s : State) : List Turn :=
  (s.net.zipIdx.flatMap fun e => [packetTurn e.1 e.2, .hop e.2, occur .darkLinkTimeout e.2 0]) ++
    (s.bars.zipIdx.map fun e => occur (if e.1.kind.isRelease then .barrierRelease else .barrierInputAtRoot) e.2 0) ++
    (s.cores.flatMap fun e => s.coreSteps e.1) ++ (s.clusters.flatMap fun e => clusterSteps e.1) ++
    (List.range 63).flatMap regionSteps ++
    ((List.range 28).flatMap fun t => (List.range 32).map fun c => occur .prbsTestEnd t c) ++
    (List.range 4).flatMap fun f => [.flashBeat f, occur .flashCommandEnd f 1]

/-- A turn changes something beside State.spot. -/
def matters (s : State) (t : Turn) : Bool :=
  match s.runTurn t with
  | .next u => { u with spot := s.spot } != s
  | _ => true

/-- The turn when the plan is empty (log 1): a core that can issue does, as R154 has it come first; else the first step that
changes something happens; else one ac of the focus core's region passes. -/
def defaultTurn (s : State) : Turn :=
  match s.listedCores.find? fun pid => s.mayIssue pid && (s.pick pid).isSome with
  | some pid => .issue pid
  | none =>
    match s.nextSteps.find? s.matters with
    | some t => t
    | none => .elapse (period (s.region (s.cur.core / 512)).clock.cur)

/-- The next turn, and the state without it. -/
def nextTurn (s : State) : Turn × State :=
  match s.plan with
  | t :: rest => (t, { s with plan := rest })
  | [] => (s.defaultTurn, s)

end State

end Sys2Proof.Machine
end

