-- ==== Sys2Proof/Machine/Step.lean ====
section
/-!
DEFINITION. One step of the wafer, and the placing of an instruction where the next step fetches it.
-/

namespace Sys2Proof.Machine

/-- One step: the next turn of the plan, or the turn that comes when the plan is empty. -/
def step (s : State) : Host.Outcome State Fault Refusal := (s.nextTurn.2).runTurn s.nextTurn.1

/-- The state with an instruction placed where the next step fetches (log 30). -/
def State.withFetchWord (s : State) (nbits w : Nat) : State := s.placeWord nbits w

end Sys2Proof.Machine
end

