-- ==== Sys2Proof/Safety.lean ====
section
/-!
DEFINITION. What counts as a safe run, and the terms that claims use: when an instruction may complete, and the state that an
instruction of its fibre alone leaves.
-/

namespace Sys2Proof.Machine

namespace State

/-- Running n steps ends in a state: no step faulted and none was refused. -/
def reaches : Nat → State → State → Prop
  | 0, s, t => s = t
  | n + 1, s, t => ∃ u, step s = .next u ∧ State.reaches n u t

/-- The issuing fibre stands in its slot, and no register that an instruction reads or writes keeps it from completing: none is
pending (R20), none that it reads is refused (R70), no XLD to an x register that it names is in flight (R21). -/
def Clear (s : State) (reads writes : List Reg) (xs : List XIdx) : Prop :=
  s.me.live = true ∧ s.me.frozen = false ∧ s.me.unc = false ∧ (∀ r ∈ reads ++ writes, s.me.mark[r] = none) ∧
    (∀ r ∈ reads, s.me.refused[r] = none) ∧ ∀ x ∈ xs, Tab.look s.myCore.xld x.val = none

/-- The state that an instruction of len bytes and so many passes leaves (R46) whose effect is f on its fibre's slot, at NextPC,
and g on its core's other registers. -/
def after (s : State) (len passes : Nat) (f : Slot → Slot) (g : Core → Core) : State :=
  s.setCore s.cur.core (coreIssued (s.coreAc s.cur.core) s.rc
    ((g s.myCore).setSlot s.cur.slot (slotBusy (s.coreAc s.cur.core + 8 * passes) (f (slotBegun len s.me)))))

/-- The state that an instruction of 4 bytes and one pass leaves which writes one register. -/
def wrote (s : State) (rd : Reg) (v : Word) : State := s.after 4 1 (fun f => f.write rd v) id

/-- The state that a scalar float instruction leaves (R58, R60): a register written, and exceptions ORed into cr.fpmode. -/
def floated (s : State) (passes : Nat) (rd : Reg) (v : Word) (x : FpFlags) : State :=
  s.after 4 passes (fun f => f.write rd v) fun c => { c with fpmode := raiseFlags c.fpmode x }

/-- Outside the issuing core a state differs from another at most in what is in flight: every byte of memory, every other core,
every cluster, region, table and register of a window is as it was. -/
def OutsideKept (s t : State) : Prop :=
  (∀ a, Memory.byte t.mem a = Memory.byte s.mem a) ∧ t.bad = s.bad ∧ t.regs = s.regs ∧
    (∀ p, p ≠ s.cur.core → t.core p = s.core p) ∧ t.clusters = s.clusters ∧ t.regions = s.regions ∧ t.ranks = s.ranks ∧
    t.ranksAt = s.ranksAt ∧ t.trseq = s.trseq ∧ t.bars = s.bars ∧ t.fuses = s.fuses ∧ t.host = s.host ∧ t.now = s.now

/-- A core without its slots, without what an issue books, and with cr.fpmode set aside. -/
def coreRest (c : Core) : Core := { c with slots := [], last := none, wdogCount := 0, issuedRc := none, fpmode := 0 }

/-- In the issuing core a state differs from another at most in the issuing fibre: the x registers, queues, counters, accumulators
and control registers, and every other fibre, are as they were; cr.fpmode is too where `flags` is false, and where it is true it
keeps what is no flag. -/
def CoreKept (s t : State) (flags : Bool) : Prop :=
  coreRest (t.core s.cur.core) = coreRest s.myCore ∧
    (t.core s.cur.core).fpmode &&& ~~~(if flags then 0x1F00#64 else 0) = s.myCore.fpmode &&& ~~~(if flags then 0x1F00#64 else 0) ∧
    ∀ n, n ≠ s.cur.slot → t.slot s.cur.core n = s.slot s.cur.core n

/-- A fibre keeps its g registers but those of a list, with their marks and refusals, and its handler state: class, priority,
generation, owed refusal, SUP, and the trap registers. -/
def FibreKept (s t : State) (writes : List Reg) : Prop :=
  (∀ r : Reg, r ∉ writes → (t.slot s.cur.core s.cur.slot).g[r] = s.me.g[r] ∧ (t.slot s.cur.core s.cur.slot).mark[r] = s.me.mark[r] ∧
    (t.slot s.cur.core s.cur.slot).refused[r] = s.me.refused[r]) ∧
    (t.slot s.cur.core s.cur.slot).live = s.me.live ∧ (t.slot s.cur.core s.cur.slot).gen = s.me.gen ∧
    (t.slot s.cur.core s.cur.slot).prio = s.me.prio ∧ (t.slot s.cur.core s.cur.slot).ecls = s.me.ecls ∧
    (t.slot s.cur.core s.cur.slot).amig = s.me.amig ∧ (t.slot s.cur.core s.cur.slot).owed = s.me.owed ∧
    (t.slot s.cur.core s.cur.slot).sup = s.me.sup ∧ (t.slot s.cur.core s.cur.slot).fw = s.me.fw ∧
    (t.slot s.cur.core s.cur.slot).epcv = s.me.epcv ∧ (t.slot s.cur.core s.cur.slot).epc = s.me.epc ∧
    (t.slot s.cur.core s.cur.slot).tcause = s.me.tcause

/-- A state with one packet more in flight. -/
def sent (s : State) (p : Packet) : State := { s with net := s.net ++ [p] }

/-- A packet is a message of the issuing fibre (R77, R78): its routing word holds the kind, class, size, destination rank and task
that it is given, and the fibre's class, priority and rank; bits [54:0] of its selector and its data are those given. -/
def Says (s : State) (p : Packet) (kind tc dest : Nat) (record : Bool) (task low : Nat) (data : List Word) (tagged : Bool) : Prop :=
  p.src = .core s.cur.core ∧ p.tc = tc ∧ ∃ m, p.load = .msg m tagged ∧ m.kind = kind ∧ m.tc = tc ∧ m.dest = dest ∧
    m.src = s.rankOf s.cur.core ∧ m.task = task ∧ m.ecls = s.me.ecls ∧ m.prio = s.me.prio ∧ m.isRecord = record ∧
    fld m.sel 0 55 = low ∧ m.data = data

/-- A packet carries a tag (R69, R79): the selector's bits [63:55]. -/
def Tagged (p : Packet) (tag : Nat) : Prop := ∃ m, p.load = .msg m true ∧ m.tag = tag

/-- A state whose packets in flight are those of a list and, after them, the REPLY to a message (R77, R79, R80): it copies TC, ECLS, PRIO
and TASK, its DEST is the message's SRC and its SRC the message's DEST; it carries the tag, a status and a value. -/
def Answered (t : State) (net : List Packet) (src dst : Port) (m : Msg) (status : Nat) (value : Word) : Prop :=
  ∃ r w, t.net = net ++ [r] ∧ r.src = src ∧ r.dst = dst ∧ r.tc = m.tc ∧ r.load = .msg w false ∧ w.kind = 5 ∧ w.tc = m.tc ∧
    w.ecls = m.ecls ∧ w.prio = m.prio ∧ w.task = m.task ∧ w.dest = m.src ∧ w.src = m.dest ∧ w.isRecord = false ∧
    fld w.sel 0 9 = m.tag ∧ fld w.sel 9 3 = status ∧ w.data = [value]

/-- The issuing fibre may name a rank (R81, R97), which stands at a port. -/
def Names (s : State) (rank : Nat) (port : Port) : Prop :=
  s.rankPort s.cur.core rank = some port ∧ (isServiceRank rank = true → s.me.sup = true)

/-- The tag that a posted message takes (R69, R71): its place is the destination rank. -/
def postTag (s : State) (rank : Nat) (port : Port) : Tag where
  slot := s.cur.slot
  gen := s.me.gen
  use := .posted .message
  scope := match port with
    | .core p => scopeOfCore s.cur.core p
    | _ => .system
  pc := s.me.pcWord
  place := BitVec.ofNat 64 rank
  issuer := s.cur.core

/-- The state without the issuing fibre, whose instruction has issued and ended it (R86, R103). -/
def ended (s : State) : State :=
  (s.onMyCore (coreIssued (s.coreAc s.cur.core) s.rc)).endFibre s.cur.core s.cur.slot

/-- Whatever changes in the issuing core, it is the micro-TLB's order, the tags, and what an issue books; other fibres stay. -/
def CoreSent (s t : State) : Prop :=
  coreRest { t.core s.cur.core with utlb := [], tags := [] } = coreRest { s.myCore with utlb := [], tags := [] } ∧
    (t.core s.cur.core).fpmode = s.myCore.fpmode ∧ ∀ n, n ≠ s.cur.slot → t.slot s.cur.core n = s.slot s.cur.core n

/-- A virtual address is reached by the issuing fibre at a physical address (R23, R148, R308, R320, R324): it is canonical; a fibre
of task 0 is not translated, any other finds the page in its micro-TLB with the right that the access needs; and the physical
address refuses no such access. -/
def Maps (s : State) (a : Access) (va : Word) (pa : Nat) : Prop :=
  canonical va = true ∧ physFault s.me.sup a pa = none ∧
    ((ofFlatar s.cur.core s.me = true ∧ va.toNat < 2 ^ 48 ∧ pa = va.toNat) ∨
      (ofFlatar s.cur.core s.me = false ∧
        ∃ m, (s.myCore.utlb.find? fun e => e.copy.hits (s.entryPasid s.cur.core) va) = some m ∧
          m.copy.permits s.me.sup a = none ∧ pa = m.copy.phys va))

/-- A tag is free for the issuing fibre (R69): the core has one, and the fibre holds fewer than 32. -/
def TagFree (s : State) (n : Nat) : Prop :=
  freeIndex s.myCore.tags 512 = some n ∧ s.tagsOf s.cur.core s.cur.slot s.me.gen < 32

/-- A trap without an owed refusal. -/
def trapOf (code : FaultCode) (kind : FaultKind) (va : Word) : Trap :=
  { code := code, kind := kind, va := va, under := 0, info := 0, owed := none }

/-- The state after the issuing fibre's instruction has trapped (R30, R326). -/
def trapped (s : State) (t : Trap) : State :=
  (s.onMyCore (coreIssued (s.coreAc s.cur.core) s.rc)).raiseFault s.cur.core s.cur.slot t

end State

end Sys2Proof.Machine
end

