-- ==== Sys2Proof/Certificates/Slice0/Obligations.lean ====
section
/-!
DEFINITION. The statements about the model, each a proposition about the machine alone.
-/

open Sys2Proof Sys2Proof.Machine Sys2Proof.Machine.State

/-! ### Integer instructions -/

/-- R48: what the register forms of major 0x00 write, their divides apart. The product's high half is stated by 128-bit
arithmetic. -/
def Obligations.IntegerResults : Prop :=
  ∀ (s : State) (rd a b : Reg),
    (s.Clear [a, b] [rd] [] →
      exec (.add rd a b) s = .next (s.wrote rd (s.reg a + s.reg b)) ∧
      exec (.sub rd a b) s = .next (s.wrote rd (s.reg a - s.reg b)) ∧
      exec (.and rd a b) s = .next (s.wrote rd (s.reg a &&& s.reg b)) ∧
      exec (.or rd a b) s = .next (s.wrote rd (s.reg a ||| s.reg b)) ∧
      exec (.xor rd a b) s = .next (s.wrote rd (s.reg a ^^^ s.reg b)) ∧
      exec (.andn rd a b) s = .next (s.wrote rd (s.reg a &&& ~~~s.reg b)) ∧
      exec (.orn rd a b) s = .next (s.wrote rd (s.reg a ||| ~~~s.reg b)) ∧
      exec (.xnor rd a b) s = .next (s.wrote rd (~~~(s.reg a ^^^ s.reg b))) ∧
      exec (.mul rd a b) s = .next (s.wrote rd (BitVec.ofNat 64 ((s.reg a).toNat * (s.reg b).toNat))) ∧
      exec (.mulh rd a b) s =
        .next (s.wrote rd (((s.reg a).signExtend 128 * (s.reg b).signExtend 128).extractLsb' 64 64)) ∧
      exec (.mulhu rd a b) s =
        .next (s.wrote rd (((s.reg a).setWidth 128 * (s.reg b).setWidth 128).extractLsb' 64 64)) ∧
      exec (.min rd a b) s = .next (s.wrote rd (if (s.reg b).slt (s.reg a) then s.reg b else s.reg a)) ∧
      exec (.max rd a b) s = .next (s.wrote rd (if (s.reg a).slt (s.reg b) then s.reg b else s.reg a)) ∧
      exec (.minu rd a b) s = .next (s.wrote rd (if (s.reg b).ult (s.reg a) then s.reg b else s.reg a)) ∧
      exec (.maxu rd a b) s = .next (s.wrote rd (if (s.reg a).ult (s.reg b) then s.reg b else s.reg a))) ∧
    (s.Clear [a] [rd] [] → exec (.mov rd a) s = .next (s.wrote rd (s.reg a)))

/-- R49, with R46's five passes: division truncates toward zero, a remainder takes the sign of the dividend, and division
never traps. -/
def Obligations.DivisionTruncates : Prop :=
  ∀ (s : State) (rd a b : Reg), s.Clear [a, b] [rd] [] →
    let sa := (s.reg a).toInt
    let sb := (s.reg b).toInt
    let q : Int := if sb = 0 then -1 else if sa = -(2 ^ 63) ∧ sb = -1 then -(2 ^ 63) else sa.tdiv sb
    let m : Int := if sb = 0 then sa else if sa = -(2 ^ 63) ∧ sb = -1 then 0 else sa - q * sb
    let ua := (s.reg a).toNat
    let ub := (s.reg b).toNat
    let uq : Nat := if ub = 0 then 2 ^ 64 - 1 else ua / ub
    let um : Nat := if ub = 0 then ua else ua - uq * ub
    exec (.div rd a b) s = .next (s.after 4 5 (fun f => f.write rd (BitVec.ofInt 64 q)) id) ∧
    exec (.rem rd a b) s = .next (s.after 4 5 (fun f => f.write rd (BitVec.ofInt 64 m)) id) ∧
    exec (.divu rd a b) s = .next (s.after 4 5 (fun f => f.write rd (BitVec.ofNat 64 uq)) id) ∧
    exec (.remu rd a b) s = .next (s.after 4 5 (fun f => f.write rd (BitVec.ofNat 64 um)) id)

/-- R50: shifts, rotates, compares, SEL and LEA. A shift takes the low six bits of rs2; a rotate is the OR of two shifts. -/
def Piece.ShiftAndCompareResults : Prop :=
  ∀ (s : State) (rd a b : Reg) (sh : BitVec 2),
    (s.Clear [a, b] [rd] [] →
      exec (.sll rd a b) s = .next (s.wrote rd (s.reg a <<< ((s.reg b).toNat % 64))) ∧
      exec (.srl rd a b) s = .next (s.wrote rd (s.reg a >>> ((s.reg b).toNat % 64))) ∧
      exec (.sra rd a b) s = .next (s.wrote rd ((s.reg a).sshiftRight ((s.reg b).toNat % 64))) ∧
      exec (.rol rd a b) s = .next (s.wrote rd
        (s.reg a <<< ((s.reg b).toNat % 64) ||| s.reg a >>> (64 - (s.reg b).toNat % 64))) ∧
      exec (.ror rd a b) s = .next (s.wrote rd
        (s.reg a >>> ((s.reg b).toNat % 64) ||| s.reg a <<< (64 - (s.reg b).toNat % 64))) ∧
      exec (.seq rd a b) s = .next (s.wrote rd (if s.reg a = s.reg b then 1 else 0)) ∧
      exec (.sne rd a b) s = .next (s.wrote rd (if s.reg a = s.reg b then 0 else 1)) ∧
      exec (.slt rd a b) s = .next (s.wrote rd (if (s.reg a).toInt < (s.reg b).toInt then 1 else 0)) ∧
      exec (.sltu rd a b) s = .next (s.wrote rd (if (s.reg a).toNat < (s.reg b).toNat then 1 else 0)) ∧
      exec (.sle rd a b) s = .next (s.wrote rd (if (s.reg b).toInt < (s.reg a).toInt then 0 else 1)) ∧
      exec (.sleu rd a b) s = .next (s.wrote rd (if (s.reg b).toNat < (s.reg a).toNat then 0 else 1)) ∧
      exec (.lea rd a b sh) s = .next (s.wrote rd (s.reg a + s.reg b <<< sh.toNat))) ∧
    (s.Clear [a, b, rd] [rd] [] →
      exec (.sel rd a b) s = .next (s.wrote rd (if s.reg rd = 0 then s.reg b else s.reg a)))

/-- R50: CLZ, CTZ, POPC and BSWAP, by the bits and bytes of their operand. -/
def Piece.BitCountResults : Prop :=
  ∀ (s : State) (rd a : Reg), s.Clear [a] [rd] [] →
    (∃ n ≤ 64, exec (.clz rd a) s = .next (s.wrote rd (BitVec.ofNat 64 n)) ∧
      (∀ i, 64 - n ≤ i → (s.reg a).getLsbD i = false) ∧ (n < 64 → (s.reg a).getLsbD (63 - n) = true)) ∧
    (∃ n ≤ 64, exec (.ctz rd a) s = .next (s.wrote rd (BitVec.ofNat 64 n)) ∧
      (∀ i < n, (s.reg a).getLsbD i = false) ∧ (n < 64 → (s.reg a).getLsbD n = true)) ∧
    exec (.popc rd a) s = .next (s.wrote rd (BitVec.ofNat 64 ((List.range 64).countP (s.reg a).getLsbD))) ∧
    (∃ v : Word, exec (.bswap rd a) s = .next (s.wrote rd v) ∧
      ∀ i < 8, v.extractLsb' (8 * i) 8 = (s.reg a).extractLsb' (8 * (7 - i)) 8)

/-- R51 and R52: the immediate forms; ANDI sign-extends, ORI and XORI zero-extend; LIS shifts the old rd by 22; ADDPC adds to the
PC of the instruction. -/
def Piece.ImmediateResults : Prop :=
  ∀ (s : State) (rd a : Reg) (imm : BitVec 16) (sh : BitVec 6) (wide : BitVec 22),
    (s.Clear [a] [rd] [] →
      exec (.addi rd a imm) s = .next (s.wrote rd (s.reg a + imm.signExtend 64)) ∧
      exec (.andi rd a imm) s = .next (s.wrote rd (s.reg a &&& imm.signExtend 64)) ∧
      exec (.ori rd a imm) s = .next (s.wrote rd (s.reg a ||| imm.setWidth 64)) ∧
      exec (.xori rd a imm) s = .next (s.wrote rd (s.reg a ^^^ imm.setWidth 64)) ∧
      exec (.slti rd a imm) s = .next (s.wrote rd (if (s.reg a).toInt < imm.toInt then 1 else 0)) ∧
      exec (.sltiu rd a imm) s = .next (s.wrote rd (if (s.reg a).ult (imm.signExtend 64) then 1 else 0)) ∧
      exec (.muli rd a imm) s = .next (s.wrote rd (BitVec.ofInt 64 ((s.reg a).toInt * imm.toInt))) ∧
      exec (.slli rd a sh) s = .next (s.wrote rd (s.reg a <<< sh.toNat)) ∧
      exec (.srli rd a sh) s = .next (s.wrote rd (s.reg a >>> sh.toNat)) ∧
      exec (.srai rd a sh) s = .next (s.wrote rd ((s.reg a).sshiftRight sh.toNat)) ∧
      exec (.seqi rd a imm) s = .next (s.wrote rd (if s.reg a = imm.signExtend 64 then 1 else 0)) ∧
      exec (.snei rd a imm) s = .next (s.wrote rd (if s.reg a = imm.signExtend 64 then 0 else 1))) ∧
    (s.Clear [] [rd] [] →
      exec (.li rd wide) s = .next (s.wrote rd (wide.signExtend 64)) ∧
      exec (.addpc rd wide) s = .next (s.wrote rd (s.me.pcWord + wide.signExtend 64 * 2))) ∧
    (s.Clear [rd] [rd] [] →
      exec (.lis rd wide) s = .next (s.wrote rd (BitVec.ofNat 64 ((s.reg rd).toNat * 2 ^ 22) + wide.signExtend 64)))

/-- R41 and R42: the arithmetic parcels, 2 bytes long: ADDI.S, LI.S, ALU.S and ACC.S with every operation of fn5, and the
shifts. -/
def Piece.CompactResults : Prop :=
  ∀ (s : State) (rd a : Reg) (imm : BitVec 5) (wide : BitVec 8),
    let short (d : Reg) (v : Word) : State := s.after 2 1 (fun f => f.write d v) id
    let op (fn : CompactOp) (x y : Word) : Word :=
      match fn with
      | .add => x + y
      | .sub => x - y
      | .and => x &&& y
      | .or => x ||| y
      | .xor => x ^^^ y
      | .mov => y
      | .sll => x <<< (y.toNat % 64)
      | .srl => x >>> (y.toNat % 64)
      | .sra => x.sshiftRight (y.toNat % 64)
      | .mul => BitVec.ofNat 64 (x.toNat * y.toNat)
      | .slt => if x.toInt < y.toInt then 1 else 0
      | .sltu => if x.toNat < y.toNat then 1 else 0
    (s.Clear [a] [rd] [] →
      exec (.addiS rd a imm) s = .next (short rd (s.reg a + imm.signExtend 64)) ∧
      exec (.slliS rd a imm) s = .next (short rd (s.reg a <<< imm.toNat)) ∧
      exec (.srliS rd a imm) s = .next (short rd (s.reg a >>> imm.toNat)) ∧
      exec (.sraiS rd a imm) s = .next (short rd ((s.reg a).sshiftRight imm.toNat)) ∧
      exec (.aluS rd a .mov) s = .next (short rd (s.reg a))) ∧
    (s.Clear [] [rd] [] → exec (.liS rd wide) s = .next (short rd (wide.signExtend 64))) ∧
    (s.Clear [rd, a] [rd] [] →
      ∀ fn, fn ≠ .mov → exec (.aluS rd a fn) s = .next (short rd (op fn (s.reg rd) (s.reg a)))) ∧
    (s.Clear [rd, a] [0] [] →
      ∀ fn, fn ≠ .mov → exec (.accS rd a fn) s = .next (short 0 (op fn (s.reg rd) (s.reg a)))) ∧
    (s.Clear [rd] [0] [] → exec (.accS rd a .mov) s = .next (short 0 (s.reg rd)))

/-! ### Control transfers -/

/-- R53 and R54, with their parcels of R41: a taken branch and a relative jump go to the instruction's PC plus twice the offset; a
branch that is not taken goes to NextPC; JAL links NextPC. -/
def Piece.BranchTargets : Prop :=
  ∀ (s : State) (rd a b : Reg) (off : BitVec 16) (wide : BitVec 22) (o5 : BitVec 5) (o11 : BitVec 11),
    let go (len : Nat) (taken : Prop) [Decidable taken] (d : Word) : State :=
      s.after len 1 (fun f => if taken then slotJump (s.me.pcWord + d * 2) f else f) id
    (s.Clear [a, b] [] [] →
      exec (.beq a b off) s = .next (go 4 (s.reg a = s.reg b) (off.signExtend 64)) ∧
      exec (.bne a b off) s = .next (go 4 (s.reg a ≠ s.reg b) (off.signExtend 64)) ∧
      exec (.blt a b off) s = .next (go 4 ((s.reg a).toInt < (s.reg b).toInt) (off.signExtend 64)) ∧
      exec (.bge a b off) s = .next (go 4 ((s.reg b).toInt ≤ (s.reg a).toInt) (off.signExtend 64)) ∧
      exec (.bltu a b off) s = .next (go 4 ((s.reg a).toNat < (s.reg b).toNat) (off.signExtend 64)) ∧
      exec (.bgeu a b off) s = .next (go 4 ((s.reg b).toNat ≤ (s.reg a).toNat) (off.signExtend 64)) ∧
      exec (.beqS a b o5) s = .next (go 2 (s.reg a = s.reg b) (o5.signExtend 64)) ∧
      exec (.bneS a b o5) s = .next (go 2 (s.reg a ≠ s.reg b) (o5.signExtend 64))) ∧
    (s.Clear [] [] [] →
      exec (.j wide) s = .next (go 4 True (wide.signExtend 64)) ∧
      exec (.jS o11) s = .next (go 2 True (o11.signExtend 64))) ∧
    (s.Clear [] [rd] [] →
      exec (.jal rd wide) s = .next (s.after 4 1 (fun f =>
        slotJump (s.me.pcWord + wide.signExtend 64 * 2) (f.write rd (slotBegun 4 s.me).pcWord)) id))

/-- R55, R56 and JR.S of R41: a register jump goes to its even target, read before the link is written; LOOP counts rd down and
goes back while it was greater than 1. -/
def Piece.RegisterJumpsAndLoop : Prop :=
  ∀ (s : State) (rd a : Reg) (imm : BitVec 16),
    let t := s.reg a + imm.signExtend 64
    (s.Clear [a] [rd] [] → t.getLsbD 0 = false →
      exec (.jalr rd a imm) s =
        .next (s.after 4 1 (fun f => slotJump t (f.write rd (slotBegun 4 s.me).pcWord)) id)) ∧
    (s.Clear [a] [] [] → t.getLsbD 0 = false →
      exec (.jr a imm) s = .next (s.after 4 1 (slotJump t) id)) ∧
    (s.Clear [a] [] [] → (s.reg a).getLsbD 0 = false →
      exec (.jrS a) s = .next (s.after 2 1 (slotJump (s.reg a)) id)) ∧
    (s.Clear [rd] [rd] [] →
      exec (.loop rd imm) s =
        if 1 < (s.reg rd).toNat then
          .next (s.after 4 1 (fun f =>
            slotJump (s.me.pcWord + imm.signExtend 64 * 2) (f.write rd (s.reg rd - 1))) id)
        else .next (s.wrote rd 0))

/-- R15 and R55: a register jump to an odd target traps ALIGN at its own PC: the fibre is frozen there, no register is written,
and the trap's address is the target. -/
def Piece.OddTargetTraps : Prop :=
  ∀ (s : State) (rd a : Reg) (imm : BitVec 16),
    let t := s.reg a + imm.signExtend 64
    let trap (va : Word) : State := s.trapped (trapOf .align .instruction va)
    (s.Clear [a] [rd] [] → t.getLsbD 0 = true → exec (.jalr rd a imm) s = .next (trap t)) ∧
    (s.Clear [a] [] [] → t.getLsbD 0 = true → exec (.jr a imm) s = .next (trap t)) ∧
    (s.Clear [a] [] [] → (s.reg a).getLsbD 0 = true → exec (.jrS a) s = .next (trap (s.reg a)))

/-- R28: the hints are the 32-bit words of major 0x3E, in any value of the other 25 bits, and the parcels 0x7800 to 0x781F; each advances the PC by its length, takes one pass, and changes
nothing else. -/
def Obligations.HintsAdvance : Prop :=
  (∀ w : BitVec 32, w.extractLsb' 9 7 = 0b1111110#7 → ∃ h : BitVec 25, decode32 w = .ok (.nop h)) ∧
    (∀ p : Parcel, 0x7800 ≤ p.toNat → p.toNat ≤ 0x781F → ∃ k : BitVec 5, decode16 p = .ok (.nopS k)) ∧
    ∀ (s : State) (h : BitVec 25) (k : BitVec 5), s.Clear [] [] [] →
      exec (.nop h) s = .next (s.after 4 1 id id) ∧ exec (.nopS k) s = .next (s.after 2 1 id id)

/-! ### Scalar float -/

/-- R58, R60 to R63: every form of major 0x0C writes its result, computed by the operations of Number Formats on its operands in
the mode that mod8 names or that RM holds at issue, zero-extended, and ORs its exceptions into cr.fpmode; FDIV and FSQRT take
three passes. -/
def Piece.FloatResults : Prop :=
  ∀ (s : State) (rd a b : Reg) (m : RoundSel),
    let mode := RMode.select m s.myCore.fpmode
    let x := f32 (s.reg a)
    let y := f32 (s.reg b)
    let res (passes : Nat) (r : Rounded) : State := s.floated passes rd (BitVec.ofNat 64 r.bits) r.flags
    let isF (c : Prop) [Decidable c] (nv : Bool) : State := s.floated 1 rd (if c then 1 else 0) { nv := nv }
    (s.Clear [a, b] [rd] [] →
      exec (.fadd rd a b m) s = .next (res 1 (fadd .fp32 mode x y)) ∧
      exec (.fsub rd a b m) s = .next (res 1 (fadd .fp32 mode x y.negate)) ∧
      exec (.fmul rd a b m) s = .next (res 1 (fmul .fp32 mode x y)) ∧
      exec (.fdiv rd a b m) s = .next (res 3 (fdiv .fp32 mode x y)) ∧
      exec (.fmin rd a b) s = .next (res 1 (fminmax .fp32 false ((s.reg a).toNat % 2 ^ 32) ((s.reg b).toNat % 2 ^ 32))) ∧
      exec (.fmax rd a b) s = .next (res 1 (fminmax .fp32 true ((s.reg a).toNat % 2 ^ 32) ((s.reg b).toNat % 2 ^ 32))) ∧
      exec (.feq rd a b) s = .next (isF (x.isNaN = false ∧ y.isNaN = false ∧ x.eq y = true) (x.isSNaN || y.isSNaN)) ∧
      exec (.flt rd a b) s = .next (isF (x.isNaN = false ∧ y.isNaN = false ∧ x.lt y = true) (x.isNaN || y.isNaN)) ∧
      exec (.fle rd a b) s =
        .next (isF (x.isNaN = false ∧ y.isNaN = false ∧ (x.lt y = true ∨ x.eq y = true)) (x.isNaN || y.isNaN))) ∧
    (s.Clear [a, b, rd] [rd] [] → exec (.fma rd a b m) s = .next (res 1 (ffma .fp32 mode x y (f32 (s.reg rd))))) ∧
    (s.Clear [a] [rd] [] →
      exec (.fsqrt rd a m) s = .next (res 3 (fsqrt .fp32 mode x)) ∧
      exec (.fabs rd a) s = .next (s.floated 1 rd ((s.reg a).setWidth 31 |>.setWidth 64) {}) ∧
      exec (.fneg rd a) s =
        .next (s.floated 1 rd (BitVec.setWidth 64 ((s.reg a).setWidth 32 ^^^ 0x80000000#32)) {}) ∧
      exec (.fclass rd a) s =
        .next (s.floated 1 rd (BitVec.ofNat 64 (2 ^ fclass .fp32 ((s.reg a).toNat % 2 ^ 32))) {}) ∧
      exec (.ftoi rd a m) s =
        .next (s.floated 1 rd (BitVec.ofInt 64 (ftoInt (-(2 ^ 63)) (2 ^ 63 - 1) mode x).1)
          (ftoInt (-(2 ^ 63)) (2 ^ 63 - 1) mode x).2) ∧
      exec (.ftou rd a m) s =
        .next (s.floated 1 rd (BitVec.ofInt 64 (ftoInt 0 (2 ^ 64 - 1) mode x).1) (ftoInt 0 (2 ^ 64 - 1) mode x).2) ∧
      exec (.itof rd a m) s = .next (res 1 (intToF .fp32 mode (s.reg a).toInt)) ∧
      exec (.utof rd a m) s = .next (res 1 (intToF .fp32 mode (s.reg a).toNat)) ∧
      exec (.ftob rd a m) s = .next (res 1 (fconv .fp32 .bf16 mode false ((s.reg a).toNat % 2 ^ 32))) ∧
      exec (.btof rd a) s = .next (res 1 (fconv .bf16 .fp32 .rne false ((s.reg a).toNat % 2 ^ 16))) ∧
      exec (.ftoh rd a m) s = .next (res 1 (fconv .fp32 .fp16 mode false ((s.reg a).toNat % 2 ^ 32))) ∧
      exec (.htof rd a) s = .next (res 1 (fconv .fp16 .fp32 .rne false ((s.reg a).toNat % 2 ^ 16))))

/-- R61's rules for operands that are no ordinary numbers: any NaN operand gives 0x7FC0_0000, with NV for a signalling NaN; inf +
(−inf), in FMA too, 0 × inf, 0 ÷ 0, inf ÷ inf and the root of a negative number, −inf among them, are invalid; FMA raises NV there and for a signalling NaN, and nowhere else; an infinity passes an operation that is valid, with the sign of its product or quotient; a finite non-zero number divided by ±0 is an infinity
of the right sign with DZ; the root of −0 is −0; an exact zero sum of numbers of opposite sign is +0, and −0 in RDN. -/
def Piece.FloatSpecialCases : Prop :=
  ∀ (m : RMode) (x y z : FVal) (n k : Bool) (d e : Machine.Dyadic),
    let infinity (neg : Bool) : Rounded := ⟨if neg then 0xFF800000 else 0x7F800000, {}⟩
    let nan (vs : List FVal) : Rounded := ⟨0x7FC00000, { nv := vs.any FVal.isSNaN }⟩
    let invalid : Rounded := ⟨0x7FC00000, { nv := true }⟩
    ((x.isNaN = true ∨ y.isNaN = true) →
      fadd .fp32 m x y = nan [x, y] ∧ fmul .fp32 m x y = nan [x, y] ∧ fdiv .fp32 m x y = nan [x, y]) ∧
    (x.isNaN = true → fsqrt .fp32 m x = nan [x]) ∧
    ((x.isNaN = true ∨ y.isNaN = true ∨ z.isNaN = true) →
      (ffma .fp32 m x y z).bits = 0x7FC00000) ∧
    fadd .fp32 m (.inf n) (.inf (!n)) = invalid ∧
    (d.num = 0 → fmul .fp32 m (.fin d) (.inf n) = invalid ∧ fmul .fp32 m (.inf n) (.fin d) = invalid ∧
      (z.isNaN = false → ffma .fp32 m (.fin d) (.inf n) z = invalid)) ∧
    (d.num = 0 → e.num = 0 → fdiv .fp32 m (.fin d) (.fin e) = invalid) ∧
    fdiv .fp32 m (.inf n) (.inf k) = invalid ∧
    fsqrt .fp32 m (.inf true) = invalid ∧ fsqrt .fp32 m (.inf false) = infinity false ∧
    fadd .fp32 m (.inf n) (.inf n) = infinity n ∧ fadd .fp32 m (.inf n) (.fin d) = infinity n ∧ fadd .fp32 m (.fin d) (.inf n) = infinity n ∧
    fmul .fp32 m (.inf n) (.inf k) = infinity (n != k) ∧
    (d.num ≠ 0 → fmul .fp32 m (.inf n) (.fin d) = infinity (n != d.neg) ∧ fmul .fp32 m (.fin d) (.inf n) = infinity (d.neg != n)) ∧
    fdiv .fp32 m (.inf n) (.fin d) = infinity (n != d.neg) ∧
    fdiv .fp32 m (.fin d) (.inf n) = ⟨if d.neg = n then 0 else 0x80000000, {}⟩ ∧
    (d.num = 0 → e.num ≠ 0 → fdiv .fp32 m (.fin d) (.fin e) = ⟨if d.neg = e.neg then 0 else 0x80000000, {}⟩) ∧
    (d.num = 0 ∨ e.num = 0 → fmul .fp32 m (.fin d) (.fin e) = ⟨if d.neg = e.neg then 0 else 0x80000000, {}⟩) ∧
    (let product : Bool := x.isNeg != y.isNeg
     let infinite := (∃ b, x = .inf b ∨ y = .inf b) ∧ x.isNaN = false ∧ y.isNaN = false ∧ x.isZero = false ∧ y.isZero = false
     let zeroByInf := ∃ b, (x.isZero = true ∧ y = .inf b) ∨ (x = .inf b ∧ y.isZero = true)
     (infinite → z = .inf (!product) → ffma .fp32 m x y z = invalid) ∧
       (infinite → z.isNaN = false → z ≠ .inf (!product) → ffma .fp32 m x y z = infinity product) ∧
       ((ffma .fp32 m x y z).flags.nv = true ↔
         (x.isSNaN = true ∨ y.isSNaN = true ∨ z.isSNaN = true) ∨ zeroByInf ∨ (infinite ∧ z = .inf (!product)))) ∧
    (d.num ≠ 0 → e.num = 0 →
      fdiv .fp32 m (.fin d) (.fin e) = ⟨if d.neg = e.neg then 0x7F800000 else 0xFF800000, { dz := true }⟩) ∧
    (d.num ≠ 0 → d.neg = true → fsqrt .fp32 m (.fin d) = invalid) ∧
    (d.num = 0 → fsqrt .fp32 m (.fin d) = ⟨if d.neg then 0x80000000 else 0, {}⟩) ∧
    (d.num ≠ 0 → fadd .fp32 m (.fin d) (.fin d.negate) = ⟨if m = .rdn then 0x80000000 else 0, {}⟩)

/-- n times q is what a mode makes of the magnitude v of a number with a sign (R193): one of its two neighbours among the multiples of q; v itself where it is one. -/
def RoundsTo (m : RMode) (neg : Bool) (v q : ℝ) (n : ℕ) : Prop :=
  ∃ k : ℕ, k * q ≤ v ∧ v < (k + 1) * q ∧ (v = k * q → n = k) ∧
    (v ≠ k * q →
      match m with
      | .rne =>
        (v < (k + 1 / 2) * q → n = k) ∧ ((k + 1 / 2) * q < v → n = k + 1) ∧ (v = (k + 1 / 2) * q → n % 2 = 0 ∧ (n = k ∨ n = k + 1))
      | .rtz => n = k
      | .rup => n = if neg then k else k + 1
      | .rdn => n = if neg then k + 1 else k)

/-- A result is the magnitude v, above 0, with a sign, rounded once to an IEEE format in a mode (R58, R193 to R195): to the quantum of its exponent, and of the least normal exponent below it; what then exceeds the format's
greatest number overflows to an infinity or to that number; OF, UF and NX say what happened, NV and DZ do not rise. -/
def RoundedOnce (F : Fmt) (m : RMode) (neg : Bool) (v : ℝ) (r : Rounded) : Prop :=
  ∃ (e : ℤ) (n : ℕ),
    let q : ℝ := 2 ^ (max e F.emin - F.mbits)
    let mag (d : Machine.Dyadic) : ℝ := d.num * 2 ^ d.exp
    (2 : ℝ) ^ e ≤ v ∧ v < (2 : ℝ) ^ (e + 1) ∧ RoundsTo m neg v q n ∧ r.bits < 2 ^ (F.body + 1) ∧ r.flags.nv = false ∧ r.flags.dz = false ∧
      (n * q < (2 : ℝ) ^ (F.bias + 1) →
        (∃ d, F.value r.bits = .fin d ∧ d.neg = neg ∧ mag d = n * q) ∧ r.flags.ovf = false ∧ (r.flags.nx = true ↔ n * q ≠ v) ∧
          (r.flags.unf = true ↔ n * q ≠ v ∧
            ∃ j : ℕ, RoundsTo m neg v ((2 : ℝ) ^ (e - F.mbits)) j ∧ j * (2 : ℝ) ^ (e - F.mbits) < (2 : ℝ) ^ F.emin)) ∧
      ((2 : ℝ) ^ (F.bias + 1) ≤ n * q →
        r.flags.ovf = true ∧ r.flags.nx = true ∧ r.flags.unf = false ∧
          (m = .rne ∨ (m = .rup ∧ neg = false) ∨ (m = .rdn ∧ neg = true) → F.value r.bits = .inf neg) ∧
          (m = .rtz ∨ (m = .rup ∧ neg = true) ∨ (m = .rdn ∧ neg = false) →
            ∃ d, F.value r.bits = .fin d ∧ d.neg = neg ∧ mag d = (2 - (2 : ℝ) ^ (-(F.mbits : ℤ))) * 2 ^ F.bias))

/-- R58, R61 and R63: the sum, product, quotient and root of finite numbers, a × b + d of FMA, the conversion of an integer and that of a number to another format are the exact value, where it is not 0, rounded once in the mode; FTOI and
FTOU round to an integer, held to the range, with NV alone where it lies outside. An exact zero of FMA's sum of numbers that are not 0 is +0, and −0 in RDN. -/
def Piece.FloatRounding : Prop :=
  ∀ (F : Fmt) (m : RMode) (x y z : Machine.Dyadic) (neg : Bool), F ∈ [Fmt.fp32, .bf16, .fp16] →
    let mag (d : Machine.Dyadic) : ℝ := d.num * 2 ^ d.exp
    let val (d : Machine.Dyadic) : ℝ := if d.neg then -mag d else mag d
    let rounds (v : ℝ) (r : Rounded) : Prop := v ≠ 0 → (neg = true ↔ v < 0) → RoundedOnce F m neg |v| r
    rounds (val x + val y) (fadd F m (.fin x) (.fin y)) ∧
    rounds (val x * val y) (fmul F m (.fin x) (.fin y)) ∧
    (y.num ≠ 0 → rounds (val x / val y) (fdiv F m (.fin x) (.fin y))) ∧
    (x.neg = false → rounds (Real.sqrt (val x)) (fsqrt F m (.fin x))) ∧
    rounds (val x * val y + val z) (ffma F m (.fin x) (.fin y) (.fin z)) ∧
    (x.num ≠ 0 → y.num ≠ 0 → val x * val y + val z = 0 → ffma F m (.fin x) (.fin y) (.fin z) = ⟨F.withSign (m == .rdn) 0, {}⟩) ∧
    (∀ i : ℤ, rounds i (intToF F m i)) ∧
    (∀ (src : Fmt) (bits : ℕ), src.value bits = .fin x → rounds (val x) (fconv src F m false bits)) ∧
    ∀ lo hi : ℤ, ∃ n : ℕ, RoundsTo m x.neg (mag x) 1 n ∧
      let i : ℤ := if x.neg then -n else n
      (hi < i → ftoInt lo hi m (.fin x) = (hi, { nv := true })) ∧ (i < lo → i ≤ hi → ftoInt lo hi m (.fin x) = (lo, { nv := true })) ∧
        (lo ≤ i → i ≤ hi → (ftoInt lo hi m (.fin x)).1 = i ∧
          (ftoInt lo hi m (.fin x)).2 = { nx := (ftoInt lo hi m (.fin x)).2.nx } ∧ ((ftoInt lo hi m (.fin x)).2.nx = true ↔ (n : ℝ) ≠ mag x))

/-! ### x registers -/

/-- R26: XSET, XMOV and the moves of halves and words; the other halves and words are kept. -/
def Piece.XRegisterMoves : Prop :=
  ∀ (s : State) (xn xm : XIdx) (rd a b : Reg) (h : BitVec 1) (w : BitVec 2),
    let put (v : XWord) : State := s.after 4 1 id fun c => { c with x := c.x.set xn v }
    (s.Clear [a, b] [] [xn] →
      exec (.xset xn a b) s = .next (put (BitVec.ofNat 128 ((s.reg b).toNat * 2 ^ 64 + (s.reg a).toNat)))) ∧
    (s.Clear [] [] [xn, xm] → exec (.xmov xn xm) s = .next (put (s.xreg xm))) ∧
    (s.Clear [] [rd] [xn] →
      exec (.xmovDRead rd xn h) s = .next (s.wrote rd ((s.xreg xn).extractLsb' (64 * h.toNat) 64))) ∧
    (s.Clear [a] [] [xn] →
      (∃ v, exec (.xmovDWrite xn a h) s = .next (put v) ∧ v.extractLsb' (64 * h.toNat) 64 = s.reg a ∧
        v.extractLsb' (64 - 64 * h.toNat) 64 = (s.xreg xn).extractLsb' (64 - 64 * h.toNat) 64) ∧
      (∃ v, exec (.xmovW xn a w) s = .next (put v) ∧ v.extractLsb' (32 * w.toNat) 32 = (s.reg a).setWidth 32 ∧
        ∀ i < 4, i ≠ w.toNat → v.extractLsb' (32 * i) 32 = (s.xreg xn).extractLsb' (32 * i) 32))

/-! ### What a scalar instruction leaves unchanged, and when it does not complete -/

/-- The scalar instructions that write at most g registers and cr.fpmode: the registers that they write, and whether their page
sets flags. -/
def scalarWrites : Instr → Option (List Reg × Bool)
  | .add d _ _ | .sub d _ _ | .and d _ _ | .or d _ _ | .xor d _ _ | .andn d _ _ | .orn d _ _ | .xnor d _ _ | .mul d _ _
  | .mulh d _ _ | .mulhu d _ _ | .div d _ _ | .divu d _ _ | .rem d _ _ | .remu d _ _ | .min d _ _ | .max d _ _ | .minu d _ _
  | .maxu d _ _ | .mov d _ | .sll d _ _ | .srl d _ _ | .sra d _ _ | .rol d _ _ | .ror d _ _ | .seq d _ _ | .sne d _ _
  | .slt d _ _ | .sltu d _ _ | .sle d _ _ | .sleu d _ _ | .sel d _ _ | .clz d _ | .ctz d _ | .popc d _ | .bswap d _
  | .lea d _ _ _ | .addi d _ _ | .andi d _ _ | .ori d _ _ | .xori d _ _ | .slti d _ _ | .sltiu d _ _ | .muli d _ _
  | .slli d _ _ | .srli d _ _ | .srai d _ _ | .seqi d _ _ | .snei d _ _ | .li d _ | .lis d _ | .addpc d _ | .jal d _
  | .jalr d _ _ | .loop d _ | .addiS d _ _ | .liS d _ | .aluS d _ _ | .slliS d _ _ | .srliS d _ _ | .sraiS d _ _
  | .xmovDRead d _ _ => some ([d], false)
  | .accS _ _ _ => some ([0], false)
  | .beq _ _ _ | .bne _ _ _ | .blt _ _ _ | .bge _ _ _ | .bltu _ _ _ | .bgeu _ _ _ | .beqS _ _ _ | .bneS _ _ _ | .j _ | .jS _
  | .jr _ _ | .jrS _ | .nop _ | .nopS _ => some ([], false)
  | .fadd d _ _ _ | .fsub d _ _ _ | .fmul d _ _ _ | .fdiv d _ _ _ | .fsqrt d _ _ | .fma d _ _ _ | .fmin d _ _ | .fmax d _ _
  | .fabs d _ | .fneg d _ | .feq d _ _ | .flt d _ _ | .fle d _ _ | .fclass d _ | .ftoi d _ _ | .ftou d _ _ | .itof d _ _
  | .utof d _ _ | .ftob d _ _ | .btof d _ | .ftoh d _ _ | .htof d _ => some ([d], true)
  | _ => none

/-- The frame of the scalar instructions of `scalarWrites`, in every next state, a hold or a trap too: all of memory, every other core, cluster and
region, every other fibre, the x registers, queues, counters and control registers of the core, and the fibre's registers but
those that the instruction writes, stay as they were; of cr.fpmode at most the flags change, and those only by a float form. -/
def Obligations.ScalarFrame : Prop :=
  ∀ (s t : State) (i : Instr) (w : List Reg) (fl : Bool),
    scalarWrites i = some (w, fl) → exec i s = .next t → s.OutsideKept t ∧ s.CoreKept t fl ∧ s.FibreKept t w

/-- The scalar register forms of two sources (R48, R50, R60 to R63): rd, rs1, rs2. SEL and FMA read rd as well. -/
def twoSourceForm : Instr → Option (Reg × Reg × Reg)
  | .add d a b | .sub d a b | .and d a b | .or d a b | .xor d a b | .andn d a b | .orn d a b | .xnor d a b | .mul d a b
  | .mulh d a b | .mulhu d a b | .div d a b | .divu d a b | .rem d a b | .remu d a b | .min d a b | .max d a b | .minu d a b
  | .maxu d a b | .sll d a b | .srl d a b | .sra d a b | .rol d a b | .ror d a b | .seq d a b | .sne d a b | .slt d a b
  | .sltu d a b | .sle d a b | .sleu d a b | .sel d a b | .lea d a b _ | .fadd d a b _ | .fsub d a b _ | .fmul d a b _
  | .fdiv d a b _ | .fma d a b _ | .fmin d a b | .fmax d a b | .feq d a b | .flt d a b | .fle d a b => some (d, a, b)
  | _ => none

/-- R20, for the scalar register forms of two sources: while an operand or the destination is pending the fibre is held at the
instruction until none of them is, and its registers keep what they hold. -/
def Piece.PendingOperands : Prop :=
  ∀ (s : State) (i : Instr) (rd a b : Reg), twoSourceForm i = some (rd, a, b) →
    s.me.live = true → s.me.frozen = false → s.me.unc = false → s.myCore.gk.mode ≠ .faulted →
    (s.me.pending a = true ∨ s.me.pending b = true ∨ s.me.pending rd = true) →
    ∃ t mask, exec i s = .next t ∧ t.me.hold = some (.regs mask) ∧ t.me.pc = s.me.pc ∧ t.me.g = s.me.g ∧ t.me.mark = s.me.mark ∧
      t.me.refused = s.me.refused ∧ t.mem = s.mem ∧ t.net = s.net ∧ (∀ r ∈ [a, b, rd], mask.getLsbD r.val = s.me.pending r)

/-- R70, for the scalar register forms of two sources of which none is pending: an operand that a refused access left takes the trap
of that access, and so does the old value of rd in FMA and SEL; the trap's address is what the register holds. Of several refused operands the first is taken, rd last, which is the model's choice (log 74). -/
def Piece.RefusedOperands : Prop :=
  ∀ (s : State) (i : Instr) (rd a b : Reg) (c : Refused), twoSourceForm i = some (rd, a, b) →
    s.me.live = true → s.me.frozen = false → s.me.unc = false → (∀ r ∈ [a, b, rd], s.me.mark[r] = none) →
    (s.me.refused[a] = some c → exec i s = .next (s.trapped (trapOf c.code c.kind (s.reg a)))) ∧
    (s.me.refused[a] = none → s.me.refused[b] = some c → exec i s = .next (s.trapped (trapOf c.code c.kind (s.reg b)))) ∧
    ((∃ m, i = .fma rd a b m) ∨ i = .sel rd a b → s.me.refused[a] = none → s.me.refused[b] = none → s.me.refused[rd] = some c →
      exec i s = .next (s.trapped (trapOf c.code c.kind (s.reg rd))))
/-! ### Loads, stores and atomics -/

/-- The loads (R38, R41, R42, R72): bytes, length, sign extension, destination, base, mode. -/
def loadForm : Instr → Option (Nat × Nat × Bool × Reg × Reg × MemMode)
  | .ldB d b ea => some (1, 4, true, d, b, ea)
  | .ldH d b ea => some (2, 4, true, d, b, ea)
  | .ldW d b ea => some (4, 4, true, d, b, ea)
  | .ldD d b ea => some (8, 4, true, d, b, ea)
  | .ldBu d b ea => some (1, 4, false, d, b, ea)
  | .ldHu d b ea => some (2, 4, false, d, b, ea)
  | .ldWu d b ea => some (4, 4, false, d, b, ea)
  | .ldS d b imm => some (8, 2, true, d, b, .disp (imm.setWidth 11))
  | .ldpS d b fn size => some (2 ^ size.toNat, 2, fn == 0#1, d, b, .postInc)
  | _ => none

/-- The stores: bytes, length, data register, base, mode. -/
def storeForm : Instr → Option (Nat × Nat × Reg × Reg × MemMode)
  | .stB d b ea => some (1, 4, d, b, ea)
  | .stH d b ea => some (2, 4, d, b, ea)
  | .stW d b ea => some (4, 4, d, b, ea)
  | .stD d b ea => some (8, 4, d, b, ea)
  | .stS d b imm => some (8, 2, d, b, .disp (imm.setWidth 11))
  | .stpS d b size => some (2 ^ size.toNat, 2, d, b, .postInc)
  | _ => none

/-- The atomics (R38, R74): operation, bytes, destination, base, operand, mode. -/
def atomForm : Instr → Option (AtomOp × Nat × Reg × Reg × Reg × AtomMode)
  | .aaddW d b x ea => some (.add, 4, d, b, x, ea)
  | .aaddD d b x ea => some (.add, 8, d, b, x, ea)
  | .aswapW d b x ea => some (.swap, 4, d, b, x, ea)
  | .aswapD d b x ea => some (.swap, 8, d, b, x, ea)
  | .aminW d b x ea => some (.min, 4, d, b, x, ea)
  | .aminD d b x ea => some (.min, 8, d, b, x, ea)
  | .amaxW d b x ea => some (.max, 4, d, b, x, ea)
  | .amaxD d b x ea => some (.max, 8, d, b, x, ea)
  | .aandW d b x ea => some (.and, 4, d, b, x, ea)
  | .aandD d b x ea => some (.and, 8, d, b, x, ea)
  | .aorW d b x ea => some (.or, 4, d, b, x, ea)
  | .aorD d b x ea => some (.or, 8, d, b, x, ea)
  | .axorW d b x ea => some (.xor, 4, d, b, x, ea)
  | .axorD d b x ea => some (.xor, 8, d, b, x, ea)
  | .acasW d b x ea => some (.cas, 4, d, b, x, ea)
  | .acasD d b x ea => some (.cas, 8, d, b, x, ea)
  | _ => none

/-- What R74 leaves at a location that holds `old`, for an operand b and an expected value e, both of n bytes; none where ACAS
leaves it unwritten. -/
def atomNew (o : AtomOp) (n old b e : Nat) : Option Nat :=
  let sg (v : Nat) : Int := (BitVec.ofNat (8 * n) v).toInt
  match o with
  | .add => some ((old + b) % 2 ^ (8 * n))
  | .swap => some b
  | .min => some (if sg b < sg old then b else old)
  | .max => some (if sg old < sg b then b else old)
  | .and => some (old &&& b)
  | .or => some (old ||| b)
  | .xor => some (old ^^^ b)
  | .cas => if old = e then some b else none

/-- The value that a load or atomic of n bytes brings: sign- or zero-extended. -/
def extended (n : Nat) (sg : Bool) (v : Nat) : Word :=
  if sg then (BitVec.ofNat (8 * n) v).signExtend 64 else (BitVec.ofNat (8 * n) v).setWidth 64

/-- The base register's update of mode 10 (R23). -/
def postIncremented (s : State) (base : Reg) (n : Nat) (m : MemMode) (f : Slot) : Slot :=
  match m with
  | .postInc => f.write base (s.reg base + BitVec.ofNat 64 n)
  | _ => f

/-- The micro-TLB order after an access: the entry used becomes the last used one (R320). -/
def touchedOrder (s : State) (va : Word) (c : Core) : Core :=
  if ofFlatar s.cur.core s.me then c
  else
    match c.utlb.find? fun e => e.copy.hits (s.entryPasid s.cur.core) va with
    | some m => { c with utlb := m :: c.utlb.erase m }
    | none => c

/-- R69, R72 and R73 of a local load: the bytes at the home, little-endian, extended as the form says, stand in rd; mode 10 advances
the base; nothing else changes but the micro-TLB's order. -/
def Piece.LocalLoads : Prop :=
  ∀ (s : State) (i : Instr) (n len pa : Nat) (sg : Bool) (rd base : Reg) (ea : MemMode) (h : Home),
    loadForm i = some (n, len, sg, rd, base, ea) → s.Clear (base :: memReads ea) (rd :: memWrites base ea) [] →
      ¬(ea = .postInc ∧ rd = base) → (memEA s base n ea).toNat % n = 0 → s.Maps .load (memEA s base n ea) pa →
      place pa = some (h, .memory) → h.isLocal s.cur.core = true → s.localFault h .load pa n = none →
      exec i s =
        .next (s.after len 1
          (fun f => postIncremented s base n ea (f.write rd (extended n sg (Memory.value s.mem pa n))))
          (touchedOrder s (memEA s base n ea)))

/-- R69, R72, R73 and the frame of a local store, its home's trace being off: the n bytes at the home take the data register's low
bytes, little-endian; every other byte of memory stays; mode 10 advances the base, and a data register that is the base is stored
with its old value. Beside the micro-TLB's order and the core's gather unit (R278), and an uncorrected word that is replaced whole (R73), the
rest of the wafer stays. -/
def Piece.LocalStores : Prop :=
  ∀ (s : State) (i : Instr) (n len pa : Nat) (rd base : Reg) (ea : MemMode) (h : Home),
    storeForm i = some (n, len, rd, base, ea) → Memory.wf s.mem = true →
      s.Clear (rd :: base :: memReads ea) (memWrites base ea) [] →
      (memEA s base n ea).toNat % n = 0 → s.Maps .store (memEA s base n ea) pa →
      place pa = some (h, .memory) → h.isLocal s.cur.core = true → s.localFault h .store pa n = none →
      (∀ w, s.traceControl h = some w → flag w 0 = false) →
      ∃ t : State, exec i s = .next t ∧
        (∀ x, pa ≤ x → x < pa + n → Memory.byte t.mem x = BitVec.ofNat 8 ((s.reg rd).toNat / 256 ^ (x - pa))) ∧
        (∀ x, x < pa ∨ pa + n ≤ x → Memory.byte t.mem x = Memory.byte s.mem x) ∧
        (∀ w, w ∈ t.bad ↔ w ∈ s.bad ∧ ¬(pa ≤ 8 * w ∧ 8 * w + 8 ≤ pa + n)) ∧
        t.me = (s.after len 1 (postIncremented s base n ea) id).me ∧
        (∀ r : Reg, r ≠ base → t.me.g[r] = s.me.g[r]) ∧
        t.regs = s.regs ∧ t.net = s.net ∧ t.clusters = s.clusters ∧ t.regions = s.regions ∧ t.host = s.host ∧ t.fuses = s.fuses ∧
        (∀ p, p ≠ s.cur.core → t.core p = s.core p) ∧ (∀ m, m ≠ s.cur.slot → t.slot s.cur.core m = s.slot s.cur.core m) ∧
        coreRest { t.myCore with utlb := [], gk := Gather.initial } = coreRest { s.myCore with utlb := [], gk := Gather.initial }

/-- R74, R75 and the frame of a local atomic, its home's trace being off: rd takes the old value, sign-extended; the location takes what the form
leaves, and ACAS leaves it where the old value is not the expected one; mode 10 advances the base. -/
def Piece.LocalAtomics : Prop :=
  ∀ (s : State) (i : Instr) (o : AtomOp) (n pa : Nat) (rd base idx : Reg) (ea : AtomMode) (h : Home),
    atomForm i = some (o, n, rd, base, idx, ea) → Memory.wf s.mem = true →
      s.Clear (base :: idx :: (if o = .cas then [rd] else [])) (rd :: memWrites base (atomMem ea)) [] →
      ¬(ea = .postInc ∧ rd = base) → (memEA s base n (atomMem ea)).toNat % n = 0 →
      s.Maps .atomic (memEA s base n (atomMem ea)) pa →
      place pa = some (h, .memory) → h.isLocal s.cur.core = true → s.localFault h .atomic pa n = none →
      (∀ w, s.traceControl h = some w → flag w 0 = false) →
      let old := Memory.value s.mem pa n
      let new := atomNew o n old ((s.reg idx).toNat % 2 ^ (8 * n)) ((s.reg rd).toNat % 2 ^ (8 * n))
      ∃ t : State, exec i s = .next t ∧
        t.me = (s.after 4 1 (fun f => postIncremented s base n (atomMem ea) (f.write rd (extended n true old))) id).me ∧
        (∀ v, new = some v → ∀ x, pa ≤ x → x < pa + n → Memory.byte t.mem x = BitVec.ofNat 8 (v / 256 ^ (x - pa))) ∧
        (new = none → t.mem = s.mem) ∧
        (∀ x, x < pa ∨ pa + n ≤ x → Memory.byte t.mem x = Memory.byte s.mem x) ∧
        t.regs = s.regs ∧ t.net = s.net ∧ t.clusters = s.clusters ∧ t.regions = s.regions ∧ t.host = s.host ∧
        (∀ p, p ≠ s.cur.core → t.core p = s.core p) ∧ (∀ m, m ≠ s.cur.slot → t.slot s.cur.core m = s.slot s.cur.core m) ∧
        coreRest { t.myCore with utlb := [], gk := Gather.initial } = coreRest { s.myCore with utlb := [], gk := Gather.initial }

/-- R24, R73 and R75: before it is performed, a load, store or atomic traps ILLEGAL where mode 10 would write its base as rd, else
PAGE on an address that is not canonical, else ALIGN on one that is no multiple of the access size; the address is the fault's. -/
def Obligations.AccessChecks : Prop :=
  ∀ (s : State) (i : Instr) (o : AtomOp) (n len : Nat) (sg : Bool) (rd base idx : Reg) (ea : MemMode) (am : AtomMode),
    (loadForm i = some (n, len, sg, rd, base, ea) → s.Clear (base :: memReads ea) (rd :: memWrites base ea) [] →
      (ea = .postInc → rd = base → exec i s = .next (s.trapped (trapOf .illegal .load 0))) ∧
      (¬(ea = .postInc ∧ rd = base) →
        (canonical (memEA s base n ea) = false → exec i s = .next (s.trapped (trapOf .page .load (memEA s base n ea)))) ∧
        (canonical (memEA s base n ea) = true → (memEA s base n ea).toNat % n ≠ 0 →
          exec i s = .next (s.trapped (trapOf .align .load (memEA s base n ea)))))) ∧
    (storeForm i = some (n, len, rd, base, ea) → s.Clear (rd :: base :: memReads ea) (memWrites base ea) [] →
      (canonical (memEA s base n ea) = false → exec i s = .next (s.trapped (trapOf .page .store (memEA s base n ea)))) ∧
      (canonical (memEA s base n ea) = true → (memEA s base n ea).toNat % n ≠ 0 →
        exec i s = .next (s.trapped (trapOf .align .store (memEA s base n ea))))) ∧
    (atomForm i = some (o, n, rd, base, idx, am) →
      s.Clear (base :: idx :: (if o = .cas then [rd] else [])) (rd :: memWrites base (atomMem am)) [] →
      (am = .postInc → rd = base → exec i s = .next (s.trapped (trapOf .illegal .atomic 0))) ∧
      (¬(am = .postInc ∧ rd = base) →
        (canonical (memEA s base n (atomMem am)) = false →
          exec i s = .next (s.trapped (trapOf .page .atomic (memEA s base n (atomMem am))))) ∧
        (canonical (memEA s base n (atomMem am)) = true → (memEA s base n (atomMem am)).toNat % n ≠ 0 →
          exec i s = .next (s.trapped (trapOf .align .atomic (memEA s base n (atomMem am)))))))

/-- What a remote access brings into the mesh (R69, R79): an ACCESS from the issuing core, at its cluster's router, to the home, in TC3
for a rim channel or system space and in TC1 otherwise, with its operation code, size, sign bit, address and tag in the selector; one
for a Bondlink port carries the task's PASID (R359). -/
def accessPacket (s : State) (h : Home) (op n pa tag : Nat) (sg : Bool) (data : List Word) : Packet where
  src := .core s.cur.core
  dst := .home h
  tc := h.accessClass
  load := .msg
    { rw := (s.fibreRouting .access h.accessClass h.number (op == 9)).word
      sel := BitVec.ofNat 64 ((if sg then 2 ^ 54 else 0) + Nat.log2 n * 2 ^ 52 + op * 2 ^ 48 + pa) |||
        BitVec.ofNat 64 (tag * 2 ^ 55)
      data := data } true
  here := s.cur.core / 8
  held := none
  pasid :=
    match h with
    | .system _ => some (s.entryPasid s.cur.core)
    | _ => none

/-- The tag that a remote access takes (R69 to R71): its fibre, what its REPLY does, the scope of its home, the instruction's PC, and
the virtual address. -/
def accessTag (s : State) (h : Home) (use : TagUse) (va : Word) : Tag where
  slot := s.cur.slot
  gen := s.me.gen
  use := use
  scope := h.scope s.cur.core
  pc := s.me.pcWord
  place := va
  issuer := s.cur.core

/-- R69 to R71, R73 and R75 of a remote load, store or atomic of a fibre without AMIG: an ACCESS goes to the home with a tag; a
load's or atomic's rd is pending; a store's data, and an atomic's operands, are the whole registers at issue; mode 10 advances the base; memory stays, and of the core only
the tag table and the micro-TLB's order change. What the rules leave open here is the model's choice (logs 10 and 55). -/
def Piece.RemoteAccesses : Prop :=
  ∀ (s : State) (i : Instr) (o : AtomOp) (n len pa tag : Nat) (sg : Bool) (rd base idx : Reg) (ea : MemMode) (am : AtomMode) (h : Home) (ar : Area),
    place pa = some (h, ar) → (ar = .memory → h.isLocal s.cur.core = false) → s.me.amig = false → s.TagFree tag →
    let tagged (use : TagUse) (va : Word) (c : Core) : Core :=
      { touchedOrder s va c with tags := Tab.put c.tags tag (accessTag s h use va) }
    (loadForm i = some (n, len, sg, rd, base, ea) → s.Clear (base :: memReads ea) (rd :: memWrites base ea) [] →
      ¬(ea = .postInc ∧ rd = base) → (memEA s base n ea).toNat % n = 0 → s.Maps .load (memEA s base n ea) pa →
      exec i s = .next (State.enter
        (s.after len 1 (fun f => postIncremented s base n ea (f.markPending rd .load))
          (tagged (.value rd .load) (memEA s base n ea)))
        (accessPacket s h 0 n pa tag sg [0]))) ∧
    (storeForm i = some (n, len, rd, base, ea) → s.Clear (rd :: base :: memReads ea) (memWrites base ea) [] →
      (memEA s base n ea).toNat % n = 0 → s.Maps .store (memEA s base n ea) pa →
      exec i s = .next (State.enter
        (s.after len 1 (postIncremented s base n ea) (tagged (.posted .store) (memEA s base n ea)))
        (accessPacket s h 1 n pa tag false [s.reg rd]))) ∧
    (atomForm i = some (o, n, rd, base, idx, am) →
      s.Clear (base :: idx :: (if o = .cas then [rd] else [])) (rd :: memWrites base (atomMem am)) [] →
      ¬(am = .postInc ∧ rd = base) → (memEA s base n (atomMem am)).toNat % n = 0 →
      s.Maps .atomic (memEA s base n (atomMem am)) pa →
      exec i s = .next (State.enter
        (s.after 4 1 (fun f => postIncremented s base n (atomMem am) (f.markPending rd .load))
          (tagged (.value rd .atomic) (memEA s base n (atomMem am))))
        (accessPacket s h o.code n pa tag false
          (if o = .cas then [s.reg idx, s.reg rd, 0, 0, 0, 0, 0, 0] else [s.reg idx]))))

/-- R79: what the words of an ACCESS say is what was asked: its kind, destination, operation, size, sign bit, address and tag. -/
def Piece.AccessWordsAgree : Prop :=
  ∀ (s : State) (h : Home) (op n pa tag : Nat) (sg : Bool) (data : List Word),
    op < 16 → (n = 1 ∨ n = 2 ∨ n = 4 ∨ n = 8) → pa < 2 ^ 48 → tag < 512 → h.number < 2 ^ 16 → s.rankOf s.cur.core < 2 ^ 16 →
    s.taskOf s.cur.core s.me < 2 ^ 12 →
    ∃ m, (accessPacket s h op n pa tag sg data).load = .msg m true ∧ m.kind = 4 ∧ m.tc = h.accessClass ∧ m.dest = h.number ∧
      m.src = s.rankOf s.cur.core ∧ m.task = s.taskOf s.cur.core s.me ∧ m.ecls = s.me.ecls ∧ m.prio = s.me.prio ∧
      m.isRecord = (op == 9) ∧ m.tag = tag ∧ accessAsk m = { op := op, bytes := n, signed := sg, pa := pa }

/-- ACCESS_PERFORM (R73, R80, R153) of a load, store or atomic of memory at a home that runs, refuses nothing, whose lanes are right, with no
ACCESS before it at the home's port, that meets no lock and no uncorrected word, the trace being off: the REPLY with status 0 carries a
load's or atomic's value; a store's bytes, or what the atomic leaves, stand at the home, and no other byte of memory changes. A home
that refuses answers HOME_FENCED, and a lock or an uncorrected word its code; there memory stays. What the rules leave open here is the model's choice (log 55). -/
def Piece.AccessPerformed : Prop :=
  ∀ (s : State) (p : Packet) (m : Msg) (tg : Bool) (h : Home),
    s.front s.spot.place = some p → p.load = .msg m tg → p.dst = .home h → m.kind = 4 → Memory.wf s.mem = true →
      place (accessAsk m).pa = some (h, .memory) →
      let a := accessAsk m
      let refuses := s.homeRefuses ((Packet.sender p).getD 0) (m.task == 0 || (Packet.sender p).isNone) h a.pa
      let refused (code : FaultCode) : Prop :=
        ∃ t : State, exec .accessPerform s = .next t ∧ t.mem = s.mem ∧ t.cores = s.cores ∧
          t.Answered (s.taken s.spot.place).net (.home h) (s.replyPort p m) m code.status 0
      (refuses = true → refused .homeFenced) ∧
      (refuses = false → s.accessWaits h a = true → exec .accessPerform s = .next s) ∧
      (refuses = false → s.accessWaits h a = false → s.arrivedBefore s.spot.place p = false →
        ∀ c, s.remoteFault h a.access a.pa a.bytes = some c → refused c) ∧
      (refuses = false → s.accessWaits h a = false → s.arrivedBefore s.spot.place p = false → s.readsWell h = true → s.writesWell h = true →
      s.remoteFault h a.access a.pa a.bytes = none →
      (∀ w, s.traceControl h = some w → flag w 0 = false) →
      let old := Memory.value s.mem a.pa a.bytes
      let d (j : Nat) : Nat := (m.word j).toNat % 2 ^ (8 * a.bytes)
      let new := if a.op = 0 then none else if a.op = 1 then some (d 0) else atomNew (AtomOp.ofCode a.op) a.bytes old (d 0) (d 1)
      let value := if a.op = 0 then extended a.bytes a.signed old else if a.op = 1 then 0 else extended a.bytes true old
      ∃ t : State, exec .accessPerform s = .next t ∧
        (∀ v, new = some v → ∀ x, a.pa ≤ x → x < a.pa + a.bytes → Memory.byte t.mem x = BitVec.ofNat 8 (v / 256 ^ (x - a.pa))) ∧
        (new = none → t.mem = s.mem) ∧
        (∀ x, x < a.pa ∨ a.pa + a.bytes ≤ x → Memory.byte t.mem x = Memory.byte s.mem x) ∧
        t.Answered (s.taken s.spot.place).net (.home h) (s.replyPort p m) m 0 value)

/-- REPLY_ARRIVAL (R70, R71, R80, R107) at a core that runs and is not fenced, for a tag of a fibre that lives: at the core that holds the
context now (that core itself, but for a context that has been loaded elsewhere, R337), which runs and is not SAVED, the tag is
freed; where the register is pending on a load, with status 0 the value stands in it and the mark is gone, and a refusal leaves it
refused, holding the access's virtual address, with its code; where it is not, the fibre's registers stay; the first refusal of a posted
operation becomes owed with count 1, later ones raise the count, which holds at 255. No register else changes. -/
def Piece.ReplyAnswers : Prop :=
  ∀ (s : State) (p : Packet) (m : Msg) (tg : Bool) (port pid : Nat) (g : Tag),
    s.front s.spot.place = some p → p.load = .msg m tg → p.dst = .core port → pid = (s.core port).went.getD port → m.kind = 5 →
      (s.core port).fenced = false → s.portRuns port = true → s.portRuns pid = true → s.savedNow pid = false →
      Tab.look (s.core pid).tags (fld m.sel 0 9) = some g → (∀ r a, g.use ≠ .course r a) →
      (s.slot pid g.slot).live = true → (s.slot pid g.slot).gen = g.gen →
      let f := s.slot pid g.slot
      let code := statusCode (fld m.sel 9 3)
      ∃ t : State, exec .replyArrival s = .next t ∧ t.net = (s.taken s.spot.place).net ∧ t.mem = s.mem ∧
        (t.core pid).tags = Tab.remove (s.core pid).tags (fld m.sel 0 9) ∧
        (∀ q, q ≠ pid → t.core q = s.core q) ∧ (∀ n, n ≠ g.slot → t.slot pid n = s.slot pid n) ∧
        let f' := t.slot pid g.slot
        (∀ reg k, (g.use = .value reg k ∨ g.use = .status reg) →
          (f.mark[reg] ≠ some .load → f'.g = f.g ∧ f'.mark = f.mark ∧ f'.refused = f.refused ∧ f'.owed = f.owed) ∧
          (f.mark[reg] = some .load → f'.mark[reg] = none ∧ (∀ r, r ≠ reg → f'.g[r] = f.g[r] ∧ f'.mark[r] = f.mark[r] ∧ f'.refused[r] = f.refused[r]) ∧ f'.owed = f.owed ∧
          (code = none → f'.g[reg] = m.word 0 ∧ f'.refused[reg] = none) ∧
          (∀ c, code = some c → f'.g[reg] = g.place ∧ ∃ kind, f'.refused[reg] = some { code := c, kind := kind }))) ∧
        (∀ k, g.use = .posted k → f'.g = f.g ∧ f'.mark = f.mark ∧ f'.refused = f.refused ∧
          (code = none → f'.owed = f.owed) ∧
          (∀ c, code = some c → f.owed = none →
            f'.owed = some { code := c, pc := g.pc, place := g.place, kind := k, count := 1 }) ∧
          (∀ c w, code = some c → f.owed = some w → f'.owed = some { w with count := min 255 (w.count + 1) }))

/-- R21 and R25: XLD reads 16 bytes of the core's own TCM or its scratchpad at issue; they reach xn in the next ac, and XLD_COMPLETE
then writes them; mode 10 advances the base by 16. -/
def Piece.XldLoads : Prop :=
  ∀ (s : State) (xn : XIdx) (base : Reg) (ea : XldMode) (pa : Nat) (h : Home),
    (s.Clear (xldReads base ea) (xldWrites base ea) [xn] → (xldEA s base ea).toNat % 16 = 0 →
      s.Maps .load (xldEA s base ea) pa → place pa = some (h, .memory) → place (pa / 2 ^ 16 * 2 ^ 16) = some (h, .memory) →
      h.isLocal s.cur.core = true →
      s.localFault h .load pa 16 = none → pa % 2 ^ 16 = (xldEA s base ea).toNat % 2 ^ 16 →
      exec (.xld xn base ea) s =
        .next (s.after 4 1
          (fun f =>
            match ea with
            | .postInc => f.write base (s.reg base + 16)
            | _ => f)
          fun c => { touchedOrder s (xldEA s base ea) c with
            xld := Tab.put c.xld xn.val (BitVec.ofNat 128 (Memory.value s.mem pa 16), s.coreAc s.cur.core + 1) })) ∧
    (∀ v ac, Tab.look (s.core s.spot.place).xld s.spot.item = some (v, ac) → ac < s.coreAc s.spot.place →
      exec .xldComplete s =
        .next (s.onCore s.spot.place fun c =>
          { c with x := c.x.setIfInBounds s.spot.item v, xld := Tab.remove c.xld s.spot.item }))

/-! ### Settling, messages, fibres and queues -/

/-- A fibre that waits to settle: it stands at its instruction (R71). -/
def settlingAt (pc : BitVec 56) (k : Settling) (f : Slot) : Slot := { f with pc := pc, settle := some k }

/-- R71, R76, R86, R87: FENCE, EXIT, EXIT.S and MIG complete where what they cover is done and no refusal is owed; they trap with the
owed refusal where one is; else they wait at their own PC. EXIT frees the slot; MIG, which waits for the outbound queue too (R81), sends
g0 to g7 and NextPC as a MIGRATE record in TC1 to the rank, and frees the slot. -/
def Piece.SettlingInstructions : Prop :=
  ∀ (s : State) (scope : Scope) (a : Reg) (port : Port) (o : Owed),
    let rank := (s.reg a).toNat
    let doneTo (k : Settling) : Bool := s.drained s.cur.core s.cur.slot s.me.gen k
    let leaves : Bool := doneTo (.mig rank) && s.accepts s.cur.core
    let mayMig := s.Clear [0, 1, 2, 3, 4, 5, 6, 7] [] [] ∧ s.me.epcv = false ∧ rank < 2 ^ 16 ∧ s.Names rank port
    (s.Clear [] [] [] →
      (s.me.owed = none →
        (doneTo (.fence scope) = true → exec (.fence scope) s = .next (s.after 4 1 id id)) ∧
        (doneTo .exit = true → exec .exit s = .next s.ended ∧ exec .exitS s = .next s.ended)) ∧
      (s.me.owed = some o →
        (doneTo (.fence scope) = true → exec (.fence scope) s = .next (s.trapped (owedTrap o))) ∧
        (doneTo .exit = true → exec .exit s = .next (s.trapped (owedTrap o)) ∧ exec .exitS s = .next (s.trapped (owedTrap o)))) ∧
      (doneTo (.fence scope) = false → exec (.fence scope) s = .next (s.after 4 1 (settlingAt s.me.pc (.fence scope)) id)) ∧
      (doneTo .exit = false →
        exec .exit s = .next (s.after 4 1 (settlingAt s.me.pc .exit) id) ∧
        exec .exitS s = .next (s.after 2 1 (settlingAt s.me.pc .exit) id))) ∧
    (mayMig → leaves = true → s.me.owed = none → s.rankOf s.cur.core < 2 ^ 16 → s.taskOf s.cur.core s.me < 2 ^ 12 →
      ∃ (p : Packet) (ps : List Packet), exec (.mig a) s = .next { s.ended with net := s.net ++ p :: ps } ∧ p.dst = port ∧ (s.myCore.gk.mode ≠ .faulted → ps = []) ∧
        s.Says p 3 1 rank true (s.taskOf s.cur.core s.me) ((s.me.pc + 4).toNat % 2 ^ 55) s.me.g.toList false ∧
        ∃ m, p.load = .msg m false ∧ m.sel.setWidth 56 = s.me.pc + 4) ∧
    (mayMig → leaves = true → s.me.owed = some o → exec (.mig a) s = .next (s.trapped (owedTrap o))) ∧
    (mayMig → leaves = false → exec (.mig a) s = .next (s.after 4 1 (settlingAt s.me.pc (.mig rank)) id))

/-- R76 and R86, what a settling instruction waits for: FENCE for the fibre's tags and engine operations with a home of its scope or a
narrower one; EXIT and MIG for all of them, an operation without a home too. -/
def Piece.SettlingCovers : Prop :=
  ∀ (s : State) (pid n : Nat) (gen : BitVec 8) (k : Settling),
    let covers (t : Scope) : Prop :=
      match k with
      | .fence f => scopeNum t ≤ scopeNum f
      | _ => True
    s.drained pid n gen k = true ↔
      (∀ e ∈ (s.core pid).tags, e.2.slot = n → e.2.gen = gen → ¬covers e.2.scope) ∧
        ∀ o ∈ (s.core pid).ops, o.slot = n → o.gen = gen → (∃ f, k = .fence f) ∧ ∀ t ∈ o.scopes, ¬covers t

/-- SETTLE (R71, R81): on a core that acts, a fibre that waits, whose operations are done and for which the outbound queue has room,
completes its FENCE past it, ends by EXIT, migrates by MIG from past it and by the predictor from the access itself; where a refusal is
owed it freezes at its instruction, and where its rank has lost its entry it traps ILLEGAL. What the rules leave open here is the model's choice (log 70). -/
def Piece.SettleCompletes : Prop :=
  ∀ (s : State) (k : Settling),
    let pid := s.spot.place
    let n := s.spot.item
    let f := s.slot pid n
    let goes (rank : Nat) : Prop := k = .mig rank ∨ k = .predict rank
    f.settle = some k → f.live = true → f.frozen = false → s.acts pid = true → s.drained pid n f.gen k = true →
    (∀ rank, goes rank → s.accepts pid = true) →
    (∀ o, f.owed = some o → exec .settle s = .next (s.raiseFault pid n (owedTrap o))) ∧
    (∀ rank, f.owed = none → goes rank → s.rankPort pid rank = none →
      exec .settle s = .next (s.raiseFault pid n (trapOf .illegal .message 0))) ∧
    (f.owed = none → (∀ rank, goes rank → (s.rankPort pid rank).isSome = true) →
      ∃ t : State, exec .settle s = .next t ∧ t.mem = s.mem ∧ t.clusters = s.clusters ∧ t.regions = s.regions ∧
        (∀ q, q ≠ pid → t.core q = s.core q) ∧ (∀ m, m ≠ n → t.slot pid m = s.slot pid m) ∧
        (∀ scope, k = .fence scope → t.net = s.net ∧ (t.slot pid n).settle = none ∧ (t.slot pid n).pc = f.pc + 4 ∧
          (t.slot pid n).g = f.g ∧ (t.slot pid n).live = true) ∧
        (k = .exit → (s.core pid).gk.mode ≠ .faulted → t.net = s.net) ∧
        ((∀ scope, k ≠ .fence scope) → t.slot pid n = { Slot.free with gen := f.gen + 1 }) ∧
        (∀ rank port, goes rank → s.rankPort pid rank = some port →
          ∃ (p : Packet) (m : Msg) (ps : List Packet), t.net = s.net ++ p :: ps ∧ ((s.core pid).gk.mode ≠ .faulted → ps = []) ∧ p.src = .core pid ∧ p.dst = port ∧ p.tc = 1 ∧ p.load = .msg m false ∧
            m.data = f.g.toList ∧ m.sel.setWidth 56 = (if k = .mig rank then f.pc + 4 else f.pc)))

/-- R86: YIELD completes, with its waiting age restarted and its own priority, last of its level. -/
def Piece.YieldCompletes : Prop :=
  ∀ s : State, s.Clear [] [] [] →
    let last (f : Slot) : Slot := { f with yld := true, age := 0, eff := f.prio }
    exec .yield s = .next (s.after 4 1 last id) ∧ exec .yieldS s = .next (s.after 2 1 last id)

/-- R81 to R84, R97: SEND, SENDC and DEP inject their word in TC1, or in TC0 where the operand says so, with a tag; the fibre goes on. SEND's
record carries 64 bytes of local memory. While the outbound queue does not accept the message, the fibre is held at the instruction. What the rules leave open here is the model's choice (logs 10 and 55). -/
def Piece.MessagesSent : Prop :=
  ∀ (s : State) (a b : Reg) (port : Port) (tag : Nat),
    let w := (s.reg a).toNat
    let rank := w % 2 ^ 16
    let bit (i : Nat) : Bool := (s.reg a).getLsbD i
    let tc := if bit 24 then 0 else 1
    let mine := s.taskOf s.cur.core s.me
    let out (p : Packet) : State :=
      (s.after 4 1 id fun c => { c with tags := Tab.put c.tags tag (s.postTag rank port) }).sent p
    s.Clear [a, b] [] [] → s.TagFree tag → tag < 512 → s.Names rank port → s.rankOf s.cur.core < 2 ^ 16 → mine < 2 ^ 12 →
    let sendOk := w / 2 ^ 39 = 0 ∧ (w / 2 ^ 27 = 0 ∨ ofFlatar s.cur.core s.me = true) ∧ (bit 26 = true → w / 2 ^ 18 % 64 = 0)
    (s.accepts s.cur.core = false →
      ∀ i, (i = .send a b ∧ sendOk ∧ bit 25 = false) ∨ (i = .sendc a b ∧ w / 2 ^ 25 = 0 ∧ w / 2 ^ 22 % 4 = 0) ∨ (i = .dep a b ∧ w / 2 ^ 36 = 0) →
        ∃ t : State, exec i s = .next t ∧ t.me.hold = some .outbound ∧ t.me.pc = s.me.pc ∧ t.me.g = s.me.g ∧ t.net = s.net ∧
          t.myCore.tags = s.myCore.tags ∧ s.OutsideKept t) ∧
    (s.accepts s.cur.core = true → sendOk →
      let task := if ofFlatar s.cur.core s.me then w / 2 ^ 27 % 2 ^ 12 else mine
      let sel := if bit 26 then 256 + w / 2 ^ 16 % 4 else w / 2 ^ 16 % 256
      (bit 25 = false →
        ∃ p : Packet, exec (.send a b) s = .next (out p) ∧ p.dst = port ∧ Tagged p tag ∧
          s.Says p 0 tc rank false task sel [s.reg b] true) ∧
      (bit 25 = true → bit 24 = false → ∀ ps h u,
        (s.onMe (slotBegun 4)).checkLocal .load .message (s.reg b) 64 8 = .ok (ps, h, u) →
        (∀ x ∈ ps.pieces ps.length (s.reg b) 64, u.localFault h .load x.1 x.2 = none) →
        ∃ (t : State) (p : Packet), exec (.send a b) s = .next t ∧ t.net = s.net ++ [p] ∧ p.dst = port ∧ Tagged p tag ∧
          s.Says p 0 1 rank true task sel
            ((List.range 8).map fun i => BitVec.ofNat 64 (ps.value s.mem (s.reg b) 64 / 2 ^ (64 * i))) true ∧
          (t.core s.cur.core).tags = Tab.put s.myCore.tags tag (s.postTag rank port) ∧
          t.me = (s.after 4 1 id id).me ∧ s.OutsideKept t ∧ s.CoreSent t)) ∧
    (s.accepts s.cur.core = true → w / 2 ^ 25 = 0 → w / 2 ^ 22 % 4 = 0 →
      ∃ p : Packet, exec (.sendc a b) s = .next (out p) ∧ p.dst = port ∧ Tagged p tag ∧
        s.Says p 1 tc rank false mine (w / 2 ^ 16 % 64 * 2 ^ 32 + (s.reg b).toNat % 2 ^ 32) [0] true) ∧
    (s.accepts s.cur.core = true → w / 2 ^ 36 = 0 →
      ∃ p : Packet, exec (.dep a b) s = .next ((s.after 4 1 id fun c => { c with tags := Tab.put c.tags tag (s.postTag rank port) }).sent p) ∧
        p.dst = port ∧ Tagged p tag ∧
        s.Says p 2 (if bit 35 then 0 else 1) rank false mine
          (w / 2 ^ 32 % 8 * 2 ^ 16 + w / 2 ^ 24 % 256 * 2 ^ 8 + w / 2 ^ 16 % 256) [s.reg b] true)

/-- R81, R82, R83, R84 and R97, where a message is refused at execution: a reserved bit, a record in TC0 or a rank without an entry is ILLEGAL,
a service rank from user mode is PRIVILEGE; nothing is sent. -/
def Piece.MessagesRefused : Prop :=
  ∀ (s : State) (a b : Reg),
    let w := (s.reg a).toNat
    let rank := w % 2 ^ 16
    let bit (i : Nat) : Bool := (s.reg a).getLsbD i
    let trap (c : FaultCode) : State := s.trapped (trapOf c .message 0)
    let sendOk := w / 2 ^ 39 = 0 ∧ (w / 2 ^ 27 = 0 ∨ ofFlatar s.cur.core s.me = true) ∧ (bit 26 = true → w / 2 ^ 18 % 64 = 0)
    s.Clear [a, b] [] [] →
    (¬sendOk → exec (.send a b) s = .next (trap .illegal)) ∧
    (sendOk → bit 25 = true → bit 24 = true → exec (.send a b) s = .next (trap .illegal)) ∧
    (¬(w / 2 ^ 25 = 0 ∧ w / 2 ^ 22 % 4 = 0) → exec (.sendc a b) s = .next (trap .illegal)) ∧
    (w / 2 ^ 36 ≠ 0 → exec (.dep a b) s = .next (trap .illegal)) ∧
    (∀ c, (isServiceRank rank = true ∧ s.me.sup = false ∧ c = .privilege) ∨
        (isServiceRank rank = false ∧ s.rankPort s.cur.core rank = none ∧ c = .illegal) →
      (sendOk → bit 25 = false → exec (.send a b) s = .next (trap c)) ∧
      (w / 2 ^ 25 = 0 → w / 2 ^ 22 % 4 = 0 → exec (.sendc a b) s = .next (trap c)) ∧
      (w / 2 ^ 36 = 0 → exec (.dep a b) s = .next (trap c)))

/-- R83 to R85: BIND writes the handle of gP and marks it pending, and is ILLEGAL where it names one register twice; CNTSET arms a counter; SPAWN starts a
fibre of the core's task at the handler with the operand in g0, or answers all ones where no slot is free. What the rules leave open here is the model's choice (log 55). -/
def Piece.FibreInstructions : Prop :=
  ∀ (s : State) (rd a b : Reg),
    let pid := s.cur.core
    let w := (s.reg a).toNat
    let handle (slot : Nat) (gen : BitVec 8) (r : Nat) : Word :=
      BitVec.ofNat 64 (r * 2 ^ 32 + gen.toNat * 2 ^ 24 + slot * 2 ^ 16 + s.rankOf pid)
    (s.Clear [] [rd, a] [] → rd ≠ a →
      exec (.bind rd a) s =
        .next (s.after 4 1 (fun f => (f.write rd (handle s.cur.slot s.me.gen a.val)).markPending a .bind) id)) ∧
    (s.me.live = true → s.me.frozen = false → s.me.unc = false →
      exec (.bind rd rd) s = .next (s.trapped (trapOf .illegal .instruction 0))) ∧
    (s.Clear [a, b] [] [] →
      let ok := w / 2 ^ 16 = 0 ∧ w / 2 ^ 6 % 4 = 0 ∧ s.handlerEmpty pid (w / 2 ^ 8 % 256) = false
      (ok → exec (.cntset a b) s =
        .next (s.after 4 1 id fun c =>
          { c with counters := Tab.put c.counters (w % 64) ((s.reg b).toNat % 2 ^ 32, w / 2 ^ 8 % 256) })) ∧
      (¬ok → exec (.cntset a b) s = .next (s.trapped (trapOf .illegal .instruction 0)))) ∧
    (s.Clear [a, b] [rd] [] →
      let ok := w / 2 ^ 8 = 0 ∧ s.handlerEmpty pid (w % 256) = false
      (¬ok → exec (.spawn rd a b) s = .next (s.trapped (trapOf .illegal .instruction 0))) ∧
      (ok → s.freeSlot pid = none → exec (.spawn rd a b) s = .next (s.wrote rd (BitVec.allOnes 64))) ∧
      (ok → ∀ n, s.freeSlot pid = some n →
        ∃ t : State, exec (.spawn rd a b) s = .next t ∧ t.me = (s.wrote rd (handle n (s.slot pid n).gen 0)).me ∧ n ≠ s.cur.slot ∧
          s.OutsideKept t ∧ t.net = s.net ∧ coreRest (t.core pid) = coreRest s.myCore ∧
          (∀ m, m ≠ n → m ≠ s.cur.slot → t.slot pid m = s.slot pid m) ∧
          let f := t.slot pid n
          f.live = true ∧ f.frozen = false ∧ f.pc = BitVec.ofNat 56 (s.handlerAddr pid (w % 256)) &&& ~~~1 ∧
          f.g = (Vector.replicate 8 0).set 0 (s.reg b) ∧ f.mark = Vector.replicate 8 none ∧ f.refused = Vector.replicate 8 none ∧
          f.owed = none ∧ f.prio = s.me.prio ∧ f.ecls = s.me.ecls ∧ f.gen = (s.slot pid n).gen ∧ f.fw = false ∧
          s.taskOf pid f = s.entryTask pid ∧ f.readyAt = s.coreAc pid + 1))

/-- R19 and R88: the queue moves, on a queue that is neither empty nor full, and on one that is; a write of q0 to q3 is ILLEGAL, and so
is a QGET.NB that names one register twice. What the rules leave open here is the model's choice (log 70). -/
def Piece.QueueMoves : Prop :=
  ∀ (s : State) (rd a b : Reg) (q : QIdx),
    let c := s.myCore
    let pushed (k : Core) : Core := { k with q := k.q.set q (k.q[q] ++ [s.reg a]) }
    let popped (k : Core) : Core := { k with q := k.q.set q k.q[q].tail }
    let illegal : State := s.trapped (trapOf .illegal .instruction 0)
    (s.me.live = true → s.me.frozen = false → s.me.unc = false →
      (q.val < 4 → exec (.qput q a) s = .next illegal ∧ exec (.qputNb q a b) s = .next illegal) ∧
      exec (.qgetNb rd q rd) s = .next illegal) ∧
    (4 ≤ q.val →
      (s.Clear [a] [] [] → c.q[q].length < 16 → writersBefore c q.val (waitOrder s) = false →
        exec (.qput q a) s = .next (s.after 4 1 id pushed)) ∧
      (s.Clear [a] [] [] → 16 ≤ c.q[q].length →
        ∃ t o, exec (.qput q a) s = .next t ∧ t.me.hold = some (.queueWrite q.val o) ∧ t.me.pc = s.me.pc ∧ t.me.g = s.me.g ∧
          t.myCore.q = c.q ∧ t.myCore.last = c.last ∧ s.OutsideKept t ∧ t.net = s.net) ∧
      (s.Clear [a] [b] [] →
        exec (.qputNb q a b) s =
          if c.q[q].length < 16 then .next (s.after 4 1 (fun f => f.write b 1) pushed)
          else .next (s.after 4 1 (fun f => f.write b 0) id))) ∧
    (s.Clear [] [rd] [] →
      exec (.qlen rd q) s = .next (s.wrote rd (BitVec.ofNat 64 c.q[q].length)) ∧
      (∀ v vs, c.q[q] = v :: vs → readersBefore c q.val (waitOrder s) = false →
        exec (.qget rd q) s = .next (s.after 4 1 (fun f => f.write rd v) popped)) ∧
      (c.q[q] = [] →
        ∃ t o, exec (.qget rd q) s = .next t ∧ t.me.hold = some (.queueRead q.val o) ∧ t.me.pc = s.me.pc ∧ t.me.g = s.me.g ∧
          t.myCore.q = c.q ∧ t.myCore.last = c.last ∧ s.OutsideKept t ∧ t.net = s.net)) ∧
    (s.Clear [] [rd, b] [] → rd ≠ b →
      (∀ v vs, c.q[q] = v :: vs →
        exec (.qgetNb rd q b) s = .next (s.after 4 1 (fun f => (f.write rd v).write b 1) popped)) ∧
      (c.q[q] = [] → exec (.qgetNb rd q b) s = .next (s.after 4 1 (fun f => f.write b 0) id)))

/-! ### Barriers -/

/-- Bit L - 1 of a field with one bit for each level from 1 to 4 (R126). -/
def bitOf (b : BitVec 4) (l : Level) : Bool := b.getLsbD (levelNum l - 1)

/-- A core with its arrival at a level latched (R126, R129). -/
def latched (l : Level) (c : Core) : Core := { c with arv := c.arv ||| 1#4 <<< (levelNum l - 1) }

/-- A fibre that issues nothing until a register is written (R129). -/
def waitsFor (rd : Reg) (f : Slot) : Slot := { f with hold := some (.regs (1#8 <<< rd.val)) }

/-- The path of an input from a core up (R168, R170): to the quad's root in 2 ac of its cluster, to the cluster's in 4, and from there to
the region's root, or to its segment's, in 16 ac of the service strip and the band's delay. -/
def pathUp (pid : Nat) (l : Level) : List Leg :=
  match l with
  | .quad => [{ unit := pid / 8, acs := 2, band := false, node := false }]
  | .cluster => [{ unit := pid / 8, acs := 4, band := false, node := false }]
  | _ => [{ unit := pid / 8, acs := 4, band := false, node := false }, { unit := pid / 512 * 64 + 63, acs := 16, band := true, node := false }]

/-- A state with a signal from the issuing core that begins the path to the root of a level (R168). -/
def signalled (s t : State) (l : Level) (k : BarKind) : State :=
  { t with
    bars := s.bars ++
      [{ core := s.cur.core, level := levelNum l, kind := k, legs := pathUp s.cur.core l
         until_ := s.clusterAc (s.cur.core / 8) + (if l = .quad then 2 else 4), seg := s.cur.core / 512, prev := s.cur.core / 512
         due := false }] }

/-- The status word of a release (R129): RTIME, CHG, DONE and LEVEL. -/
def releaseWord (time : Word) (chg : Bool) (l : Nat) : Word :=
  BitVec.ofNat 64 (time.toNat % 2 ^ 32 * 2 ^ 32 + (if chg then 2 ^ 8 else 0) + 2 ^ 4 + l)

/-- R126 to R130: a level whose GRANT is 0 traps PRIVILEGE; an arrival at levels 1 to 4 marks rd pending on the level, latches ARV and sends
the input to the root; while ARV is 1 the fibre is held; BAR.EXC and BAR.RJN set and clear EXC and tell the root; level 0 is ILLEGAL
for those two. What the rules leave open here is the model's choice (logs 16 and 56). -/
def Piece.BarrierInstructions : Prop :=
  ∀ (s : State) (rd a : Reg) (l : Level), l ≠ .core →
    let g := bitOf s.myCore.grant l
    let denied : State := s.trapped (trapOf .privilege .instruction 0)
    (s.Clear [] [rd] [] →
      (g = false → exec (.barArv rd a l) s = .next denied ∧ exec (.barWt rd a l) s = .next denied) ∧
      (g = true → bitOf s.myCore.arv l = false →
        exec (.barArv rd a l) s =
          .next (signalled s (s.after 4 1 (fun f => f.markPending rd (.barrier l)) (latched l)) l .arrive) ∧
        exec (.barWt rd a l) s =
          .next (signalled s (s.after 4 1 (fun f => waitsFor rd (f.markPending rd (.barrier l))) (latched l)) l .arrive)) ∧
      (g = true → bitOf s.myCore.arv l = true →
        ∀ i, i = .barArv rd a l ∨ i = .barWt rd a l →
          ∃ t : State, exec i s = .next t ∧ t.me.hold = some (.barrier l) ∧ t.me.pc = s.me.pc ∧ t.me.mark = s.me.mark ∧
            t.myCore.last = s.myCore.last ∧ t.bars = s.bars ∧ s.OutsideKept t)) ∧
    (s.Clear [] [] [] →
      (g = false → exec (.barExc l) s = .next denied ∧ exec (.barRjn l) s = .next denied) ∧
      (g = true →
        exec (.barExc l) s =
          .next (signalled s (s.after 4 1 id fun c => { c with exc := c.exc ||| 1#4 <<< (levelNum l - 1) }) l (.excuse true)) ∧
        exec (.barRjn l) s =
          .next (signalled s (s.after 4 1 id fun c => { c with exc := c.exc &&& ~~~(1#4 <<< (levelNum l - 1)) }) l (.excuse false))) ∧
      exec (.barExc .core) s = .next (s.trapped (trapOf .illegal .instruction 0)) ∧
      exec (.barRjn .core) s = .next (s.trapped (trapOf .illegal .instruction 0)))

/-- R129 at level 0: a count of 0 or above 256 is ILLEGAL; the first arrival arms CNT0 with one less than its count, each later one counts
down; at 0 every register of the core that is pending on level 0 receives the status word and loses its mark, and no other
register changes. What the rules leave open here is the model's choice (log 16). -/
def Piece.CoreBarrier : Prop :=
  ∀ (s : State) (rd a : Reg) (i : Instr), i = .barArv rd a .core ∨ i = .barWt rd a .core → s.Clear [a] [rd] [] →
    let k := (s.reg a).toNat
    let left := if s.myCore.cnt0 = 0 then k - 1 else s.myCore.cnt0 - 1
    let status := releaseWord (s.time (s.cur.core / 512)) false 0
    (k = 0 ∨ 256 < k → exec i s = .next (s.trapped (trapOf .illegal .instruction 0))) ∧
    (1 ≤ k → k ≤ 256 → left ≠ 0 →
      exec i s = .next (s.after 4 1
        (fun f =>
          match i with
          | .barWt _ _ _ => waitsFor rd (f.markPending rd (.barrier .core))
          | _ => f.markPending rd (.barrier .core)) fun c => { c with cnt0 := left })) ∧
    (1 ≤ k → k ≤ 256 → left = 0 →
      ∃ t : State, exec i s = .next t ∧ s.OutsideKept t ∧ t.net = s.net ∧ t.bars = s.bars ∧ t.myCore.cnt0 = 0 ∧
        t.me.g[rd] = status ∧ t.me.mark[rd] = none ∧ t.me.hold = none ∧ t.me.pc = s.me.pc + 4 ∧
        (∀ e ∈ s.myCore.slots, ∀ r : Reg, (e.1, r) ≠ (s.cur.slot, rd) →
          let f := s.slot s.cur.core e.1
          let f' := t.slot s.cur.core e.1
          (f.mark[r] = some (.barrier .core) → f'.g[r] = status ∧ f'.mark[r] = none) ∧
          (f.mark[r] ≠ some (.barrier .core) → f'.g[r] = f.g[r] ∧ f'.mark[r] = f.mark[r] ∧ f'.refused[r] = f.refused[r])))

/-- R125, R129, R130, R141 and R168: an arrival that has come to its root is taken where none that came before it still waits there; where
some input of the unit is then missing nothing is released; where all are in, the arrivals seen are cleared and the release goes out,
with RTIME, DONE and LEVEL: at levels 1 to 3 to every core of the unit, down the path of its level; at level 4 from the keystone, whose
stages it leaves after 16 ac. What the rules leave open here is the model's choice (log 56). -/
def Piece.BarrierInputs : Prop :=
  ∀ (s : State) (b : BarSignal),
    let k := s.spot.place
    let l := b.level
    let bit : BitVec 4 := 1#4 <<< (l - 1)
    s.bars[k]? = some b → b.kind = .arrive → 1 ≤ l → l ≤ 4 → b.due = true →
      (∀ e ∈ s.bars, e.due = true → e.level = l → e.kind.isRelease = false → s.sameUnit l e.core b.core = true → b.until_ ≤ e.until_) →
      isService b.core = false → (Tab.look s.cores b.core).isSome = true → (l = 4 → s.darkRouter (b.core / 8) = false) →
      let u := ({ s with bars := s.bars.eraseIdx k }).onCore b.core fun c => { c with seenArv := c.seenArv ||| bit, chg := c.chg &&& ~~~bit }
      (u.unitComplete b.core l = false → exec .barrierInputAtRoot s = .next u) ∧
      (u.unitComplete b.core l = true → u.sameUnit l b.core b.core = true →
        ∃ t new, exec .barrierInputAtRoot s = .next t ∧ t.bars = u.bars ++ new ∧ t.mem = s.mem ∧ t.net = s.net ∧
          (∀ q ∈ u.unitCores b.core l, (t.core q).seenArv.getLsbD (l - 1) = false) ∧
          (∀ q, q ∉ u.unitCores b.core l → t.core q = u.core q) ∧
          (l ≤ 3 →
            (∀ q ∈ u.unitCores b.core l, ∃ e ∈ new, e.core = q) ∧
            ∀ e ∈ new, e.core ∈ u.unitCores b.core l ∧ e.level = l ∧ e.legs = downLegs e.core l ∧ e.due = false ∧
              ∃ chg, e.kind = .release (releaseWord (s.time (b.core / 512)) chg l)) ∧
          (l = 4 → ∀ root, s.rootOf (b.core / 512) = some root →
            ∃ e chg, new = [e] ∧ e.kind = .wave (releaseWord (s.time root) false 4) chg ∧ e.seg = root ∧ e.level = 4 ∧
              e.until_ = s.clusterAc (root * 64 + 63) + 16 ∧
              ∀ q, q ∈ chg ↔ q ∈ u.unitCores b.core 4 ∧ (u.core q).chg.getLsbD 3 = true ∧ (u.core q).seenArv.getLsbD 3 = true))

/-- R129 and R130: a release that has come to its core writes its status word into every register of the core that is pending on its level,
clears their marks and the latched arrival; a core that is SAVED keeps it; one without a latched arrival takes nothing. What the rules leave open here is the model's choice (log 56). -/
def Piece.BarrierReleases : Prop :=
  ∀ (s : State) (b : BarSignal) (w : Word),
    let k := s.spot.place
    let pid := b.core
    s.bars[k]? = some b → b.kind = .release w → 1 ≤ b.level → b.level ≤ 4 → b.due = true →
      let arrived := (s.core pid).arv.getLsbD (b.level - 1)
      let u := { s with bars := s.bars.eraseIdx k }
      (arrived = false → exec .barrierRelease s = .next u) ∧
      (arrived = true → s.savedNow pid = true →
        exec .barrierRelease s = .next (u.onCore pid fun c => { c with kept := c.kept ++ [(levelOf b.level, w)] })) ∧
      (arrived = true → s.savedNow pid = false →
        ∃ t : State, exec .barrierRelease s = .next t ∧ t.mem = s.mem ∧ t.net = s.net ∧ (∀ q, q ≠ pid → t.core q = s.core q) ∧
          (t.core pid).arv.getLsbD (b.level - 1) = false ∧
          ∀ n, ∀ r : Reg,
            let f := s.slot pid n
            let f' := t.slot pid n
            (f.mark[r] = some (.barrier (levelOf b.level)) → f'.g[r] = w ∧ f'.mark[r] = none) ∧
            (f.mark[r] ≠ some (.barrier (levelOf b.level)) → f'.g[r] = f.g[r] ∧ f'.mark[r] = f.mark[r]) ∧ f'.pc = f.pc)

/-- R168 to R170, how a signal travels: a part of its path ends when its unit has counted its ac, and the next part begins, with the band's
delay where it has one (R170), or, at the node of a cluster in hold, after one ac of that cluster (R183), which counts none until the hold ends; a signal at levels 1 to 3 whose path is over has come to its root or its core. -/
def Piece.BarrierTravel : Prop :=
  ∀ (s : State) (b : BarSignal) (g : Leg) (rest : List Leg), b.legs = g :: rest →
    (s.clusterAc g.unit < b.until_ → s.advanced b = [b]) ∧
    (b.until_ ≤ s.clusterAc g.unit → ∀ h hs, rest = h :: hs →
      s.advanced b = [{ b with
        legs := rest
        until_ := s.clusterAc h.unit + (if h.node = true ∧ (s.cluster h.unit).fwd.hold = true then 1
          else h.acs + if h.band = true then s.bandDelay b.core else 0) }]) ∧
    (b.until_ ≤ s.clusterAc g.unit → rest = [] → b.level ≠ 4 → (∀ v c, b.kind ≠ .wave v c) → s.advanced b = [{ b with legs := [], due := true }]) ∧
    ∀ (cid d now : Nat), cid % 64 < 36 → (s.cluster cid).heldAt = some d → ({ s with now := now }).clusterAc cid = s.clusterAc cid

/-- R171: a write of BARCFG sets KEY, CHILD and PARENT and no other field; a reserved PARENT leaves that field; every byte of memory and
every register of a fibre stays. -/
def Piece.BarcfgWritten : Prop :=
  ∀ s : State,
    let r := s.spot.place
    let v := s.spot.v0
    ∃ t : State, exec .barcfgWrite s = .next t ∧ t.mem = s.mem ∧ t.net = s.net ∧
      (t.barcfg r).extractLsb' 7 5 = v.extractLsb' 7 5 ∧ (t.barcfg r).extractLsb' 12 52 = (s.barcfg r).extractLsb' 12 52 ∧
      (t.barcfg r).extractLsb' 3 4 = (s.barcfg r).extractLsb' 3 4 ∧
      (t.barcfg r).extractLsb' 0 3 = (if v.toNat % 8 ≤ 4 then v else s.barcfg r).extractLsb' 0 3 ∧
      (∀ q, q < 63 → q ≠ r → t.barcfg q = s.barcfg q) ∧ ∀ p n, t.slot p n = s.slot p n

/-! ### Control registers -/

/-- The control registers that a page assigns (R22, R64, R89 to R92, R121, R126, R165, R237, R259, R291, R292, R303, R320, R339). -/
def assignedCr : List Nat :=
  [0x000, 0x001, 0x002, 0x003, 0x004, 0x005, 0x010, 0x011, 0x012, 0x013, 0x014, 0x015, 0x016] ++ List.range' 0x020 32 ++
    [0x100, 0x102, 0x103, 0x120, 0x121, 0x123, 0x124, 0x130]

/-- R22: CRR of an assigned register writes its value; a supervisor register traps PRIVILEGE in user mode; a number that no page assigns traps
ILLEGAL in either mode, in every form. -/
def Piece.ControlRegisterReads : Prop :=
  ∀ (s : State) (rd : Reg) (crn : BitVec 12),
    let n := crn.toNat
    (s.Clear [] [rd] [] → n ∈ assignedCr → (0x100 ≤ n → s.me.sup = true) →
      ∃ v, s.crRead s.cur.core s.cur.slot n = some v ∧ exec (.crr rd crn) s = .next (s.wrote rd v)) ∧
    (s.me.live = true → s.me.frozen = false → s.me.unc = false →
      (n ∉ assignedCr → ∀ i ∈ [Instr.crr rd crn, .crw crn rd, .crset crn rd, .crclr crn rd],
        exec i s = .next (s.trapped (trapOf .illegal .instruction 0))) ∧
      (n ∈ assignedCr → 0x100 ≤ n → s.me.sup = false → ∀ i ∈ [Instr.crr rd crn, .crw crn rd, .crset crn rd, .crclr crn rd],
        exec i s = .next (s.trapped (trapOf .privilege .instruction 0))))

/-- What the user registers read as: cr.rank (R65), cr.coord (R66), cr.time (R67), cr.class (R68), cr.fpmode (R59), cr.seed
(R197), cr.admit (R89), cr.dlcnt (R118), cr.amig (R121), cr.barx (R126). What the rules leave open here is the model's choice (log 65). -/
def Piece.ControlRegisterValues : Prop :=
  ∀ (s : State) (pid n : Nat),
    let c := s.core pid
    let f := s.slot pid n
    let read (k : Nat) : Option Word := s.crRead pid n k
    read 0x000 = some (BitVec.ofNat 64 (s.rankOf pid)) ∧
    (isService pid = false → pid / 512 < 63 → ∃ v : Word, read 0x001 = some v ∧ v.extractLsb' 0 4 = BitVec.ofNat 4 (pid % 8) ∧
      v.extractLsb' 4 4 = BitVec.ofNat 4 (pid / 8 % 64 % 6) ∧ v.extractLsb' 8 4 = BitVec.ofNat 4 (pid / 8 % 64 / 6) ∧
      v.extractLsb' 16 4 = BitVec.ofNat 4 (pid / 512 / 9) ∧ v.extractLsb' 20 4 = BitVec.ofNat 4 (pid / 512 % 9) ∧
      v.extractLsb' 24 2 = BitVec.ofNat 2 (kindOf (pid / 8 % 64)).num ∧
      v.extractLsb' 32 6 = BitVec.ofNat 6 (pid / 512)) ∧
    read 0x002 = some ((s.region (pid / 512)).time0 + BitVec.ofNat 64 (s.now / 1400)) ∧
    (n < 256 → s.taskOf pid f < 2 ^ 12 → ∃ v : Word, read 0x003 = some v ∧ v.extractLsb' 0 3 = f.ecls ∧ v.extractLsb' 4 2 = BitVec.ofFin f.prio ∧
      v.extractLsb' 16 12 = BitVec.ofNat 12 (s.taskOf pid f) ∧ v.extractLsb' 32 8 = BitVec.ofNat 8 n ∧ v.extractLsb' 40 8 = f.gen) ∧
    read 0x004 = some c.fpmode ∧ read 0x005 = some (c.seed.setWidth 64) ∧
    read 0x010 = some (if c.admitting then 1 else 0) ∧
    (c.dead < 2 ^ 32 → c.lost < 2 ^ 32 → ∃ v : Word, read 0x012 = some v ∧ v.toNat % 2 ^ 32 = c.dead ∧ v.toNat / 2 ^ 32 = c.lost) ∧
    read 0x013 = some (if f.amig then 1 else 0) ∧
    (c.cnt0 < 2 ^ 9 → ∃ v : Word, read 0x014 = some v ∧ v.extractLsb' 1 4 = c.exc ∧ v.extractLsb' 9 4 = c.arv ∧
      v.extractLsb' 16 9 = BitVec.ofNat 9 c.cnt0 ∧ v.extractLsb' 28 4 = c.grant) ∧
    read 0x102 = some (f.epc.setWidth 64 ||| if f.epcv then 1#64 <<< 56 else 0)

/-- The fields of a register that CRW, CRSET and CRCLR write, in user or in supervisor mode, as their pages give them. -/
def writableFields (sup : Bool) (n : Nat) : Word :=
  if 0x020 ≤ n ∧ n < 0x030 then 0xFFFFFFFFFFFFFFFF
  else if 0x030 ≤ n ∧ n < 0x040 then 0x1FFFF
  else
    match n with
    | 0x004 => 0x1F07
    | 0x005 => 0xFFFFFFFF
    | 0x010 => 1
    | 0x013 => 1
    | 0x014 => if sup then 0xF000001E else 0
    | 0x015 => 0x803FFFFF
    | 0x016 => 0x800000FF
    | 0x100 => 0x00FFFFFFFFFFFFFE
    | 0x102 => 0x00FFFFFFFFFFFFFE
    | 0x103 => 0xFFFF
    | 0x120 => 0x0000003F0FFF07FF
    | 0x121 => 0xF
    | 0x123 => 0x87FFFFFFFFFFFFFE
    | 0x124 => 0x800FFFFF
    | 0x130 => 0x0000FFFFFFFFFF87
    | _ => 0

/-- R22, R64 and R304: CRW, CRSET and CRCLR form the writable fields from the old value and Reg(rs1), and no other assigned register reads otherwise; in user mode a
register without a writable field traps PRIVILEGE; in supervisor mode such a register stays. cr.muweight takes 1 to 8 (R237); the
level bits of cr.barx are stated where CNT0 stands in its field; EXP of cr.wdog is cleared by a 1 in Reg(rs1) and by nothing else (R9, R339). -/
def Obligations.ControlRegisterWrites : Prop :=
  ∀ (s : State) (crn : BitVec 12) (a : Reg) (old : Word),
    let n := crn.toNat
    let m := writableFields s.me.sup n
    let read (t : State) (k : Nat) : Option Word := t.crRead s.cur.core s.cur.slot k
    s.Clear [a] [] [] → n ∈ assignedCr → (0x100 ≤ n → s.me.sup = true) → read s n = some old →
      (∀ v i, (i = .crw crn a ∧ v = s.reg a) ∨ (i = .crset crn a ∧ v = old ||| s.reg a) ∨ (i = .crclr crn a ∧ v = old &&& ~~~s.reg a) →
        (m = 0 → s.me.sup = false → exec i s = .next (s.trapped (trapOf .privilege .instruction 0))) ∧
        (m = 0 → s.me.sup = true → exec i s = .next (s.after 4 1 id id)) ∧
        (m ≠ 0 → (n = 0x121 → 1 ≤ v.toNat % 16 ∧ v.toNat % 16 ≤ 8) → (n = 0x014 → s.myCore.cnt0 < 2 ^ 9) →
          ∃ t w, exec i s = .next t ∧ read t n = some w ∧ w &&& m = v &&& m ∧
            (n = 0x124 → w.getLsbD 32 = (old.getLsbD 32 && !(s.reg a).getLsbD 32)) ∧ t.mem = s.mem ∧ t.net = s.net ∧ t.me.g = s.me.g ∧
            t.me.pc = s.me.pc + 4 ∧ (∀ k, k ≠ n → read t k = read s k) ∧
            (∀ q, q ≠ s.cur.core → t.core q = s.core q) ∧ (∀ k, k ≠ s.cur.slot → t.slot s.cur.core k = s.slot s.cur.core k)))

/-- Writes of registers that have effects beside their fields: COUNT of cr.sdst restarts when V becomes 1 (R292); cr.tknote captures the
writer's rank and task (R259); LOST of cr.trcfg restarts when EN becomes 1 (R165). In an ac in which a request has already been
checked at the core, no stub changes (R296). What the rules leave open here is the model's choice (log 66). -/
def Piece.RegisterEvents : Prop :=
  ∀ s : State,
    let p := s.spot.place
    let v := s.spot.v0
    let old := Tab.read (s.core p).sdst 0 (s.spot.item - 0x030)
    (s.tooLate p = true → exec .stubWrite s = .next s) ∧
    (s.tooLate p = false → 0x020 ≤ s.spot.item → s.spot.item < 0x030 →
      exec .stubWrite s = .next (s.onCore p fun c => { c with skey := Tab.put c.skey (s.spot.item - 0x020) v })) ∧
    (s.tooLate p = false → 0x030 ≤ s.spot.item → s.spot.item < 0x040 →
      ∃ w : Word, exec .stubWrite s = .next (s.onCore p fun c => { c with sdst := Tab.put c.sdst (s.spot.item - 0x030) w }) ∧
        w.extractLsb' 0 17 = v.extractLsb' 0 17 ∧
        w.extractLsb' 32 32 = if v.getLsbD 16 = true ∧ old.getLsbD 16 = false then 0 else old.extractLsb' 32 32) ∧
    (s.rankOf p < 2 ^ 16 → s.entryTask p < 2 ^ 12 →
      ∃ w : Word, exec .tknoteWrite s = .next (s.onCluster (p / 8) fun c => { c with tknote := w }) ∧
        w.extractLsb' 0 22 = v.extractLsb' 0 22 ∧ w.getLsbD 31 = v.getLsbD 31 ∧ w.extractLsb' 32 12 = BitVec.ofNat 12 (s.entryTask p) ∧
        w.extractLsb' 44 16 = BitVec.ofNat 16 (s.rankOf p)) ∧
    (∃ t : State, exec .trcfgWrite s = .next t ∧ t.mem = s.mem ∧
      (t.cluster p).trcfg.extractLsb' 0 3 = v.extractLsb' 0 3 ∧ (t.cluster p).trcfg.extractLsb' 7 41 = v.extractLsb' 7 41 ∧
      (t.cluster p).trcfg.extractLsb' 48 16 =
        if v.getLsbD 0 = true ∧ (s.cluster p).trcfg.getLsbD 0 = false then 0 else (s.cluster p).trcfg.extractLsb' 48 16)

/-! ### Exceptions and the system instructions -/

/-- R44 and R302: a privileged instruction traps PRIVILEGE in user mode, whatever its operands. -/
def Piece.PrivilegedInstructions : Prop :=
  ∀ (s : State) (rd a b : Reg), s.me.live = true → s.me.frozen = false → s.me.unc = false → s.me.sup = false →
    ∀ i ∈ [Instr.tret, .tlbW rd a b, .tlbInv a, .tlbInva a, .ctxSave rd a b, .ctxLoad rd a b, .wipe rd a, .icflush rd a],
      exec i s = .next (s.trapped (trapOf .privilege .instruction 0))

/-- R306 and R307: TRAP saves NextPC in EPC, sets EPCV, SUP and CODE and goes to cr.tvec, and is ILLEGAL in supervisor mode, with a trap
held, with a reserved bit or with no vector; TRET goes back, and is ILLEGAL with no trap held. The g registers stay. -/
def Piece.TrapAndReturn : Prop :=
  ∀ (s : State) (a : Reg),
    let c := (s.reg a).toNat
    let illegal : State := s.trapped (trapOf .illegal .instruction 0)
    let enter (f : Slot) : Slot :=
      { f with epc := s.me.pc + 4, epcv := true, tcause := BitVec.ofNat 16 c, sup := true, pc := s.myCore.tvec.setWidth 56 }
    let leave (f : Slot) : Slot := { f with pc := s.me.epc, sup := false, epcv := false }
    (s.Clear [a] [] [] →
      let ok := c < 2 ^ 16 ∧ s.me.epcv = false ∧ s.me.sup = false ∧ s.myCore.tvec ≠ 0
      (ok → exec (.trap a) s = .next (s.after 4 1 enter id)) ∧ (¬ok → exec (.trap a) s = .next illegal)) ∧
    (s.Clear [] [] [] → s.me.sup = true →
      (s.me.epcv = true → exec .tret s = .next (s.after 4 1 leave id)) ∧
      (s.me.epcv = false → exec .tret s = .next illegal))

/-- The code of the owed refusal that a trap carries, else its underlying code (R328). -/
def underOf (t : Trap) : Nat :=
  match t.owed with
  | some o => o.code.num
  | none => t.under

/-- The count of the owed refusal that a trap carries (R328). -/
def countOf (t : Trap) : Nat :=
  match t.owed with
  | some o => o.count
  | none => 0

/-- The PC of the owed refusal that a trap carries, else word 4 of a gather fault (R328). -/
def infoOf (t : Trap) : Word :=
  match t.owed with
  | some o => o.pc
  | none => t.info

/-- R30 and R326 to R328, the taking of an exception: the fibre freezes at its instruction with every register, mark and refusal it had;
an owed refusal that the trap carries is cleared; a FAULT record in TC1 goes to the destination of R327, with the handle, the code, its kind,
the PC, the address, the owed instruction's PC, cr.coord and cr.time. What the rules leave open here is the model's choice (log 13). -/
def Piece.FaultTaken : Prop :=
  ∀ (s : State) (pid n : Nat) (t : Trap) (port : Port),
    let f := s.slot pid n
    let d := s.faultDest pid f t
    s.rankPort pid d.1 = some port → d.1 < 2 ^ 16 → d.2 < 2 ^ 8 → t.under < 2 ^ 8 → s.rankOf pid < 2 ^ 16 → s.taskOf pid f < 2 ^ 12 →
      n < 2 ^ 8 → (∀ o, t.owed = some o → o.count < 2 ^ 8) →
      let u := s.raiseFault pid n t
      u.slot pid n = { f with frozen := true, hold := none, settle := none, walked := [], owed := if t.owed.isSome then none else f.owed } ∧
      (∀ q, q ≠ pid → u.core q = s.core q) ∧ (∀ m, m ≠ n → u.slot pid m = s.slot pid m) ∧ u.mem = s.mem ∧
      ∃ (p : Packet) (m : Msg), u.net = s.net ++ [p] ∧ p.src = .core pid ∧ p.dst = port ∧ p.tc = 1 ∧ p.load = .msg m false ∧
        m.kind = 10 ∧ m.tc = 1 ∧ m.isRecord = true ∧ m.ecls = f.ecls ∧ m.prio = f.prio ∧ m.task = s.taskOf pid f ∧ m.dest = d.1 ∧
        m.src = s.rankOf pid ∧ m.sel.toNat = d.2 + t.code.num * 2 ^ 8 ∧ m.data.length = 8 ∧
        (m.word 0).toNat = f.gen.toNat * 2 ^ 24 + n * 2 ^ 16 + s.rankOf pid ∧
        (m.word 1).toNat = t.code.num + underOf t * 2 ^ 8 + (if t.owed.isSome then 2 ^ 16 else 0) + (if f.epcv then 2 ^ 18 else 0) +
          t.kind.num * 2 ^ 19 + countOf t * 2 ^ 24 ∧
        m.word 2 = f.pc.signExtend 64 ∧ m.word 3 = t.va ∧ m.word 4 = infoOf t ∧ (t.kind = .fetch → m.word 5 = 0) ∧
        m.word 6 = coord pid ∧ m.word 7 = s.time (pid / 512)

/-- R327, where a fault record goes: to Flatar for a fibre of task 0 and for one with EPCV; for a PAGE, also one that a gather kernel met, to
the first pager entry that holds the address; else to the task's fault handler; from a rank without an entry and from an empty
handler to Flatar. What the rules leave open here is the model's choice (log 59). -/
def Piece.FaultDestinations : Prop :=
  ∀ (s : State) (pid : Nat) (f : Slot) (t : Trap) (r h : Nat),
    let flatar := (0xFF00 + 2 * (pid / 512), 0)
    let named := ((s.entryWord pid 2).toNat % 2 ^ 16, (s.entryWord pid 2).toNat / 2 ^ 16 % 2 ^ 8)
    let open_ (d : Nat × Nat) : Prop := (s.rankPort pid d.1).isSome = true ∧ s.handlerEmpty pid d.2 = false
    let page := t.code = .page ∨ (t.code = .entryFetch ∧ t.under = 5)
    (ofFlatar pid f = true ∨ f.epcv = true → s.faultDest pid f t = flatar) ∧
    (ofFlatar pid f = false → f.epcv = false →
      (page → s.pagerEntry pid t.va = some (r, h) →
        (open_ (r, h) → s.faultDest pid f t = (r, h)) ∧ (¬open_ (r, h) → s.faultDest pid f t = flatar)) ∧
      (¬page ∨ s.pagerEntry pid t.va = none →
        (open_ named → s.faultDest pid f t = named) ∧ (¬open_ named → s.faultDest pid f t = flatar)))

/-- R308 to R310 in supervisor mode: TLB.W writes its slot of the issuing cluster's TLB, drops the copies of that slot's old contents, and releases every fibre of
the cluster that is held on a miss; it is ILLEGAL with a reserved bit, an unaligned page, an overlap or on a service core. TLB.INV and
TLB.INVA remove exactly the entries that hold the address under the PASID, or that have the PASID, or all. Registers and memory stay. What the rules leave open here is the model's choice (logs 10 and 25). -/
def Piece.TranslationEntries : Prop :=
  ∀ (s : State) (rd a b : Reg), s.me.sup = true →
    let cid := s.cur.core / 8
    let e : TlbEntry := { tag := s.reg a, entry := s.reg b }
    let n := (s.reg rd).toNat
    let w := (s.reg a).toNat
    let illegal : State := s.trapped (trapOf .illegal .instruction 0)
    let kept (t : State) : Prop := t.mem = s.mem ∧ t.net = s.net ∧ t.regions = s.regions ∧
      (∀ p m, (t.slot p m).g = (s.slot p m).g ∧ (t.slot p m).mark = (s.slot p m).mark ∧ (t.slot p m).live = (s.slot p m).live) ∧
      t.me.pc = s.me.pc + 4
    let dropped (t : State) (out : TlbEntry → Prop) : Prop :=
      (∀ x, x ∈ (t.cluster cid).tlb ↔ x ∈ (s.cluster cid).tlb ∧ ¬out x.2) ∧ (∀ c, c ≠ cid → t.cluster c = s.cluster c) ∧
      ∀ p m, m ∈ (t.core p).utlb ↔ m ∈ (s.core p).utlb ∧ ¬(p / 8 = cid ∧ out m.copy)
    (s.Clear [rd, a, b] [] [] →
      let ok := n < 2 ^ 11 ∧ w / 2 ^ 60 % 4 = 0 ∧ (s.reg b).toNat / 2 ^ 48 = 0 ∧ (s.reg b).toNat / 2 ^ 5 % 2 ^ 11 = 0 ∧
        e.base % 2 ^ e.shift = 0 ∧ e.frame % 2 ^ e.shift = 0 ∧ isService s.cur.core = false ∧
        (e.valid = true → ∀ x ∈ (s.cluster cid).tlb, x.1 ≠ n → x.2.valid = true → e.overlaps x.2 = false)
      (¬ok → exec (.tlbW rd a b) s = .next illegal) ∧
      (ok → ∃ t : State, exec (.tlbW rd a b) s = .next t ∧ kept t ∧ Tab.look (t.cluster cid).tlb n = some e ∧
        (∀ k, k ≠ n → Tab.look (t.cluster cid).tlb k = Tab.look (s.cluster cid).tlb k) ∧
        (∀ p, p / 8 = cid → ∀ m, (m ∈ (t.core p).utlb ↔ m ∈ (s.core p).utlb ∧ m.slot ≠ n)) ∧
        ∀ p, p / 8 = cid → ∀ m pasid q va k, (t.slot p m).hold ≠ some (.miss pasid q va k))) ∧
    (s.Clear [a] [] [] → isService s.cur.core = false →
      (w / 2 ^ 60 % 4 = 0 →
        ∃ t : State, exec (.tlbInv a) s = .next t ∧ kept t ∧
          dropped t fun x => x.valid = true ∧ x.pasid = w % 2 ^ 20 ∧ w / 2 ^ 20 % 2 ^ 40 * 2 ^ 16 / 2 ^ x.shift = x.base / 2 ^ x.shift) ∧
      (w / 2 ^ 20 % 2 ^ 43 = 0 → (w / 2 ^ 63 = 1 → w % 2 ^ 20 = 0) →
        ∃ t : State, exec (.tlbInva a) s = .next t ∧ kept t ∧ dropped t fun x => w / 2 ^ 63 = 1 ∨ x.pasid = w % 2 ^ 20)) ∧
    (s.Clear [a] [] [] →
      (w / 2 ^ 60 % 4 ≠ 0 → exec (.tlbInv a) s = .next illegal) ∧
      (¬(w / 2 ^ 20 % 2 ^ 43 = 0 ∧ (w / 2 ^ 63 = 1 → w % 2 ^ 20 = 0)) → exec (.tlbInva a) s = .next illegal))

/-- The tag of a command to another unit (R311): its REPLY writes a status word; a refusal leaves `place` in the register. -/
def statusTag (s : State) (rd : Reg) (scope : Scope) (place : Word) : Tag where
  slot := s.cur.slot
  gen := s.me.gen
  use := .status rd
  scope := scope
  pc := s.me.pcWord
  place := place
  issuer := s.cur.core

/-- R311 to R314 in supervisor mode: CTX.SAVE, CTX.LOAD, WIPE and ICFLUSH send one tagged word in TC0 to their target and mark rd pending; a target that is the
issuing core, or the issuing core's region, a reserved bit or a bad area is ILLEGAL. What the rules leave open here is the model's choice (logs 25, 39 and 55). -/
def Piece.UnitCommands : Prop :=
  ∀ (s : State) (rd a b : Reg) (tag : Nat), s.me.sup = true → s.TagFree tag → tag < 512 → s.rankOf s.cur.core < 2 ^ 16 →
    s.taskOf s.cur.core s.me < 2 ^ 12 →
    let w := (s.reg a).toNat
    let illegal : State := s.trapped (trapOf .illegal .instruction 0)
    let mine := s.taskOf s.cur.core s.me
    let out (scope : Scope) (p : Packet) : State :=
      (s.after 4 1 (fun f => f.markPending rd .load) fun c =>
        { c with tags := Tab.put c.tags tag (statusTag s rd scope (s.reg a)) }).sent p
    (s.Clear [a, b] [rd] [] →
      let target := w % 2 ^ 15
      let ok := w / 2 ^ 15 = 1 ∧ target / 512 < 63 ∧ target / 8 % 64 < 36 ∧ target ≠ s.cur.core ∧ saveAreaOk (s.reg b) = true
      (¬ok → exec (.ctxSave rd a b) s = .next illegal ∧ exec (.ctxLoad rd a b) s = .next illegal) ∧
      (ok → s.rankOf target < 2 ^ 16 →
        ∀ i k, (i = .ctxSave rd a b ∧ k = 8) ∨ (i = .ctxLoad rd a b ∧ k = 9) →
          ∃ p : Packet, exec i s = .next (out (scopeOfCore s.cur.core target) p) ∧ p.dst = .core target ∧ Tagged p tag ∧
            s.Says p k 0 (s.rankOf target) false mine ((s.reg b).toNat % 2 ^ 55) [s.reg a] true)) ∧
    (s.Clear [a] [rd] [] →
      (¬(w < 63 ∧ w ≠ s.cur.core / 512) → exec (.wipe rd a) s = .next illegal) ∧
      (w < 63 → w ≠ s.cur.core / 512 →
        ∃ p : Packet, exec (.wipe rd a) s = .next (out .wafer p) ∧ p.dst = .core (512 * w + 504) ∧ Tagged p tag ∧
          s.Says p 11 0 (0xFF00 + 2 * w) false mine (2 ^ 48 + w) [0] true) ∧
      (¬(w < 2 ^ 12 ∧ w / 64 < 63 ∧ w % 64 < 36) → exec (.icflush rd a) s = .next illegal) ∧
      (w < 2 ^ 12 → w / 64 < 63 → w % 64 < 36 →
        ∃ (p : Packet) (scope : Scope), exec (.icflush rd a) s = .next (out scope p) ∧ p.dst = .cluster w ∧ Tagged p tag ∧
          s.Says p 11 0 0xFFFF false mine (2 * 2 ^ 48 + w) [0] true ∧
          scope = if w = s.cur.core / 8 then .cluster else if w / 64 = s.cur.core / 512 then .region else .wafer))

/-- R44, R315 and R316: FRES resumes a frozen fibre of the issuing task at its instruction, or moves one that holds nothing to another rank; FKILL ends
a fibre, itself too; each answers 1 where no such fibre of its task stands. A bad handle is ILLEGAL. -/
def Piece.FrozenFibres : Prop :=
  ∀ (s : State) (rd a b : Reg) (port : Port),
    let pid := s.cur.core
    let h := (s.reg a).toNat
    let w := (s.reg b).toNat
    let n := h / 2 ^ 16 % 256
    let f := s.slot pid n
    let there := f.live = true ∧ f.gen.toNat = h / 2 ^ 24 % 256 ∧ f.fw = s.me.fw
    let handle := h / 2 ^ 32 = 0 ∧ h % 2 ^ 16 = s.rankOf pid
    let illegal : State := s.trapped (trapOf .illegal .instruction 0)
    (s.Clear [a, b] [rd] [] →
      let move := w / 2 ^ 16 % 2 = 1
      (¬(handle ∧ w / 2 ^ 17 = 0 ∧ (¬move → w % 2 ^ 16 = 0)) → exec (.fres rd a b) s = .next illegal) ∧
      (handle → w / 2 ^ 17 = 0 → (¬move → w % 2 ^ 16 = 0) → (move → s.Names (w % 2 ^ 16) port) →
        (¬(there ∧ f.frozen = true) → exec (.fres rd a b) s = .next (s.wrote rd 1)) ∧
        (there → f.frozen = true →
          (¬move → ∃ t : State, exec (.fres rd a b) s = .next t ∧ s.OutsideKept t ∧ t.net = s.net ∧ t.me = (s.wrote rd 0).me ∧
            (∀ m, m ≠ n → m ≠ s.cur.slot → t.slot pid m = s.slot pid m) ∧
            let f' := t.slot pid n
            f'.frozen = false ∧ f'.age = 0 ∧ f'.hold = none ∧ f'.live = true ∧ f'.pc = f.pc ∧ f'.g = f.g ∧ f'.mark = f.mark ∧
              f'.refused = f.refused ∧ f'.owed = f.owed ∧ f'.settle = f.settle ∧ f'.gen = f.gen) ∧
          (move → s.movable pid n = false → exec (.fres rd a b) s = .next (s.wrote rd 2)) ∧
          (move → s.movable pid n = true →
            ∃ (t : State) (p : Packet) (m : Msg) (ps : List Packet), exec (.fres rd a b) s = .next t ∧ s.OutsideKept t ∧ t.me = (s.wrote rd 0).me ∧
              t.slot pid n = { Slot.free with gen := f.gen + 1 } ∧ t.net = s.net ++ p :: ps ∧ (s.myCore.gk.mode ≠ .faulted → ps = []) ∧ p.dst = port ∧ p.tc = 1 ∧
              p.load = .msg m false ∧ m.sel.setWidth 56 = f.pc ∧ m.data = f.g.toList)))) ∧
    (s.Clear [a] [rd] [] →
      (¬handle → exec (.fkill rd a) s = .next illegal) ∧
      (handle → ¬there → exec (.fkill rd a) s = .next (s.wrote rd 1)) ∧
      (handle → there → n = s.cur.slot → exec (.fkill rd a) s = .next s.ended) ∧
      (handle → there → n ≠ s.cur.slot →
        exec (.fkill rd a) s = .next ((s.wrote rd 0).endFibre pid n) ∧
          ((s.wrote rd 0).endFibre pid n).slot pid n = { Slot.free with gen := f.gen + 1 }))

/-! ### Records, deliveries and inboxes -/

/-- A word of kind RUN, COUNT, DEPOSIT or MIGRATE at the port of a core that runs, refuses nothing and clears nothing, where no stub matches. -/
def Arrives (s : State) (p : Packet) (m : Msg) (tg : Bool) (pid : Nat) : Prop :=
  s.front s.spot.place = some p ∧ p.load = .msg m tg ∧ p.dst = .core pid ∧ m.kind ≤ 3

/-- R80, R87, R91, R111, R114 and R116, RECORD_ARRIVAL: a record of the core's task at a RUNNING core whose ring is empty is held in a free general
entry, whatever ADMIT is but for a MIGRATE while ADMIT is 0, which takes the reserve, as one does that finds no general entry; each is accepted with
status 0. A port that refuses answers HOME_FENCED, one without a place OVERFLOW_EXHAUSTED, and a MIGRATE goes back with its code. What the rules leave open here is the model's choice (logs 9 and 55). -/
def Piece.RecordsArrive : Prop :=
  ∀ (s : State) (p : Packet) (m : Msg) (tg : Bool) (pid : Nat), Arrives s p m tg pid →
    let c := s.core pid
    let u := s.taken s.spot.place
    let v := if m.kind = 0 then u.performed (.tcm pid) false else u
    let answered (t : State) (status : Nat) : Prop :=
      (tg = true → t.Answered u.net (.core pid) (s.replyPort p m) m status 0) ∧ (tg = false → t.net = u.net)
    let refused (t : State) (code : FaultCode) : Prop :=
      t.mem = s.mem ∧ t.cores = s.cores ∧
        (m.kind ≠ 3 → answered t code.status) ∧
        (m.kind = 3 → ∃ q, t.net = u.net ++ [q] ∧ q.src = .core pid ∧ q.dst = s.replyPort p m ∧ q.load = .returned m code)
    (s.portRefuses p.src pid (m.task == 0) = true → ∃ t : State, exec .recordArrival s = .next t ∧ refused t .homeFenced) ∧
    (s.portRefuses p.src pid (m.task == 0) = false → s.portRuns pid = true → s.recordWaits pid m = false → s.stubMatch pid m = none →
      (v.placeFor pid m = none → ∃ t : State, exec .recordArrival s = .next t ∧ refused t .overflowExhausted) ∧
      (isService pid = false → m.task = s.entryTask pid → s.entryState pid = 2 → s.savedNow pid = false → s.ringCount pid = 0 →
        let general := c.part.length < c.general
        let reserve := c.reserve.length < c.mres
        let h : Held := { msg := m, start := none, first := false, order := s.seq, ac := s.coreAc pid }
        (general → (m.kind ≠ 3 ∨ c.admitting = true) →
          ∃ t : State, exec .recordArrival s = .next t ∧ answered t 0 ∧ (t.core pid).part = c.part ++ [h] ∧ (t.core pid).reserve = c.reserve ∧
            t.mem = s.mem ∧ ∀ q, q ≠ pid → t.core q = s.core q) ∧
        (reserve → m.kind = 3 → (c.admitting = false ∨ ¬general) →
          ∃ t : State, exec .recordArrival s = .next t ∧ answered t 0 ∧ (t.core pid).reserve = c.reserve ++ [h] ∧ (t.core pid).part = c.part ∧
            t.mem = s.mem ∧ ∀ q, q ≠ pid → t.core q = s.core q)))

/-- R293 and R294: a RUN that a stub matches goes on, whatever place a record would find, to the rank of the stub's entry, its other routing bits, selector and data kept, with its hop count
raised by one, and COUNT of the entry rises, holding at its top; where the rank has no entry a tagged one is answered with status 1; one that has been forwarded three times goes
nowhere: it is a dead letter of the core (DEAD or LOST rises), and a tagged one is answered with status 0. What the rules leave open here is the model's choice (log 55). -/
def Piece.StubsForward : Prop :=
  ∀ (s : State) (p : Packet) (m : Msg) (tg : Bool) (pid i : Nat), Arrives s p m tg pid →
    s.portRefuses p.src pid (m.task == 0) = false → s.portRuns pid = true → s.stubMatch pid m = some i →
    let u := s.taken s.spot.place
    let w := Tab.read (s.core pid).sdst 0 i
    let answered (t : State) (status : Nat) : Prop :=
      (tg = true → t.Answered u.net (.core pid) (s.replyPort p m) m status 0) ∧ (tg = false → t.net = u.net)
    let counted (t : State) : Prop :=
      let w' := Tab.read (t.core pid).sdst 0 i
      w'.toNat % 2 ^ 32 = w.toNat % 2 ^ 32 ∧ w'.toNat / 2 ^ 32 = min (2 ^ 32 - 1) (w.toNat / 2 ^ 32 + 1)
    (m.sel.toNat / 2 ^ 9 % 4 ≠ 3 →
      (∀ port, s.rankPort pid (w.toNat % 2 ^ 16) = some port →
        ∃ (t : State) (q : Packet) (m' : Msg), exec .recordArrival s = .next t ∧ t.net = u.net ++ [q] ∧ q.dst = port ∧ q.load = .msg m' tg ∧
          m'.rw &&& ~~~0x0000FFFF00000000 = m.rw &&& ~~~0x0000FFFF00000000 ∧ m'.dest = w.toNat % 2 ^ 16 ∧
          m'.data = m.data ∧ m'.sel = m.sel + 512 ∧ t.mem = s.mem ∧ counted t) ∧
      (s.rankPort pid (w.toNat % 2 ^ 16) = none → ∃ t : State, exec .recordArrival s = .next t ∧ t.mem = s.mem ∧ answered t 1 ∧ counted t)) ∧
    (m.sel.toNat / 2 ^ 9 % 4 = 3 → s.mayDivert pid = true →
      ∃ t : State, exec .recordArrival s = .next t ∧ answered t 0 ∧ (t.core pid).sdst = (s.core pid).sdst ∧
        (((t.core pid).dead = min (2 ^ 32 - 1) ((s.core pid).dead + 1) ∧ (t.core pid).lost = (s.core pid).lost) ∨
          ((t.core pid).lost = min (2 ^ 32 - 1) ((s.core pid).lost + 1) ∧ (t.core pid).dead = (s.core pid).dead)))

/-- A fibre as a record leaves it at its birth (R102): its address, registers, priority and class; nothing pending, refused or owed. -/
def BornAs (f : Slot) (pc : Word) (g : List Word) (prio : Fin 4) (ecls : BitVec 3) (gen : BitVec 8) (amig : Bool) : Prop :=
  f.live = true ∧ f.frozen = false ∧ f.pc = pc.setWidth 56 &&& ~~~1 ∧ (∀ r : Reg, f.g[r] = g.getD r.val 0) ∧ f.prio = prio ∧ f.eff = prio ∧
    f.ecls = ecls ∧ f.gen = gen ∧ f.amig = amig ∧ f.mark = Vector.replicate 8 none ∧ f.refused = Vector.replicate 8 none ∧ f.owed = none ∧
    f.age = 0 ∧ f.yld = false ∧ f.lastH = none ∧ f.hold = none ∧ f.settle = none ∧ f.epcv = false

/-- DELIVERY (R83, R84, R102, R107, R112, R119) while nothing resumes: the oldest of the records that can be delivered, where it was placed in an earlier ac, is applied by its kind and leaves its entry: a RUN and
a MIGRATE start a fibre, a stream RUN is appended to its queue, a DEPOSIT writes its bound register, a COUNT counts down, and at 0 stays as a start, whose
fibre gets the counter's index. -/
def Piece.RecordsDelivered : Prop :=
  ∀ (s : State) (h : Held),
    let pid := s.spot.place
    let c := s.core pid
    let m := h.msg
    s.mayDeliver pid = true → c.admitting = true → s.inboxReady pid = false → c.resuming = none →
    oldest ((c.reserve ++ c.part).filter (s.canDeliver pid)) = some h → h.ac < s.coreAc pid →
    ∃ t : State, exec .delivery s = .next t ∧ (∀ q, q ≠ pid → t.core q = s.core q) ∧ (t.core pid).delivAt = some (s.coreAc pid) ∧
      let gone := ∀ x, x ∈ (t.core pid).part ++ (t.core pid).reserve ↔ x ∈ c.part ++ c.reserve ∧ x.order ≠ h.order
      let born (pc : Word) (g : List Word) (prio : Fin 4) (ecls : BitVec 3) : Prop :=
        ∃ n, s.freeSlot pid = some n ∧ BornAs (t.slot pid n) pc g prio ecls (s.slot pid n).gen ((s.entryWord pid 0).getLsbD 49) ∧
          (t.slot pid n).readyAt = s.coreAc pid + 1 ∧ (∀ k, k ≠ n → t.slot pid k = s.slot pid k) ∧ t.mem = s.mem ∧ t.net = s.net
      let i := fld m.sel 32 6
      let k := Tab.read c.counters (0, 0) i
      (∀ hd j, h.start = some (hd, j) → gone ∧ born (BitVec.ofNat 64 (s.handlerAddr pid hd)) [BitVec.ofNat 64 j] m.prio m.ecls) ∧
      (h.start = none →
        (m.kind = 0 → fld m.sel 8 1 = 0 → s.handlerEmpty pid (fld m.sel 0 8) = false → h.first = false →
          gone ∧ born (BitVec.ofNat 64 (s.handlerAddr pid (fld m.sel 0 8))) m.data m.prio m.ecls) ∧
        (m.kind = 0 → fld m.sel 8 1 = 1 →
          gone ∧ (t.core pid).q.toList.getD (fld m.sel 0 2) [] = c.q.toList.getD (fld m.sel 0 2) [] ++ m.data ∧ t.mem = s.mem) ∧
        (m.kind = 3 → gone ∧ born ((m.sel.setWidth 56).signExtend 64) m.data m.prio m.ecls) ∧
        (m.kind = 2 → depositCase c m = .applied →
          gone ∧ t.mem = s.mem ∧
            let r : Reg := (m.sel.extractLsb' 16 3).toFin
            let n := fld m.sel 0 8
            (t.slot pid n).g[r] = m.word 0 ∧ (t.slot pid n).mark[r] = none ∧ ∀ x, x ≠ n → t.slot pid x = s.slot pid x) ∧
        (m.kind = 1 → k.1 ≠ 0 →
          (fld m.sel 0 32 < k.1 → gone ∧ Tab.read (t.core pid).counters (0, 0) i = (k.1 - fld m.sel 0 32, k.2)) ∧
          (k.1 ≤ fld m.sel 0 32 → Tab.read (t.core pid).counters (0, 0) i = (0, k.2) ∧
            ∃ x ∈ (t.core pid).part ++ (t.core pid).reserve, x.order = h.order ∧ x.msg = m ∧ x.start = some (k.2, i))))

/-- R89 and R91, CR_ADMIT_WRITE: ADMIT takes the bit; when it becomes 1, what the reserve holds comes before what the ring holds, and that before what
the partition holds, each part in its own order. What the rules leave open here is the model's choice (log 71). -/
def Piece.AdmissionOpens : Prop :=
  ∀ s : State,
    let pid := s.spot.place
    let c := s.core pid
    let on := s.spot.v0.getLsbD 0
    ∃ t : State, exec .crAdmitWrite s = .next t ∧ (t.core pid).admitting = on ∧ t.mem = s.mem ∧ t.net = s.net ∧
      (∀ q, q ≠ pid → t.core q = s.core q) ∧ (∀ n, t.slot pid n = s.slot pid n) ∧
      (¬(on = true ∧ c.admitting = false) → (t.core pid).part = c.part ∧ (t.core pid).reserve = c.reserve) ∧
      (on = true → c.admitting = false →
        (∀ x ∈ [(c.part, (t.core pid).part), (c.reserve, (t.core pid).reserve)],
          x.2.Pairwise (fun a b => a.order < b.order) ∧
            ∃ l : List Held, l.Perm x.1 ∧ l.Pairwise (fun a b => a.order ≤ b.order) ∧ x.2.map Held.msg = l.map Held.msg) ∧
        ∃ first, (∀ x ∈ (t.core pid).reserve, x.order < first) ∧ (∀ x ∈ (t.core pid).part, first + s.ringCount pid ≤ x.order) ∧
          (t.core pid).resuming = if s.ringCount pid = 0 then none else some (first, s.ringCount pid))

/-- R111, SPILL_REFILL: while ADMIT is 1 the ring's head moves into a free general entry, or, where it is a MIGRATE and none is free, into a free entry of the reserve, and the
ring's consumer index rises by one. What the rules leave open here is the model's choice (log 9). -/
def Piece.RingRefills : Prop :=
  ∀ (s : State) (m : Msg) (x : Word) (r : Ring),
    let pid := s.spot.place
    let c := s.core pid
    let general := c.part.length < c.general
    let reserve := c.reserve.length < c.mres
    Memory.wf s.mem = true → s.running pid = true → s.portRuns pid = true → c.admitting = true →
    s.ringHead pid (s.entryPasid pid) (s.entryAddr pid 3) = some (m, x) →
    s.ringAt pid (s.entryPasid pid) (s.entryAddr pid 3) = some r → (general ∨ (m.kind = 3 ∧ reserve)) →
    (∀ h a, place (r.header + 24) = some (h, a) → s.writesWell h = true) →
      ∃ (t : State) (h : Held), exec .spillRefill s = .next t ∧ h.msg = m ∧ h.start = none ∧
        (general → (t.core pid).part = c.part ++ [h] ∧ (t.core pid).reserve = c.reserve) ∧
        (¬general → (t.core pid).reserve = c.reserve ++ [h] ∧ (t.core pid).part = c.part) ∧
        Memory.value t.mem (r.header + 24) 8 = (r.consumer + 1) % 2 ^ 64 ∧
        (∀ a, a < r.header + 24 ∨ r.header + 32 ≤ a → Memory.byte t.mem a = Memory.byte s.mem a) ∧ ∀ q, q ≠ pid → t.core q = s.core q

/-- R329 and R331, FAULT_ARRIVAL, MIGRATE_RETURN and FAULT_DELIVERY: a FAULT record for the core's task with a filled handler, and a MIGRATE that came
back, enter a fault inbox that has room; any other FAULT record goes on to Flatar, handler 0 of service core 0. Delivered into a free slot, a FAULT starts its handler with
priority 3; a MIGRATE is born frozen with its PC and g0 to g7, and a fault record with the code and the rank it was sent to follows it. -/
def Piece.FaultInbox : Prop :=
  ∀ (s : State) (p : Packet) (m : Msg) (tg : Bool) (pid n : Nat) (code : FaultCode) (r : Inboxed) (rest : List Inboxed),
    let u := s.taken s.spot.place
    let c := s.core pid
    let mine := isService pid = true ∨ (s.entryState pid ≠ 0 ∧ m.task = s.entryTask pid ∧ s.handlerEmpty pid (fld m.sel 0 8) = false)
    let entered (t : State) (back : Option FaultCode) : Prop :=
      t = u.onCore pid fun x => { x with inbox := x.inbox ++ [{ msg := m, back := back, ac := s.coreAc pid }] }
    (s.front s.spot.place = some p → p.load = .msg m tg → p.dst = .core pid → m.kind = 10 → s.portRuns pid = true →
      (mine → c.inbox.length < 16 → ∃ t : State, exec .faultArrival s = .next t ∧ entered t none) ∧
      (mine → 16 ≤ c.inbox.length → exec .faultArrival s = .next s) ∧
      (¬mine → ∃ (t : State) (q : Packet) (w : Msg), exec .faultArrival s = .next t ∧ t.mem = s.mem ∧ t.cores = s.cores ∧ t.net = u.net ++ [q] ∧
        q.dst = .core (pid / 512 * 512 + 504) ∧ q.load = .msg w false ∧ w.data = m.data ∧ w.sel.toNat % 256 = 0 ∧
        w.sel.toNat / 256 = m.sel.toNat / 256 ∧ (pid / 512 < 63 → w.dest = 0xFF00 + 2 * (pid / 512)))) ∧
    (s.front s.spot.place = some p → p.load = .returned m code → p.dst = .core pid → s.portRuns pid = true →
      c.inbox.length < 16 → ∃ t : State, exec .migrateReturn s = .next t ∧ entered t (some code)) ∧
    (s.spot.place = pid → c.inbox = r :: rest → s.freeSlot pid = some n → s.mayDeliver pid = true → s.inboxReady pid = true → r.msg.task = s.entryTask pid →
      ∃ t : State, exec .faultDelivery s = .next t ∧ (∀ q, q ≠ pid → t.core q = s.core q) ∧
        (∀ k, k ≠ n → t.slot pid k = s.slot pid k) ∧ (t.core pid).inbox = rest ∧ t.mem = s.mem ∧
        let amig := (s.entryWord pid 0).getLsbD 49
        (r.back = none → (isService pid = true ∨ s.handlerEmpty pid (fld r.msg.sel 0 8) = false) →
          t.net = s.net ∧ BornAs (t.slot pid n) (BitVec.ofNat 64 (s.handlerAddr pid (fld r.msg.sel 0 8))) (r.msg.data.take 8) 3 r.msg.ecls
            (s.slot pid n).gen amig) ∧
        (∀ k, r.back = some k →
          let f := t.slot pid n
          f.live = true ∧ f.frozen = true ∧ f.sup = false ∧ f.gen = (s.slot pid n).gen ∧ f.prio = r.msg.prio ∧ f.ecls = r.msg.ecls ∧
            f.pc = r.msg.sel.setWidth 56 &&& ~~~1 ∧ (∀ x : Reg, f.g[x] = r.msg.data.getD x.val 0) ∧
            (pid / 512 < 63 →
              ∃ (q : Packet) (w : Msg), t.net = s.net ++ [q] ∧ q.src = .core pid ∧ q.load = .msg w false ∧ w.kind = 10 ∧
                w.word 1 = BitVec.ofNat 64 (k.num + 2 ^ 22) ∧ w.word 3 = BitVec.ofNat 64 r.msg.dest)))

/-! ### Time, code and translation -/

/-- R105, AGING_PROMOTION: a fibre whose AGE is 512 rises one effective priority, at most to 3, and its AGE and YLD restart; its own priority
stays. -/
def Piece.AgingPromotes : Prop :=
  ∀ s : State,
    let pid := s.spot.place
    let n := s.spot.item
    let f := s.slot pid n
    f.live = true → f.age = 512 →
      exec .agingPromotion s =
        .next (s.setSlot pid n { f with eff := if f.eff.val < 3 then f.eff + 1 else f.eff, age := 0, yld := false })

/-- R2, R104, R150 and R314: ICACHE_FILL brings a parcel of code that a fibre waits for and may read, as its home holds it, into the cluster's instruction cache, which keeps what
else it holds while the 128 KiB have room, and releases the fibres that wait for it; one that meets an uncorrected error brings nothing in and releases them. ICFLUSH_ARRIVAL empties
the cache and answers DONE; a dead cluster or a dark region answers HOME_FENCED. What the rules leave open here is the model's choice (logs 15 and 55). -/
def Piece.InstructionCache : Prop :=
  ∀ (s : State) (p : Packet) (m : Msg) (tg : Bool) (h : Home) (a : Area),
    (let cid := s.spot.place
     let pa := s.spot.item
     let released (t : State) : Prop :=
       ∀ q n, (t.slot q n).pc = (s.slot q n).pc ∧ (t.slot q n).g = (s.slot q n).g ∧
         (q / 8 = cid → (t.slot q n).hold ≠ some (.icache pa)) ∧
         ((s.slot q n).hold ≠ some (.icache pa) → t.slot q n = s.slot q n)
     (∃ k < 8, ∃ e ∈ (s.core (8 * cid + k)).slots,
        e.2.hold = some (.icache pa) ∧ s.mayFill (8 * cid + k) (State.ofFlatar (8 * cid + k) e.2) pa = true) →
      s.clusterRuns cid = true → place pa = some (h, a) → s.readsWell h = true →
      (s.eccBad pa 2 = false → ∃ t : State, exec .icacheFill s = .next t ∧ t.mem = s.mem ∧ t.net = s.net ∧ released t ∧
        Tab.look (t.cluster cid).icache pa = some (BitVec.ofNat 16 (Memory.value s.mem pa 2)) ∧
        ((s.cluster cid).icache.length < 65536 →
          ∀ x, x ≠ pa → Tab.look (t.cluster cid).icache x = Tab.look (s.cluster cid).icache x)) ∧
      (s.eccBad pa 2 = true → ∃ t : State, exec .icacheFill s = .next t ∧ t.mem = s.mem ∧ t.net = s.net ∧ t.clusters = s.clusters ∧ released t)) ∧
    (∀ cid, s.front s.spot.place = some p → p.load = .msg m tg → p.dst = .cluster cid → m.kind = 11 → fld m.sel 48 7 = 2 →
      let dead := s.clusterDead cid = true ∨ (s.region (cid / 64)).life = .dark ∨ (s.region (cid / 64)).life = .wiping
      (¬dead → s.clusterRuns cid = true →
        ∃ t : State, exec .icflushArrival s = .next t ∧ (t.cluster cid).icache = [] ∧ t.mem = s.mem ∧ t.cores = s.cores ∧
          t.Answered (s.taken s.spot.place).net (.cluster cid) (s.replyPort p m) m 0 0x80000000) ∧
      (dead → tg = true →
        ∃ t : State, exec .icflushArrival s = .next t ∧ t.clusters = s.clusters ∧ t.mem = s.mem ∧
          t.Answered (s.taken s.spot.place).net (.cluster cid) (s.replyPort p m) m 1 0))

/-- R320 to R322: a MISS word starts a walker fibre of task 0 in supervisor mode, priority 3, in the lowest free slot from 248 on, with the word's two
words in g0 and g1, once EN names the core; it waits while EN is 0 or no such slot is free. A NOMAP word raises PAGE for every fibre of the core that is held on the page, and
for no other. What the rules leave open here is the model's choice (logs 10, 55 and 61). -/
def Piece.MissAndNomap : Prop :=
  ∀ (s : State) (p : Packet) (m : Msg) (tg : Bool) (pid : Nat),
    s.front s.spot.place = some p → p.load = .msg m tg → p.dst = .core pid → m.kind = 11 → s.portRefuses p.src pid true = false →
    let u := s.taken s.spot.place
    let w := (s.cluster (pid / 8)).tscfg
    let on := w.getLsbD 63 = true ∧ w.toNat / 2 ^ 56 % 8 = pid % 8 ∧ s.portRuns pid = true
    (fld m.sel 48 7 = 3 →
      (∀ n, 248 ≤ n → n < 256 → (s.slot pid n).live = false → (∀ k, 248 ≤ k → k < n → (s.slot pid k).live = true) → on →
        ∃ t : State, exec .missArrival s = .next t ∧ t.net = u.net ∧ t.mem = s.mem ∧ (∀ k, k ≠ n → t.slot pid k = s.slot pid k) ∧
          let f := t.slot pid n
          f.live = true ∧ f.sup = true ∧ f.fw = true ∧ f.amig = false ∧ f.prio = 3 ∧ f.g[0] = m.sel ∧ f.g[1] = m.word 0 ∧
            f.gen = (s.slot pid n).gen ∧ f.pc.extractLsb' 1 55 = w.extractLsb' 1 55 ∧ s.taskOf pid f = 0) ∧
      (¬on ∨ (∀ k, 248 ≤ k → k < 256 → (s.slot pid k).live = true) → exec .missArrival s = .next s)) ∧
    (fld m.sel 48 7 = 4 → s.portRuns pid = true → (∀ a b c d, (s.core pid).gk.ctx.hold ≠ some (.miss a b c d)) →
      ∃ t : State, exec .nomapArrival s = .next t ∧ t.mem = s.mem ∧ (∀ q, q ≠ pid → t.core q = s.core q) ∧
        ∀ n,
          let f := s.slot pid n
          ((∃ a va k, f.hold = some (.miss a (fld (m.word 0) 16 40) va k)) → f.live = true →
            (t.slot pid n).frozen = true ∧ (t.slot pid n).pc = f.pc ∧ (t.slot pid n).g = f.g) ∧
          ((∀ a va k, f.hold ≠ some (.miss a (fld (m.word 0) 16 40) va k)) → t.slot pid n = f))

/-- R323: SNAP marks every system-space access and engine operation that the cluster has issued, on whichever core its context now is, and clears DRAINED; DRAINED becomes 1 when none that is marked is
left, and not before. IOMMU_INVALIDATION removes the entries of the PASID for the range from every cluster in which the PASID has a core; its completion waits until each is
DRAINED. What the rules leave open here is the model's choice (logs 10, 55 and 60). -/
def Piece.SystemDrains : Prop :=
  ∀ s : State,
    let cid := s.spot.place
    (s.spot.v0.getLsbD 0 = true →
      ∃ t : State, exec .sysdrnSnap s = .next t ∧ (t.cluster cid).draining = true ∧ t.mem = s.mem ∧ t.net = s.net ∧
        ∀ q, (t.core q).tags.length = (s.core q).tags.length ∧ (t.core q).ops.length = (s.core q).ops.length ∧
          (∀ e ∈ (t.core q).tags, e.2.issuer / 8 = cid → e.2.scope = .system → e.2.use ≠ .posted .message → e.2.snap = true) ∧
          (∀ o ∈ (t.core q).ops, o.issuer / 8 = cid → .system ∈ o.scopes → o.snap = true) ∧
          (q / 8 = cid → ∀ e ∈ (t.core q).gk.tags, e.2.scope = .system → e.2.snap = true)) ∧
    ((s.cluster cid).draining = true →
      let left := ∃ x ∈ s.cores, (∃ e ∈ x.2.tags, e.2.snap = true ∧ e.2.issuer / 8 = cid) ∨
        (∃ o ∈ x.2.ops, o.snap = true ∧ o.issuer / 8 = cid) ∨ (x.1 / 8 = cid ∧ ∃ e ∈ x.2.gk.tags, e.2.snap = true)
      (left → exec .sysdrnDrained s = .next s) ∧
      (¬left → ∃ t : State, exec .sysdrnDrained s = .next t ∧ (t.cluster cid).draining = false ∧ t.mem = s.mem ∧ t.cores = s.cores ∧
        ∀ c, c ≠ cid → t.cluster c = s.cluster c)) ∧
    (let pasid := s.spot.place
     let lo := fld s.spot.v0 16 40
     let hi := lo + s.spot.v1.toNat
     let hit (e : TlbEntry) : Prop :=
       e.pasid = pasid ∧ e.base / 2 ^ 16 < hi ∧ lo < e.base / 2 ^ 16 + 2 ^ (e.shift - 16)
     let serves (q : Nat) : Prop := (∃ c, (q, c) ∈ s.cores) ∧ isService q = false ∧ s.entryState q ≠ 0 ∧ s.entryPasid q = pasid
     ∃ t : State, exec .iommuInvalidation s = .next t ∧ t.mem = s.mem ∧ t.net = s.net ∧
       (∀ q, serves q → (∀ e ∈ (t.cluster (q / 8)).tlb, ¬hit e.2) ∧ (∀ e ∈ (t.core q).utlb, ¬hit e.copy) ∧
         (t.cluster (q / 8)).draining = true) ∧
       (∀ c, ∀ e ∈ (t.cluster c).tlb, e ∈ (s.cluster c).tlb) ∧
       ((∃ q, serves q) → t.host.drained = s.host.drained) ∧ ((¬∃ q, serves q) → t.host.drained = s.host.drained + 1))

/-- R330: a call that stands at the vector is answered in g0, and the fibre returns as TRET does; PAGEIN answers 1 for an address in no entry and 2 for one without backing, else 0,
and the page is then mapped, in every cluster of the task, to the backing with the entry's rights; PAGER.SET answers 3 where a word of the argument cannot be read in user mode, 1 where
a reserved field is not 0 or the length is 0, memory as before in both, else 0, and the four words of the argument, the last without its number, stand in the entry that the number names,
with every other byte of memory as before; both wait while Flatar's own walk goes on. PAGEOUT answers 1 for a page that is not mapped, and
0 once every cluster is drained; a code that is none of the three gives all ones. What the rules leave open here is the model's choice (log 26). -/
def Obligations.PagerCalls : Prop :=
  ∀ s : State,
    let pid := s.spot.place
    let n := s.spot.item
    let f := s.slot pid n
    let va := f.g[0]
    let word (i w : Nat) : Word := (s.structWord pid (s.entryAddr pid 7 + BitVec.ofNat 64 (i * 32 + w * 8))).getD 0
    let back (v : Word) (t : State) : Prop :=
      (t.slot pid n).g[0] = v ∧ (t.slot pid n).pc = f.epc ∧ (t.slot pid n).sup = false ∧ (t.slot pid n).epcv = false ∧
        (∀ r : Reg, r ≠ 0 → (t.slot pid n).g[r] = f.g[r]) ∧ ∀ k, k ≠ n → (t.slot pid k).g = (s.slot pid k).g
    s.calls pid n = true →
    (f.tcause.toNat ∉ [0x21, 0x22, 0x23] →
      ∀ i, i = .pagein ∨ i = .pagerSet ∨ i = .pageout → ∃ t : State, exec i s = .next t ∧ back (BitVec.allOnes 64) t ∧ t.mem = s.mem) ∧
    (f.tcause.toNat = 0x21 → s.pagerReached pid = false → exec .pagein s = .next s) ∧
    (f.tcause.toNat = 0x21 → s.pagerReached pid = true →
      (s.pagerIndex pid va = none → ∃ t : State, exec .pagein s = .next t ∧ back 1 t ∧ t.mem = s.mem ∧ t.clusters = s.clusters) ∧
      (∀ i, s.pagerIndex pid va = some i →
        (fld (word i 2) 0 48 = 0 → ∃ t : State, exec .pagein s = .next t ∧ back 2 t ∧ t.mem = s.mem ∧ t.clusters = s.clusters) ∧
        (fld (word i 2) 0 48 ≠ 0 →
          let pa := (fld (word i 2) 0 48 + (fld va 0 56 - fld (word i 0) 0 56)) / 2 ^ 16 * 2 ^ 16
          ∃ t : State, exec .pagein s = .next t ∧ back 0 t ∧ t.mem = s.mem ∧
            (s.mappable pid pa = true → ∀ c ∈ s.taskClusters pid,
              ∃ e ∈ (t.cluster c).tlb, e.2.tag = BitVec.ofNat 64 (fld va 16 40 * 2 ^ 20 + s.entryPasid pid) ∧
                e.2.entry = BitVec.ofNat 64 (pa + limitRights pa (fld (word i 3) 24 4) * 2 + 1))))) ∧
    (f.tcause.toNat = 0x22 →
      let found := s.spot.v0 != 0
      let waits := s.pagerReached pid = false ∨ s.walking pid va found = true ∨ s.walking pid (va + 24) found = true ∨
        s.argumentReady pid va = false ∨ s.argumentReady pid (va + 24) = false
      (waits → exec .pagerSet s = .next s) ∧
      (¬waits →
        ((∃ k, (k = 0 ∨ k = 8 ∨ k = 16 ∨ k = 24) ∧ s.userWord pid (va + k) = none) →
          ∃ t : State, exec .pagerSet s = .next t ∧ back 3 t ∧ t.clusters = s.clusters ∧ t.mem = s.mem) ∧
        (∀ w0 w1 w2 w3, s.userWord pid va = some w0 → s.userWord pid (va + 8) = some w1 → s.userWord pid (va + 16) = some w2 →
          s.userWord pid (va + 24) = some w3 →
          let bad := w0 &&& 0xFF0000000000FFFF ≠ 0 ∨ w1 &&& 0xFFFFFE000000FFFF ≠ 0 ∨ fld w1 16 25 = 0 ∨ w2 &&& 0xFFFF000000000000 ≠ 0 ∨
            w3 &&& 0xFFFFFFF870000000 ≠ 0
          (bad → ∃ t : State, exec .pagerSet s = .next t ∧ back 1 t ∧ t.clusters = s.clusters ∧ t.mem = s.mem) ∧
          (s.entryAddr pid 7 = 0 → ∃ t : State, exec .pagerSet s = .next t ∧ back 1 t ∧ t.clusters = s.clusters ∧ t.mem = s.mem) ∧
          (∀ pa, ¬bad → s.entryAddr pid 7 ≠ 0 → Memory.wf s.mem = true →
            (∀ k ∈ [0, 8, 16, 24],
              s.structAddr pid (s.entryAddr pid 7 + BitVec.ofNat 64 (fld w3 32 3 * 32 + k)) = some (pa + k) ∧
                ∀ h a, place (pa + k) = some (h, a) → s.writesWell h = true ∧ ∀ w, s.traceControl h = some w → w.getLsbD 0 = false) →
            ∃ t : State, exec .pagerSet s = .next t ∧ back 0 t ∧
              Memory.value t.mem pa 8 = w0.toNat ∧ Memory.value t.mem (pa + 8) 8 = w1.toNat ∧ Memory.value t.mem (pa + 16) 8 = w2.toNat ∧
              Memory.value t.mem (pa + 24) 8 = w3.toNat % 2 ^ 32 ∧
              ∀ x, x < pa ∨ pa + 32 ≤ x → Memory.byte t.mem x = Memory.byte s.mem x)))) ∧
    (f.tcause.toNat = 0x23 →
      let key := (s.entryPasid pid, fld va 16 40)
      let mapped := canonical va = true ∧ (s.spot.v0 ≠ 0 ∨ ∃ c ∈ s.taskClusters pid, ∃ e ∈ (s.cluster c).tlb, e.2.holds key = true)
      ((s.core pid).unmapping.contains n = false →
        (¬mapped → ∃ t : State, exec .pageout s = .next t ∧ back 1 t) ∧
        (mapped →
          ∃ t : State, exec .pageout s = .next t ∧ (t.core pid).unmapping.contains n = true ∧
            (t.slot pid n).g = f.g ∧ (t.slot pid n).pc = f.pc ∧ (t.slot pid n).mark = f.mark ∧
            ∀ c ∈ s.taskClusters pid, c % 64 ≠ 63 → (t.cluster c).draining = true ∧ ∀ e ∈ (t.cluster c).tlb, e.2.holds key = false)) ∧
      ((s.core pid).unmapping.contains n = true →
        ((∀ c ∈ s.taskClusters pid, (s.cluster c).draining = false) → ∃ t : State, exec .pageout s = .next t ∧ back 0 t) ∧
        ((∃ c ∈ s.taskClusters pid, (s.cluster c).draining = true) → exec .pageout s = .next s)))

/-! ### Task entries, watchdogs, fences and locks -/

/-- The parts of a state that a change of one core leaves: memory, what is in flight, regions, clusters but for one, and every other core. -/
def OnlyCore (s t : State) (pid : Nat) : Prop :=
  t.mem = s.mem ∧ t.net = s.net ∧ t.regions = s.regions ∧ t.regs = s.regs ∧ (∀ q, q ≠ pid → t.core q = s.core q) ∧
    ∀ c, c ≠ pid / 8 → t.cluster c = s.cluster c

/-- R99, R100, R110 and R123: a store that asks for FREE to PLACING takes the entry there where the mailbox's limits hold, with every register of a placement at
its value and the clear running, and leaves FREE where they do not, the other fields of the word written; PLACING to RUNNING starts the task; FREE, PLACING or RUNNING to FREE excuses the core at
every level. A store to word 0 of a FREE entry that asks for FREE, or for RUNNING or SAVED, writes the fields and leaves FREE, as one that asks a PLACING entry for PLACING or SAVED leaves PLACING; a store that asks a RUNNING entry for another state than FREE, and any store to a SAVED one, changes nothing; words 1 to 7
are written while the entry is FREE or PLACING, and at no other time. The clear's end zeroes the core's TCM and station and no other byte. What the rules leave open here is the model's choice (log 63). -/
def Piece.TaskEntries : Prop :=
  ∀ s : State,
    let pid := s.spot.place
    let v := s.spot.v0
    let c := s.core pid
    let state (t : State) (n : Nat) : Prop := t.entryState pid = n
    let others (t : State) : Prop := t.mem = s.mem ∧ t.net = s.net ∧ t.regions = s.regions ∧ t.regs = s.regs ∧
      (∀ c, c ≠ pid / 8 → t.cluster c = s.cluster c) ∧
      ∀ q, q ≠ pid → t.core q =
        if (s.core q).went = some pid then { s.core q with went := none, hods := (s.core q).hods.map HodOp.orphan } else s.core q
    (s.entryState pid = 0 → v.toNat % 4 = 1 → s.mailboxOk pid = true →
      (s.tokens (pid / 8)).held ≤ tokenCost (pid / 8) * (s.tokens (pid / 8)).next →
      ∃ t : State, exec .taskEntryPlace s = .next t ∧ others t ∧ state t 1 ∧
        let d := t.core pid
        d.entry[0] = (v &&& 0xFF07FFFFFF0FFF00) ||| 1 ∧ (∀ n, d.slot n = Slot.free) ∧ d.x = Vector.replicate 16 0 ∧
          d.q = Vector.replicate 8 [] ∧ d.counters = [] ∧ d.pred = [] ∧ d.fpmode = 0 ∧ d.admitting = true ∧ d.dead = 0 ∧ d.lost = 0 ∧
          d.part = [] ∧ d.reserve = [] ∧ d.ptr = Vector.replicate 4 0 ∧ d.gk.mode = .idle ∧ d.gk.store = [] ∧ d.clearing = true ∧
          d.mbInForce = c.mbcfg ∧ d.freeCtr = [] ∧ d.cnt0 = 0 ∧ d.kvreq = 0) ∧
    (s.entryState pid = 0 → v.toNat % 4 = 1 → s.mailboxOk pid = false →
      ∃ t : State, exec .taskEntryPlace s = .next t ∧ OnlyCore s t pid ∧ state t 0 ∧ (t.core pid).clearing = c.clearing ∧
        (t.core pid).entry[0] = v &&& 0xFF07FFFFFF0FFF00) ∧
    (s.entryState pid = 1 → v.toNat % 4 = 2 →
      ∃ t : State, exec .taskEntryRun s = .next t ∧ OnlyCore s t pid ∧ state t 2 ∧ (t.core pid).part = c.part ∧ (t.core pid).x = c.x) ∧
    (1 ≤ s.entryState pid → s.entryState pid ≤ 2 → v.toNat % 4 = 0 →
      ∃ t : State, exec .taskEntryFree s = .next t ∧ OnlyCore s t pid ∧ state t 0 ∧ (t.core pid).exc = 0xF ∧
        ∃ new : List BarSignal, t.bars = s.bars ++ new ∧ ∀ b ∈ new, b.core = pid ∧ b.kind = .excuse true) ∧
    (let open_ := s.entryState pid ≤ 1
     let stored (i : Fin 8) : State := s.writeEntry pid i v
     let fields : Word := v &&& 0xFF07FFFFFF0FFF00
     (∀ i : Fin 8, pid < 2 ^ 15 → isService pid = false → pid / 512 < 63 → pid / 8 % 64 < 36 →
       s.controlWrite (clusterBase (pid / 8) + 0x1901000 + pid % 8 * 0x100 + 8 * i.val) v = stored i) ∧
     (s.entryState pid = 0 → v.toNat % 4 = 0 → OnlyCore s (stored 0) pid ∧ ((stored 0).core pid).entry = c.entry.set 0 fields) ∧
     (s.entryState pid = 0 → 2 ≤ v.toNat % 4 → stored 0 = s.onCore pid fun x => { x with entry := x.entry.set 0 fields }) ∧
     (s.entryState pid = 1 → v.toNat % 2 = 1 → stored 0 = s.onCore pid fun x => { x with entry := x.entry.set 0 (fields ||| 1) }) ∧
     (s.entryState pid = 2 → v.toNat % 4 ≠ 0 → (stored 0).core pid = c ∧ OnlyCore s (stored 0) pid) ∧
     (s.entryState pid = 3 → (stored 0).core pid = c ∧ OnlyCore s (stored 0) pid) ∧
     ∀ i : Fin 8, i ≠ 0 → (¬open_ → stored i = s) ∧
       (open_ → stored i = s.onCore pid fun x =>
         { x with entry := x.entry.set i (v &&& if i = 2 then 0x00000000FFFFFFFF else 0x00FFFFFFFFFFFFFF) })) ∧
    (c.clearing = true → s.clusterRuns (pid / 8) = true →
      ∃ t : State, exec .placementClearDone s = .next t ∧ (t.core pid).clearing = false ∧ (t.core pid).station = [] ∧ (t.core pid).active = none ∧
        (t.core pid).incoming = none ∧ t.net = s.net ∧ (∀ q, q ≠ pid → t.core q = s.core q) ∧
        (∀ a, Memory.byte t.mem a =
          if tcmBase pid ≤ a ∧ a < tcmBase pid + 0x40000 then Memory.unlisted a else Memory.byte s.mem a))

/-- R338: a hardware word to service core 0 of region r: a SUPERVISOR word in TC0 with its event. -/
def Reported (s t : State) (r event : Nat) (low : Nat) (data : Word) : Prop :=
  ∃ (p : Packet) (m : Msg), t.net = s.net ++ [p] ∧ p.dst = .core (r * 512 + 504) ∧ p.tc = 0 ∧ p.load = .msg m false ∧ m.kind = 11 ∧ fld m.sel 48 7 = event ∧
    fld m.sel 0 48 = low ∧ m.data = [data]

/-- R164, R332, R339, R340 and R372: cr.wdog reaches its LIMIT once, sets EXP and sends a WDOG word; FENCEC fences its cores and tells every barrier level of each that changes; a
supervisor store releases the range lock of its entry and no other; an uncorrected word of a unit is reported and counted in its bank, one of a fibre's slot freezes the fibre. What the rules leave open here is the model's choice (logs 57 and 58). -/
def Piece.WatchdogsAndFences : Prop :=
  ∀ s : State,
    let pid := s.spot.place
    let w := (s.core pid).wdog
    (w.getLsbD 31 = true → w.getLsbD 32 = false → w.toNat % 2 ^ 20 ≠ 0 → w.toNat % 2 ^ 20 * 1024 ≤ (s.core pid).wdogCount →
      pid < 2 ^ 15 → s.rankOf pid < 2 ^ 16 →
      ∃ t : State, exec .watchdogExpiry s = .next t ∧ t.core pid = { s.core pid with wdog := w ||| 0x100000000 } ∧ t.mem = s.mem ∧
        (∀ q, q ≠ pid → t.core q = s.core q) ∧ Reported s t (pid / 512) 6 (0x8000 + pid) (s.time (pid / 512))) ∧
    ((w.getLsbD 32 = true ∨ w.getLsbD 31 = false ∨ w.toNat % 2 ^ 20 = 0 ∨ (s.core pid).wdogCount < w.toNat % 2 ^ 20 * 1024) →
      exec .watchdogExpiry s = .next s) ∧
    (∃ t : State, exec .fencecWrite s = .next t ∧ t.mem = s.mem ∧ t.net = s.net ∧
      (∀ k < 8, t.core (8 * pid + k) = { s.core (8 * pid + k) with fenced := s.spot.v0.getLsbD k }) ∧
      (∀ q, q / 8 ≠ pid → t.core q = s.core q) ∧
      ∃ new : List BarSignal, t.bars = s.bars ++ new ∧ ∀ k < 8, (s.core (8 * pid + k)).fenced ≠ s.spot.v0.getLsbD k →
        ∀ l, 1 ≤ l → l ≤ 4 → ∃ b ∈ new, b.core = 8 * pid + k ∧ b.level = l ∧ b.kind = .fence (s.spot.v0.getLsbD k)) ∧
    (∃ t : State, exec .rangeLockRelease s = .next t ∧ t.mem = s.mem ∧ t.net = s.net ∧ t.cores = s.cores ∧
      let old := Tab.look (s.lockEntries (lockTableOf pid))
      let new := Tab.look (t.lockEntries (lockTableOf pid))
      new s.spot.item = none ∧ ∀ e, e ≠ s.spot.item → new e = old e) ∧
    (s.spot.item ≤ 4 → pid < 2 ^ 15 → s.rankOf pid < 2 ^ 16 →
      let a := controlBase (pid / 512) + 0x4000 + 8 * (2608 + s.spot.v1.toNat % 16)
      ∃ t : State, exec .uncorrectedReport s = .next t ∧ t.core pid = { s.core pid with unc := true } ∧ t.mem = s.mem ∧
        (∀ q, q ≠ pid → t.core q = s.core q) ∧
        (t.ctl a 0).toNat % 2 ^ 32 = (s.ctl a 0).toNat % 2 ^ 32 ∧
        (t.ctl a 0).toNat / 2 ^ 32 = min (2 ^ 32 - 1) ((s.ctl a 0).toNat / 2 ^ 32 + 1) ∧
        Reported s t (pid / 512) 8 (s.spot.item * 2 ^ 16 + 0x8000 + pid) s.spot.v0) ∧
    (s.spot.item = 5 → (s.slot pid s.spot.v0.toNat).live = true →
      ∃ t : State, exec .uncorrectedReport s = .next t ∧ (t.slot pid s.spot.v0.toNat).frozen = true ∧
        (t.slot pid s.spot.v0.toNat).g = (s.slot pid s.spot.v0.toNat).g ∧ t.mem = s.mem ∧
        ∀ n, n ≠ s.spot.v0.toNat → t.slot pid n = s.slot pid n)

/-- R99 (R333, R312): a core issues only while its entry is RUNNING and no pre-emption has begun, its clock runs, and it is neither fenced nor dead (R104, R340, R4); a
turn of any other core leaves the state. -/
def Piece.IssueNeedsRunning : Prop :=
  ∀ (s : State) (pid : Nat), isService pid = false →
    (s.entryState pid ≠ 2 ∨ (s.core pid).saving ≠ none ∨ (s.core pid).fenced = true ∨ s.coreDead pid = true ∨
      s.clusterRuns (pid / 8) = false ∨ (s.core pid).last = some (s.coreAc pid)) →
    ∀ rest, step { s with plan := .issue pid :: rest } = .next { s with plan := rest }

/-! ### Pre-emption -/

/-- The REPLY of a status word (R311): VAL in [63:32], DONE in [31], RES in [2:0]. -/
def statusOf (val res : Nat) : Word := BitVec.ofNat 64 (val % 2 ^ 32 * 2 ^ 32 + 2 ^ 31 + res)

/-- R312, R333, R336 and R337: a PRE at a RUNNING core begins its pre-emption, and at any other is answered with RES 1; once every unit stands at its boundary
the area holds the context, the entry is SAVED, and the PRE is answered with the rc taken; a RESUME at a core that is neither SAVED nor PLACING has RES 1, one whose area holds another task RES 2; else the load begins, and at the
next such step it ends: the core is RUNNING again, and the RESUME is answered with the rc taken; what the area's homes cannot do now, and what a context still waits for, it waits for. What the rules leave open here is the model's choice (logs 23, 51, 55 and 64). -/
def Obligations.ContextSwitches : Prop :=
  ∀ (s : State) (p : Packet) (m : Msg) (tg : Bool) (pid : Nat) (v : Saving),
    let u := s.taken s.spot.place
    let answered (t : State) (val res : Nat) : Prop :=
      t.Answered u.net (.core pid) (s.replyPort p m) m 0 (statusOf val res)
    (s.front s.spot.place = some p → p.load = .msg m tg → p.dst = .core pid → s.portRefuses p.src pid true = false → s.portRuns pid = true →
      (m.kind = 8 → s.entryState pid = 2 → (s.core pid).saving = none →
        ∃ t : State, exec .preArrival s = .next t ∧ t.net = u.net ∧ t.mem = s.mem ∧
          (t.core pid).saving = some { area := m.sel.toNat % 2 ^ 48, pre := p, since := s.rc } ∧ t.running pid = false ∧
          (∀ n, t.slot pid n = s.slot pid n) ∧ ∀ q, q ≠ pid → t.core q = s.core q) ∧
      (m.kind = 8 → (s.entryState pid ≠ 2 ∨ (s.core pid).saving ≠ none) →
        ∃ t : State, exec .preArrival s = .next t ∧ answered t 0 1 ∧ t.cores = s.cores ∧ t.mem = s.mem) ∧
      (m.kind = 9 → (s.core pid).clearing = false →
        let area := m.sel.toNat % 2 ^ 48
        (s.entryState pid ≠ 1 → s.entryState pid ≠ 3 →
          ∃ t : State, exec .resumeArrival s = .next t ∧ answered t 0 1 ∧ t.cores = s.cores ∧ t.mem = s.mem) ∧
        ((s.entryState pid = 1 ∨ s.entryState pid = 3) → s.areaReady area = false → exec .resumeArrival s = .next s) ∧
        ((s.entryState pid = 1 ∨ s.entryState pid = 3) → s.areaReady area = true → (s.word area).toNat ≠ s.entryTask pid →
          ∃ t : State, exec .resumeArrival s = .next t ∧ answered t 0 2 ∧ t.cores = s.cores ∧ t.mem = s.mem) ∧
        ((s.entryState pid = 1 ∨ s.entryState pid = 3) → s.areaReady area = true → (s.word area).toNat = s.entryTask pid →
          ((s.core pid).loading = none → ∃ t : State, exec .resumeArrival s = .next t ∧ (t.core pid).loading = some s.rc ∧ t.net = s.net ∧ t.mem = s.mem ∧
            t.entryState pid = s.entryState pid ∧ (∀ n, t.slot pid n = s.slot pid n) ∧ ∀ q, q ≠ pid → t.core q = s.core q) ∧
          (∀ since, (s.core pid).loading = some since →
            let w := u.resume pid area
            (s.mayLoad pid area = true → w.spillCount pid = 0 →
              ∃ t : State, exec .resumeArrival s = .next t ∧ t.Answered w.net (.core pid) (s.replyPort p m) m 0 (statusOf (s.rc - since) 0) ∧
                t.entryState pid = 2 ∧ (t.core pid).loading = none ∧ (t.core pid).saving = none ∧ t.mem = w.mem) ∧
            ((s.mayLoad pid area = false ∨ w.spillCount pid ≠ 0) → exec .resumeArrival s = .next s))))) ∧
    (s.spot.place = pid → (s.core pid).saving = some v → v.pre.load = .msg m tg → s.portRuns pid = true → s.engagedFor pid = false →
      s.entryState pid = 2 → s.areaReady v.area = true → (s.tokens (pid / 8)).held ≤ tokenCost (pid / 8) * (s.tokens (pid / 8)).next →
      ∃ t : State, exec .contextSaved s = .next t ∧ t.entryState pid = 3 ∧ (t.core pid).saving = none ∧
        (Memory.wf s.mem = true → (∀ e ∈ s.areaWords pid, e.1 + 8 ≤ 0x100000) →
          (∀ a h x, v.area ≤ a → a < v.area + 0x100000 → place a = some (h, x) → s.writesWell h = true) →
          (∀ a, a < v.area ∨ v.area + 0x100000 ≤ a → Memory.byte t.mem a = Memory.byte s.mem a) ∧
          Memory.value t.mem v.area 8 = s.entryTask pid ∧
          (∀ n : XIdx, Memory.value t.mem (v.area + 0x9000 + 16 * n.val) 16 = ((s.core pid).x[n]).toNat) ∧
          (((s.core pid).slots.map Prod.fst).Nodup → ∀ n < 256, (s.slot pid n).live = true →
            (∀ r : Reg, Memory.value t.mem (v.area + 0x1000 + 128 * n + 8 * r.val) 8 = ((s.slot pid n).g[r]).toNat) ∧
            Memory.value t.mem (v.area + 0x1000 + 128 * n + 64) 8 = (s.slot pid n).pcWord.toNat)) ∧
        (∀ q, q ≠ pid → t.core q = s.core q) ∧ (∀ n, (t.slot pid n).g = (s.slot pid n).g ∧ (t.slot pid n).pc = (s.slot pid n).pc) ∧
        t.Answered s.net (.core pid) (s.replyPort v.pre m) m 0 (statusOf (s.rc - v.since) 0))

/-! ### Clocks -/

/-- A state whose cores, memory and packets are those of another. -/
def SameWork (s t : State) : Prop := t.mem = s.mem ∧ t.cores = s.cores ∧ t.fuses = s.fuses

/-- R173 to R175: GO with a permitted operating point stops every clock of the region, with LOCK 0 and CKCTL.OP written; a reserved point, a GO while stopped, for the
point in effect, or for 1.40 GHz on a region not graded for it, sets BADW and leaves OP; when the generator has relocked, CUR is the point that was asked for, STOP 0 and LOCK 1. What the rules leave open here is the model's choice (log 52). -/
def Piece.OperatingPoints : Prop :=
  ∀ s : State,
    let r := s.spot.place
    let v := s.spot.v0
    let op := v.toNat % 8
    let c := (s.region r).clock
    let bad := op ≥ 5 ∨ c.stop = true ∨ op = c.cur ∨ (op = 4 ∧ c.g140 = false)
    (v.getLsbD 8 = true → bad → exec .ckctlGo s = .next (s.onRegion r fun x => { x with badw := true })) ∧
    (v.getLsbD 8 = true → ¬bad → ∃ t : State, exec .ckctlGo s = .next t ∧ SameWork s t ∧ t.net = s.net ∧ t.clockOp r = op ∧
      (t.region r).clock.stop = true ∧ (t.region r).clock.lock = false ∧ (t.region r).clock.goal = some op ∧
      (t.region r).clock.cur = c.cur ∧ t.regionAc r = s.regionAc r ∧ (∀ k, k / 64 = r → t.clusterRuns k = false) ∧
      (∀ q, q ≠ r → t.region q = s.region q)) ∧
    (∀ op, c.goal = some op → r < 63 → ∃ t : State, exec .clockChangeDone s = .next t ∧ t.mem = s.mem ∧ t.cores = s.cores ∧
      (t.region r).clock.cur = op ∧ (t.region r).clock.stop = false ∧ (t.region r).clock.goal = none ∧
      (t.region r).clock.lock = !c.failed ∧ (∀ q, q ≠ r → (t.region q).clock = (s.region q).clock))

/-- R176, R178 and R180: a write of FWD sets PARENT and HREQ and clears LOS by 1; HREQ 1 puts the cluster into hold; a PARENT of 6 or 7, or a new PARENT while some cluster of the subtree
runs, sets BADW and changes nothing else. A cluster may leave hold 16 rc after the last condition came to hold, no sooner, and then leaves it aligned, with its depth and class, and its ac goes on where it
stopped. What the rules leave open here is the model's choice (log 52). -/
def Piece.Forwarders : Prop :=
  ∀ s : State,
    let cid := s.spot.place
    let v := s.spot.v0
    let f := (s.cluster cid).fwd
    let p := v.toNat % 8
    let free := ∀ c ∈ s.subtree cid, (s.cluster c).fwd.hold = true
    cid % 64 < 36 →
    (p ≠ f.parent → (6 ≤ p ∨ ¬free) → exec .fwdWrite s = .next (s.onRegion (cid / 64) fun x => { x with badw := true })) ∧
    (p = f.parent ∨ (p < 6 ∧ free) → ∃ t : State, exec .fwdWrite s = .next t ∧ SameWork s t ∧ t.net = s.net ∧
      let g := (t.cluster cid).fwd
      g.parent = p ∧ g.hreq = v.getLsbD 13 ∧ g.los = (f.los && !v.getLsbD 15) ∧ g.hold = (f.hold || v.getLsbD 13) ∧
        (t.cluster cid).leaveAt = (if t.mayLeave cid then some ((s.cluster cid).leaveAt.getD (s.rc + 16)) else none) ∧
        ∀ c, c / 64 ≠ cid / 64 → t.cluster c = s.cluster c) ∧
    (∀ at_ d, (s.cluster cid).leaveAt = some at_ → s.fwdDepth cid = some d → at_ ≤ s.rc → s.mayLeave cid = true →
      ∃ t : State, exec .clusterLeavesHold s = .next t ∧ SameWork s t ∧ t.net = s.net ∧
        let g := (t.cluster cid).fwd
        g.hold = false ∧ g.aligned = true ∧ g.depth = d ∧ g.cls = classOf d ∧ g.parent = f.parent ∧
          (∀ h, (s.cluster cid).heldAt = some h → h ≤ s.regionAc (cid / 64) → (s.cluster cid).lostAc ≤ h →
            t.clusterAc cid = s.clusterAc cid)) ∧
    (∀ at_, (s.cluster cid).leaveAt = some at_ → s.rc < at_ → exec .clusterLeavesHold s = .next s)

/-- R179: where a cluster's input clock fails, it and every cluster whose path passes through it are in hold with HREQ 1 and not aligned, LOS is set on the cluster alone, and the region tells its service
core 0; where the generator fails, the region's clock stops, LOCK is 0, and every cluster of the region is in hold with HREQ 1 and not aligned, LOS as it was; neither is detected while the region's clocks are stopped (R183). R181: a droop stretches the region's next cycles by at least what is asked for, up to half a
period, leaves the operating point and the ac, and counts by class. What the rules leave open here is the model's choice (log 52). -/
def Piece.ClockLosses : Prop :=
  ∀ s : State,
    let cid := s.spot.place
    let r := cid / 64
    (cid % 64 < 36 → s.regionRuns r = true → r < 63 →
      ∃ (t : State) (n : Nat), exec .lossOfClock s = .next t ∧ SameWork s t ∧ n ≤ 36 ∧
        (∀ c ∈ s.subtree cid, let g := (t.cluster c).fwd
          g.hold = true ∧ g.hreq = true ∧ g.aligned = false ∧ (c ≠ cid → g.los = (s.cluster c).fwd.los) ∧ t.clusterRuns c = false) ∧
        (cid ∈ s.subtree cid → (t.cluster cid).fwd.los = true) ∧
        Reported s t r 5 (n * 2 ^ 12 + cid % 64 * 2 ^ 6 + r) 0) ∧
    (cid % 64 < 36 ∨ cid % 64 = 63 → (s.region r).clock.stop = true → exec .lossOfClock s = .next s) ∧
    (cid % 64 = 63 → (s.region r).clock.stop = false → ∃ t : State, exec .lossOfClock s = .next t ∧ SameWork s t ∧ t.net = s.net ∧ (t.region r).clock.failed = true ∧
      (t.region r).clock.lock = false ∧ t.regionAc r = s.regionAc r ∧ (∀ c, c / 64 = r → t.clusterRuns c = false) ∧
      ∀ c < 36, let g := (t.cluster (r * 64 + c)).fwd
        g.hold = true ∧ g.hreq = true ∧ g.aligned = false ∧ g.los = (s.cluster (r * 64 + c)).fwd.los) ∧
    (∃ t : State, exec .droopDetected s = .next t ∧ SameWork s t ∧ t.net = s.net ∧ t.clusters = s.clusters ∧ t.regionAc cid = s.regionAc cid ∧
      (∀ q, q ≠ cid → t.region q = s.region q) ∧
      (let c := (s.region cid).clock
       let d := (t.region cid).clock
       d.cur = c.cur ∧ (c.stop = false → c.failed = false →
         s.spot.v0.toNat / 2 ^ 32 ≤ d.cycles ∧ min (period c.cur / 2) (s.spot.v0.toNat % 2 ^ 32) ≤ d.extra)) ∧
      let a := controlBase cid + 0x610 + 8 * (s.cluster (cid * 64 + s.spot.item)).fwd.cls
      (t.ctl a 0).toNat = min (2 ^ 32 - 1) ((s.ctl a 0).toNat % 2 ^ 32 + 1))

/-- R266 and R267: TURN(q) takes a DIR of 0 to 4 and keeps its own under a reserved one; a packet at the head of an output queue that is held at a dark link is discarded with its fate when DARKTO is over, counted from when its wait began: a MIGRATE goes back with
HOME_FENCED, a tagged request is answered with HOME_FENCED, an untagged record is counted in the router that holds it; nothing is timed out while DARKTO is 0, or before. A REPLY, and an untagged message that is no record, waits, and is discarded and counted where its destination lies in a dark region. What the rules leave open here is the model's choice (logs 53 and 55). -/
def Piece.DarkLinks : Prop :=
  ∀ (s : State) (p : Packet) (x : Nat) (m : Msg) (tg : Bool),
    let k := s.spot.place
    let limit := (s.rbctl (p.here / 64)).toNat / 2 ^ 48
    let due := limit ≠ 0 ∧ ∃ since y, p.held = some (since, y) ∧ since + 100 * limit ≤ s.rc
    (s.spot.item < 63 → s.spot.v0.toNat % 8 ≤ 4 →
      exec .turnWrite s = .next (s.setCtl (controlBase k + 0xE00 + 8 * s.spot.item) (BitVec.ofNat 64 (s.spot.v0.toNat % 8)))) ∧
    (4 < s.spot.v0.toNat % 8 → exec .turnWrite s = .next s) ∧
    (s.net[k]? = some p → p.load = .msg m tg → (m.kind = 5 ∨ (tg = false ∧ 3 < m.kind)) → s.hopOf p = some x → s.darkRouter x = true →
      s.behind k p x = false → ∀ q, s.portRegion p.dst = some q →
        exec .darkLinkTimeout s = .next (if (s.region q).life = .dark then (s.taken k).countError p.here else s)) ∧
    (s.net[k]? = some p → p.load = .msg m tg → m.kind ≠ 5 → (tg = true ∨ m.kind ≤ 3) →
      (¬due → exec .darkLinkTimeout s = .next s) ∧
      (due → s.hopOf p = some x → s.darkRouter x = true → s.behind k p x = false →
        (m.kind = 3 → ∃ (t : State) (q : Packet), exec .darkLinkTimeout s = .next t ∧ t.net = (s.taken k).net ++ [q] ∧ q.load = .returned m .homeFenced ∧
          q.dst = s.replyPort p m ∧ SameWork s t) ∧
        (m.kind ≠ 3 → tg = true → ∃ t : State, exec .darkLinkTimeout s = .next t ∧ SameWork s t ∧
          t.Answered (s.taken k).net (.router p.here) (s.replyPort p m) m 1 0) ∧
        (m.kind ≤ 2 → tg = false → ∃ t : State, exec .darkLinkTimeout s = .next t ∧ t.net = (s.taken k).net ∧ SameWork s t ∧
          (t.cluster p.here).errs = (s.cluster p.here).errs + 1)))

/-! ### The life of a region -/

/-- R343 and R344: a write of RLC sets PART, unless the region goes dark, and changes STATE only as the table of R344 has it: Free to Assigned, Free, Assigned or Quarantined to Wiping, any but Dark to Quarantined, any to Dark; any other state that is asked for
sets BADW and leaves STATE. What the rules leave open here is the model's choice (log 54). -/
def Piece.LifeCycleWrites : Prop :=
  ∀ s : State,
    let r := s.spot.place
    let v := s.spot.v0
    let x := s.region r
    let n := v.toNat % 8
    let part (t : State) : Prop := (t.region r).part = v.toNat / 2 ^ 8 % 2 ^ 12
    x.life ≠ .dark →
    (n = x.life.num → ∃ t : State, exec .rlcStateWrite s = .next t ∧ part t ∧ (t.region r).life = x.life ∧ (t.region r).badw = x.badw ∧ SameWork s t) ∧
    (x.life = .free → n = 3 → ∃ t : State, exec .rlcStateWrite s = .next t ∧ part t ∧ (t.region r).life = .assigned ∧ SameWork s t) ∧
    ((x.life = .free ∨ x.life = .assigned ∨ x.life = .quarantined) → n = 1 →
      ∃ t : State, exec .rlcStateWrite s = .next t ∧ part t ∧ (t.region r).life = .wiping ∧ (t.region r).wipes = x.wipes ∧ t.mem = s.mem ∧
        ∀ q, q / 512 = r → t.core q = Core.initial q) ∧
    (n = 4 → x.life ≠ .quarantined → ∃ t : State, exec .rlcStateWrite s = .next t ∧ part t ∧ (t.region r).life = .quarantined ∧ SameWork s t) ∧
    ((n = 2 ∧ x.life ≠ .free) ∨ (n = 3 ∧ x.life ≠ .free ∧ x.life ≠ .assigned) ∨ 5 ≤ n →
      ∃ t : State, exec .rlcStateWrite s = .next t ∧ part t ∧ (t.region r).life = x.life ∧ (t.region r).badw = true ∧ SameWork s t) ∧
    (n = 0 → ∃ t : State, exec .rlcStateWrite s = .next t ∧ (t.region r).life = .dark ∧ (t.region r).wipes = x.wipes ∧
      ∀ q, q / 512 = r → t.core q = Core.initial q)

/-- R313, R343 and R344: a WIPE word at a region whose state permits it starts the sequencer; a region that is dark or Wiping, and a port that refuses it, answers with HOME_FENCED and changes nothing (R80, R311); when the wipe ends the region is Free, WIPES has risen by one, every byte of the region's memory is
clear, and a WIPE that waited is answered with the count (for a region whose service core 0 does not start a ROM). What the rules leave open here is the model's choice (logs 54 and 55). -/
def Piece.RegionsWiped : Prop :=
  ∀ (s : State) (p : Packet) (m : Msg) (r : Nat),
    (s.front s.spot.place = some p → p.load = .msg m true → p.dst = .core (512 * r + 504) → m.kind = 11 → fld m.sel 48 7 = 1 →
      (s.portRefuses p.src (512 * r + 504) true = false →
       (s.region r).life = .free ∨ (s.region r).life = .assigned ∨ (s.region r).life = .quarantined →
        (∀ c, c / 64 = r → (s.tokens c).held ≤ tokenCost c * (s.tokens c).next) →
        ∃ t : State, exec .wipeStart s = .next t ∧ (t.region r).life = .wiping ∧ (t.region r).wiper = some p ∧ t.mem = s.mem ∧
          t.net = (s.taken s.spot.place).net ∧ (∀ q, q ≠ r → t.region q = s.region q) ∧
          (∀ q, q / 512 = r → t.core q = Core.initial q) ∧ ∀ q, q / 512 ≠ r → t.core q = s.core q) ∧
      ((s.region r).life = .dark ∨ (s.region r).life = .wiping ∨ s.portRefuses p.src (512 * r + 504) true = true →
        ∃ t : State, exec .wipeStart s = .next t ∧ t.regions = s.regions ∧ t.mem = s.mem ∧ t.cores = s.cores ∧
          t.Answered (s.taken s.spot.place).net p.dst (s.replyPort p m) m 1 0)) ∧
    (s.spot.place = r → (s.region r).life = .wiping → s.coreDead (512 * r + 504) = true → Memory.wf s.mem = true → r < 63 →
      ∃ t : State, exec .wipeDone s = .next t ∧ (t.region r).life = .free ∧ (t.region r).wipes = (s.region r).wipes + 1 ∧
        (∀ a, Memory.byte t.mem a = if regionBase r ≤ a ∧ a < controlBase r then 0 else Memory.byte s.mem a) ∧
        ((s.region r).wiper = none → t.net = s.net) ∧
        ((s.region r).wiper = some p → p.load = .msg m true →
          t.Answered s.net p.dst (s.replyPort p m) m 0
            (BitVec.ofNat 64 (((s.region r).wipes + 1) % 2 ^ 32 * 2 ^ 32 + 2 ^ 31))))

/-- R143, R265, R343 and R344: a region that loses its regulator is dark at once with its cores, clusters and memory as after reset, and what stood in its routers is gone; one whose reset is released is Wiping at operating point 0, a region that is not dark has none; WIPES and the other regions stay.
At the release of the module's reset every region is Wiping at operating point 0; fuses, flash, host memory and WIPES are kept, and everything else is lost. What the rules leave open here is the model's choice (log 54). -/
def Piece.PowerAndReset : Prop :=
  ∀ s : State,
    let r := s.spot.place
    let lost (t : State) : Prop :=
      (t.region r).wipes = (s.region r).wipes ∧ (∀ q, q ≠ r → t.region q = s.region q) ∧
        (∀ q, q / 512 = r → t.core q = Core.initial q) ∧ (∀ q, q / 512 ≠ r → t.core q = s.core q) ∧ (∀ p ∈ t.net, p.here / 64 ≠ r) ∧
        (∀ c, c / 64 = r → t.cluster c = Cluster.initial (c % 64)) ∧ (∀ c, c / 64 ≠ r → t.cluster c = s.cluster c) ∧
        ∀ a, Memory.byte t.mem a = if regionBase r ≤ a ∧ a < controlBase r then Memory.unlisted a else Memory.byte s.mem a
    ((s.region r).life ≠ .dark → (s.region r).wiper = none →
      ∃ t : State, exec .regulatorFailure s = .next t ∧ (t.region r).life = .dark ∧ lost t) ∧
    ((s.region r).life = .dark →
      ∃ t : State, exec .regionResetRelease s = .next t ∧ (t.region r).life = .wiping ∧ (t.region r).clock.cur = 0 ∧ lost t) ∧
    ((s.region r).life ≠ .dark → exec .regionResetRelease s = .next s) ∧
    ∃ t : State, exec .moduleResetRelease s = .next t ∧ t.fuses = s.fuses ∧ t.cores = [] ∧ t.clusters = [] ∧ t.net = [] ∧ t.bars = [] ∧
      t.now = s.now ∧
      (∀ q < 63, (t.region q).life = .wiping ∧ (t.region q).clock.cur = 0 ∧ (t.region q).wipes = (s.region q).wipes ∧
        t.time q = 0) ∧
      ∀ a, Memory.byte t.mem a =
        if 0x200000000000 ≤ a ∧ a < 0x600000000000 then Memory.byte s.mem a else Memory.unlisted a

/-- R338: a SUPERVISOR word with a reserved event is discarded and counted, at a core and at a cluster. What the rules leave open here is the model's choice (log 58). -/
def Piece.ReservedWordsCounted : Prop :=
  ∀ (s : State) (p : Packet) (m : Msg), s.front s.spot.place = some p → p.load = .msg m false → m.kind = 11 → 9 ≤ fld m.sel 48 7 →
    (∀ pid, p.dst = .core pid → s.portRefuses p.src pid true = false → s.portRuns pid = true →
      exec .supervisorWordArrival s = .next ((s.taken s.spot.place).onCore pid fun c => { c with errs := c.errs + 1 })) ∧
    (∀ cid, p.dst = .cluster cid →
      exec .supervisorWordArrival s = .next ((s.taken s.spot.place).countError cid))

/-! ### The rim -/

/-- The other parts of a state than a window's registers and a region. -/
def OnlyRegisters (s t : State) : Prop := t.mem = s.mem ∧ t.cores = s.cores ∧ t.clusters = s.clusters ∧ t.net = s.net ∧ t.host = s.host

/-- R347 to R350: RDALL and WDALL write one tap to every lane of their set, R348's 68; a write while a test runs sets ERR and changes no tap; GO starts a test with the fields as written, unless one runs; its end writes in PFAIL which lanes
failed, in a LOGIC test by the lane that carries each, and sets DONE. R354: a temperature stands in STKST alone. What the rules leave open here is the model's choice (logs 8, 57 and 73). -/
def Piece.TrainingTests : Prop :=
  ∀ s : State,
    let t := s.spot.place
    let c := s.spot.item
    let v := s.spot.v0
    let base := 0x7F0000000000 + t * 0x100000000 + c * 0x10000
    t < 28 → c < 32 →
    (s.testing t c = false → ∃ u : State, exec .rdallWrite s = .next u ∧ OnlyRegisters s u ∧ u.regions = s.regions ∧
      (∀ l < 68, u.ctl (base + 8 * l) 32 = v &&& 0x3F) ∧
      ∀ a, (a < base ∨ base + 544 ≤ a) → u.ctl a 0 = s.ctl a 0) ∧
    (s.testing t c = false → ∃ u : State, exec .wdallWrite s = .next u ∧ OnlyRegisters s u ∧ u.regions = s.regions ∧
      (∀ l < 68, u.ctl (base + 0x400 + 8 * l) 32 = v &&& 0x3F) ∧
      ∀ a, (a < base + 0x400 ∨ base + 0x400 + 544 ≤ a) → u.ctl a 0 = s.ctl a 0) ∧
    (s.testing t c = true → ∀ i, i = .rdallWrite ∨ i = .wdallWrite ∨ (i = .prbsTestGo ∧ v.getLsbD 0 = true) →
      ∃ u : State, exec i s = .next u ∧ OnlyRegisters s u ∧ u.regions = s.regions ∧ (u.ctl (base + 0x908) 0).getLsbD 2 = true ∧
        ∀ a, a ≠ base + 0x908 → u.ctl a 0 = s.ctl a 0) ∧
    (s.testing t c = false → v.getLsbD 0 = true →
      ∃ u : State, exec .prbsTestGo s = .next u ∧ OnlyRegisters s u ∧ u.testing t c = true ∧ (u.ctl (base + 0x908) 0).getLsbD 1 = false ∧
        (u.ctl (base + 0x900) 0x10000).extractLsb' 1 2 = v.extractLsb' 1 2 ∧
        (v.toNat / 2 ^ 16 % 256 ≠ 0 → (u.ctl (base + 0x900) 0x10000).extractLsb' 16 8 = v.extractLsb' 16 8) ∧
        (v.toNat / 2 ^ 16 % 256 = 0 → (u.ctl (base + 0x900) 0x10000).extractLsb' 16 8 = (s.ctl (base + 0x900) 0x10000).extractLsb' 16 8)) ∧
    (∀ w, Tab.look (s.region (stackRegion t)).tests c = some w →
      ∃ u : State, exec .prbsTestEnd s = .next u ∧ OnlyRegisters s u ∧ u.testing t c = false ∧
        (∀ l < 64, (u.ctl (base + 0x910) 0).getLsbD l = s.laneFails t c w l) ∧
        (w.getLsbD 2 = true → u.ctl (base + 0x918) 0 = 0) ∧
        (w.getLsbD 2 = false → ∀ l < 4, (u.ctl (base + 0x918) 0).getLsbD l = s.laneFails t c w (64 + l)) ∧
        (u.ctl (base + 0x908) 0).getLsbD 1 = true) ∧
    ∃ u : State, exec .stkstTempUpdate s = .next u ∧ OnlyRegisters s u ∧ u.regions = s.regions ∧
      let a := 0x7F0000000000 + t * 0x100000000 + 0x200000
      (u.ctl a 0).extractLsb' 40 8 = v.extractLsb' 0 8 ∧ (u.ctl a 0).extractLsb' 0 40 = (s.ctl a 0).extractLsb' 0 40 ∧
        ∀ b, b ≠ a → u.ctl b 0 = s.ctl b 0

/-- R300, R301 and R355: a flash command starts on a block of STATE 0 or 1 while none runs, a PROGRAM only on a block that has not been programmed since its erase and from a source within its limits; else it is refused with its RES. An erase ends with every byte 0xFF and
ERASES one higher; a beat of a PROGRAM puts 256 bytes of the source at their place in the block and changes no other, and it ends when all are there; a failed command ends with STATE 3. STATE 2 is written through WEAR. What the rules leave open here is the model's choice (logs 20 and 54). -/
def Piece.FlashCommands : Prop :=
  ∀ (s : State) (run : FlashRun),
    let f := s.spot.place
    let base := 0x7F8000000000 + f * 0x100000000
    let b := (s.ctl (base + 0x08) 0).toNat % 2 ^ 19
    let src := (s.ctl (base + 0x10) 0).toNat % 2 ^ 48
    let res (t : State) (n : Nat) : Prop := t.ctl (base + 0x18) 0 = BitVec.ofNat 64 (n * 2)
    let block := 0x200000000000 + f * 0x10000000000 + run.block * 2 ^ 21
    let running (t : State) : Option FlashRun := (t.region (flashRegion f)).flash
    let op := s.spot.v0.toNat % 4
    let wear := base + 0x40000000 + run.block * 8
    f < 4 →
    ((running s ≠ none ∨ 2 ≤ s.wearState f b) →
      (op = 1 → ∃ t : State, exec .flashErase s = .next t ∧ res t 1 ∧ OnlyRegisters s t ∧ t.regions = s.regions) ∧
      (op = 2 → ∃ t : State, exec .flashProgram s = .next t ∧ res t 1 ∧ OnlyRegisters s t ∧ t.regions = s.regions)) ∧
    (running s = none → s.wearState f b < 2 →
      let begun (program : Bool) : FlashRun := { block := b, program := program, src := src, copied := 0, failed := false }
      (op = 1 → ∃ t : State, exec .flashErase s = .next t ∧ res t 0 ∧ OnlyRegisters s t ∧ running t = some (begun false)) ∧
      (op = 2 → b ∉ (s.region (flashRegion f)).programmed →
        (programSourceOk src = true → ∃ t : State, exec .flashProgram s = .next t ∧ res t 0 ∧ OnlyRegisters s t ∧ running t = some (begun true)) ∧
        (programSourceOk src = false → ∃ t : State, exec .flashProgram s = .next t ∧ res t 1 ∧ OnlyRegisters s t ∧ t.regions = s.regions)) ∧
      (op = 2 → b ∈ (s.region (flashRegion f)).programmed → ∃ t : State, exec .flashProgram s = .next t ∧ res t 3 ∧ OnlyRegisters s t ∧
        t.regions = s.regions)) ∧
    (running s = some run → Memory.wf s.mem = true → run.block < 2 ^ 19 → run.src + 2 ^ 21 < 2 ^ 45 →
      let stays (t : State) : Prop := running t = none ∧ t.cores = s.cores ∧ t.net = s.net
      (s.spot.item ≠ 0 → run.failed = false → run.program = false →
        ∃ t : State, exec .flashCommandEnd s = .next t ∧ stays t ∧ res t 0 ∧
          (∀ a, Memory.byte t.mem a = if block ≤ a ∧ a < block + 2 ^ 21 then 0xFF else Memory.byte s.mem a) ∧
          (t.ctl wear 0).toNat % 2 ^ 32 = min (2 ^ 32 - 1) ((s.ctl wear 0).toNat % 2 ^ 32 + 1)) ∧
      (s.spot.item ≠ 0 → run.failed = false → run.program = true →
        (2 ^ 21 ≤ run.copied → ∃ t : State, exec .flashCommandEnd s = .next t ∧ stays t ∧ res t 0 ∧ t.mem = s.mem ∧
          run.block ∈ (t.region (flashRegion f)).programmed) ∧
        (run.copied < 2 ^ 21 → exec .flashCommandEnd s = .next s)) ∧
      ((s.spot.item = 0 ∨ run.failed = true) →
        ∃ t : State, exec .flashCommandEnd s = .next t ∧ stays t ∧ res t 2 ∧ t.wearState f run.block = 3) ∧
      (run.program = true → run.failed = false → run.copied < 2 ^ 21 →
        let pa := run.src + run.copied
        ∀ (h : Home) (x : Area), place pa = some (h, x) → s.homeDark h = false → s.eccBad pa 256 = false → s.homeRuns h = true →
          s.rimBusy pa = false → s.readsWell h = true → ∀ rest,
            ∃ t : State, step { s with plan := .flashBeat f :: rest } = .next t ∧ running t = some { run with copied := run.copied + 256 } ∧
              t.cores = s.cores ∧ t.net = s.net ∧
              (∀ i < 256, Memory.byte t.mem (block + run.copied + i) = Memory.byte s.mem (pa + i)) ∧
              ∀ a, (a < block + run.copied ∨ block + run.copied + 256 ≤ a) → Memory.byte t.mem a = Memory.byte s.mem a)) ∧
    (s.spot.item < 2 ^ 19 → s.spot.v0.toNat / 2 ^ 62 = 2 → ∃ t : State, exec .wearRetire s = .next t ∧ OnlyRegisters s t ∧
      t.wearState f s.spot.item = 2 ∧
      (t.ctl (base + 0x40000000 + s.spot.item * 8) 0).extractLsb' 0 62 = (s.ctl (base + 0x40000000 + s.spot.item * 8) 0).extractLsb' 0 62)

/-- R345: GO with a range of the stack starts a rim wipe with DONE 0; when it ends, an HBM range reads zero, DONE is 1, and COUNT has risen. R370: MXCTL's GO begins the extension of MEAS(N), which its end writes with the digest of its old bytes, the data and the slot, and no other. What the rules leave open here is the model's choice (logs 21, 36 and 44). -/
def Piece.RimWipesAndMeasures : Prop :=
  ∀ s : State,
    let r := s.spot.place
    let a := controlBase r + 0x300
    let lo := (s.ctl a 0).toNat
    let n := (s.ctl (a + 8) 0).toNat * 2 ^ 21
    let x := controlBase r + 0xA240
    ((regionStack r).isSome = true → s.spot.v0.getLsbD 0 = true → (s.region r).rimwipe = none → lo % 2 ^ 21 = 0 → rimHolds r lo n = true →
      ∃ t : State, exec .rimwipeGo s = .next t ∧ OnlyRegisters s t ∧ (t.region r).rimwipe = some (lo, n) ∧ (t.ctl (a + 16) 0).getLsbD 1 = false ∧
        (t.ctl (a + 16) 0).extractLsb' 32 32 = (s.ctl (a + 16) 0).extractLsb' 32 32) ∧
    (∀ base len, (s.region r).rimwipe = some (base, len) → (∀ f, regionFlash r = some f → base < flashMemory f) →
      ∃ t : State, exec .rimwipeDone s = .next t ∧ (t.region r).rimwipe = none ∧
        (∀ y, Memory.byte t.mem y = if base ≤ y ∧ y < base + len then Memory.unlisted y else Memory.byte s.mem y) ∧
        (t.ctl (a + 16) 0).toNat = ((s.ctl (a + 16) 0).toNat / 2 ^ 32 + 1) % 2 ^ 32 * 2 ^ 32 + 2) ∧
    ((s.region r).extending = none → s.spot.v0.getLsbD 16 = true →
      ∃ t : State, exec .mxctlGo s = .next t ∧ OnlyRegisters s t ∧
        (t.region r).extending = some (s.spot.v0.toNat % 8, s.ctlBytes (controlBase r + 0xA200) 8, s.spot.v0.toNat / 2 ^ 8 % 256) ∧
        (t.ctl x 0).extractLsb' 0 3 = s.spot.v0.extractLsb' 0 3) ∧
    (∀ k d slot, (s.region r).extending = some (k, d, slot) → k < 8 →
      ∃ t : State, exec .measExtendDone s = .next t ∧ OnlyRegisters s t ∧ (t.region r).extending = none ∧
        t.meas r k = ((List.range 64).map fun i => (Config.shake256 64 (s.meas r k ++ d ++ [BitVec.ofNat 8 slot])).getD i 0) ∧
        ∀ q, q ≠ k → q < 8 → t.meas r q = s.meas r q)

/-- The slot at a ring's consumer index ends with a result and the bytes that were written (R357, R358): word 3 and the consumer index are stored, and nothing else in memory changes. -/
def SlotEnds (s t : State) (q : Request) (bytes res : Nat) : Prop :=
  let a := rimSlot q
  Memory.value t.mem (a + 24) 8 = bytes * 2 ^ 32 + 2 ^ 31 + res ∧ Memory.value t.mem (q.header + 24) 8 = (q.consumer + 1).toNat ∧
    ∀ x, (x < a + 24 ∨ a + 32 ≤ x) → (x < q.header + 24 ∨ q.header + 32 ≤ x) → Memory.byte t.mem x = Memory.byte s.mem x

/-- A registered ring stands where R356 has it: its header, and the slot at its consumer index, in the SRAM of its region. -/
def RingStands (r : Nat) (q : Request) : Prop :=
  (∀ x, q.header ≤ x → x < q.header + 32 → ∃ k, place x = some (.sram r k, .memory)) ∧
    (∀ x, rimSlot q ≤ x → x < rimSlot q + 32 → ∃ k, place x = some (.sram r k, .memory)) ∧
    (rimSlot q + 32 ≤ q.header ∨ q.header + 32 ≤ rimSlot q)

/-- R357 and R358: a kick of a registered ring takes the producer index that is written there; one that moves it backward or past the ring's size leaves the ring as it was. The engine serves a ring's slot in steps. A slot whose length or addresses are out of their limits, or whose
notice is neither 0 nor valid with its reserved bits 0, ends ILLEGAL, as does one with a source outside the stack; a range that is not translated ends it PAGE, a source that a rim wipe covers HOME_FENCED, a source lock that conflicts RANGE_LOCKED, and one that finds no free entry of the table waits. Else the slot begins: the source's lock and the operation stand, and no byte is pushed. A beat of it goes out in TC3 under the ring's PASID, with the source's bytes, toward the destination. When all beats have ended, word 3 says so with the bytes written, the consumer index rises, the lock goes, and the notice COUNT goes out for a push that is done. What the rules leave open here is the model's choice (logs 28 and 41). -/
def Piece.RimPushes : Prop :=
  ∀ (s : State) (q : Request) (x : RimRing),
    let r := s.spot.place
    let i := s.spot.item
    let p := s.spot.v0
    let core := rimCore r
    let untraced := (s.ctl (controlBase r + 0x100) 0).getLsbD 0 = false
    s.requestRing r i = some q → Memory.wf s.mem = true → RingStands r q →
    (let d := (p - q.consumer).toNat
     let old : Word := match Tab.look (s.region r).rings i with | some y => (y.producer.map (BitVec.ofNat 64)).getD q.consumer | none => q.consumer
     ∃ t : State, exec .rimPushKick s = .next t ∧ Memory.value t.mem (q.header + 16) 8 = p.toNat ∧ (untraced → t.net = s.net) ∧ t.cores = s.cores ∧
       (∀ a, (a < q.header + 16 ∨ q.header + 24 ≤ a) → Memory.byte t.mem a = Memory.byte s.mem a) ∧
       (d ≤ 2 ^ q.k → (old - q.consumer).toNat ≤ d →
         ∃ y : RimRing, Tab.look (t.region r).rings i = some y ∧ y.producer = some p.toNat) ∧
       ((2 ^ q.k < d ∨ d < (old - q.consumer).toNat) → t.regions = s.regions)) ∧
    (s.regionRuns r = true → Tab.look (s.region r).rings i = some x → (∀ j, j ≠ i → s.serveRing r j = none) → i < 16 → (s.region r).ringLast < 16 →
      s.structReady q.header = true → s.structReady (rimSlot q) = true →
      (∀ top, x.op = none → x.producer = some top → q.consumer ≠ BitVec.ofNat 64 top →
        let a := rimSlot q
        let src := s.word a
        let dst := s.word (a + 8)
        let n := (s.word (a + 16)).toNat % 2 ^ 32
        let note := (s.word (a + 16)).toNat / 2 ^ 32
        let malformed := n % 8 ≠ 0 ∨ n < 8 ∨ 16777216 < n ∨ src.toNat % 8 ≠ 0 ∨ dst.toNat % 8 ≠ 0 ∨
          (note ≠ 0 ∧ (note / 2 ^ 31 = 0 ∨ note / 2 ^ 25 % 2 ^ 6 ≠ 0 ∨ note / 2 ^ 22 % 4 ≠ 0 ∨ isServiceRank (note % 2 ^ 16) = true ∨
            s.rankPort core (note % 2 ^ 16) = none))
        let ends (res : Nat) : Prop := ∃ t : State, exec .rimPushSlot s = .next t ∧ (untraced → t.net = s.net) ∧ t.cores = s.cores ∧ SlotEnds s t q 0 res
        (malformed → ends 5) ∧
        (¬malformed → (s.rimRange q.pasid .load src n = none ∨ s.rimRange q.pasid .push dst n = none) → ends 1) ∧
        (¬malformed → ∀ ps qs h, s.rimRange q.pasid .load src n = some ps → s.rimRange q.pasid .push dst n = some qs →
          (∀ z ∈ qs.places, destinationUnit z = some h) → State.apart ps src n qs dst n = true →
          let span := ps.span src n
          let no := (s.core core).opNo
          let lock : Lock := { first := span.1, last := span.2, full := false, eng := 6, owner := core, op := no, since := 0 }
          let table := (regionStack r).map LockTable.stack
          ((∃ z ∈ ps.places, rimSource r z = false) → ends 5) ∧
          ((∀ z ∈ ps.places, rimSource r z = true) →
            (∃ z ∈ ps, ∃ g y, place (z.2 * 2 ^ 16) = some (g, y) ∧ s.rimWiping g (max (z.2 * 2 ^ 16) (ps.phys src)) = true) → ends 2) ∧
          ((∀ z ∈ ps.places, rimSource r z = true) → (s.region r).rimwipe = none →
            (s.addLock table lock = .conflict → ends 3) ∧
            (s.addLock table lock = .full → exec .rimPushSlot s = .next s) ∧
            ∀ u, s.addLock table lock = .added u →
              ∃ (t : State) (o : HodOp), exec .rimPushSlot s = .next t ∧ t.mem = s.mem ∧ t.net = s.net ∧ (∀ k, t.lockEntries k = u.lockEntries k) ∧
                (∀ k, k ≠ core → t.core k = s.core k) ∧ (t.core core).hods = (s.core core).hods ++ [o] ∧
                Tab.look (t.region r).rings i = some { producer := some top, op := some (no, q) } ∧
                o.no = no ∧ o.kind = .rim ∧ o.pages = ps ∧ o.todo = [(src, n, 0)] ∧ o.dests = [.fresh dst qs []] ∧ o.rank = q.pasid ∧ o.bytes = 0 ∧
                o.code = none))) ∧
      ∀ (no : Nat) (q' : Request) (o : HodOp), x.op = some (no, q') → s.hodOp core no = some o → o.kind = .rim →
        (∀ va k off rest d h y, o.todo = (va, k, off) :: rest → o.dests = [d] → s.structReady (o.pages.phys va) = true →
          (∀ z, place (o.pages.phys va) = some z → s.readsWell z.1 = true) →
          let n := o.beatSize
          let pa := d.pages.phys (d.va + BitVec.ofNat 64 off)
          s.badWord o.pages va n = none → place pa = some (h, y) →
            ∃ (t : State) (k' : Packet) (b : Beat) (o' : HodOp), exec .rimPushSlot s = .next t ∧ t.mem = s.mem ∧ t.net = s.net ++ [k'] ∧ k'.tc = 3 ∧
              k'.dst = .home h ∧ k'.load = .beat b ∧ b.core = core ∧ b.op = o.no ∧ b.pa = pa ∧ b.bytes = o.pages.bytes s.mem va n ∧
              ((∃ g, h = .system g) → k'.pasid = some o.rank) ∧ t.hodOp core no = some o' ∧
              o'.todo = (if n < k then (va + BitVec.ofNat 64 n, k - n, off + n) :: rest else rest) ∧ o'.dests = [{ d with sent := d.sent + 1 }]) ∧
        (o.todo = [] → (∀ d ∈ o.dests, d.done = true) → o.bytes < 2 ^ 32 → RingStands r q' →
          let note := (s.word (rimSlot q' + 16)).toNat / 2 ^ 32
          ∃ t : State, exec .rimPushSlot s = .next t ∧
            SlotEnds s t q' o.bytes (match o.code with
              | none => 0 | some (.page, _) => 1 | some (.homeFenced, _) => 2 | some (.rangeLocked, _) => 3 | some (.uncorrected, _) => 4 | some _ => 5) ∧
            (t.core core).hods = (s.core core).hods.filter (fun y => y.no != no) ∧ (∀ k, k ≠ core → t.core k = s.core k) ∧
            Tab.look (t.region r).rings i = some { producer := x.producer, op := none } ∧
            (untraced → (note = 0 ∨ o.code ≠ none) → t.net = s.net) ∧
            (untraced → note / 2 ^ 31 = 1 → note / 2 ^ 25 % 2 ^ 6 = 0 → note / 2 ^ 22 % 4 = 0 → isServiceRank (note % 2 ^ 16) = false → o.code = none →
              ∀ port, s.rankPort core (note % 2 ^ 16) = some port → ∃ (k : Packet) (m : Msg), t.net = s.net ++ [k] ∧ k.dst = port ∧ k.load = .msg m false ∧ m.kind = 2 ∧
                m.dest = note % 2 ^ 16 ∧ k.tc = (if note / 2 ^ 24 % 2 = 1 then 0 else 1) ∧ m.sel = BitVec.ofNat 64 (note / 2 ^ 16 % 64 * 2 ^ 32 + 1))))

/-- R359: a Bondlink port that retrains holds its traffic, and Flatar counts it; at the end it releases it. -/
def Piece.BondlinkRetrains : Prop :=
  ∀ s : State,
    let p := s.spot.place
    (p < 4 → p ∉ s.host.retraining →
      ∃ t : State, exec .bondlinkRetrain s = .next t ∧ p ∈ t.host.retraining ∧
        Tab.read t.host.retrains 0 p = Tab.read s.host.retrains 0 p + 1 ∧ t.mem = s.mem ∧ t.net = s.net ∧ t.cores = s.cores) ∧
    ∃ t : State, exec .bondlinkRetrainEnd s = .next t ∧ p ∉ t.host.retraining ∧ t.host.retrains = s.host.retrains ∧ t.mem = s.mem ∧
      t.net = s.net ∧ ∀ q, q ≠ p → (q ∈ t.host.retraining ↔ q ∈ s.host.retraining)

/-! ### The companion -/

/-- R361 to R363, R367 and R369 to R371: the command that runs in the open mailbox takes its arguments from there; QCREATE makes the lowest free queue, QDESTROY ends one, a bad argument is answered with STATUS 1; a kick takes a producer index that neither moves backward nor passes the ring, and counts an error
else; LIFEREAD writes the record that is asked for; MEASURE writes a report of every region; KEYENROLL blows the fuses only for an enrolment that is accepted; no other command than the one that runs is answered; a lifetime record is appended and the counts that it took restart. What the rules leave open
here is the model's choice (logs 42, 43, 44 and 45). -/
def Obligations.DriverCommands : Prop :=
  ∀ s : State,
    let h := s.host
    let arg := s.argument
    let k := (arg 1).toNat
    let answer (t : State) (st : Nat) : Prop := t.host.answer.done = true ∧ t.host.answer.status = st ∧ t.host.asked = none
    let bad := k < 4 ∨ 16 < k ∨ 2 ^ 20 ≤ (arg 2).toNat
    let still (t : State) : Prop := t.mem = s.mem ∧ t.net = s.net ∧ t.cores = s.cores ∧ t.regions = s.regions
    (s.asks 1 = true → bad → ∃ t : State, exec .qcreate s = .next t ∧ answer t 1 ∧ t.host.queues = h.queues ∧ still t) ∧
    (∀ n, s.asks 1 = true → ¬bad → freeIndex h.queues 16384 = some n →
      ∃ (t : State) (q : Queue), exec .qcreate s = .next t ∧ answer t 0 ∧ t.host.answer.result = BitVec.ofNat 64 n ∧ still t ∧
        Tab.look t.host.queues n = some q ∧ q.ring = arg 0 ∧ q.k = k ∧ q.pasid = (arg 2).toNat ∧ q.completion = arg 3 ∧
        q.producer = 0 ∧ q.consumer = 0 ∧ ∀ m, m ≠ n → Tab.look t.host.queues m = Tab.look h.queues m) ∧
    (s.asks 2 = true → ∃ t : State, exec .qdestroy s = .next t ∧ still t ∧ Tab.look t.host.queues (arg 0).toNat = none ∧
      answer t (if (Tab.look h.queues (arg 0).toNat).isSome then 0 else 1)) ∧
    (∀ q, Tab.look h.queues s.spot.place = some q →
      let p := s.spot.v0.toNat
      ∃ (t : State) (q' : Queue), exec .eqiKick s = .next t ∧ still t ∧ Tab.look t.host.queues s.spot.place = some q' ∧ q'.consumer = q.consumer ∧
        (q.producer ≤ p → p ≤ q.consumer + 2 ^ q.k → q'.producer = p ∧ q'.errors = q.errors) ∧
        (p < q.producer ∨ q.consumer + 2 ^ q.k < p → q'.producer = q.producer ∧ q'.errors = q.errors + 1)) ∧
    (s.asks 3 = true → h.records.length < 2 ^ 64 →
      ∃ t : State, exec .liferead s = .next t ∧ still t ∧ t.host.answer.result.toNat = h.records.length ∧
        (∀ x, h.records[(arg 0).toNat]? = some x → answer t 0 ∧ t.host.written = h.written ++ [(arg 1, .record x)]) ∧
        (h.records[(arg 0).toNat]? = none → answer t 1 ∧ t.host.written = h.written)) ∧
    (s.asks 4 = true → ∃ (t : State) (x : Report), exec .measure s = .next t ∧ still t ∧ answer t 0 ∧ t.host.written = h.written ++ [(arg 2, .report x)] ∧
      x.nonce = [arg 0, arg 1] ∧ x.owned = s.fuses.owned ∧ x.slots = s.fuses.slots.toList.map KeySlot.state ∧
      x.wipes = (List.range 63).map (fun r => (s.region r).wipes) ∧ t.host.answer.result.toNat ≤ 16384) ∧
    (let slot := (arg 0).toNat
     let e := enrolmentOf (Memory.bytes s.mem (0x400000000000 + fld (arg 1) 0 45) (35 + keyBytes + signatureBytes))
     s.asks 5 = true → ∃ t : State, exec .keyenroll s = .next t ∧ still t ∧
       (6 ≤ slot → answer t 1 ∧ t.fuses = s.fuses) ∧
       (slot < 6 → s.fuses.accepts slot e = false → answer t 2 ∧ t.fuses = s.fuses) ∧
       (∀ hs : slot < 6, s.fuses.accepts slot e = true → answer t 0 ∧ (t.fuses.slots[slot]).state = e.state ∧
         (s.fuses.slots[slot]).state < e.state ∧
         (∀ m (hm : m < 6), m ≠ slot → t.fuses.slots[m] = s.fuses.slots[m]) ∧ t.fuses.secret = s.fuses.secret)) ∧
    (∀ i n, (i, n) ∈ [(Instr.qcreate, 1), (.qdestroy, 2), (.liferead, 3), (.measure, 4), (.keyenroll, 5)] → s.asks n = false → exec i s = .next s) ∧
    (let r := s.spot.place
     (s.region r).life ≠ .dark → r < 63 → (s.recordDue r = false → exec .lifetimeRecordAppend s = .next s) ∧ (s.recordDue r = true →
       ∃ (t : State) (x : LifeRecord), exec .lifetimeRecordAppend s = .next t ∧ t.mem = s.mem ∧ t.cores = s.cores ∧ t.host.records = h.records ++ [x] ∧
         x.region = r ∧ x.index = h.records.length ∧ x.time = s.time r ∧
         (∀ b < 2624, t.ctl (controlBase r + 0x4000 + 8 * b) 0 = 0) ∧ (∀ b < 4, t.ctl (controlBase r + 0x610 + 8 * b) 0 = 0) ∧
         (∀ b < 8, t.ctl (controlBase r + 0x740 + 8 * b) 0 = 0) ∧ ∀ c < 36, (t.cluster (64 * r + c)).fwd.los = false))

/-- R9 and R10: a write of a register of a window changes its writable fields alone. Some registers that keep what is written: the training tap, the flash block, the rim wipe's base, MXDATA, a request ring's registration. A reserved offset
takes nothing. What the rules leave open here is the model's choice (logs 38, 41 and 66). -/
def Piece.RegistersWritten : Prop :=
  ∀ s : State,
    let a := s.spot.place
    let v := s.spot.v0
    let kept (t : State) : Prop := OnlyRegisters s t ∧ t.regions = s.regions ∧ ∀ b, b ≠ a → t.ctl b 0 = s.ctl b 0
    (a % 8 ≠ 0 → exec .registerWrite s = .next s) ∧
    (∀ t c l, t < 28 → c < 32 → l < 68 → a = 0x7F0000000000 + t * 0x100000000 + c * 0x10000 + 8 * l → s.testing t c = false →
      ∃ u : State, exec .registerWrite s = .next u ∧ kept u ∧ u.ctl a 0 = v &&& 0x3F) ∧
    (∀ f, f < 4 → a = 0x7F8000000000 + f * 0x100000000 + 8 →
      ∃ u : State, exec .registerWrite s = .next u ∧ kept u ∧ u.ctl a 0 = v &&& 0x7FFFF) ∧
    (∀ r, r < 63 → (regionStack r).isSome = true → a = controlBase r + 0x300 →
      ∃ u : State, exec .registerWrite s = .next u ∧ kept u ∧ u.ctl a 0 = v) ∧
    (∀ r, r < 63 → (regionStack r).isSome = true → ∀ i < 16, a = controlBase r + 0x3000 + 16 * i →
      ∃ u : State, exec .registerWrite s = .next u ∧ OnlyRegisters s u ∧ (∀ b, b ≠ a → u.ctl b 0 = s.ctl b 0) ∧ u.ctl a 0 = v &&& 0x8000FFFFFFFFFFFF ∧
        ∀ q, Tab.look (s.region r).rings i = some q → Tab.look (u.region r).rings i = some { q with producer := none }) ∧
    (∀ r, r < 63 → ∀ j < 8, a = controlBase r + 0xA200 + 8 * j → (s.region r).extending = none →
      ∃ u : State, exec .registerWrite s = .next u ∧ kept u ∧ u.ctl a 0 = v) ∧
    (∀ r, r < 63 → a = controlBase r + 0xB000 → exec .registerWrite s = .next s) ∧
    (place a = none → exec .registerWrite s = .next s)

/-! ### Vector instructions -/

/-- The vector instructions (R206 to R210): major, minor8, the descriptor's register, rd, rs1, rs2 (0 in a form of one source), and the
engine that the form needs. -/
def vectorForm : Instr → Option (Nat × Nat × XIdx × Reg × Reg × Reg × Option Engine)
  | .vadd x d a b => some (0x20, 0, x, d, a, b, none)
  | .vsub x d a b => some (0x20, 1, x, d, a, b, none)
  | .vmul x d a b => some (0x20, 2, x, d, a, b, none)
  | .vfma x d a b => some (0x20, 3, x, d, a, b, none)
  | .vmin x d a b => some (0x20, 4, x, d, a, b, none)
  | .vmax x d a b => some (0x20, 5, x, d, a, b, none)
  | .vabs x d a => some (0x20, 6, x, d, a, 0, none)
  | .vneg x d a => some (0x20, 7, x, d, a, 0, none)
  | .vexp2 x d a => some (0x20, 8, x, d, a, 0, none)
  | .vrcp x d a => some (0x20, 9, x, d, a, 0, none)
  | .viadd x d a b => some (0x21, 0, x, d, a, b, none)
  | .visub x d a b => some (0x21, 1, x, d, a, b, none)
  | .vimul x d a b => some (0x21, 2, x, d, a, b, none)
  | .vand x d a b => some (0x21, 3, x, d, a, b, none)
  | .vor x d a b => some (0x21, 4, x, d, a, b, none)
  | .vxor x d a b => some (0x21, 5, x, d, a, b, none)
  | .vshl x d a b => some (0x21, 6, x, d, a, b, none)
  | .vshr x d a b => some (0x21, 7, x, d, a, b, none)
  | .vceq x d a b => some (0x21, 0x10, x, d, a, b, none)
  | .vclt x d a b => some (0x21, 0x11, x, d, a, b, none)
  | .vcle x d a b => some (0x21, 0x12, x, d, a, b, none)
  | .vsel x d a b => some (0x21, 0x13, x, d, a, b, none)
  | .vrsum x d a => some (0x21, 0x20, x, d, a, 0, none)
  | .vrmax x d a => some (0x21, 0x21, x, d, a, 0, none)
  | .vrmin x d a => some (0x21, 0x22, x, d, a, 0, none)
  | .vnzs x d a => some (0x21, 0x30, x, d, a, 0, some .sparse)
  | .vcvtBf x d a => some (0x22, 0, x, d, a, 0, none)
  | .vcvtH x d a => some (0x22, 1, x, d, a, 0, none)
  | .vcvtE4 x d a => some (0x22, 2, x, d, a, 0, none)
  | .vcvtE5 x d a => some (0x22, 3, x, d, a, 0, none)
  | .vcvtSr4 x d a => some (0x22, 4, x, d, a, 0, none)
  | .vcvtSr5 x d a => some (0x22, 5, x, d, a, 0, none)
  | .vcvtF x d a => some (0x22, 6, x, d, a, 0, none)
  | .vexpI4 x d a => some (0x22, 8, x, d, a, 0, none)
  | .vexpP23 x d a => some (0x22, 9, x, d, a, 0, none)
  | .vexpP32 x d a => some (0x22, 0xA, x, d, a, 0, none)
  | _ => none

/-- What a vector instruction has of its fibre and core at issue, before its sources are known (R201 to R203): the descriptor, D's
address, the rounding mode and the saturation of E4M3 in force, the seed and the PC. -/
def vectorHead (s : State) (major minor : Nat) (xn : XIdx) (rd a b : Reg) : VecOp :=
  let rm := (s.xreg xn).toNat / 2 ^ 20 % 8
  { slot := s.cur.slot, gen := s.me.gen, major := major, minor := minor, desc := s.xreg xn, a := .absent, b := .absent, pages := []
    va := s.reg rd, bytes := 0, rd := rd, rs1 := a, rs2 := b, mode := if rm = 0 then s.myCore.fpmode.toNat % 4 else rm - 1
    e4sat := s.myCore.fpmode.getLsbD 2, seed := s.myCore.seed, pc := s.me.pcWord }

/-- The fibre that an engine instruction of one pass has left: past it, with something changed, ready again after its pass. -/
def issuedFibre (s : State) (f : Slot → Slot) : Slot := slotBusy (s.coreAc s.cur.core + 8) (f (slotBegun 4 s.me))

/-- The rest of the wafer after an engine instruction has issued: nothing has moved but in the issuing core; there the other fibres stay. -/
def IssuedHere (s t : State) : Prop :=
  OutsideKept s t ∧ t.net = s.net ∧ t.trseq = s.trseq ∧ ∀ n, n ≠ s.cur.slot → t.slot s.cur.core n = s.slot s.cur.core n

/-- R203 (R201, R206 to R210): a vector instruction whose descriptor, sources, destination and locks pass, and whose streams and
dispatch queue have room, is appended to its core's queue with its operands as issue leaves them; its stream entries leave their
queues, a stochastic conversion advances cr.seed, and the fibre waits until the instruction has been performed. A descriptor that does not pass traps
ILLEGAL. -/
def Piece.VectorIssues : Prop :=
  ∀ (s : State) (i : Instr) (major minor : Nat) (xn : XIdx) (rd a b : Reg) (e : Option Engine),
    vectorForm i = some (major, minor, xn, rd, a, b, e) → (∀ x, e = some x → engineHere s.cur.core x = true) →
    let f := vecForm major minor
    let o := vectorHead s major minor xn rd a b
    let asrc := o.field 24 2
    let bsrc := o.field 26 2
    let u := s.onMe (slotBegun 4)
    s.Clear (vecReads s xn f.two rd a b) [] [xn] →
    (vecDescOk f o = false → exec i s = .next (s.trapped (trapOf .illegal .engine 0))) ∧
    ∀ (va vb : VecSource) (ps : Pages) (h : Home) (t1 t2 t3 : State),
      vecDescOk f o = true → u.vecSource o asrc a = .ok (va, t1) →
      (if f.two then t1.vecSource o bsrc b else .ok (.absent, t1)) = .ok (vb, t2) →
      t2.checkLocal .store .engine (s.reg rd) o.dstBytes o.dstElem = .ok (ps, h, t3) →
      va.clashes (s.reg rd) o.dstBytes = false → vb.clashes (s.reg rd) o.dstBytes = false →
      (o.inc = true → (rd :: (if asrc = 0 then [a] else []) ++ if f.two = true ∧ bsrc = 0 then [b] else []).Nodup) →
      t3.checkLocks ps .store (s.reg rd) o.dstBytes = .ok () → t3.checkSourceLocks va = .ok () → t3.checkSourceLocks vb = .ok () →
      (∀ n ∈ streamNeeds o f.two, n.2 ≤ (s.myCore.q.toList.getD n.1 []).length ∧ readersBefore u.myCore n.1 (waitOrder s) = false) →
      s.myCore.vq.length < 8 →
      let entriesA (q : Nat) : Nat := if asrc = 1 ∧ q = a.val then o.entries else 0
      let entriesB (q : Nat) : Nat := if f.two = true ∧ bsrc = 1 ∧ q = b.val then o.entries else 0
      let queue (q : Nat) : List Word := s.myCore.q.toList.getD q []
      let op : VecOp :=
        { o with
          a := if asrc = 1 then .values (o.streamElems ((queue a.val).take o.entries)) else va
          b := if f.two = true ∧ bsrc = 1 then .values (o.streamElems (((queue b.val).drop (entriesA b.val)).take o.entries)) else vb
          pages := ps, bytes := o.dstBytes }
      ∃ t : State, exec i s = .next t ∧ IssuedHere s t ∧
        (t.core s.cur.core).vq = s.myCore.vq ++ [op] ∧
        (∀ q < 8, (t.core s.cur.core).q.toList.getD q [] = (queue q).drop (entriesA q + entriesB q)) ∧
        (t.core s.cur.core).seed = (if o.stochastic = true then nextSeed s.myCore.seed else s.myCore.seed) ∧
        t.slot s.cur.core s.cur.slot = issuedFibre s (fun f => { f with hold := some .performing }) ∧
        (t.core s.cur.core).fpmode = s.myCore.fpmode ∧
        coreRest { t.core s.cur.core with vq := [], q := s.myCore.q, utlb := [], seed := 0 } =
          coreRest { s.myCore with vq := [], utlb := [], seed := 0 }

/-- The unit of a quad (R204). -/
def quadUnit (s : State) (cid quad : Nat) : VecUnit := if quad = 0 then (s.cluster cid).vec0 else (s.cluster cid).vec1

/-- What has been performed ends (R204): memory stays, its pointers have advanced, its fibre goes on, with an owed refusal where a read met
an uncorrected word. -/
def RunEnded (s t : State) (r : VecRun) : Prop :=
  t.mem = s.mem ∧
  ((s.slot r.core r.op.slot).live = true → (s.slot r.core r.op.slot).gen = r.op.gen →
    let f := s.slot r.core r.op.slot
    let g := t.slot r.core r.op.slot
    (f.hold = some .performing → g.hold = none) ∧ g.readyAt = max f.readyAt r.next ∧ g.pc = f.pc ∧ g.mark = f.mark ∧
      (∀ q : Reg, g.g[q] = f.g[q] + BitVec.ofNat 64 ((r.moves.filter fun m => m.1 == q).map Prod.snd).sum) ∧
      (r.failed = none → g.owed = f.owed) ∧
      (∀ va, r.failed = some va → f.owed = none →
        g.owed = some { code := .uncorrected, pc := r.op.pc, place := va, kind := .engine, count := 1 })) ∧
  t.net = s.net ∧ t.regions = s.regions ∧ t.regs = s.regs ∧ ∀ p n, ¬(p = r.core ∧ n = r.op.slot) → t.slot p n = s.slot p n

/-- R204 and R205: a free vector unit of a running cluster takes the head of a dispatch queue of its quad, with the rows of A, B and D to read from the next ac on, and is engaged until the last row is
written. It accesses one row in an ac: a read takes the row's bytes, or ends the instruction at an uncorrected word with nothing written; the last read gives the rows of the result, the elements packed, after the
ac of computing, and the advances of the pointers; a write puts a row's bytes in memory. When no row is left and its ac has come, the fibre goes on and the unit is free from the ac after; before that, nothing ends. What the rules leave
open here is the model's choice (logs 17 and 29). -/
def Piece.VectorUnits : Prop :=
  ∀ (s : State) (o : VecOp) (k : Nat) (r : VecRun),
    let cid := s.spot.place
    let quad := s.spot.item
    let pid := 8 * cid + k
    let ac := s.clusterAc cid
    quad < 2 → s.clusterRuns cid = true →
    ((quadUnit s cid quad).run = none → ac < (quadUnit s cid quad).freeAt → exec .vectorDispatch s = .next s) ∧
    ((quadUnit s cid quad).run = none → (quadUnit s cid quad).freeAt ≤ ac → 4 * quad ≤ k → k < 4 * quad + 4 → (s.core pid).vq.head? = some o → s.savedNow pid = false →
      s.toExponent cid o = false → (∀ j, 4 * quad ≤ j → j < 4 * quad + 4 → j ≠ k → (s.core (8 * cid + j)).vq = []) →
      ∃ (t : State) (x : VecRun), exec .vectorDispatch s = .next t ∧ quadUnit t cid quad = { run := some x, last := k } ∧
        x = o.taken pid (lanes cid) ac false ∧ x.core = pid ∧ x.op = o ∧ x.next = ac + 1 ∧ x.writes = [] ∧ x.failed = none ∧
        t.core pid = { s.core pid with vq := (s.core pid).vq.tail } ∧ t.mem = s.mem ∧ t.net = s.net ∧ ∀ q, q ≠ pid → t.core q = s.core q) ∧
    ((quadUnit s cid quad).run = some r →
      (r.reads = [] → r.writes = [] → r.next ≤ ac → r.ends ≤ ac →
        ∃ t : State, exec .vectorComplete s = .next t ∧ quadUnit t cid quad = { quadUnit s cid quad with run := none, freeAt := max r.next r.ends + 1 } ∧ RunEnded s t r) ∧
      ((r.reads ≠ [] ∨ r.writes ≠ [] ∨ ac < r.next ∨ ac < r.ends) → exec .vectorComplete s = .next s) ∧
      (s.rowMay r ac = true → r.op.major ≠ 0x28 → ∀ rest,
        let turned (t : State) : Prop :=
          step { s with plan := .row cid quad :: rest } = .next t ∧ t.plan = rest ∧ t.net = s.net ∧ (t.core r.core).last = some ac
        (∀ w row more, r.reads = (w, row) :: more → w < 3 →
          let bytes := row.flatMap fun p => Memory.bytes s.mem p.1 p.2
          let read : VecRun :=
            { r with
              reads := more, a := if w = 0 then r.a ++ bytes else r.a, b := if w = 1 then r.b ++ bytes else r.b
              d := if w = 2 then r.d ++ bytes else r.d }
          (∀ va, s.badRow r w row = some va →
            ∃ t : State, turned t ∧ t.mem = s.mem ∧
              (quadUnit t cid quad).run = some { r with reads := [], failed := some va, next := ac + 1 }) ∧
          (s.badRow r w row = none → more ≠ [] →
            ∃ t : State, turned t ∧ t.mem = s.mem ∧ (quadUnit t cid quad).run = some { read with next := ac + r.pace }) ∧
          (s.badRow r w row = none → more = [] →
            let d := packedElems (8 * r.op.dstElem) (bytesValue read.d) (if r.op.reduces then 1 else r.op.n)
            let res := r.op.results (lanes cid) (State.sourceElems r.op read.a r.op.a) (State.sourceElems r.op read.b r.op.b) d
            ∃ t : State, turned t ∧ t.mem = s.mem ∧
              (quadUnit t cid quad).run =
                some { read with
                  next := ac + r.pace + r.gap, moves := r.op.advances res.length
                  writes := fillRows (r.op.destRows (lanes cid)) (res.flatMap (elemBytes r.op.dstElem)) })) ∧
        (∀ pa b more h ar, r.reads = [] → r.writes = [(pa, b)] :: more → place pa = some (h, ar) → Memory.wf s.mem = true → s.writesWell h = true →
          ∃ t : State, turned t ∧
            (quadUnit t cid quad).run = some { r with writes := more, next := if more = [] then ac + 1 else ac + r.pace } ∧
            (∀ i < b.length, Memory.byte t.mem (pa + i) = b.getD i 0) ∧
            ∀ x, (x < pa ∨ pa + b.length ≤ x) → Memory.byte t.mem x = Memory.byte s.mem x)))

/-- R207 and R206: the elements of the integer forms without SAT, of the compares, of VSEL, and of VABS and VNEG. -/
def Obligations.VectorElements : Prop :=
  ∀ (o : VecOp) (lanes i : Nat) (a b d : List Nat), i < o.n →
    let W := elemBits o.fmt
    let x := a.getD i 0
    let y := b.getD i 0
    let r := (o.results lanes a b d).getD i 0
    let X := BitVec.ofNat W x
    let Y := BitVec.ofNat W y
    x < 2 ^ W → y < 2 ^ W →
    (o.major = 0x21 → isIntFmt o.fmt = true →
      (o.sat = false →
        (o.minor = 0 → r = (X + Y).toNat) ∧ (o.minor = 1 → r = (X - Y).toNat) ∧ (o.minor = 2 → r = (X * Y).toNat)) ∧
      (o.sat = true → isSignedFmt o.fmt = true →
        let hold (z : Int) : Nat := (BitVec.ofInt W (max (-(2 ^ (W - 1))) (min (2 ^ (W - 1) - 1) z))).toNat
        (o.minor = 0 → r = hold (X.toInt + Y.toInt)) ∧ (o.minor = 1 → r = hold (X.toInt - Y.toInt)) ∧
          (o.minor = 2 → r = hold (X.toInt * Y.toInt))) ∧
      (o.minor = 3 → r = (X &&& Y).toNat) ∧ (o.minor = 4 → r = (X ||| Y).toNat) ∧ (o.minor = 5 → r = (X ^^^ Y).toNat) ∧
      (o.minor = 6 → r = (X <<< (y % W)).toNat) ∧
      (o.minor = 7 → r = (if isSignedFmt o.fmt then X.sshiftRight (y % W) else X >>> (y % W)).toNat) ∧
      (o.minor = 0x10 → r = if x = y then 2 ^ W - 1 else 0) ∧
      (o.minor = 0x11 → r = if (if isSignedFmt o.fmt then X.slt Y else X.ult Y) then 2 ^ W - 1 else 0) ∧
      (o.minor = 0x12 → r = if (if isSignedFmt o.fmt then Y.slt X else Y.ult X) then 0 else 2 ^ W - 1)) ∧
    (o.major = 0x21 → o.minor = 0x13 → r = if d.getD i 0 ≠ 0 then x else y) ∧
    (o.major = 0x20 → o.fmt ≤ 2 →
      let F := fmtOf o.fmt
      ((F.value x).isNaN = true → (o.minor = 6 ∨ o.minor = 7 → r = F.canonNaN)) ∧
      ((F.value x).isNaN = false → (o.minor = 6 → r = x % 2 ^ (W - 1)) ∧ (o.minor = 7 → r = x ^^^ 2 ^ (W - 1)))) ∧
    (o.major = 0x21 → isIntFmt o.fmt = true → o.minor = 0x20 → o.sat = false →
      o.results lanes a b d = [(a.map fun v => BitVec.ofNat W v).foldl (· + ·) 0 |>.toNat])

/-! ### The matrix unit -/

/-- R212: the pair of MMA's minor8. -/
def mmaForm : Instr → Option (Nat × XIdx × XIdx × Reg × Reg × Reg)
  | .mmaE4e4 x y d a b => some (0, x, y, d, a, b)
  | .mmaE4e5 x y d a b => some (1, x, y, d, a, b)
  | .mmaE5e4 x y d a b => some (2, x, y, d, a, b)
  | .mmaE5e5 x y d a b => some (3, x, y, d, a, b)
  | .mmaM8m8 x y d a b => some (4, x, y, d, a, b)
  | .mmaF4f4 x y d a b => some (5, x, y, d, a, b)
  | .mmaF4e4 x y d a b => some (6, x, y, d, a, b)
  | .mmaB16 x y d a b => some (8, x, y, d, a, b)
  | .mmaH16 x y d a b => some (9, x, y, d, a, b)
  | .mmaI8 x y d a b => some (10, x, y, d, a, b)
  | _ => none

/-- An engine operation has started (R76, R107): rd is pending on an engine, the core counts one operation more, memory and the mesh have
not moved. -/
def OpStarted (s t : State) (rd : Reg) : Prop :=
  t.mem = s.mem ∧ t.net = s.net ∧ t.regions = s.regions ∧ t.regs = s.regs ∧
    t.slot s.cur.core s.cur.slot = issuedFibre s (fun f => f.markPending rd .engine) ∧
    (∀ n, n ≠ s.cur.slot → t.slot s.cur.core n = s.slot s.cur.core n) ∧ (∀ p, p ≠ s.cur.core → t.core p = s.core p) ∧
    (∃ op, (t.core s.cur.core).ops = s.myCore.ops ++ [op] ∧ op.no = s.myCore.opNo ∧ op.slot = s.cur.slot ∧ op.gen = s.me.gen ∧ op.reg = rd) ∧
    (t.core s.cur.core).opNo = s.myCore.opNo + 1

/-- A matrix command has joined its core's queue (R216): it holds what issue read. -/
def CommandQueued (s t : State) (rd : Reg) (kind : MatKind) (pair : Nat) (a b : XWord) (place : Word) : Prop :=
  OpStarted s t rd ∧
    ∃ c, (t.core s.cur.core).mq = s.myCore.mq ++ [c] ∧ c.no = s.myCore.opNo ∧ c.slot = s.cur.slot ∧ c.gen = s.me.gen ∧ c.reg = rd ∧
      c.kind = kind ∧ c.pair = pair ∧ c.a = a ∧ c.b = b ∧ c.place = place ∧ c.step = 0 ∧ c.steps = 0 ∧ c.tile = 0 ∧ c.ovf = false ∧
      c.nan = false ∧ c.fmtErr = false ∧ c.since = s.coreAc s.cur.core

/-- R212 to R216, R221, R224 and R225: a matrix command whose words, header, ranges and locks pass joins its core's queue, and rd is pending
until it has ended: MMA of every pair, MRING, GMM with rows, MMZ, MST and MLDC. A GMM whose counts are all 0 is answered at issue. -/
def Piece.MatrixCommands : Prop :=
  ∀ (s : State) (rd r1 r2 : Reg) (xn xm : XIdx),
    let u := s.onMe (slotBegun 4)
    let w := s.reg r1
    let a := s.xreg xn
    let b := s.xreg xm
    let tcm := some (Home.tcm s.cur.core)
    let pad := some (Home.scratchpad (s.cur.core / 8))
    engineHere s.cur.core .matrix = true → s.myCore.mq.length < 4 →
    (∀ i minor p h ap bp sap sbp no t1 t2 t3 t4 t5 t6,
      mmaForm i = some (minor, xn, xm, rd, r1, r2) → matPair minor = some p → s.Clear [r1, r2] [rd] [xn, xm] →
      matAOk p a (32 * p.step) = true → 1 ≤ matRows a → matRows a ≤ 128 → matBOk p b (matK a) = true →
      fld w 18 46 = 0 → fld w 7 1 = 0 → fld w 0 7 + matRows a ≤ 128 → fld w 8 8 + matRows b ≤ 256 →
      u.scaleHeader r2 = .ok (h, t1) → State.headerOk h p.aScale p.bScale (minor == 10) = true →
      let abytes := rowSpan (matRows a) (matStride a) (packedBytes (elemBits p.a) (matK a))
      let bbytes := rowSpan (matRows b) (matStride b) (packedBytes (elemBits p.b) (matK a))
      let asbytes := if p.aScale then matRows a * (matK a / 32) else 0
      let bsbytes := if p.bScale then matRows b * (matK a / 32) else 0
      t1.operand .load tcm (matAddr a) abytes 8 = .ok (ap, t2) → t2.operand .load pad (matAddr b) bbytes 8 = .ok (bp, t3) →
      t3.operand .load tcm h.1 asbytes 1 = .ok (sap, t4) → t4.operand .load pad h.2.1 bsbytes 1 = .ok (sbp, t5) →
      t5.enqueue 1 2 s.myCore.mq.length rd [.core, .cluster]
        [⟨ap, matAddr a, abytes, false⟩, ⟨bp, matAddr b, bbytes, false⟩, ⟨sap, h.1, asbytes, false⟩, ⟨sbp, h.2.1, bsbytes, false⟩] =
          .ok (no, t6) →
      ∃ t : State, exec i s = .next t ∧ CommandQueued s t rd .mma minor a b w) ∧
    (∀ p h ap sap no t1 t2 t3 t4,
      engineHere s.cur.core .matrixFull = true → s.Clear [r1, r2] [rd] [xn] → matPair (fld w 24 4) = some p → matAOk p a p.step = true →
      1 ≤ matRows a → matRows a ≤ 128 → fld w 49 15 = 0 → fld w 28 4 = 0 → fld w 18 6 = 0 → fld w 7 1 = 0 →
      fld w 0 7 + matRows a ≤ 128 → (flag w 48 = true → u.dCoreOfTask (fld w 32 16) = true) → u.scaleHeader r2 = .ok (h, t1) →
      State.headerOk h p.aScale false (fld w 24 4 == 10) = true → (p.aScale = true → s.reg r2 ≠ 0) →
      let abytes := rowSpan (matRows a) (matStride a) (packedBytes (elemBits p.a) p.step)
      let asbytes := if p.aScale then matRows a * (p.step / 32) else 0
      t1.operand .load tcm (matAddr a) abytes 8 = .ok (ap, t2) → t2.operand .load tcm h.1 asbytes 1 = .ok (sap, t3) →
      t3.enqueue 1 2 s.myCore.mq.length rd [.core] [⟨ap, matAddr a, abytes, false⟩, ⟨sap, h.1, asbytes, false⟩] = .ok (no, t4) →
      ∃ t : State, exec (.mring xn rd r1 r2) s = .next t ∧ CommandQueued s t rd .mring (fld w 24 4) a 0 w) ∧
    (s.Clear [r1] [rd] [] → stationOk w false = true →
      ∃ t : State, exec (.mmz rd r1) s = .next t ∧ CommandQueued s t rd .mmz 0 0 0 w) ∧
    (s.Clear [r1] [rd] [xn] → matReserved a = true → matRows a = 0 → matK a = 0 →
      matStrideOk a (stCols w * storeElem (matFmt a)) = true →
      let bytes := rowSpan (stRows w) (matStride a) (stCols w * storeElem (matFmt a))
      (∀ ps no t1 t2, matFmt a ≤ 2 → stationOk w true = true → u.operand .store none (matAddr a) bytes 8 = .ok (ps, t1) →
        t1.enqueue 1 2 s.myCore.mq.length rd (u.scopesOf ps) [⟨ps, matAddr a, bytes, true⟩] = .ok (no, t2) →
        ∃ t : State, exec (.mst xn rd r1) s = .next t ∧ CommandQueued s t rd .mst 0 a 0 w) ∧
      (∀ ps no t1 t2, matFmt a = 0 → stationOk w false = true → u.operand .load none (matAddr a) bytes 8 = .ok (ps, t1) →
        t1.enqueue 1 2 s.myCore.mq.length rd (u.scopesOf ps) [⟨ps, matAddr a, bytes, false⟩] = .ok (no, t2) →
        ∃ t : State, exec (.mldc xn rd r1) s = .next t ∧ CommandQueued s t rd .mldc 0 a 0 w))

/-- Word i of a group header's 48 bytes (R225). -/
def groupWord (v i : Nat) : Word := BitVec.ofNat 64 (v / 2 ^ (64 * i))

/-- R225: a GMM whose descriptors, group header, scale header, counts, ranges and locks pass joins the queue with its row counts; where they are all 0, rd receives the
completion word with 0 steps at issue, and the queue stays. What the rules leave open here is the model's choice (logs 17 and 62). -/
def Piece.GroupedProducts : Prop :=
  ∀ (s : State) (rd r1 r2 : Reg) (xn xm : XIdx) (p : MatPair) (gp cp ap bp sap sbp op : Pages) (gh ch : Home) (gv cv no : Nat)
      (h : Word × Word × Nat × Nat) (t0 t1 t2 t3 t4 t5 t6 t7 t8 : State),
    let u := s.onMe (slotBegun 4)
    let a := s.xreg xn
    let b := s.xreg xm
    let g := groupWord gv
    let groups := fld (g 1) 0 16
    let n := matRows b
    let k := matK a
    let oStride := fld (g 4) 0 32
    let oFmt := fld (g 4) 32 4
    let counts := (List.range groups).map fun i => cv / 2 ^ (32 * i) % 2 ^ 32
    let rows := counts.sum
    let abytes := rowSpan rows (matStride a) (packedBytes (elemBits p.a) k)
    let bbytes := (groups - 1) * (g 2).toNat + rowSpan n (matStride b) (packedBytes (elemBits p.b) k)
    let asbytes := if p.aScale then rows * (k / 32) else 0
    let bsbytes := if p.bScale then groups * n * (k / 32) else 0
    let obytes := rowSpan rows oStride (n * storeElem oFmt)
    let tcm := some (Home.tcm s.cur.core)
    let pad := some (Home.scratchpad (s.cur.core / 8))
    engineHere s.cur.core .matrixFull = true → s.myCore.mq.length < 4 → s.Clear [r1, r2] [rd] [xn, xm] →
    matReserved a = true → matRows a = 0 → matReserved b = true → matK b = 0 →
    u.checkLocal .load .engine (s.reg r1) 48 8 = .ok (gp, gh, t0) → t0.localRead .engine gp gh (s.reg r1) 48 = .ok gv →
    matPair (fld (g 1) 24 4) = some p → matAOk p a (32 * p.step) = true → matBOk p b k = true →
    fld (g 1) 16 8 = 0 → fld (g 1) 29 35 = 0 → 1 ≤ groups → groups ≤ 256 → (g 2).toNat % 8 = 0 → fld (g 4) 36 28 = 0 → oFmt ≤ 2 →
    oStride % 8 = 0 → n * storeElem oFmt ≤ oStride → g 5 = 0 →
    t0.scaleHeader r2 = .ok (h, t1) → State.headerOk h p.aScale p.bScale (fld (g 1) 24 4 == 10) = true →
    t1.checkLocal .load .engine (g 0) (4 * groups) 4 = .ok (cp, ch, t2) → t2.localRead .engine cp ch (g 0) (4 * groups) = .ok cv →
    rows ≤ 65535 →
    t2.operand .load tcm (matAddr a) abytes 8 = .ok (ap, t3) → t3.operand .load pad (matAddr b) bbytes 8 = .ok (bp, t4) →
    t4.operand .load tcm h.1 asbytes 1 = .ok (sap, t5) → t5.operand .load pad h.2.1 bsbytes 1 = .ok (sbp, t6) →
    t6.operand .store none (g 3) obytes 8 = .ok (op, t7) →
    t7.enqueue 1 2 s.myCore.mq.length rd [.core, .cluster]
      [⟨ap, matAddr a, abytes, false⟩, ⟨sap, h.1, asbytes, false⟩, ⟨bp, matAddr b, bbytes, false⟩, ⟨sbp, h.2.1, bsbytes, false⟩,
        ⟨op, g 3, obytes, true⟩] = .ok (no, t8) →
    ∃ t : State, exec (.gmm xn xm rd r1 r2) s = .next t ∧
      (0 < rows → CommandQueued s t rd .gmm (fld (g 1) 24 4) a b (g 1) ∧
        ∃ c, (t.core s.cur.core).mq.getLast? = some c ∧ c.counts = counts ∧ c.out = g 3 ∧ c.oStride = oStride ∧ c.oFmt = oFmt) ∧
      (rows = 0 → (t.core s.cur.core).mq = s.myCore.mq ∧ t.mem = s.mem ∧ t.net = s.net ∧
        (t.slot s.cur.core s.cur.slot).g[rd] = 0x80000000 ∧ (t.slot s.cur.core s.cur.slot).mark[rd] = none)

/-- R226 (R228): MWAIT with a threshold that the queue has reached writes the queue's length, and waits for it otherwise; a threshold above 4 traps
ILLEGAL; MQRY writes the level, the latches' blocks and the queue's length. What the rules leave open here is the model's choice (logs 16 and 19). -/
def Piece.MatrixQueries : Prop :=
  ∀ (s : State) (rd r1 : Reg), engineHere s.cur.core .matrix = true →
    let n := (s.reg r1).toNat
    let len := s.myCore.mq.length
    (s.Clear [r1] [rd] [] →
      (n ≤ 4 → len ≤ n → exec (.mwait rd r1) s = .next (s.wrote rd (BitVec.ofNat 64 len))) ∧
      (n ≤ 4 → n < len →
        exec (.mwait rd r1) s = .next (s.after 4 1 (fun f => f.markPending rd .engine) fun c =>
          { c with mwaits := c.mwaits ++ [{ slot := s.cur.slot, gen := s.me.gen, reg := rd, threshold := n }] })) ∧
      (4 < n → exec (.mwait rd r1) s = .next (s.trapped (trapOf .illegal .engine 0)))) ∧
    (s.Clear [] [rd] [] →
      exec (.mqry rd) s = .next (s.wrote rd (BitVec.ofNat 64
        ((s.cluster (s.cur.core / 8)).mat.level * 256 + (if s.myCore.incoming.isSome then 32 else 0) +
          (if s.myCore.active.isSome then 16 else 0) + len))))

/-- A station's cell (R212); +0 where it lists none. -/
def cellAt (s : State) (pid row col : Nat) : Nat := (Tab.read (s.core pid).station 0#32 (256 * row + col)).toNat

/-- A row and a column lie in a rectangle. -/
def InBox (row col row0 col0 rows cols : Nat) : Prop := row0 ≤ row ∧ row < row0 + rows ∧ col0 ≤ col ∧ col < col0 + cols

/-- R217, R218, R220, R221 and R238: the arbiter starts a head that is eligible, and ZERO of an MMA zeroes the rectangle of its cells and no
other; a step of MMA.I8 adds to every cell of it the exact sum of the products of its rows, modulo 2^32; at the end of its last step an MMA leaves the queue and
its token register receives the completion word; MMZ zeroes its rectangle; MLDC loads it; both end also where the core's context is being saved (R334). What the rules leave open here is the model's choice (logs 17 and 62). -/
def Piece.MatrixUnit : Prop :=
  ∀ (s : State) (k : Nat) (c : MatCmd) (rest : List MatCmd),
    let cid := s.spot.place
    let pid := 8 * cid + k
    let u := (s.cluster cid).mat
    let w := c.place
    let row0 := fld w 0 7
    let col0 := fld w 8 8
    let ac := s.clusterAc cid
    let here := s.holder pid = pid ∧ s.savedNow pid = false
    let told (t : State) (v : Word) : Prop :=
      (s.core pid).fenced = false → (s.core pid).mwaits = [] → here →
        (s.slot pid c.slot).live = true → (s.slot pid c.slot).gen = c.gen → (s.slot pid c.slot).mark[c.reg] = some .engine →
        (t.slot pid c.slot).g[c.reg] = v ∧ (t.slot pid c.slot).mark[c.reg] = none
    k < 8 → s.clusterRuns cid = true → (s.core pid).mq = c :: rest →
    (u.core = none → (∀ j < 8, s.eligible cid j = true ↔ j = k) →
      (s.tokens cid).held = tokenCost cid * (s.tokens cid).next → s.noticeOver cid = false →
      ∃ t : State, exec .matrixCommandStart s = .next t ∧ (t.cluster cid).mat.core = some k ∧ (t.cluster cid).mat.cur = k ∧
        (t.tokens cid).level = (s.tokens cid).next ∧ (t.cluster cid).mat.level = (s.tokens cid).next ∧ t.mem = s.mem ∧ t.net = s.net ∧ (t.core pid).mq = (s.core pid).mq ∧
        (c.kind = .mma → c.step = 0 → ∀ row col, col < 256 →
          (flag w 16 = true → InBox row col row0 col0 (matRows c.a) (matRows c.b) → cellAt t pid row col = 0) ∧
          (¬(flag w 16 = true ∧ InBox row col row0 col0 (matRows c.a) (matRows c.b)) → cellAt t pid row col = cellAt s pid row col))) ∧
    (u.core = some k → c.kind = .mma → c.pair = 10 → s.savedNow pid = false → c.step < matK c.a / 64 → u.until_ ≤ ac →
      ac % stepDuration cid = 0 → ac / stepDuration cid ∉ u.starts →
      (u.starts.filter fun x => decide (ac / stepDuration cid ≤ x + 7)).length < u.level → s.bad = [] →
      row0 + matRows c.a ≤ 128 → col0 + matRows c.b ≤ 256 →
      ∃ (t : State) (d : MatCmd), exec .matrixStep s = .next t ∧ (t.core pid).mq = d :: rest ∧ d.step = c.step + 1 ∧ d.steps = c.steps + 1 ∧ d.ovf = c.ovf ∧
        d.nan = c.nan ∧ t.mem = s.mem ∧ t.net = s.net ∧ (t.cluster cid).mat.until_ = ac + stepDuration cid ∧
        (∀ q, q ≠ pid → t.core q = s.core q) ∧
        ∀ row col, col < 256 →
          (InBox row col row0 col0 (matRows c.a) (matRows c.b) →
            let A (j : Nat) : Int := (BitVec.ofNat 8 (c.aPages.value s.mem
              (matAddr c.a + BitVec.ofNat 64 ((row - row0) * matStride c.a + 64 * c.step)) 64 / 256 ^ j)).toInt
            let B (j : Nat) : Int := (BitVec.ofNat 8 (c.bPages.value s.mem
              (matAddr c.b + BitVec.ofNat 64 ((col - col0) * matStride c.b + 64 * c.step)) 64 / 256 ^ j)).toInt
            BitVec.ofNat 32 (cellAt t pid row col) =
              BitVec.ofInt 32 ((cellAt s pid row col : Int) + ((List.range 64).map fun j => A j * B j).sum)) ∧
          (¬InBox row col row0 col0 (matRows c.a) (matRows c.b) → cellAt t pid row col = cellAt s pid row col)) ∧
    (u.core = some k → u.until_ ≤ ac → (∀ j < 8, (s.core (8 * cid + j)).owedWords = []) →
      (s.tokens cid).held ≤ tokenCost cid * (s.tokens cid).next →
      (c.kind = .mma → s.takesCompletions pid (s.core pid).endings = true → here → matK c.a / c.thePair.step ≤ c.step → (∀ x ∈ rest, x.no ≠ c.no) →
        ∃ t : State, exec .matrixComplete s = .next t ∧ (t.cluster cid).mat.core = none ∧ (t.core pid).mq = rest ∧ t.mem = s.mem ∧
          (t.core pid).station = (s.core pid).station ∧
          told t (BitVec.ofNat 64 ((if c.fmtErr then 2 ^ 34 else 0) + (if c.ovf then 2 ^ 33 else 0) + (if c.nan then 2 ^ 32 else 0) +
            2 ^ 31 + c.steps))) ∧
      (c.kind = .mmz → (∀ x ∈ rest, x.no ≠ c.no) →
        ∃ t : State, exec .matrixComplete s = .next t ∧ (t.cluster cid).mat.core = none ∧ (t.core pid).mq = rest ∧ (here → t.mem = s.mem) ∧
          (∀ row col, col < 256 →
            (InBox row col row0 col0 (stRows w) (stCols w) → cellAt t pid row col = 0) ∧
            (¬InBox row col row0 col0 (stRows w) (stCols w) → cellAt t pid row col = cellAt s pid row col)) ∧
          told t (BitVec.ofNat 64 ((if c.fmtErr then 2 ^ 34 else 0) + (if c.ovf then 2 ^ 33 else 0) + (if c.nan then 2 ^ 32 else 0) + 2 ^ 31))) ∧
      (c.kind = .mldc → s.bad = [] → (∀ x ∈ rest, x.no ≠ c.no) → col0 + stCols w ≤ 256 →
        ∃ t : State, exec .matrixComplete s = .next t ∧ (t.cluster cid).mat.core = none ∧ (t.core pid).mq = rest ∧ (here → t.mem = s.mem) ∧
          ∀ row col, col < 256 →
            (InBox row col row0 col0 (stRows w) (stCols w) →
              cellAt t pid row col =
                c.aPages.value s.mem (matAddr c.a + BitVec.ofNat 64 ((row - row0) * matStride c.a)) (4 * stCols w) /
                  2 ^ (32 * (col - col0)) % 2 ^ 32) ∧
            (¬InBox row col row0 col0 (stRows w) (stCols w) → cellAt t pid row col = cellAt s pid row col)))
/-! ### The hod engine -/

/-- A hod operation has been issued (R132): rd is pending until it has ended, and the operation is in flight with what it has to inject, its
destinations and the bytes that it counts. -/
def HodStarted (s t : State) (rd : Reg) (kind : HodKind) (todo : List (Word × Nat × Nat)) (dests : List HodDest) (bytes : Nat) : Prop :=
  t.mem = s.mem ∧ t.net = s.net ∧ t.regions = s.regions ∧ t.regs = s.regs ∧
    t.slot s.cur.core s.cur.slot = issuedFibre s (fun f => f.markPending rd .engine) ∧
    (∀ n, n ≠ s.cur.slot → t.slot s.cur.core n = s.slot s.cur.core n) ∧ (∀ p, p ≠ s.cur.core → t.core p = s.core p) ∧
    ∃ o, (t.core s.cur.core).hods = s.myCore.hods ++ [o] ∧ o.no = s.myCore.opNo ∧ o.kind = kind ∧ o.slot = s.cur.slot ∧ o.gen = s.me.gen ∧
      o.reg = rd ∧ o.todo = todo ∧ o.dests = dests ∧ o.bytes = bytes ∧ o.failed = none ∧ o.code = none

/-- R132 and R134 (R97): a HOD.PUSH whose notice word, byte count, source, destination and locks pass starts a copy of n bytes, with its
notice; a notice word or count that does not pass traps ILLEGAL, and a service rank without SUP traps PRIVILEGE. What the rules leave open here is the model's choice (log 32). -/
def Piece.HodPushes : Prop :=
  ∀ (s : State) (xn : XIdx) (rd r1 r2 : Reg),
    let u := s.onMe (slotBegun 4)
    let w := s.reg r1
    let n := (s.reg r2).toNat
    let src := (s.xreg xn).setWidth 64
    let dst := (s.xreg xn).extractLsb' 64 64
    let layout := w = 0 ∨ (flag w 31 = true ∧ fld w 32 32 = 0 ∧ fld w 25 6 = 0 ∧ fld w 22 2 = 0)
    let permitted := w = 0 ∨ isServiceRank (fld w 0 16) = false ∨ s.me.sup = true
    let named := w = 0 ∨ (s.rankPort s.cur.core (fld w 0 16)).isSome = true
    s.Clear [r1, r2] [rd] [xn] →
    (¬layout → exec (.hodPush xn rd r1 r2) s = .next (s.trapped (trapOf .illegal .engine 0))) ∧
    (layout → ¬permitted → exec (.hodPush xn rd r1 r2) s = .next (s.trapped (trapOf .privilege .engine 0))) ∧
    (layout → permitted → (¬named ∨ n % 8 ≠ 0 ∨ n < 8 ∨ 16777216 < n) →
      exec (.hodPush xn rd r1 r2) s = .next (s.trapped (trapOf .illegal .engine 0))) ∧
    ∀ ps qs h g no t1 t2 t3, layout → permitted → named → n % 8 = 0 → 8 ≤ n → n ≤ 16777216 →
      u.checkLocal .load .engine src n 8 = .ok (ps, h, t1) → t1.destination dst n 8 = .ok (qs, g, t2) →
      State.apart ps src n qs dst n = true → t2.startHod rd (u.scopesOf qs) [⟨ps, src, n, false⟩] = .ok (no, t3) →
      ∃ t : State, exec (.hodPush xn rd r1 r2) s = .next t ∧
        HodStarted s t rd .push [(src, n, 0)]
          [.fresh dst qs (if w = 0 then [] else [{ rank := fld w 0 16, index := fld w 16 6, tc0 := flag w 24 }])] n

/-- R135: a HOD.TILE without a byte in the tensor starts an operation of 0 bytes that has nothing to inject, carries a clip record, and is over as by a completion in the next ac; another starts a copy of the box's
rows, which carries a clip record where the box is not the whole tile. What the rules leave open here is the model's choice (log 33). -/
def Piece.HodTiles : Prop :=
  ∀ (s : State) (xn xm : XIdx) (rd r1 : Reg),
    let u := s.onMe (slotBegun 4)
    let d := (s.xreg xn).toNat
    let e := (s.xreg xm).toNat
    let o := s.reg r1
    let size := 2 ^ (d / 2 ^ 56 % 4)
    let rows := d / 2 ^ 64 % 2 ^ 24
    let cols := d / 2 ^ 88 % 2 ^ 24
    let h := e / 2 ^ 64 % 2 ^ 16
    let w := e / 2 ^ 80 % 2 ^ 16
    let stride := e / 2 ^ 96
    let base := matAddr (s.xreg xn)
    let dst := matAddr (s.xreg xm)
    let row0 := signed32 o 0
    let col0 := signed32 o 32
    let box := tileBox rows cols h w row0 col0
    let bytes := box.2.2.1 * box.2.2.2 * size
    s.Clear [r1] [rd] [xn, xm] → d / 2 ^ 58 % 64 = 0 → d / 2 ^ 112 = 0 → 1 ≤ rows → 1 ≤ cols → 1 ≤ h → h ≤ 4096 → 1 ≤ w → w ≤ 4096 →
    cols * size ≤ stride → h * w * size ≤ 16777216 → s.handlerEmpty s.cur.core (e / 2 ^ 56 % 256) = false →
    base.toNat % size = 0 → stride % size = 0 →
    let clip (q : HodOp) : Prop :=
      q.clip = some (e / 2 ^ 56 % 256,
        [dst, o, BitVec.ofNat 64 (h + w * 2 ^ 16 + d / 2 ^ 56 % 4 * 2 ^ 32), BitVec.ofNat 64 box.1, BitVec.ofNat 64 box.2.1,
          BitVec.ofNat 64 box.2.2.1, BitVec.ofNat 64 box.2.2.2, BitVec.ofNat 64 bytes])
    (bytes = 0 → dst.toNat % size = 0 → s.myCore.hods.length < 128 →
      ∃ (t : State) (q : HodOp) (x : Packet), exec (.hodTile xn xm rd r1) s = .next t ∧ t.mem = s.mem ∧ t.regions = s.regions ∧
        t.slot s.cur.core s.cur.slot = issuedFibre s (fun f => f.markPending rd .engine) ∧ (∀ p, p ≠ s.cur.core → t.core p = s.core p) ∧
        (t.core s.cur.core).hods = s.myCore.hods ++ [q] ∧ q.no = s.myCore.opNo ∧ q.kind = .tile ∧ q.slot = s.cur.slot ∧ q.gen = s.me.gen ∧
        q.reg = rd ∧ q.todo = [] ∧ q.dests = [.fresh dst [] []] ∧ q.bytes = 0 ∧ clip q ∧ t.net = s.net ++ [x] ∧
        x.dst = .cluster (s.cur.core / 8) ∧ x.load = .landed s.cur.core s.myCore.opNo 0 (s.coreAc s.cur.core + 1)) ∧
    ∀ ps qs g k no t1 t2 t3,
      let row := box.2.2.2 * size
      let src := base + BitVec.ofInt 64 ((row0 + box.1) * stride + (col0 + box.2.1) * size)
      let out := dst + BitVec.ofNat 64 ((box.1 * w + box.2.1) * size)
      let sx := rowSpan box.2.2.1 stride row
      let ox := rowSpan box.2.2.1 (w * size) row
      0 < bytes → canonical src = true → u.checkLocal .load .engine src sx size = .ok (ps, g, t1) → t1.destination out ox size = .ok (qs, k, t2) →
      State.apart ps src sx qs out ox = true → t2.startHod rd (u.scopesOf qs) [⟨ps, src, sx, false⟩] = .ok (no, t3) →
      ∃ t : State, exec (.hodTile xn xm rd r1) s = .next t ∧
        HodStarted s t rd .tile ((List.range box.2.2.1).map fun i => (src + BitVec.ofNat 64 (i * stride), row, i * (w * size)))
          [.fresh out qs []] bytes ∧
        ∃ q : HodOp, (t.core s.cur.core).hods.getLast? = some q ∧ (box = (0, 0, h, w) → q.clip = none) ∧ (box ≠ (0, 0, h, w) → clip q)

/-- R135: the box of a tile: an element of the tile lies in it exactly where its row and column lie in the tensor. -/
def Piece.TileBoxes : Prop :=
  ∀ (rows cols h w : Nat) (row0 col0 : Int) (i j : Nat), i < h → j < w →
    let b := tileBox rows cols h w row0 col0
    ((b.1 ≤ i ∧ i < b.1 + b.2.2.1 ∧ b.2.1 ≤ j ∧ j < b.2.1 + b.2.2.2) ↔
      (0 ≤ row0 + i ∧ row0 + i < rows ∧ 0 ≤ col0 + j ∧ col0 + j < cols)) ∧
    b.1 + b.2.2.1 ≤ h ∧ b.2.1 + b.2.2.2 ≤ w

/-- R136 and R223: a HOD.MC whose words, rectangle and source pass starts a copy to every TCM of the rectangle, or to every scratchpad of its clusters, with their
notices, and counts one in its free counter; an MBPASS whose words pass pushes a block to a D core. What the rules leave open here is the model's choice (log 31). -/
def Piece.HodMulticasts : Prop :=
  ∀ (s : State) (xn : XIdx) (ctr : BitVec 4) (rd r1 r2 : Reg),
    let u := s.onMe (slotBegun 4)
    let d := (s.xreg xn).toNat
    let w := s.reg r1
    let n := (s.reg r2).toNat
    let src := matAddr (s.xreg xn)
    let off := d / 2 ^ 64 % 2 ^ 24
    let pads := d / 2 ^ 88 % 2 = 1
    let noted (l : List (Nat × Nat)) : List Note :=
      if d / 2 ^ 95 % 2 = 1 then l.map fun c => { rank := c.1, index := d / 2 ^ 89 % 64, tc0 := false } else []
    s.Clear [r1, r2] [rd] [xn] →
    (∀ cores ps g no t1 t2,
      d / 2 ^ 56 % 256 = 0 → d / 2 ^ 96 = 0 → fld w 32 32 = 0 → 1 ≤ fld w 16 8 → 1 ≤ fld w 24 8 →
      (isServiceRank (fld w 0 16) = true → s.me.sup = true) → n % 8 = 0 → 8 ≤ n → n ≤ 16777216 →
      (pads → off + n ≤ 16777216) → (¬pads → off + n ≤ 262144) →
      (s.rectangleRanks (fld w 0 16) (fld w 16 8) (fld w 24 8)).bind s.coresOf = some cores → (∀ c ∈ cores, c.2 ≠ s.cur.core) →
      u.checkLocal .load .engine src n 8 = .ok (ps, g, t1) → off % 8 = 0 →
      let dests : List HodDest :=
        if pads then
          ((cores.map fun c => c.2 / 8).eraseDups).map fun cid =>
            .fresh (BitVec.ofNat 64 (clusterBase cid + off)) (physPages (clusterBase cid + off) n) (noted (cores.filter fun c => c.2 / 8 == cid))
        else cores.map fun c => .fresh (BitVec.ofNat 64 (tcmBase c.2 + off)) (physPages (tcmBase c.2 + off) n) (noted [c])
      (∀ q ∈ dests, State.apart ps src n q.pages q.va n = true) →
      t1.startHod rd (dests.flatMap fun q => u.scopesOf q.pages) [⟨ps, src, n, false⟩] = .ok (no, t2) →
      ∃ t : State, exec (.hodMc xn ctr rd r1 r2) s = .next t ∧ HodStarted s t rd .multicast [(src, n, 0)] dests (n * dests.length) ∧
        Tab.read (t.core s.cur.core).freeCtr 0 ctr.toNat = (Tab.read s.myCore.freeCtr 0 ctr.toNat + 1) % 65536 ∧
        ∀ c, c ≠ ctr.toNat → Tab.read (t.core s.cur.core).freeCtr 0 c = Tab.read s.myCore.freeCtr 0 c) ∧
    (∀ rule h bp sp no t1 t2 t3 t4,
      let b := s.xreg xn
      let rank := fld w 0 16
      let rows := matRows b
      engineHere s.cur.core .matrixFull = true → matReserved b = true → matK b = 0 → 1 ≤ rows → rows ≤ 256 → matStrideOk b 64 = true →
      blockScales (matFmt b) = some rule → fld w 16 48 = 0 → s.dCoreOfTask rank = true → u.scaleHeader r2 = .ok (h, t1) →
      (∀ r, rule = some r → (h.2.1 != 0) = r) →
      let bytes := rowSpan rows (matStride b) 64
      let sbytes := if h.2.1 ≠ 0 then rows * rowScales (matFmt b) else 0
      let pad := some (Home.scratchpad (s.cur.core / 8))
      t1.operand .load pad (matAddr b) bytes 8 = .ok (bp, t2) → t2.operand .load pad h.2.1 sbytes 1 = .ok (sp, t3) →
      (∀ q, s.rankPort s.cur.core rank = some (.core q) →
        t3.startHod rd [scopeOfCore s.cur.core q]
          (⟨bp, matAddr b, bytes, false⟩ :: if h.2.1 ≠ 0 then [⟨sp, h.2.1, sbytes, false⟩] else []) = .ok (no, t4) →
        ∃ t : State, exec (.mbpass xn rd r1 r2) s = .next t ∧
          HodStarted s t rd .block
            (((List.range rows).map fun i => (matAddr b + BitVec.ofNat 64 (i * matStride b), 64, 64 * i)) ++
              if h.2.1 ≠ 0 then [(h.2.1, sbytes, 64 * rows)] else [])
            [.fresh 0 [] []] (64 * rows + sbytes) ∧
          ∃ q : HodOp, (t.core s.cur.core).hods.getLast? = some q ∧ q.rank = rank))

/-- R138 and R139: HOD.FREE sends a free to its router; HOD.WT writes a counter that has come down to its threshold, and waits for it otherwise;
HOD.CNT writes a counter. What the rules leave open here is the model's choice (logs 16, 31 and 34). -/
def Piece.HodFrees : Prop :=
  ∀ (s : State) (ctr : BitVec 4) (rd r1 : Reg),
    let w := s.reg r1
    let v := Tab.read s.myCore.freeCtr 0 ctr.toNat
    (s.Clear [r1] [] [] →
      (fld w 20 44 = 0 → isServiceRank (fld w 0 16) = false → (s.rankPort s.cur.core (fld w 0 16)).isSome = true →
        exec (.hodFree r1) s = .next ((s.after 4 1 id id).enter
          { src := .core s.cur.core, dst := .router (s.cur.core / 8), tc := 1, load := .free (fld w 0 16) (fld w 16 4)
            here := s.cur.core / 8, held := none, pasid := none })) ∧
      ((fld w 20 44 ≠ 0 ∨ isServiceRank (fld w 0 16) = true ∨ s.rankPort s.cur.core (fld w 0 16) = none) →
        exec (.hodFree r1) s = .next (s.trapped (trapOf .illegal .engine 0)))) ∧
    (s.Clear [r1] [rd] [] → fld w 16 48 = 0 →
      (v ≤ w.toNat → exec (.hodWt ctr rd r1) s = .next (s.wrote rd (BitVec.ofNat 64 v))) ∧
      (w.toNat < v → exec (.hodWt ctr rd r1) s = .next (s.after 4 1 (fun f => f.markPending rd .engine) fun c =>
        { c with
          hwaits := c.hwaits ++ [{ slot := s.cur.slot, gen := s.me.gen, reg := rd, counter := ctr.toNat, threshold := w.toNat }] }))) ∧
    (s.Clear [r1] [rd] [] → fld w 16 48 ≠ 0 → exec (.hodWt ctr rd r1) s = .next (s.trapped (trapOf .illegal .engine 0))) ∧
    (s.Clear [] [rd] [] → exec (.hodCnt ctr rd) s = .next (s.wrote rd (BitVec.ofNat 64 v)))

/-- R137 to R139: a free that reaches a router without its entry is discarded and counted; one that raises the least of the branch counts past F goes on toward the
sender, and the entry is released when F reaches D; at the sender the counter falls by one, and a fibre whose threshold it meets receives the count. What the rules leave open here is the model's choice (log 31). -/
def Piece.FreesCombine : Prop :=
  ∀ (s : State) (p : Packet) (sender counter pid : Nat),
    s.front s.spot.place = some p → p.load = .free sender counter →
    (∀ cid, p.dst = .router cid → p.src = .core pid → s.clusterRuns p.here = true →
      (((s.cluster cid).combine.all fun e => !(e.sender == sender && e.counter == counter)) = true →
        exec .freeCombine s = .next ((s.taken s.spot.place).onCluster cid fun r => { r with errs := r.errs + 1 })) ∧
      ∀ e f, (s.cluster cid).combine = [e] → e.sender = sender → e.counter = counter → e.up = none → e.branches = [(.core pid, f)] →
        e.frees ≤ f → f ≤ e.tiles →
        (f < e.frees + 1 → ∀ q, s.rankPort (8 * cid) sender = some q →
          ∃ t x, exec .freeCombine s = .next t ∧ t.net = (s.taken s.spot.place).net ++ [x] ∧ x.dst = q ∧ x.load = .free sender counter ∧
            (e.frees + 1 = e.tiles → (t.cluster cid).combine = []) ∧
            (e.frees + 1 ≠ e.tiles →
              (t.cluster cid).combine = [{ e with frees := e.frees + 1, branches := [(.core pid, f + 1)] }]))) ∧
    (p.dst = .core pid → (s.core pid).fenced = false → s.portRuns pid = true → s.holder pid = pid → s.savedNow pid = false →
      let v := Tab.read (s.core pid).freeCtr 0 counter - 1
      ∃ t : State, exec .freeCounterDecrement s = .next t ∧ t.net = (s.taken s.spot.place).net ∧ t.mem = s.mem ∧
        Tab.read (t.core pid).freeCtr 0 counter = v ∧
        (∀ w ∈ (s.core pid).hwaits, (w.counter = counter ∧ v ≤ w.threshold) ∨ w ∈ (t.core pid).hwaits) ∧
        ∀ w, (s.core pid).hwaits = [w] → w.counter = counter → v ≤ w.threshold → (s.slot pid w.slot).live = true →
          (s.slot pid w.slot).gen = w.gen → (s.slot pid w.slot).mark[w.reg] = some .engine →
          (t.slot pid w.slot).g[w.reg] = BitVec.ofNat 64 v ∧ (t.slot pid w.slot).mark[w.reg] = none)

/-- R132, R134, R245 and R246, of a copy to one destination: the cluster's engine takes the next beat of the one core that has something to inject, of at most 256 bytes; at a home that
runs and that the copy has locked, the beat's bytes stand in memory and no other byte changes, and after the last beat the completion goes
back to the engine; when it arrives the notice is sent, the operation is over, a clip record stands in the core's mailbox, and rd receives the byte count. What the rules leave open here is the model's choice (logs 32 and 33). -/
def Obligations.HodBeats : Prop :=
  ∀ (s : State) (o : HodOp) (d : HodDest) (p : Packet) (b : Beat) (h : Home) (va : Word) (n off pid : Nat) (rest : List (Word × Nat × Nat)),
    o.dests = [d] → o.kind = .push ∨ o.kind = .tile →
    (let cid := s.spot.place
     s.clusterRuns cid = true → (s.cluster cid).hodAt ≠ some (s.coreAc (8 * cid)) → pid / 8 = cid → s.hodNext pid = some o →
     s.hodOp pid o.no = some o → (∀ j < 8, 8 * cid + j ≠ pid → s.hodNext (8 * cid + j) = none) → o.todo = (va, n, off) :: rest → s.bad = [] →
     place (d.pages.phys (d.va + BitVec.ofNat 64 off)) = some (h, .memory) →
     let m := min n (min (256 - (d.va.toNat + off) % 256) (65536 - va.toNat % 65536))
     ∃ t x, exec .hodBeatInject s = .next t ∧ t.net = s.net ++ [x] ∧ x.src = .cluster cid ∧ x.dst = .home h ∧ x.tc = beatClass (.home h) ∧
       x.load = .beat { core := pid, op := o.no, dest := 0, pa := d.pages.phys (d.va + BitVec.ofNat 64 off), bytes := o.pages.bytes s.mem va m
                        since := s.beatSince pid (.home h) } ∧
       m ≤ 256 ∧ t.mem = s.mem ∧
       ∃ q, t.hodOp pid o.no = some q ∧ q.dests = [{ d with sent := d.sent + 1 }] ∧
         q.todo = if m < n then (va + BitVec.ofNat 64 m, n - m, off + m) :: rest else rest) ∧
    (s.moving s.spot.place = some p → p.load = .beat b → p.dst = .home h → b.dest = 0 → s.hodOp b.core b.op = some o → d.refused = none →
      d.locked = true → (∀ m, h ≠ .pod m) → s.homeRefuses b.core (s.entryTask b.core == 0 || isService b.core) h b.pa = false →
      s.homeRuns h = true → s.rimBusy b.pa = false → b.since ≤ s.homeAc h → s.writesWell h = true → s.bad = [] → Memory.wf s.mem = true →
      ∃ t : State, exec .hodBeatArrival s = .next t ∧
        (∀ i < b.bytes.length, Memory.byte t.mem (b.pa + i) = b.bytes.getD i 0) ∧
        (∀ x, (x < b.pa ∨ b.pa + b.bytes.length ≤ x) → Memory.byte t.mem x = Memory.byte s.mem x) ∧
        (∃ q e, t.hodOp b.core b.op = some q ∧ q.dests = [e] ∧ e.performed = d.performed + 1 ∧ e.refused = none) ∧
        ((o.todo ≠ [] ∨ d.performed + 1 ≠ d.sent ∨ d.told = true) → t.net = (s.taken s.spot.place).net) ∧
        (o.todo = [] → d.performed + 1 = d.sent → d.told = false →
          ∃ x, t.net = (s.taken s.spot.place).net ++ [x] ∧ x.dst = .cluster (b.core / 8) ∧
            x.load = .landed b.core b.op 0 (if b.since = 0 then 0 else s.coreAc b.core + 1))) ∧
    (∀ since, s.moving s.spot.place = some p → p.load = .landed pid o.no 0 since → since ≤ s.coreAc pid → s.hodOp pid o.no = some o → o.todo = [] →
      o.failed = none → o.code = none → d.refused = none → s.portRuns pid = true → s.holder pid = pid → s.savedNow pid = false → (s.core pid).fenced = false →
      (∀ f, f = s.slot pid o.slot → f.live = true ∧ f.gen = o.gen ∧ f.mark[o.reg] = some .engine) →
      let ended (t : State) : Prop :=
        t.mem = s.mem ∧ (t.slot pid o.slot).g[o.reg] = BitVec.ofNat 64 o.bytes ∧ (t.slot pid o.slot).mark[o.reg] = none ∧
          ∀ x ∈ (t.core pid).hods, x.no ≠ o.no
      (o.clip = none →
        ∃ t : State, exec .hodDestCompletion s = .next t ∧ ended t ∧ (d.notes = [] → t.net = (s.taken s.spot.place).net) ∧
          ∀ k q, d.notes = [k] → s.rankPort pid k.rank = some q → k.rank < 65536 → k.index < 64 → s.rankOf pid < 65536 →
            ∃ (x : Packet) (m : Msg), t.net = (s.taken s.spot.place).net ++ [x] ∧ x.dst = q ∧ x.load = .msg m false ∧ m.kind = 1 ∧
              m.dest = k.rank ∧ m.tc = (if k.tc0 then 0 else 1) ∧ fld m.sel 0 32 = 1 ∧ fld m.sel 32 6 = k.index) ∧
      ∀ hd data, o.clip = some (hd, data) → d.notes = [] → hd < 256 → isService pid = false → s.entryState pid = 2 → s.rankOf pid < 65536 →
        (s.slot pid o.slot).fw = false → (s.core pid).admitting = true → s.ringCount pid = 0 →
        (s.core pid).clearing = false → s.ringBlocked pid (s.entryPasid pid) (s.entryAddr pid 3) = false →
        ((s.core pid).hasGeneral = true →
          ∃ (t : State) (k : Held), exec .hodDestCompletion s = .next t ∧ ended t ∧ t.net = (s.taken s.spot.place).net ∧
            (t.core pid).part = (s.core pid).part ++ [k] ∧ k.msg.kind = 0 ∧ k.msg.isRecord = true ∧ fld k.msg.sel 0 8 = hd ∧ k.msg.data = data))

/-! ### Attention -/

/-- R269 and R270: a KLD.ROT or QROT whose descriptors, ranges and locks pass joins the rotary queue with the rows that it will rotate, and rd is pending. -/
def Piece.RotaryIssues : Prop :=
  ∀ (s : State) (query : Bool) (xn : XIdx) (rd r1 r2 : Reg) (c : Course) (at_ no : Nat) (sp tp dp : Pages) (t1 t2 t3 t4 t5 : State),
    let u := s.onMe (slotBegun 4)
    let x := s.xreg xn
    let nrow := xfield x 78 7
    let dfmt := xfield x 56 4
    let row0 := if query then 0 else xfield x 72 6
    let src := c.addr + BitVec.ofNat 64 (row0 * pairRow c.pairs c.fmt)
    let dst := (x.setWidth 56).signExtend 64
    let sb := nrow * pairRow c.pairs c.fmt
    let db := nrow * pairRow c.pairs dfmt
    let tb := 4 * c.pairs
    engineHere s.cur.core .rotary = true → s.Clear [r1, r2] [rd] [xn] → rotOk query x = true → s.myCore.rq.length < 4 →
    (query = true →
      c = { addr := s.reg r1, posb := xfield x 96 32, fmt := xfield x 88 4, pairs := xfield x 64 8, ref := 0, legal := true } ∧ t1 = u) →
    (query = false → u.readCourse .load .engine (s.reg r1) = .ok (c, at_, t1)) →
    t1.operand .load none src sb (floatBytes c.fmt) = .ok (sp, t2) → t2.operand .load none (s.reg r2) tb 4 = .ok (tp, t3) →
    t3.operand .store none dst db (floatBytes dfmt) = .ok (dp, t4) →
    rangesMeet src sb (s.reg r2) tb = false → rangesMeet src sb dst db = false → rangesMeet (s.reg r2) tb dst db = false →
    t4.enqueue 2 4 s.myCore.rq.length rd (u.scopesOf (sp ++ tp ++ dp)) [⟨sp, src, sb, false⟩, ⟨tp, s.reg r2, tb, false⟩, ⟨dp, dst, db, true⟩] =
      .ok (no, t5) →
    ∃ t o, exec (if query then .qrot xn rd r1 r2 else .kldRot xn rd r1 r2) s = .next t ∧ OpStarted s t rd ∧
      (t.core s.cur.core).rq = s.myCore.rq ++ [o] ∧ o.query = query ∧ o.desc = x ∧ o.src = src ∧ o.sfmt = c.fmt ∧ o.pairs = c.pairs ∧
      o.base = (c.posb + row0) % 2 ^ 32 ∧ o.table = s.reg r2 ∧ o.row = 0 ∧ o.nan = false ∧ o.ovf = false ∧ o.reg = rd ∧ o.no = s.myCore.opNo

/-- R271 and R272: a free rotary unit of a cluster with tokens takes the next queue's head at level NEXT; a row slot reads, rotates and writes one row; after the
last, rd receives the completion word and the operation leaves its queue. What the rules leave open here is the model's choice (logs 17, 19 and 49). -/
def Piece.RotaryUnit : Prop :=
  ∀ (s : State) (k : Nat) (o : RotOp) (rest : List RotOp),
    let cid := s.spot.place
    let pid := 8 * cid + k
    let u := (s.cluster cid).rot
    let ac := s.clusterAc cid
    let rowAt (i : Nat) : List Nat := packedElems (8 * floatBytes o.sfmt)
      (o.pages.value s.mem (o.src + BitVec.ofNat 64 (i * pairRow o.pairs o.sfmt)) (pairRow o.pairs o.sfmt)) (2 * o.pairs)
    k < 8 → s.clusterRuns cid = true → (s.core pid).rq = o :: rest → s.savedNow pid = false →
    (u.core = none → 0 < (s.tokens cid).next → s.rotNext cid = some k → (s.tokens cid).held = tokenCost cid * (s.tokens cid).next →
      s.noticeOver cid = false →
      ∃ t : State, exec .rotaryStart s = .next t ∧ (t.cluster cid).rot.core = some k ∧ (t.cluster cid).rot.level = (s.tokens cid).next ∧
        (t.cluster cid).rot.begun = ac ∧ (t.tokens cid).level = (s.tokens cid).next ∧ t.cores = s.cores ∧ t.mem = s.mem ∧ t.net = s.net) ∧
    (u.core = some k → o.row < o.nrow → u.until_ ≤ ac → (ac - u.begun) % ((o.pairs + 15) / 16) = 0 → ac ∉ u.starts →
      (u.starts.filter fun x => decide (ac ≤ x + 7 * ((o.pairs + 15) / 16))).length < u.level → s.bad = [] →
      let out := rotateRow (xfield o.desc 60 1 == 1) o.sfmt o.dfmt o.pairs o.e4sat ((o.base + if o.query then 0 else o.row) % 2 ^ 32)
        (packedElems 32 (o.tPages.value s.mem o.table (4 * o.pairs)) o.pairs) (rowAt o.row)
      let bytes := out.flatMap fun e => elemBytes (floatBytes o.dfmt) e.1
      let dst := o.dst + BitVec.ofNat 64 (o.row * pairRow o.pairs o.dfmt)
      ∃ t q, exec .rotaryRow s = .next t ∧ (t.core pid).rq = q :: rest ∧ q.row = o.row + 1 ∧ (t.cluster cid).rot.core = some k ∧
        (∀ h ar, Memory.wf s.mem = true → 0 < bytes.length → bytes.length ≤ 65536 - dst.toNat % 65536 →
          place (o.dPages.phys dst) = some (h, ar) → s.writesWell h = true →
          (∀ i < bytes.length, Memory.byte t.mem (o.dPages.phys dst + i) = bytes.getD i 0) ∧
          ∀ x, (x < o.dPages.phys dst ∨ o.dPages.phys dst + bytes.length ≤ x) → Memory.byte t.mem x = Memory.byte s.mem x) ∧
        t.net = s.net) ∧
    (u.core = some k → o.row = o.nrow → u.until_ ≤ ac → s.holder pid = pid → (s.tokens cid).held ≤ tokenCost cid * (s.tokens cid).next → (s.core pid).fenced = false → (s.slot pid o.slot).live = true →
      (s.slot pid o.slot).gen = o.gen → (s.slot pid o.slot).mark[o.reg] = some .engine →
      ∃ t : State, exec .rotaryComplete s = .next t ∧ (t.core pid).rq = rest ∧ (t.cluster cid).rot.core = none ∧ t.mem = s.mem ∧ t.net = s.net ∧
        (t.slot pid o.slot).g[o.reg] =
          BitVec.ofNat 64 ((if o.ovf then 2 ^ 33 else 0) + (if o.nan then 2 ^ 32 else 0) + 2 ^ 31 + o.row) ∧
        (t.slot pid o.slot).mark[o.reg] = none)

/-- R271: a pair at phase 0 passes unchanged, bit for bit, where source and destination have one format. A position of 0 puts every pair at phase 0. -/
def Piece.RotationAtZero : Prop :=
  ∀ (half e4sat : Bool) (fmt pairs : Nat) (table row : List Nat), fmt ≤ 4 → row.length = 2 * pairs →
    (∀ v ∈ row, v < 2 ^ elemBits fmt ∧ ∃ d, (fmtOf fmt).value v = .fin d) →
    (rotateRow half fmt fmt pairs e4sat 0 table row).map Prod.fst = row

/-- R271: the two elements of a pair of a row at any position: ph is the position times the pair's word of the table, modulo 2^32; x' is Rot(x, c, y, −s) and y' is Rot(x, s, y, c) for the sine s and cosine c of ph, converted by RoundNE to the destination's format. Sn interpolates between two
entries of the table T, rounded once, whose entries at the quarters are 0, 1, 0, −1 and 0. Rot is a × b + e × g rounded once to FP32, +0 where that is 0, which is the model's choice (log 84); canonical NaN for a NaN, for infinity × 0 and for infinities of opposite sign. -/
def Piece.RowRotation : Prop :=
  (∀ (half e4sat : Bool) (sfmt dfmt pairs pos i : Nat) (table row : List Nat), sfmt ≤ 4 → dfmt ≤ 4 → row.length = 2 * pairs → i < pairs →
    let ph (j : Nat) : Nat := pos * table.getD j 0 % 2 ^ 32
    let S := Fmt.fp32.value (sineAt (ph i))
    let C := Fmt.fp32.value (sineAt ((ph i + 2 ^ 30) % 2 ^ 32))
    let ix := if half then i else 2 * i
    let iy := if half then i + pairs else 2 * i + 1
    let x := (fmtOf sfmt).value (row.getD ix 0)
    let y := (fmtOf sfmt).value (row.getD iy 0)
    let out := rotateRow half sfmt dfmt pairs e4sat pos table row
    let written (r : Rounded) : Nat := (roundVal (fmtOf dfmt) .rne e4sat (Fmt.fp32.value r.bits)).bits
    ¬(sfmt = dfmt ∧ ∀ j < pairs, ph j = 0) →
      out.length = 2 * pairs ∧ (out.map Prod.fst)[ix]? = some (written (rot x C y S.negate)) ∧ (out.map Prod.fst)[iy]? = some (written (rot x S y C))) ∧
  (∀ (a b e g : Machine.Dyadic) (neg : Bool),
    let val (d : Machine.Dyadic) : ℝ := (if d.neg then -1 else 1) * d.num * 2 ^ d.exp
    let v := val a * val b + val e * val g
    let r := rot (.fin a) (.fin b) (.fin e) (.fin g)
    (v = 0 → r.bits = 0) ∧ (v ≠ 0 → (neg = true ↔ v < 0) → RoundedOnce .fp32 .rne neg |v| r)) ∧
  (∀ a b e g : FVal,
    let zeroByInf (p q : FVal) : Prop := ∃ n, (p.isZero = true ∧ q = .inf n) ∨ (p = .inf n ∧ q.isZero = true)
    let infinite (p q : FVal) : Prop := ∃ n, p = .inf n ∨ q = .inf n
    (a.isNaN = true ∨ b.isNaN = true ∨ e.isNaN = true ∨ g.isNaN = true ∨ zeroByInf a b ∨ zeroByInf e g ∨
      (infinite a b ∧ infinite e g ∧ (a.isNeg != b.isNeg) ≠ (e.isNeg != g.isNeg)) → (rot a b e g).bits = 0x7FC00000)) ∧
  (∀ (ph : Nat) (a b : Machine.Dyadic) (neg : Bool), ph < 2 ^ 32 →
    let val (d : Machine.Dyadic) : ℝ := (if d.neg then -1 else 1) * d.num * 2 ^ d.exp
    let k := ph / 2 ^ 22
    let v := val a + (val b - val a) * ((ph % 2 ^ 22 : ℕ) / (2 : ℝ) ^ 22)
    Fmt.fp32.value (sineTable k) = .fin a → Fmt.fp32.value (sineTable (k + 1)) = .fin b →
      (v = 0 → sineAt ph = 0) ∧ (v ≠ 0 → (neg = true ↔ v < 0) → ∃ fl, RoundedOnce .fp32 .rne neg |v| ⟨sineAt ph, fl⟩)) ∧
  sineTable 0 = 0 ∧ sineTable 256 = 0x3F800000 ∧ sineTable 512 = 0 ∧ sineTable 768 = 0xBF800000 ∧ sineTable 1024 = 0

/-- R273 and R274: an SMX whose descriptor, ranges and locks pass joins its core's queue, and its fibre waits; the exponent unit takes it while the
cluster holds tokens, reads the rows of its operands in the order A, B, D from the next ac on, and after the last has the rows that R274 makes of them to write; it writes a row's bytes, and when no row is left and its time is over
the fibre goes on and the unit is free from the ac after. A poisoned state stays poisoned, and a state without weight finishes as zeros, EMPTY. What the rules leave open here is the model's choice (logs 17 and 49). -/
def Piece.SoftmaxMerges : Prop :=
  ∀ (s : State),
    (∀ (xn : XIdx) (rd r1 r2 : Reg) (sp ap bp : Pages) (t1 t2 t3 : State),
      let u := s.onMe (slotBegun 4)
      let x := s.xreg xn
      let mode := x.toNat % 4
      let size := if xfield x 20 4 = 0 then 4 else 2
      let dim := xfield x 8 9
      let sb := 16 + 4 * dim
      let ab := if mode = 0 then 4 * xfield x 24 7 else if mode = 1 then sb else 4 * dim
      let bb := if mode = 0 then (xfield x 24 7 - 1) * xfield x 32 32 + dim * size else 0
      let how : Access := if mode = 2 then .store else .load
      engineHere s.cur.core .exponent = true → s.Clear (rd :: r1 :: if mode = 0 then [r2] else []) [] [xn] → smxOk x r2 = true →
      u.operand .store none (s.reg rd) sb 4 = .ok (sp, t1) → t1.operand how none (s.reg r1) ab 4 = .ok (ap, t2) →
      t2.operand .load none (s.reg r2) bb size = .ok (bp, t3) → rangesMeet (s.reg rd) sb (s.reg r1) ab = false →
      (mode = 0 → rangesMeet (s.reg rd) sb (s.reg r2) bb = false ∧ rangesMeet (s.reg r1) ab (s.reg r2) bb = false) →
      t3.checkLocks sp .store (s.reg rd) sb = .ok () → t3.checkLocks ap how (s.reg r1) ab = .ok () →
      (mode = 0 → t3.checkLocks bp .load (s.reg r2) bb = .ok ()) → s.myCore.sq.length < 2 →
      ∃ t o, exec (.smx xn rd r1 r2) s = .next t ∧ IssuedHere s t ∧ (t.core s.cur.core).sq = s.myCore.sq ++ [o] ∧ o.desc = x ∧ o.pages = sp ∧
        o.va = s.reg rd ∧ o.bytes = sb ∧ o.a = .memory ap (s.reg r1) ab ∧
        o.b = (if mode = 0 then .memory bp (s.reg r2) bb else .absent) ∧
        t.slot s.cur.core s.cur.slot = issuedFibre s fun f => { f with hold := some .performing }) ∧
    (∀ (k : Nat) (o : VecOp) (rest : List VecOp) (r : VecRun),
      let cid := s.spot.place
      let ac := s.clusterAc cid
      let mode := o.desc.toNat % 4
      let dim := xfield o.desc 8 9
      let n := xfield o.desc 24 7
      s.clusterRuns cid = true →
      ((s.cluster cid).exp.run = none → (s.cluster cid).exp.freeAt ≤ ac → (s.tokens cid).held ≠ 0 → kindOf (cid % 64) = .attention → k < 8 →
        (s.core (8 * cid + k)).sq = o :: rest → s.savedNow (8 * cid + k) = false → (∀ n < 10, n ≠ k → s.expClient cid n = none) →
        ∃ (t : State) (x : VecRun), exec .smxDispatch s = .next t ∧ (t.cluster cid).exp = { run := some x, last := k } ∧ x.core = 8 * cid + k ∧
          x.op = o ∧ x.failed = none ∧ x.writes = [] ∧ x.next = ac + 1 ∧ x.a = [] ∧ x.b = [] ∧ x.d = [] ∧
          (let aRows := (VecOp.sourceRows 64 o.a).map fun row => (0, row)
           let bRows := (valueRows o).map fun row => (1, row)
           let dRows := (o.pages.rows 64 o.va o.bytes).map fun row => (2, row)
           x.reads = if mode = 0 then aRows ++ bRows ++ dRows else if mode = 2 then dRows else aRows ++ dRows) ∧
          x.ends + 1 = ac + (if mode = 0 then 8 + n + (n * dim + 63) / 64 else 8 + (dim + 15) / 16) ∧
          (t.core (8 * cid + k)).sq = rest ∧ t.mem = s.mem ∧ t.net = s.net) ∧
      ((s.cluster cid).exp.run = some r →
        (r.reads = [] → r.writes = [] → r.next ≤ ac → r.ends ≤ ac →
          ∃ t : State, exec .smxComplete s = .next t ∧ (t.cluster cid).exp = { (s.cluster cid).exp with run := none, freeAt := max r.next r.ends + 1 } ∧ RunEnded s t r) ∧
        (s.rowMay r ac = true → r.op.major = 0x28 → r.op.minor = 2 → ∀ plan,
          let turned (t : State) : Prop :=
            step { s with plan := .row cid 2 :: plan } = .next t ∧ t.plan = plan ∧ t.net = s.net ∧ (t.core r.core).last = some ac
          (∀ row, r.reads = [(2, row)] → s.badRow r 2 row = none →
            let q : VecRun := { r with reads := [], d := r.d ++ row.flatMap fun p => Memory.bytes s.mem p.1 p.2 }
            ∃ (t : State) (x : VecRun), turned t ∧ t.mem = s.mem ∧ (t.cluster cid).exp.run = some x ∧ x.reads = [] ∧ x.writes = smxWrites q ∧
              x.failed = r.failed) ∧
          (∀ va w row more, r.reads = (w, row) :: more → s.badRow r w row = some va →
            ∃ t : State, turned t ∧ t.mem = s.mem ∧
              (t.cluster cid).exp.run = some { r with reads := [], failed := some va, next := ac + 1 }) ∧
          (∀ pa b more h ar, r.reads = [] → r.writes = [(pa, b)] :: more → place pa = some (h, ar) → Memory.wf s.mem = true → s.writesWell h = true →
            ∃ (t : State) (x : VecRun), turned t ∧ (t.cluster cid).exp.run = some x ∧ x.writes = more ∧
              (∀ i < b.length, Memory.byte t.mem (pa + i) = b.getD i 0) ∧
              ∀ z, (z < pa ∨ pa + b.length ≤ z) → Memory.byte t.mem z = Memory.byte s.mem z)))) ∧
    ∀ (t v : Softmax) (scores : List Nat) (rows : List (List FVal)),
      (t.flags % 2 = 1 →
        (t.score scores rows).flags % 2 = 1 ∧ (t.merge v).flags % 2 = 1 ∧ (v.merge t).flags % 2 = 1 ∧
          t.finish = (t.o.map fun _ => 0x7FC00000, false)) ∧
      (t.flags % 2 = 0 → t.m = 0xFF800000 → t.finish = (t.o.map fun _ => 0, true))

/-- R274: SCORE and MERGE of states whose m and scores are finite or −inf: with nothing but −inf they change nothing; else m becomes the greatest of them, and l and every o[c] the exact sum, rounded once, of the old one and what comes in, each times its weight: 0 for −inf, which makes its term 0
whatever it multiplies, else E(D(x, m)). A NaN or +inf poisons. FINISH divides, rounding once, and a state with m = −inf or l = 0 finishes as +0, EMPTY. The +0 of a sum that is 0 is the model's choice (log 84). -/
def Piece.SoftmaxArithmetic : Prop :=
  ∀ (t v : Softmax) (scores : List Nat) (rows : List (List FVal)),
    let real (x : FVal) : ℝ := match x with | .fin d => (if d.neg then -1 else 1) * d.num * 2 ^ d.exp | _ => 0
    let fin (x : FVal) : Prop := ∃ d, x = .fin d
    let low (x : Nat) : Prop := single x = .inf true
    let poisoned (x : Nat) : Prop := (single x).isNaN = true ∨ single x = .inf false
    let rounded (z : ℝ) (bits : Nat) : Prop :=
      (z = 0 → bits = 0) ∧ ∀ neg : Bool, z ≠ 0 → (neg = true ↔ z < 0) → ∃ fl, RoundedOnce .fp32 .rne neg |z| ⟨bits, fl⟩
    let W (x m : Nat) : FVal :=
      if single x = .inf true then .fin (Machine.Dyadic.zero false)
      else single (exp2 .fp32 .rne (single (fadd .fp32 .rne (single x) (single m).negate).bits)).bits
    let term (w x : FVal) : Prop := fin w ∧ (w.isZero = true ∨ fin x)
    let greatest (m : Nat) (l : List Nat) : Prop :=
      m ∈ l ∧ fin (single m) ∧ ∀ x ∈ l, low x ∨ real (single x) ≤ real (single m)
    let ruined (u : Softmax) : Prop :=
      u = { m := 0x7FC00000, l := 0x7FC00000, flags := t.flags ||| 1, o := t.o.map fun _ => 0x7FC00000 }
    t.flags % 2 = 0 →
    (let all := t.m :: scores
     let u := t.score scores rows
     ((∃ x ∈ all, poisoned x) → ruined u) ∧
     ((∀ x ∈ all, low x) → u = t) ∧
     ((∀ x ∈ all, low x ∨ fin (single x)) → (∃ x ∈ all, fin (single x)) → rows.length = scores.length →
       greatest u.m all ∧ u.flags = t.flags ∧ u.o.length = t.o.length ∧
       (term (W t.m u.m) (single t.l) → (∀ x ∈ scores, fin (W x u.m)) →
         rounded (real (W t.m u.m) * real (single t.l) + (scores.map fun x => real (W x u.m)).sum) u.l) ∧
       ∀ (c o : Nat), t.o[c]? = some o → term (W t.m u.m) (single o) →
         (∀ e ∈ scores.zip rows, term (W e.1 u.m) (e.2.getD c (.fin (Machine.Dyadic.zero false)))) →
         ∃ b, u.o[c]? = some b ∧ rounded (real (W t.m u.m) * real (single o) +
           ((scores.zip rows).map fun e => real (W e.1 u.m) * real (e.2.getD c (.fin (Machine.Dyadic.zero false)))).sum) b)) ∧
    (v.flags % 2 = 0 → v.o.length = t.o.length →
     let all := [t.m, v.m]
     let u := t.merge v
     ((∃ x ∈ all, poisoned x) → ruined u) ∧
     ((∀ x ∈ all, low x) → u = t) ∧
     ((∀ x ∈ all, low x ∨ fin (single x)) → (∃ x ∈ all, fin (single x)) →
       greatest u.m all ∧ u.flags = t.flags ∧ u.o.length = t.o.length ∧
       (term (W t.m u.m) (single t.l) → term (W v.m u.m) (single v.l) →
         rounded (real (W t.m u.m) * real (single t.l) + real (W v.m u.m) * real (single v.l)) u.l) ∧
       ∀ (c o p : Nat), t.o[c]? = some o → v.o[c]? = some p → term (W t.m u.m) (single o) → term (W v.m u.m) (single p) →
         ∃ b, u.o[c]? = some b ∧ rounded (real (W t.m u.m) * real (single o) + real (W v.m u.m) * real (single p)) b)) ∧
    (low t.m ∨ (single t.l).isZero = true → t.finish = (t.o.map fun _ => 0, true)) ∧
    (¬low t.m → fin (single t.l) → (single t.l).isZero = false →
      t.finish.2 = false ∧ t.finish.1.length = t.o.length ∧
      ∀ (c o : Nat) (neg : Bool), t.o[c]? = some o → fin (single o) → let z := real (single o) / real (single t.l)
        z ≠ 0 → (neg = true ↔ z < 0) → ∃ b fl, t.finish.1[c]? = some b ∧ RoundedOnce .fp32 .rne neg |z| ⟨b, fl⟩)

/-- R268, R275 and R276: CACQ writes the reference count and raises it, unless it is at its greatest; CPOS writes the old position and stores the new one; CREL of
a count above 1 lowers it and writes 0, of 0 writes 3, and of 1 releases a course whose keys no lock of its own cluster's table covers, with 1, or leaves it, with 2. What the rules leave open here is the model's choice (log 48). -/
def Piece.CourseCounts : Prop :=
  ∀ (s : State) (rd a b : Reg) (c : Course) (pa : Nat) (h : Home) (t1 : State),
    let u := s.onMe (slotBegun 4)
    let refs (m : List Host.Cell) : Nat := Memory.value m (pa + 16) 4
    let kept (t : State) (lo : Nat) : Prop := ∀ x, (x < lo ∨ lo + 4 ≤ x) → Memory.byte t.mem x = Memory.byte s.mem x
    let wrote (t : State) (v : Word) : Prop :=
      (t.slot s.cur.core s.cur.slot).g[rd] = v ∧ (∀ r : Reg, r ≠ rd → (t.slot s.cur.core s.cur.slot).g[r] = s.me.g[r]) ∧ t.net = s.net ∧
        t.regions = s.regions ∧ ∀ n, n ≠ s.cur.slot → t.slot s.cur.core n = s.slot s.cur.core n
    Memory.wf s.mem = true → u.readCourse .atomic .atomic (s.reg a) = .ok (c, pa, t1) → place (pa + 16) = some (h, .memory) →
    place (pa + 8) = some (h, .memory) →
    (s.Clear [a] [rd] [] →
      ∃ t : State, exec (.cacq rd a) s = .next t ∧ wrote t (BitVec.ofNat 64 c.ref) ∧ kept t (pa + 16) ∧
        (c.ref ≠ 2 ^ 32 - 1 → refs t.mem = c.ref + 1) ∧ (c.ref = 2 ^ 32 - 1 → t.mem = s.mem)) ∧
    (s.Clear [a, b] [rd] [] →
      ∃ t : State, exec (.cpos rd a b) s = .next t ∧ wrote t ((BitVec.ofNat 32 c.posb).signExtend 64) ∧ kept t (pa + 8) ∧
        Memory.value t.mem (pa + 8) 4 = (s.reg b).toNat % 2 ^ 32) ∧
    (s.Clear [a] [rd] [] →
      (1 < c.ref → ∃ t : State, exec (.crel rd a) s = .next t ∧ wrote t 0 ∧ kept t (pa + 16) ∧ refs t.mem = c.ref - 1) ∧
      (c.ref = 0 → ∃ t : State, exec (.crel rd a) s = .next t ∧ wrote t 3 ∧ t.mem = s.mem) ∧
      (∀ kp g rest t2,
        let n := 64 * pairRow c.pairs c.fmt
        c.ref = 1 → t1.translateRange s.cur.core u.me .load .atomic c.addr n = .ok (kp, t2) → kp.places = some (g, .memory) :: rest →
        g.table? = some (.cluster (s.cur.core / 8)) →
        let busy := (s.cluster (s.cur.core / 8)).locks.any fun e => overlaps (kp.span c.addr n).1 (kp.span c.addr n).2 e.2.first e.2.last
        (busy = false → ∃ t : State, exec (.crel rd a) s = .next t ∧ wrote t 1 ∧ kept t (pa + 16) ∧ refs t.mem = 0) ∧
        (busy = true → ∃ t : State, exec (.crel rd a) s = .next t ∧ wrote t 2 ∧ t.mem = s.mem)))

/-- R276: a CREL of the last reference whose keys another table than its cluster's covers answers 2, changing nothing, where a lock meets its descriptor; else it takes a tag, registers a full lock on the descriptor, marks rd pending and asks that table in TC1. On the
REPLY, 1 makes REF 0, 2 leaves it, and a refusal leaves it; the descriptor's lock goes in each case, the tag is freed, and rd receives the status, or is refused. What the rules leave open here is the model's choice (logs 10 and 48). -/
def Piece.CourseReleases : Prop :=
  (∀ (s : State) (rd a : Reg) (c : Course) (pa n : Nat) (h g : Home) (kp : Pages) (places : List (Option (Home × Area))) (k : LockTable) (t1 t2 : State),
    let u := s.onMe (slotBegun 4)
    let size := 64 * pairRow c.pairs c.fmt
    let mine := h.table?
    let lock (op : Nat) : Lock := { first := pa, last := pa + 31, full := true, eng := 5, owner := s.cur.core, op := op, since := 0 }
    s.Clear [a] [rd] [] → u.readCourse .atomic .atomic (s.reg a) = .ok (c, pa, t1) → place pa = some (h, .memory) → c.ref = 1 →
    t1.translateRange s.cur.core u.me .load .atomic c.addr size = .ok (kp, t2) → kp.places = some (g, .memory) :: places →
    g.table? = some k → k ≠ .cluster (s.cur.core / 8) →
    (t2.addLock mine (lock 0) = .conflict → ∃ t : State, exec (.crel rd a) s = .next t ∧ (t.slot s.cur.core s.cur.slot).g[rd] = 2 ∧ t.mem = s.mem ∧ t.net = s.net ∧
      (t.core s.cur.core).tags = s.myCore.tags) ∧
    (∀ v, t2.addLock mine (lock (n % 256)) = .added v → t2.vectorDefers mine (lock 0) = false →
      freeIndex s.myCore.tags 512 = some n → s.tagsOf s.cur.core s.cur.slot s.me.gen < 32 →
      ∃ (t : State) (x : Packet) (y : Tag), exec (.crel rd a) s = .next t ∧ t.mem = s.mem ∧ t.net = s.net ++ [x] ∧ x.src = .core s.cur.core ∧ x.dst = .home g ∧ x.tc = 1 ∧
        x.load = .check s.cur.core n (kp.span c.addr size).1 (kp.span c.addr size).2 ∧
        (t.core s.cur.core).tags = Tab.put s.myCore.tags n y ∧ y.use = .course rd pa ∧ y.slot = s.cur.slot ∧ y.gen = s.me.gen ∧
        (t.slot s.cur.core s.cur.slot).mark[rd] = some .load ∧ (t.slot s.cur.core s.cur.slot).pc = s.me.pc + 4 ∧
        ∀ j, mine = some j → t.lockEntries j = v.lockEntries j)) ∧
  ∀ (s : State) (p : Packet) (m : Msg) (tg : Bool) (pid pa : Nat) (h : Home) (reg : Reg) (y : Tag) (k : LockTable),
    s.front s.spot.place = some p → p.load = .msg m tg → p.dst = .core pid → m.kind = 5 → (s.core pid).fenced = false → s.portRuns pid = true →
    s.holder pid = pid → s.savedNow pid = false → Tab.look (s.core pid).tags (fld m.sel 0 9) = some y → y.use = .course reg pa →
    place pa = some (h, .memory) → h.table? = some k → s.writesWell h = true → Memory.wf s.mem = true →
    (s.slot pid y.slot).live = true → (s.slot pid y.slot).gen = y.gen → (s.slot pid y.slot).mark[reg] = some .load →
    let status := fld m.sel 9 3
    ∃ t : State, exec .replyArrival s = .next t ∧
      (status = 0 → m.word 0 = 1 → Memory.value t.mem (pa + 16) 4 = 0 ∧
        ∀ x, (x < pa + 16 ∨ pa + 20 ≤ x) → Memory.byte t.mem x = Memory.byte s.mem x) ∧
      ((status ≠ 0 ∨ m.word 0 ≠ 1) → t.mem = s.mem) ∧
      (∀ e ∈ t.lockEntries k, ¬(e.2.eng = 5 ∧ e.2.first = pa)) ∧ (∀ e ∈ s.lockEntries k, ¬(e.2.eng = 5 ∧ e.2.first = pa) → e ∈ t.lockEntries k) ∧
      (t.core pid).tags = Tab.remove (s.core pid).tags (fld m.sel 0 9) ∧ (t.slot pid y.slot).mark[reg] = none ∧
      (statusCode status = none → (t.slot pid y.slot).g[reg] = m.word 0) ∧
      (∀ code, statusCode status = some code → (t.slot pid y.slot).g[reg] = y.place ∧ ∃ kind, (t.slot pid y.slot).refused[reg] = some { code := code, kind := kind })

/-- R276: a remote check of a key range is answered at its table with 1, or with 2 where a lock covers some of it. What the rules leave open here is the model's choice (log 48). -/
def Piece.CourseChecks : Prop :=
  ∀ (s : State) (p : Packet) (core tag first last : Nat) (h : Home) (k : LockTable),
    s.front s.spot.place = some p → p.load = .check core tag first last → p.dst = .home h → h.table? = some k →
    s.homeRefuses core (s.entryTask core == 0 || isService core) h first = false → s.homeRuns h = true → tag < 512 →
    s.rankOf core < 65536 → h.number < 65536 →
    ∃ t x m, exec .courseReleaseCheck s = .next t ∧ t.net = (s.taken s.spot.place).net ++ [x] ∧ x.dst = .core core ∧ x.load = .msg m false ∧
      m.kind = 5 ∧ fld m.sel 0 9 = tag ∧ fld m.sel 9 3 = 0 ∧
      m.data = [if (s.lockEntries k).any fun e => overlaps first last e.2.first e.2.last then 2 else 1] ∧ t.mem = s.mem ∧ t.cores = s.cores ∧
      t.clusters = s.clusters ∧ t.regions = s.regions
/-! ### The gather unit -/

/-- The issuing core's gather unit alone has changed, beside the fibre and the micro-TLB's order. -/
def OnlyGather (s t : State) (g : Gather) : Prop :=
  IssuedHere s t ∧ (t.core s.cur.core).gk = g ∧ (t.core s.cur.core).fpmode = s.myCore.fpmode ∧
    coreRest { t.core s.cur.core with gk := Gather.initial, utlb := [] } = coreRest { s.myCore with gk := Gather.initial, utlb := [] }

/-- R277, R278 and R280: GK.SET takes a legal kernel into the store of an idle unit; GK.ARM arms an idle unit that holds a kernel, and its rd is pending; GK.STOP of
an idle unit writes 0, and otherwise stops the unit: at once where no run is in progress, with the count of runs in both registers. A unit that is not idle takes
neither GK.SET nor GK.ARM. What the rules leave open here is the model's choice (logs 16 and 35). -/
def Piece.GatherForms : Prop :=
  ∀ (s : State) (xn : XIdx) (rd a : Reg),
    let u := s.onMe (slotBegun 4)
    let g := s.myCore.gk
    let x := s.xreg xn
    let watch := (x.extractLsb' 0 56).signExtend 64
    let lines := (x.extractLsb' 56 6).toNat + 1
    let buf := (x.extractLsb' 64 56).signExtend 64
    let bytes := 256 * (x.extractLsb' 120 8).toNat
    (s.Clear [a] [] [] → g.mode ≠ .idle → exec (.gkSet a) s = .next (s.trapped (trapOf .illegal .engine 0))) ∧
    (∀ ps h t1 v l, s.Clear [a] [] [] → g.mode = .idle → u.checkLocal .load .engine (s.reg a) 128 8 = .ok (ps, h, t1) →
      t1.localRead .engine ps h (s.reg a) 128 = .ok v →
      let parcels : List Parcel := (List.range 64).map fun i => BitVec.ofNat 16 (v / 2 ^ (16 * i))
      kernelOf 0 32 parcels = some l →
      (kernelLegal l = true → ∃ t : State, exec (.gkSet a) s = .next t ∧ OnlyGather s t { g with store := parcels } ∧
        t.slot s.cur.core s.cur.slot = issuedFibre s id) ∧
      (kernelLegal l = false → exec (.gkSet a) s = .next (s.trapped (trapOf .illegal .engine 0)))) ∧
    (∀ ps qs t1 t2, s.Clear [a] [rd] [xn] → g.mode = .idle → g.store ≠ [] → x.extractLsb' 62 2 = 0#2 → bytes ≠ 0 →
      overlaps watch.toNat (watch.toNat + 64 * lines - 1) buf.toNat (buf.toNat + bytes - 1) = false →
      ownTcm u .load watch (64 * lines) 64 = .ok (ps, t1) → ownTcm t1 .store buf bytes 8 = .ok (qs, t2) →
      ∃ t k, exec (.gkArm xn rd a) s = .next t ∧ OnlyGather s t k ∧ t.slot s.cur.core s.cur.slot = issuedFibre s (fun f => f.markPending rd .gather) ∧
        k.mode = .armed ∧ k.store = g.store ∧ k.slot = s.cur.slot ∧ k.gen = s.me.gen ∧ k.reg = rd ∧ k.arg = s.reg a ∧ k.watch = watch ∧
        k.pages = ps ∧ k.lines = lines ∧ k.buf = buf ∧ k.bytes = bytes ∧ k.seen = 0 ∧ k.waits = [] ∧ k.runs = 0 ∧ k.ctx.live = false) ∧
    (s.Clear [a] [rd] [xn] → (g.mode ≠ .idle ∨ g.store = []) →
      exec (.gkArm xn rd a) s = .next (s.trapped (trapOf .illegal .engine 0))) ∧
    (s.Clear [] [rd] [] → g.mode = .idle → exec (.gkStop rd) s = .next (s.wrote rd 0)) ∧
    (s.Clear [] [rd] [] → (g.mode = .armed ∨ g.mode = .stopping) → g.ctx.live = true →
      exec (.gkStop rd) s = .next (s.after 4 1 (fun f => f.markPending rd .gather) fun c =>
        { c with gk := { c.gk with mode := .stopping, stop := c.gk.stop ++ [(s.cur.slot, s.me.gen, rd)] } })) ∧
    (s.Clear [] [rd] [] → g.mode = .armed → g.ctx.live = false → g.stop = [] → s.myCore.fenced = false → s.holder s.cur.core = s.cur.core → s.savedNow s.cur.core = false →
      ∃ t : State, exec (.gkStop rd) s = .next t ∧ (t.core s.cur.core).gk.mode = .idle ∧ t.mem = s.mem ∧ t.net = s.net ∧
        (t.slot s.cur.core s.cur.slot).g[rd] = BitVec.ofNat 64 g.runs ∧ (t.slot s.cur.core s.cur.slot).mark[rd] = none ∧
        ((s.slot s.cur.core g.slot).live = true → (s.slot s.cur.core g.slot).gen = g.gen →
          (s.slot s.cur.core g.slot).mark[g.reg] = some .gather →
          (t.slot s.cur.core g.slot).g[g.reg] = BitVec.ofNat 64 (g.runs + 2 ^ 31 + 2 ^ 32) ∧ (t.slot s.cur.core g.slot).mark[g.reg] = none))

/-- R278: the first triggered line of an armed unit starts a run, with the line's address and index, Reg(rs1) of GK.ARM and BUF in g0 to g3; the kernel issues one
instruction in 8 ac: an ADD adds, an EXIT of either length ends the run, whose loads then write nothing, and the last run ends the arming. What the rules leave open here is the model's choice (log 35). -/
def Piece.GatherRuns : Prop :=
  ∀ (s : State) (j : Nat) (rest : List Nat),
    let pid := s.spot.place
    let g := (s.core pid).gk
    let kept (t : State) : Prop := t.mem = s.mem ∧ t.net = s.net ∧ ∀ q, q ≠ pid → t.core q = s.core q
    (g.waits = j :: rest → g.mode = .armed → g.ctx.live = false → s.gatherRuns pid = true →
      ∃ t : State, exec .gatherRunStart s = .next t ∧ kept t ∧ (∀ n, t.slot pid n = s.slot pid n) ∧
        let k := (t.core pid).gk
        k.waits = rest ∧ k.line = some j ∧ k.mode = .armed ∧ k.runs = g.runs ∧ k.ctx.live = true ∧ k.ctx.pc = 0 ∧
          k.ctx.readyAt = s.coreAc pid + 1 ∧ k.ctx.g[0] = g.watch + BitVec.ofNat 64 (64 * j) ∧ k.ctx.g[1] = BitVec.ofNat 64 j ∧
          k.ctx.g[2] = g.arg ∧ k.ctx.g[3] = g.buf ∧ ∀ r : Reg, 4 ≤ r.val → k.ctx.g[r] = 0) ∧
    (g.ctx.live = true → g.ctx.hold = none → g.ctx.readyAt ≤ s.coreAc pid → s.gatherRuns pid = true → s.tooLate pid = false →
      (∀ rd a b : Reg, State.kernelInstr g = some (.add rd a b) → g.ctx.frozen = false → g.ctx.unc = false → g.mode ≠ .faulted →
        (∀ r : Reg, r = rd ∨ r = a ∨ r = b → g.ctx.mark[r] = none ∧ g.ctx.refused[r] = none) →
        ∃ t : State, exec .gatherKernelStep s = .next t ∧ kept t ∧ (∀ n, t.slot pid n = s.slot pid n) ∧
          (t.core pid).gk = { g with ctx := { (g.ctx.write rd (g.ctx.g[a] + g.ctx.g[b])) with pc := g.ctx.pc + 4, readyAt := s.coreAc pid + 8, walked := [] } }) ∧
      (State.kernelInstr g = some .exit ∨ State.kernelInstr g = some .exitS → g.mode = .armed →
        ((g.waits ≠ [] ∨ ∃ i < g.lines, g.seen.getLsbD i = false) →
          ∃ t : State, exec .gatherKernelStep s = .next t ∧ kept t ∧ (∀ n, t.slot pid n = s.slot pid n) ∧ (t.core pid).gk.runs = g.runs + 1 ∧
            (t.core pid).gk.ctx.live = false ∧ (t.core pid).gk.line = none ∧ (t.core pid).gk.mode = .armed ∧ (t.core pid).gk.waits = g.waits ∧
            ∀ e ∈ (t.core pid).gk.tags, e.2.stale = true) ∧
        (g.waits = [] → (∀ i < g.lines, g.seen.getLsbD i = true) → g.stop = [] → (s.core pid).fenced = false → s.holder pid = pid → s.savedNow pid = false →
          (s.slot pid g.slot).live = true → (s.slot pid g.slot).gen = g.gen → (s.slot pid g.slot).mark[g.reg] = some .gather →
          ∃ t : State, exec .gatherKernelStep s = .next t ∧ kept t ∧ (t.core pid).gk.mode = .idle ∧
            (t.slot pid g.slot).g[g.reg] = BitVec.ofNat 64 (g.runs + 1 + 2 ^ 31) ∧ (t.slot pid g.slot).mark[g.reg] = none)))

/-! ### Tokens -/

/-- The word of a token request (R227), as it comes into the mesh: its core, what it asks, and the message with its tag. -/
def tokenPacket (s : State) (ask level other tag : Nat) : Packet where
  src := .core s.cur.core
  dst := .zone (s.cur.core / 512) (zoneOf (s.cur.core / 8))
  tc := 0
  load := .token s.cur.core ask level other
    { rw := (s.fibreRouting .supervisor 0 0xFFFF false).word, sel := BitVec.ofNat 64 (tag * 2 ^ 55), data := [0] }
  here := s.cur.core / 8
  held := none
  pasid := none

/-- The tag of a token request (R69, R227). -/
def tokenTag (s : State) (rd : Reg) (w : Word) : Tag where
  slot := s.cur.slot
  gen := s.me.gen
  use := .value rd .instruction
  scope := .region
  pc := s.me.pcWord
  place := w
  issuer := s.cur.core

/-- No request is queued and no lend is being recalled in a zone (R255). -/
def QuietZone (s : State) (r z : Nat) : Prop := ∀ c ∈ zoneClusters r z, (s.tokens c).waiting = none ∧ (s.tokens c).reclaim = none

/-- R227 to R233: TKREQ, TKLEND and TKRET with a legal word ask the cluster's zone broker under a tag, and rd is pending. A TKLEND that the cluster takes
lowers NEXT to KEEP at once, and one that it does not take says so to the broker; a TKRET below the level granted lowers NEXT at once; where no level-paced engine is executing the tokens above NEXT are passed back at once, and a
lend begins with them. TKQ writes the holdings word, in which a notice period that is over has lowered NEXT; ECLS replaces the fibre's class and writes the old one; a word that is not legal traps ILLEGAL. What the rules leave open here is the model's choice (logs 10, 22, 55 and 59). -/
def Piece.TokenRequests : Prop :=
  ∀ (s : State) (rd a : Reg) (n : Nat),
    let w := s.reg a
    let level := fld w 0 4
    let cid := s.cur.core / 8
    let x := s.tokens cid
    let k := tokenCost cid
    let r := cid / 64
    let z := zoneOf cid
    let asked (ask other : Nat) : State :=
      (s.after 4 1 (fun f => f.markPending rd .load) fun c => { c with tags := Tab.put c.tags n (tokenTag s rd w) }).enter
        (tokenPacket s ask level other n)
    let illegal : Host.Outcome State Fault Refusal := .next (s.trapped (trapOf .illegal .instruction 0))
    let waits (t : State) : Prop :=
      t.mem = s.mem ∧ t.slot s.cur.core s.cur.slot = issuedFibre s (fun f => f.markPending rd .load) ∧
        (t.core s.cur.core).tags = Tab.put s.myCore.tags n (tokenTag s rd w) ∧ ∀ p, p ≠ s.cur.core → t.core p = s.core p
    (s.Clear [a] [rd] [] → engineHere s.cur.core .matrix = true →
      ((8 < level ∨ fld w 4 4 ≠ 0 ∨ fld w 9 55 ≠ 0) → exec (.tkreq rd a) s = illegal) ∧
      (level ≤ 8 → fld w 4 4 = 0 → fld w 9 55 = 0 → s.TagFree n → exec (.tkreq rd a) s = .next (asked 0 (if flag w 8 then 1 else 0))) ∧
      ((8 < level ∨ fld w 4 28 ≠ 0 ∨ fld w 32 32 = 0) → exec (.tklend rd a) s = illegal) ∧
      (level ≤ 8 → fld w 4 28 = 0 → fld w 32 32 ≠ 0 → s.TagFree n →
        (∃ t : State, exec (.tklend rd a) s = .next t ∧ waits t) ∧
        (s.noticeOver cid = false → s.mayLend cid level = false → exec (.tklend rd a) s = .next (asked 3 (fld w 32 32))) ∧
        (s.noticeOver cid = false → s.mayLend cid level = true →
          (s.paced cid = true →
            exec (.tklend rd a) s = .next (((asked 2 (fld w 32 32)).onTokens cid fun y => { y with lendAsk := some (level, fld w 32 32) }).onTokens
              cid fun y => { y with next := min y.next level })) ∧
          (s.paced cid = false → (∀ q < 4, QuietZone s r q) → cid % 64 < 36 → k * min x.next level < x.held → x.borrow = 0 →
            ∃ t : State, exec (.tklend rd a) s = .next t ∧ waits t ∧ s.markHeld (tokenPacket s 2 level (fld w 32 32) n) ∈ t.net ∧
              (let y := t.tokens cid
               y.next = min x.next level ∧ y.held = k * y.next ∧ y.keep = level ∧ y.gl = x.gl ∧ y.lending = true ∧
                 y.lendEnd = some (s.now + 1400 * fld w 32 32) ∧ y.lent = x.lent + min (x.held - k * y.next) (k * (x.gl - level))) ∧
              (t.zone r z).free = (s.zone r z).free + (x.held - k * min x.next level)))) ∧
      ((8 < level ∨ fld w 4 60 ≠ 0) → exec (.tkret rd a) s = illegal) ∧
      (level ≤ 8 → fld w 4 60 = 0 → s.TagFree n →
        (∃ t : State, exec (.tkret rd a) s = .next t ∧ waits t) ∧
        (s.noticeOver cid = false → x.gl ≤ level → exec (.tkret rd a) s = .next (asked 1 0)) ∧
        (s.noticeOver cid = false → level < x.gl → s.paced cid = true →
          exec (.tkret rd a) s = .next ((asked 1 0).onTokens cid fun x => { x with next := min x.next level })) ∧
        (s.noticeOver cid = false → level < x.gl → s.paced cid = false → x.waiting = none → x.reclaim = none →
          ∃ t : State, exec (.tkret rd a) s = .next t ∧ waits t ∧ (t.tokens cid).next ≤ level ∧ (t.tokens cid).held ≤ k * level ∧
            s.markHeld (tokenPacket s 1 level 0 n) ∈ t.net))) ∧
    (s.Clear [] [rd] [] →
      let none_ := isService s.cur.core || kindOf (cid % 64) == .vector
      (none_ = true → exec (.tkq rd) s = .next (s.wrote rd 0)) ∧
      (none_ = false →
        (∃ v : Word, exec (.tkq rd) s = .next (s.wrote rd v)) ∧
        (s.noticeOver cid = false → exec (.tkq rd) s = .next (s.wrote rd x.word)) ∧
        (s.noticeOver cid = true → s.paced cid = true →
          exec (.tkq rd) s = .next (s.wrote rd ({ x with throt := true, next := x.tgt } : Tokens).word)))) ∧
    (s.Clear [a] [rd] [] →
      (fld w 3 61 = 0 →
        exec (.ecls rd a) s = .next (s.after 4 1 (fun f => { f.write rd (s.me.ecls.setWidth 64) with ecls := w.setWidth 3 }) id)) ∧
      (fld w 3 61 ≠ 0 → exec (.ecls rd a) s = illegal))

/-- The broker's answer to a request of a core of a cluster (R227, R228): a REPLY with the holdings word. -/
def TokensAnswered (s t : State) (cid core : Nat) (m : Msg) : Prop :=
  t.Answered (s.taken s.spot.place).net (.zone (cid / 64) (zoneOf cid)) (.core core) m 0 (t.tokens cid).word

/-- R228 to R231, R255, R256 and R260: a TKREQ at or below the level granted is answered with the holdings; one above it that the zone's tokens cover is granted in full, and the
zone's free tokens fall by the cost; a TKRET lowers the level granted and is answered once the tokens are back; a TKLEND that its cluster has not taken is
answered without a loan, and one that it has taken, whose tokens have not passed back, waits for them. What the rules leave open here is the model's choice (logs 22, 55 and 77). -/
def Piece.BrokerAnswers : Prop :=
  ∀ (s : State) (p : Packet) (m : Msg) (core level other : Nat),
    let cid := core / 8
    let r := cid / 64
    let z := zoneOf cid
    let x := s.tokens cid
    let k := tokenCost cid
    let need := k * (level - x.gl)
    let others (t : State) : Prop := t.mem = s.mem ∧ t.cores = s.cores ∧ ∀ c, c ≠ cid → t.tokens c = s.tokens c
    s.front s.spot.place = some p → s.darkRouter p.here = false → s.clusterRuns (p.here / 64 * 64 + 63) = true → cid ∈ zoneClusters r z → r < 63 →
    (p.load = .token core 0 level other m → x.lending = false →
      (level ≤ x.gl → ∃ t : State, exec .brokerRequest s = .next t ∧ TokensAnswered s t cid core m ∧ others t ∧
        t.tokens cid = { x with throt := false } ∧ t.regions = s.regions) ∧
      (x.gl < level → other = 1 → (∀ q < 4, QuietZone s r q) → x.tgt = 15 → x.lendAsk = none → x.owed = [] → need ≤ s.grantable r z →
        ∃ t : State, exec .brokerRequest s = .next t ∧ TokensAnswered s t cid core m ∧ others t ∧ (t.tokens cid).gl = level ∧
          (t.tokens cid).keep = level ∧ (t.tokens cid).next = level ∧ (t.tokens cid).held = x.held + need ∧ (t.tokens cid).waiting = none ∧
          (t.zone r z).free = (s.zone r z).free - need ∧ (t.zone r z).budget = (s.zone r z).budget ∧
          ∀ y, y ≠ z → t.zone r y = s.zone r y)) ∧
    (p.load = .token core 1 level other m →
      (x.gl ≤ level → ∃ t : State, exec .brokerReturn s = .next t ∧ TokensAnswered s t cid core m ∧ others t ∧
        t.tokens cid = { x with throt := false } ∧ t.regions = s.regions) ∧
      (level < x.gl → x.lending = false → (∀ q < 4, QuietZone s r q) → x.next ≤ level → x.held ≤ k * x.next →
        ∃ t : State, exec .brokerReturn s = .next t ∧ TokensAnswered s t cid core m ∧ others t ∧ (t.tokens cid).gl = level ∧
          (t.tokens cid).held = x.held ∧ t.zone r z = s.zone r z)) ∧
    (p.load = .token core 3 level other m →
      ∃ t : State, exec .brokerLend s = .next t ∧ TokensAnswered s t cid core m ∧ others t ∧ t.tokens cid = { x with throt := false }) ∧
    (p.load = .token core 2 level other m →
      (x.lendAsk = none →
        ∃ t : State, exec .brokerLend s = .next t ∧ TokensAnswered s t cid core m ∧ others t ∧ t.tokens cid = { x with throt := false }) ∧
      (x.lendAsk ≠ none → s.paced cid = true →
        ∃ t : State, exec .brokerLend s = .next t ∧ t.net = (s.taken s.spot.place).net ∧ others t ∧ t.regions = s.regions ∧
          t.tokens cid = { x with
            keep := level, next := min x.next level, owed := x.owed ++ [{ ask := .lend level other, core := core, reply := some m }] }))

/-- R230, R231, R257 and R260: when DUR of a lend ends and its tokens are free, they come back; a notice lands and announces itself by cr.tknote's COUNT; 200 rc, of 1,400 ticks each, later the throttle lowers NEXT to the
notice's target, after a TKRET that issues in that ac; a write of TKENT.GL below the grant lowers it. What the rules leave open here is the model's choice (logs 19 and 22). -/
def Piece.LendsAndNotices : Prop :=
  ∀ (s : State) (p : Packet),
    let cid := s.spot.place
    let r := cid / 64
    let z := zoneOf cid
    let x := s.tokens cid
    let k := tokenCost cid
    (∀ e, s.clusterRuns (r * 64 + 63) = true → cid ∈ zoneClusters r z → r < 63 → x.lendEnd = some e → x.lending = true → (∀ q < 4, QuietZone s r q) → e ≤ s.now → x.keep ≤ x.gl →
      x.lent = k * (x.gl - x.keep) → k * (x.gl - x.keep) ≤ (s.zone r z).loaned → k * (x.gl - x.keep) ≤ (s.zone r z).free →
      s.regionHeld r + k * (x.gl - x.keep) ≤ s.tokenCap r →
      ∃ t : State, exec .lendExpiry s = .next t ∧ (t.tokens cid).lending = false ∧ (t.tokens cid).lent = 0 ∧ (t.tokens cid).next = x.gl ∧
        (t.tokens cid).gl = x.gl ∧ (t.tokens cid).keep = x.gl ∧ (t.tokens cid).held = x.held + k * (x.gl - x.keep) ∧ t.net = s.net ∧
        (t.zone r z).free = (s.zone r z).free - k * (x.gl - x.keep) ∧ (t.zone r z).loaned = (s.zone r z).loaned - k * (x.gl - x.keep)) ∧
    (∀ e, x.lendEnd = some e → (s.now < e ∨ x.lending = false ∨ x.reclaim ≠ none ∨ s.clusterRuns (r * 64 + 63) = false) → exec .lendExpiry s = .next s) ∧
    (∀ low c, s.front s.spot.place = some p → p.load = .notice low → p.dst = .cluster c → s.darkRouter p.here = false → (s.tokens c).stale = 0 →
      (s.tokens c).tgt = low → (s.tokens c).landed = none →
      let w := (s.cluster c).tknote
      ∃ t : State, exec .noticeLands s = .next t ∧ (t.tokens c).notice = true ∧ (t.tokens c).landed = some s.now ∧ (t.tokens c).next = (s.tokens c).next ∧
        (flag w 31 = false → t.net = (s.taken s.spot.place).net) ∧
        ∀ q, flag w 31 = true → s.rankPort (8 * c) (fld w 0 16) = some q →
          ∃ (y : Packet) (m : Msg), t.net = (s.taken s.spot.place).net ++ [y] ∧ y.dst = q ∧ y.load = .msg m false ∧ m.kind = 1 ∧ m.tc = 0 ∧ m.dest = fld w 0 16 ∧
            m.task = fld w 32 12 ∧ m.src = fld w 44 16 ∧ m.prio = 3 ∧ fld m.sel 0 32 = 1 ∧ fld m.sel 32 6 = fld w 16 6) ∧
    (∀ l, x.landed = some l → x.notice = true → x.tgt < x.next →
      (s.now < l + 1400 * 200 → exec .noticePeriodEnd s = .next s) ∧
      (s.returnsNow cid = true → exec .noticePeriodEnd s = .next s) ∧
      (l + 1400 * 200 ≤ s.now → s.returnsNow cid = false → s.paced cid = true →
        ∃ t : State, exec .noticePeriodEnd s = .next t ∧ t.tokens cid = { x with throt := true, next := x.tgt } ∧ t.net = s.net ∧ t.mem = s.mem ∧
          t.cores = s.cores ∧ t.regions = s.regions)) ∧
    (let level := s.spot.v0.toNat % 16
     s.noticeOver cid = false →
     (x.gl ≤ level → exec .tkentGlWrite s = .next s) ∧
     (level < x.gl → x.lending = false → s.paced cid = true → (∀ q < 4, QuietZone s r q) → flag (s.rbctl r) 8 = false →
       ∃ t : State, exec .tkentGlWrite s = .next t ∧ t.tokens cid = { x with gl := level, keep := min x.keep level, next := min x.next level } ∧
         t.net = s.net ∧ t.cores = s.cores ∧ t.regions = s.regions))

/-- R254, R261 and R262: the region broker moves tokens between zones and makes none: the region's budgets and free tokens keep their sums, and the asking zone gets no more than it asked for; with AUTO 0 it drops the ask; a ZBRK whose budget lies below
what the zone holds, or rises and takes the region past RBCTL's cap, sets BADB and leaves BUDGET; an RBCTL cap that the region's tokens exceed, or that is out of range, sets BADB and leaves it. What the rules leave open here is the model's choice (logs 22 and 80). -/
def Piece.BudgetsMove : Prop :=
  ∀ s : State,
    let r := s.spot.place
    let z := s.spot.item
    let v := s.spot.v0
    let frees (t : State) : Nat := ((List.range 4).map fun y => (t.zone r y).free).sum
    let budgets (t : State) : Nat := ((List.range 4).map fun y => (t.zone r y).budget).sum
    (s.clusterRuns (r * 64 + 63) = false → exec .regionBrokerMove s = .next s) ∧
    (∀ y d l, s.clusterRuns (r * 64 + 63) = true → (s.region r).asks = (y, d) :: l → flag (s.rbctl r) 11 = false →
      exec .regionBrokerMove s = .next (s.onRegion r fun x => { x with asks := l })) ∧
    (∀ y d l, s.clusterRuns (r * 64 + 63) = true → (s.region r).asks = (y, d) :: l → flag (s.rbctl r) 11 = true → y < 4 → (∀ q < 4, QuietZone s r q) →
      (∀ q < 4, (s.zone r q).free ≤ (s.zone r q).budget ∧ (s.zone r q).floor ≤ (s.zone r q).budget) →
      ∃ t : State, exec .regionBrokerMove s = .next t ∧ frees t = frees s ∧ budgets t = budgets s ∧ (s.zone r y).free ≤ (t.zone r y).free ∧
        (t.zone r y).free ≤ (s.zone r y).free + d ∧ (t.region r).asks = l ∧ (∀ q < 4, q ≠ y → (s.zone r q).floor ≤ (t.zone r q).budget) ∧
        t.clusters = s.clusters ∧ t.net = s.net) ∧
    (z < 4 →
      let b := v.toNat % 2 ^ 11
      let total := budgets s - (s.zone r z).budget + b
      let cap := (s.rbctl r).toNat / 2 ^ 32 % 2 ^ 11
      ((b < s.zoneHeld r z ∨ ((s.zone r z).budget < b ∧ cap < total)) → ∃ t : State, exec .zbrkBudgetWrite s = .next t ∧ (t.region r).badb = true ∧
        t.zone r z = { s.zone r z with floor := v.toNat / 2 ^ 33 % 2 ^ 11, revcnt := 0 } ∧ t.clusters = s.clusters) ∧
      (s.zoneHeld r z ≤ b → (b ≤ (s.zone r z).budget ∨ total ≤ cap) → (∀ q < 4, QuietZone s r q) → ∃ t : State, exec .zbrkBudgetWrite s = .next t ∧
        t.zone r z = { s.zone r z with
          budget := b, free := (s.zone r z).free + b - (s.zone r z).budget
          loaned := min (s.zone r z).loaned ((s.zone r z).free + b - (s.zone r z).budget), floor := v.toNat / 2 ^ 33 % 2 ^ 11, revcnt := 0 } ∧
        t.clusters = s.clusters)) ∧
    ((∀ q < 4, QuietZone s r q) →
      let c := v.toNat / 2 ^ 32 % 2 ^ 11
      ∃ t : State, exec .rbctlWrite s = .next t ∧ t.mem = s.mem ∧ t.clusters = s.clusters ∧ (t.rbctl r).toNat / 2 ^ 48 = v.toNat / 2 ^ 48 ∧
        ((1440 < c ∨ c < s.regionHeld r) → (t.region r).badb = true ∧ (t.rbctl r).toNat / 2 ^ 32 % 2 ^ 11 = (s.rbctl r).toNat / 2 ^ 32 % 2 ^ 11) ∧
        (c ≤ 1440 → s.regionHeld r ≤ c → (t.rbctl r).toNat / 2 ^ 32 % 2 ^ 11 = c))

/-! ### Whole machine -/

/-- R27, R35 to R42: what the encoder gives for a well-formed encoded instruction, the decoder reads back, with every operand, and leaves what follows it. -/
def Obligations.EncodedDecodes : Prop :=
  ∀ (i : Instr) (rest : List Parcel), i.wellFormed = true → i.length ≠ 0 → decodeParcels (encode i ++ rest) = .ok (i, rest)

/-- R14, R27, R35 to R42: what the decoder reads is a well-formed instruction of 2 or 4 bytes, and its encoding is the parcels that were read: no instruction has two encodings, and no
reserved bit is passed over. -/
def Obligations.DecodedEncodes : Prop :=
  ∀ (ps : List Parcel) (i : Instr) (rest : List Parcel), decodeParcels ps = .ok (i, rest) →
    i.wellFormed = true ∧ (i.length = 2 ∨ i.length = 4) ∧ encode i ++ rest = ps

/-- R14, R27, R35 to R42: words written out from the layouts, in which rd is 1, rs1 or base 2 and rs2 or idx 3, and what they stand for: a word of every layout, and words that are no
instruction: the parcel 0, a reserved major, an unassigned minor, a reserved field that is not 0, a reserved mode. -/
def Obligations.WordsDecode : Prop :=
  decodeTableWord 32 0x00008053 = some (.add 1 2 3) ∧
  decodeTableWord 32 0xFFFB8450 = some (.addi 1 2 (-5)) ∧
  decodeTableWord 32 0xFFFC9213 = some (.beq 2 3 (-4)) ∧
  decodeTableWord 32 0x01238853 = some (.li 1 0x130123) ∧
  decodeTableWord 32 0x00039853 = some (.fadd 1 2 3 .rup) ∧
  decodeTableWord 32 0x3010A050 = some (.ldD 1 2 (.disp 16)) ∧
  decodeTableWord 32 0x7000A053 = some (.ldD 1 2 (.index 3)) ∧
  decodeTableWord 32 0xB000A453 = some (.aaddD 1 2 3 .postInc) ∧
  decodeTableWord 32 0x0000AC02 = some (.fence .cluster) ∧
  decodeTableWord 32 0x1000B150 = some (.qput 5 2) ∧
  decodeTableWord 32 0x0003B240 = some (.barArv 1 0 .region) ∧
  decodeTableWord 32 0x0003B250 = none ∧
  decodeTableWord 32 0x7302B453 = some (.hodMc 7 3 1 2 3) ∧
  decodeTableWord 32 0x7000C053 = some (.vadd 7 1 2 3) ∧
  decodeTableWord 32 0x7908C853 = some (.mmaB16 7 9 1 2 3) ∧
  decodeTableWord 32 0x0000CC50 = some (.tkreq 1 2) ∧
  decodeTableWord 32 0x7002D053 = some (.smx 7 1 2 3) ∧
  decodeTableWord 32 0x7001D450 = some (.gkArm 7 1 2) ∧
  decodeTableWord 32 0x7005E010 = some (.xld 7 2 (.disp 5)) ∧
  decodeTableWord 32 0x0030F840 = some (.crr 1 3) ∧
  decodeTableWord 32 0x0000FA10 = some (.trap 2) ∧
  decodeTableWord 16 0x0145 = some (.addiS 1 2 5) ∧
  decodeTableWord 16 0x7000 = some .exitS ∧
  decodeTableWord 16 0 = none ∧
  decodeTableWord 32 0x0000FE00 = none ∧
  decodeTableWord 32 0xFF008053 = none ∧
  decodeTableWord 32 0x00018053 = none ∧
  decodeTableWord 32 0xF000A050 = none

/-- R14, R57, R104 and R105: a turn of a core executes the instruction that the parcels at its picked fibre's PC decode to: the page is translated, the parcels stand in the cluster's
instruction cache, and the step is exec of that instruction for that fibre, with the picker's own effects where it issues. Fibres that R104 keeps out of the ready set have their hold set before the pick, with the order numbers of the queues, and nothing else
changes by that. Parcels that decode to nothing trap ILLEGAL, and a PC that is not canonical traps PAGE. What the rules leave open here is the model's choice (logs 1, 2, 11 and 15). -/
def Obligations.StepRunsDecoded : Prop :=
  ∀ (s : State) (pid n lvl : Nat) (rest : List Turn),
    let u : State := { s with plan := rest }
    let k := u.park pid
    s.plan = .issue pid :: rest →
    (u.mayIssue pid = false → step s = .next u) ∧
    ((u.readySlots pid).length ≤ 1 → k = u) ∧
    (({ k with cores := [], seq := 0 } : State) = { u with cores := [], seq := 0 } ∧ (∀ q, q ≠ pid → k.core q = u.core q) ∧
      ({ k.core pid with slots := [] } : Core) = { u.core pid with slots := [] } ∧
      (∀ m, { k.slot pid m with hold := none } = { u.slot pid m with hold := none }) ∧
      ∀ m, m ∉ u.readySlots pid → k.slot pid m = u.slot pid m) ∧
    (u.mayIssue pid = true → k.pick pid = none → step s = .next k) ∧
    (u.mayIssue pid = true → k.pick pid = some (n, lvl) →
      ((k.slot pid n).far = true → k.fetch pid n = .error (.trap (trapOf .page .fetch (k.slot pid n).pcWord))) ∧
      (isService pid = false → (k.slot pid n).far = false →
      ∀ (pa : Nat) (p : Parcel) (t1 : State), k.translate pid (k.slot pid n) .fetch .fetch (k.slot pid n).pcWord = .ok (pa, t1) →
        Tab.look (k.cluster (pid / 8)).icache pa = some p →
        let runs (i : Instr) (t : State) : Prop :=
          let v : State := { t with cur := { core := pid, slot := n } }
          (∀ w, exec i v = .next w → (w.core pid).last = (v.core pid).last → step s = .next w) ∧
          (∀ w, exec i v = .next w → (w.core pid).last ≠ (v.core pid).last → step s = exec i (v.picked pid n lvl)) ∧
          (∀ f, exec i v = .fault f → step s = .fault f) ∧ (∀ r, exec i v = .refused r → step s = .refused r)
        (p.getLsbD 15 = false → ∀ i, decodeParcels [p] = .ok (i, []) → runs i t1) ∧
        (p.getLsbD 15 = true → ∀ (pb : Nat) (q : Parcel) (t2 : State),
          t1.translate pid (k.slot pid n) .fetch .fetch ((k.slot pid n).pcWord + 2) = .ok (pb, t2) →
          Tab.look (t1.cluster (pid / 8)).icache pb = some q →
          (∀ i, decodeParcels [p, q] = .ok (i, []) → runs i t2) ∧
          ((∃ e, decodeParcels [p, q] = .error e) → k.fetch pid n = .error (.trap (trapOf .illegal .instruction 0))))))

/-- R127, R173, R175, R176, R233, R238, R254, R261 and R343: after reset every region is Wiping, its clock stands at OP 0 with no grant and no stop, each of its zones has 280 tokens, all free,
and RBCTL allows 1,120; every cluster is held with HREQ 1 on the default tree, its matrix arbiter at 7 and 0, and no level is granted; a core is FREE and does not run, excused at every level, and admits messages;
nothing is in flight; and memory keeps its form. What the rules leave open here is the model's choice (logs 5 and 6). -/
def Obligations.ResetState : Prop :=
  let s := State.reset
  Memory.wf s.mem = true ∧ s.net = [] ∧ s.bars = [] ∧
  (∀ r, (s.region r).life = .wiping ∧ (s.region r).clock.cur = 0 ∧ (s.region r).clock.stop = false ∧ (s.region r).clock.g140 = false ∧
    s.rbctl r = 500 * 2 ^ 48 + 1120 * 2 ^ 32 + 2 ^ 11 ∧
    (∀ z < 4, (s.zone r z).budget = 280 ∧ (s.zone r z).free = 280 ∧ (s.zone r z).loaned = 0 ∧ (s.zone r z).floor = 0 ∧ (s.zone r z).revcnt = 0)) ∧
  (∀ cid, (s.cluster cid).fwd.hold = true ∧ (s.cluster cid).fwd.hreq = true ∧ (s.cluster cid).fwd.depth = 15 ∧ (s.cluster cid).fwd.cls = 3 ∧
    (s.cluster cid).mat.cur = 7 ∧ (s.cluster cid).mat.used = 0 ∧ (s.tokens cid).gl = 0 ∧ (s.tokens cid).held = 0 ∧ (s.tokens cid).tgt = 15) ∧
  (∀ r c, c < 36 → (s.cluster (64 * r + c)).fwd.parent = if c = 2 then 5 else if c < 2 then 2 else if c < 6 then 4 else 1) ∧
  (∀ pid, (s.core pid).exc = 0xF#4 ∧ (s.core pid).grant = 0#4 ∧ (s.core pid).admitting = true ∧ (s.core pid).fpmode = 0 ∧ s.entryState pid = 0 ∧ s.running pid = false)

/-- The machine's own rule of State.mem (no rule of the specification): a state whose memory is in canonical form, addresses rising and no byte listed that an unlisted address reads as, leads
to none but such states. -/
def Obligations.StepKeepsMemory : Prop :=
  ∀ s t : State, Memory.wf s.mem = true → step s = .next t → Memory.wf t.mem = true

/-! ### The obligations that join several parts -/

/-- Shifts, rotates, compares, SEL, LEA and the bit counts: `Piece.ShiftAndCompareResults`; `Piece.BitCountResults`. -/
def Obligations.ShiftsComparesAndCounts : Prop :=
  Piece.ShiftAndCompareResults ∧ Piece.BitCountResults

/-- The immediate forms and the 16-bit arithmetic forms: `Piece.ImmediateResults`; `Piece.CompactResults`. -/
def Obligations.ImmediatesAndParcels : Prop :=
  Piece.ImmediateResults ∧ Piece.CompactResults

/-- Branches, jumps, links and LOOP, and the trap of an odd target: `Piece.BranchTargets`; `Piece.RegisterJumpsAndLoop`;
`Piece.OddTargetTraps`. -/
def Obligations.ControlTransfers : Prop :=
  Piece.BranchTargets ∧ Piece.RegisterJumpsAndLoop ∧ Piece.OddTargetTraps

/-- The scalar float forms: results, flags, and operands that are no ordinary numbers: `Piece.FloatResults`; `Piece.FloatSpecialCases`;
`Piece.FloatRounding`. -/
def Obligations.ScalarFloat : Prop :=
  Piece.FloatResults ∧ Piece.FloatSpecialCases ∧ Piece.FloatRounding

/-- Moves of x registers; pending and refused operands of the scalar forms of two sources: `Piece.XRegisterMoves`; `Piece.PendingOperands`;
`Piece.RefusedOperands`. -/
def Obligations.XRegistersAndPendingOperands : Prop :=
  Piece.XRegisterMoves ∧ Piece.PendingOperands ∧ Piece.RefusedOperands

/-- Loads and stores of local memory, with their frames: `Piece.LocalLoads`; `Piece.LocalStores`. -/
def Obligations.LocalLoadsAndStores : Prop :=
  Piece.LocalLoads ∧ Piece.LocalStores

/-- Atomics of local memory with their frame, and XLD: `Piece.LocalAtomics`; `Piece.XldLoads`. -/
def Obligations.AtomicsAndXld : Prop :=
  Piece.LocalAtomics ∧ Piece.XldLoads

/-- Remote accesses go to their home under a tag, in words that say what was asked: `Piece.RemoteAccesses`; `Piece.AccessWordsAgree`. -/
def Obligations.RemoteAccesses : Prop :=
  Piece.RemoteAccesses ∧ Piece.AccessWordsAgree

/-- An ACCESS at its home, and its REPLY at the core: `Piece.AccessPerformed`; `Piece.ReplyAnswers`. -/
def Obligations.AccessesPerformedAndAnswered : Prop :=
  Piece.AccessPerformed ∧ Piece.ReplyAnswers

/-- FENCE, EXIT and MIG: what they wait for and how they complete: `Piece.SettlingInstructions`; `Piece.SettlingCovers`;
`Piece.SettleCompletes`. -/
def Obligations.Settling : Prop :=
  Piece.SettlingInstructions ∧ Piece.SettlingCovers ∧ Piece.SettleCompletes

/-- YIELD, BIND, CNTSET, SPAWN and the queue moves: `Piece.YieldCompletes`; `Piece.FibreInstructions`; `Piece.QueueMoves`. -/
def Obligations.FibresAndQueues : Prop :=
  Piece.YieldCompletes ∧ Piece.FibreInstructions ∧ Piece.QueueMoves

/-- SEND, SENDC and DEP: what they send, and where they are refused: `Piece.MessagesSent`; `Piece.MessagesRefused`. -/
def Obligations.Messages : Prop :=
  Piece.MessagesSent ∧ Piece.MessagesRefused

/-- The barrier instructions, with level 0: `Piece.BarrierInstructions`; `Piece.CoreBarrier`. -/
def Obligations.BarrierInstructions : Prop :=
  Piece.BarrierInstructions ∧ Piece.CoreBarrier

/-- Barrier inputs at a root, releases at a core, and BARCFG: `Piece.BarrierInputs`; `Piece.BarrierReleases`; `Piece.BarrierTravel`;
`Piece.BarcfgWritten`. -/
def Obligations.BarrierNetworks : Prop :=
  Piece.BarrierInputs ∧ Piece.BarrierReleases ∧ Piece.BarrierTravel ∧ Piece.BarcfgWritten

/-- What CRR reads, and where it traps: `Piece.ControlRegisterReads`; `Piece.ControlRegisterValues`. -/
def Obligations.ControlRegisterReads : Prop :=
  Piece.ControlRegisterReads ∧ Piece.ControlRegisterValues

/-- Registers whose writes do more, and registers of the windows: `Piece.RegisterEvents`; `Piece.RegistersWritten`. -/
def Obligations.RegisterEvents : Prop :=
  Piece.RegisterEvents ∧ Piece.RegistersWritten

/-- Privileged instructions in user mode; TRAP and TRET: `Piece.PrivilegedInstructions`; `Piece.TrapAndReturn`. -/
def Obligations.PrivilegeAndTraps : Prop :=
  Piece.PrivilegedInstructions ∧ Piece.TrapAndReturn

/-- Taking an exception: what is kept, what the FAULT record says, where it goes: `Piece.FaultTaken`; `Piece.FaultDestinations`. -/
def Obligations.ExceptionsTaken : Prop :=
  Piece.FaultTaken ∧ Piece.FaultDestinations

/-- TLB.W, TLB.INV, TLB.INVA, CTX.SAVE, CTX.LOAD, WIPE and ICFLUSH: `Piece.TranslationEntries`; `Piece.UnitCommands`. -/
def Obligations.TranslationAndUnits : Prop :=
  Piece.TranslationEntries ∧ Piece.UnitCommands

/-- FRES and FKILL; cores that do not issue: `Piece.FrozenFibres`; `Piece.IssueNeedsRunning`. -/
def Obligations.FrozenFibresAndIdleCores : Prop :=
  Piece.FrozenFibres ∧ Piece.IssueNeedsRunning

/-- Records at a mailbox, and records that a stub forwards: `Piece.RecordsArrive`; `Piece.StubsForward`. -/
def Obligations.RecordsArrive : Prop :=
  Piece.RecordsArrive ∧ Piece.StubsForward

/-- Records delivered by kind, and delivery that resumes: `Piece.RecordsDelivered`; `Piece.AdmissionOpens`. -/
def Obligations.RecordsDelivered : Prop :=
  Piece.RecordsDelivered ∧ Piece.AdmissionOpens

/-- The overflow ring and the fault inbox: `Piece.RingRefills`; `Piece.FaultInbox`. -/
def Obligations.RingsAndFaultInbox : Prop :=
  Piece.RingRefills ∧ Piece.FaultInbox

/-- Aging of fibres; the instruction cache: `Piece.AgingPromotes`; `Piece.InstructionCache`. -/
def Obligations.AgingAndInstructionCache : Prop :=
  Piece.AgingPromotes ∧ Piece.InstructionCache

/-- Misses, NOMAP words and system-space drains: `Piece.MissAndNomap`; `Piece.SystemDrains`. -/
def Obligations.MissesAndDrains : Prop :=
  Piece.MissAndNomap ∧ Piece.SystemDrains

/-- Task entries, watchdogs, fences and range locks: `Piece.TaskEntries`; `Piece.WatchdogsAndFences`. -/
def Obligations.TaskEntriesAndFences : Prop :=
  Piece.TaskEntries ∧ Piece.WatchdogsAndFences

/-- Operating points, forwarders and hold: `Piece.OperatingPoints`; `Piece.Forwarders`. -/
def Obligations.ClockControl : Prop :=
  Piece.OperatingPoints ∧ Piece.Forwarders

/-- Losses of clock, droops and dark links: `Piece.ClockLosses`; `Piece.DarkLinks`. -/
def Obligations.LostClocksAndDarkLinks : Prop :=
  Piece.ClockLosses ∧ Piece.DarkLinks

/-- A region's states, its wipe, and power and reset: `Piece.LifeCycleWrites`; `Piece.RegionsWiped`; `Piece.PowerAndReset`. -/
def Obligations.RegionLifeCycle : Prop :=
  Piece.LifeCycleWrites ∧ Piece.RegionsWiped ∧ Piece.PowerAndReset

/-- Reserved SUPERVISOR words; training tests: `Piece.ReservedWordsCounted`; `Piece.TrainingTests`. -/
def Obligations.ReservedWordsAndTraining : Prop :=
  Piece.ReservedWordsCounted ∧ Piece.TrainingTests

/-- Flash commands, rim wipes and measurement extensions: `Piece.FlashCommands`; `Piece.RimWipesAndMeasures`. -/
def Obligations.FlashAndRimWipes : Prop :=
  Piece.FlashCommands ∧ Piece.RimWipesAndMeasures

/-- Pushes of the rim engines; Bondlink retrains: `Piece.RimPushes`; `Piece.BondlinkRetrains`. -/
def Obligations.RimPushesAndRetrains : Prop :=
  Piece.RimPushes ∧ Piece.BondlinkRetrains

/-- Vector instructions at issue and in their unit: `Piece.VectorIssues`; `Piece.VectorUnits`. -/
def Obligations.VectorIssueAndUnits : Prop :=
  Piece.VectorIssues ∧ Piece.VectorUnits

/-- Matrix commands at issue: `Piece.MatrixCommands`; `Piece.GroupedProducts`. -/
def Obligations.MatrixCommands : Prop :=
  Piece.MatrixCommands ∧ Piece.GroupedProducts

/-- The matrix unit's arbiter, steps and stores; MWAIT and MQRY: `Piece.MatrixQueries`; `Piece.MatrixUnit`. -/
def Obligations.MatrixUnit : Prop :=
  Piece.MatrixQueries ∧ Piece.MatrixUnit

/-- HOD.PUSH and HOD.TILE, and the box of a tile: `Piece.HodPushes`; `Piece.HodTiles`; `Piece.TileBoxes`. -/
def Obligations.HodCopies : Prop :=
  Piece.HodPushes ∧ Piece.HodTiles ∧ Piece.TileBoxes

/-- HOD.MC, MBPASS, and frees and their counters: `Piece.HodMulticasts`; `Piece.HodFrees`; `Piece.FreesCombine`. -/
def Obligations.HodMulticastsAndFrees : Prop :=
  Piece.HodMulticasts ∧ Piece.HodFrees ∧ Piece.FreesCombine

/-- KLD.ROT and QROT, their rows, and phase 0: `Piece.RotaryIssues`; `Piece.RotaryUnit`; `Piece.RotationAtZero`; `Piece.RowRotation`. -/
def Obligations.RotaryUnit : Prop :=
  Piece.RotaryIssues ∧ Piece.RotaryUnit ∧ Piece.RotationAtZero ∧ Piece.RowRotation

/-- SMX: its queue, its unit, and what it writes: `Piece.SoftmaxMerges`; `Piece.SoftmaxArithmetic`. -/
def Obligations.SoftmaxMerges : Prop :=
  Piece.SoftmaxMerges ∧ Piece.SoftmaxArithmetic

/-- Course descriptors and their release: `Piece.CourseCounts`; `Piece.CourseReleases`; `Piece.CourseChecks`. -/
def Obligations.Courses : Prop :=
  Piece.CourseCounts ∧ Piece.CourseReleases ∧ Piece.CourseChecks

/-- The gather unit and its kernel's runs: `Piece.GatherForms`; `Piece.GatherRuns`. -/
def Obligations.GatherUnit : Prop :=
  Piece.GatherForms ∧ Piece.GatherRuns

/-- Token instructions, and the zone broker's answers: `Piece.TokenRequests`; `Piece.BrokerAnswers`. -/
def Obligations.TokensAndBrokers : Prop :=
  Piece.TokenRequests ∧ Piece.BrokerAnswers

/-- Ends of lends, notices, and budgets of zones and regions: `Piece.LendsAndNotices`; `Piece.BudgetsMove`. -/
def Obligations.LendsNoticesAndBudgets : Prop :=
  Piece.LendsAndNotices ∧ Piece.BudgetsMove
end

