-- ==== Sys2Proof/Laws/State.lean ====
section
/-!
SUPPORT. What the updates of State leave and write: one lemma per update and field, and reading back what was written.
-/

namespace Sys2Proof.Machine

/-! ### Sparse tables -/

@[simp] theorem Tab.look_put_same {α : Type} (t : Tab α) (n : Nat) (x : α) : Tab.look (Tab.put t n x) n = some x := by
  induction t with
  | nil => simp [Tab.put, Tab.look]
  | cons e t ih =>
    obtain ⟨k, v⟩ := e
    simp only [Tab.put]
    split
    · simp [Tab.look]
    · split
      · simp [Tab.look]
      · next h => simp [Tab.look, h, ih]

@[simp] theorem Tab.look_put_other {α : Type} (t : Tab α) (n m : Nat) (x : α) (h : m ≠ n) :
    Tab.look (Tab.put t n x) m = Tab.look t m := by
  induction t with
  | nil => simp [Tab.put, Tab.look, h]
  | cons e t ih =>
    obtain ⟨k, v⟩ := e
    simp only [Tab.put]
    split
    · simp [Tab.look, h]
    · split
      · next h' => subst h'; simp [Tab.look, h]
      · simp [Tab.look, ih]

@[simp] theorem Tab.read_put_same {α : Type} (t : Tab α) (d : α) (n : Nat) (x : α) : Tab.read (Tab.put t n x) d n = x := by
  simp [Tab.read]

@[simp] theorem Tab.read_put_other {α : Type} (t : Tab α) (d : α) (n m : Nat) (x : α) (h : m ≠ n) :
    Tab.read (Tab.put t n x) d m = Tab.read t d m := by
  simp [Tab.read, h]

@[simp] theorem Tab.put_put {α : Type} (t : Tab α) (n : Nat) (x y : α) : Tab.put (Tab.put t n x) n y = Tab.put t n y := by
  induction t with
  | nil => simp [Tab.put]
  | cons e t ih =>
    obtain ⟨k, v⟩ := e
    simp only [Tab.put]
    split
    · simp [Tab.put]
    · split
      · simp [Tab.put]
      · next h1 h2 => simp [Tab.put, h1, h2, ih]

/-! ### Fields that an update leaves -/

namespace State

@[simp] theorem setCore_plan (s : State) (p : Nat) (c : Core) : (s.setCore p c).plan = s.plan := rfl
@[simp] theorem setCore_cur (s : State) (p : Nat) (c : Core) : (s.setCore p c).cur = s.cur := rfl
@[simp] theorem setCore_spot (s : State) (p : Nat) (c : Core) : (s.setCore p c).spot = s.spot := rfl
@[simp] theorem setCore_fresh (s : State) (p : Nat) (c : Core) : (s.setCore p c).fresh = s.fresh := rfl
@[simp] theorem setCore_seq (s : State) (p : Nat) (c : Core) : (s.setCore p c).seq = s.seq := rfl
@[simp] theorem setCore_now (s : State) (p : Nat) (c : Core) : (s.setCore p c).now = s.now := rfl
@[simp] theorem setCore_mem (s : State) (p : Nat) (c : Core) : (s.setCore p c).mem = s.mem := rfl
@[simp] theorem setCore_bad (s : State) (p : Nat) (c : Core) : (s.setCore p c).bad = s.bad := rfl
@[simp] theorem setCore_regs (s : State) (p : Nat) (c : Core) : (s.setCore p c).regs = s.regs := rfl
@[simp] theorem setCore_clusters (s : State) (p : Nat) (c : Core) : (s.setCore p c).clusters = s.clusters := rfl
@[simp] theorem setCore_regions (s : State) (p : Nat) (c : Core) : (s.setCore p c).regions = s.regions := rfl
@[simp] theorem setCore_ranks (s : State) (p : Nat) (c : Core) : (s.setCore p c).ranks = s.ranks := rfl
@[simp] theorem setCore_ranksAt (s : State) (p : Nat) (c : Core) : (s.setCore p c).ranksAt = s.ranksAt := rfl
@[simp] theorem setCore_trseq (s : State) (p : Nat) (c : Core) : (s.setCore p c).trseq = s.trseq := rfl
@[simp] theorem setCore_late (s : State) (p : Nat) (c : Core) : (s.setCore p c).late = s.late := rfl
@[simp] theorem setCore_net (s : State) (p : Nat) (c : Core) : (s.setCore p c).net = s.net := rfl
@[simp] theorem setCore_bars (s : State) (p : Nat) (c : Core) : (s.setCore p c).bars = s.bars := rfl
@[simp] theorem setCore_fuses (s : State) (p : Nat) (c : Core) : (s.setCore p c).fuses = s.fuses := rfl
@[simp] theorem setCore_host (s : State) (p : Nat) (c : Core) : (s.setCore p c).host = s.host := rfl

@[simp] theorem onCore_plan (s : State) (p : Nat) (f : Core → Core) : (s.onCore p f).plan = s.plan := rfl
@[simp] theorem onCore_cur (s : State) (p : Nat) (f : Core → Core) : (s.onCore p f).cur = s.cur := rfl
@[simp] theorem onCore_spot (s : State) (p : Nat) (f : Core → Core) : (s.onCore p f).spot = s.spot := rfl
@[simp] theorem onCore_fresh (s : State) (p : Nat) (f : Core → Core) : (s.onCore p f).fresh = s.fresh := rfl
@[simp] theorem onCore_seq (s : State) (p : Nat) (f : Core → Core) : (s.onCore p f).seq = s.seq := rfl
@[simp] theorem onCore_now (s : State) (p : Nat) (f : Core → Core) : (s.onCore p f).now = s.now := rfl
@[simp] theorem onCore_mem (s : State) (p : Nat) (f : Core → Core) : (s.onCore p f).mem = s.mem := rfl
@[simp] theorem onCore_bad (s : State) (p : Nat) (f : Core → Core) : (s.onCore p f).bad = s.bad := rfl
@[simp] theorem onCore_regs (s : State) (p : Nat) (f : Core → Core) : (s.onCore p f).regs = s.regs := rfl
@[simp] theorem onCore_clusters (s : State) (p : Nat) (f : Core → Core) : (s.onCore p f).clusters = s.clusters := rfl
@[simp] theorem onCore_regions (s : State) (p : Nat) (f : Core → Core) : (s.onCore p f).regions = s.regions := rfl
@[simp] theorem onCore_ranks (s : State) (p : Nat) (f : Core → Core) : (s.onCore p f).ranks = s.ranks := rfl
@[simp] theorem onCore_ranksAt (s : State) (p : Nat) (f : Core → Core) : (s.onCore p f).ranksAt = s.ranksAt := rfl
@[simp] theorem onCore_trseq (s : State) (p : Nat) (f : Core → Core) : (s.onCore p f).trseq = s.trseq := rfl
@[simp] theorem onCore_late (s : State) (p : Nat) (f : Core → Core) : (s.onCore p f).late = s.late := rfl
@[simp] theorem onCore_net (s : State) (p : Nat) (f : Core → Core) : (s.onCore p f).net = s.net := rfl
@[simp] theorem onCore_bars (s : State) (p : Nat) (f : Core → Core) : (s.onCore p f).bars = s.bars := rfl
@[simp] theorem onCore_fuses (s : State) (p : Nat) (f : Core → Core) : (s.onCore p f).fuses = s.fuses := rfl
@[simp] theorem onCore_host (s : State) (p : Nat) (f : Core → Core) : (s.onCore p f).host = s.host := rfl

@[simp] theorem setCluster_plan (s : State) (p : Nat) (c : Cluster) : (s.setCluster p c).plan = s.plan := rfl
@[simp] theorem setCluster_cur (s : State) (p : Nat) (c : Cluster) : (s.setCluster p c).cur = s.cur := rfl
@[simp] theorem setCluster_spot (s : State) (p : Nat) (c : Cluster) : (s.setCluster p c).spot = s.spot := rfl
@[simp] theorem setCluster_fresh (s : State) (p : Nat) (c : Cluster) : (s.setCluster p c).fresh = s.fresh := rfl
@[simp] theorem setCluster_seq (s : State) (p : Nat) (c : Cluster) : (s.setCluster p c).seq = s.seq := rfl
@[simp] theorem setCluster_now (s : State) (p : Nat) (c : Cluster) : (s.setCluster p c).now = s.now := rfl
@[simp] theorem setCluster_mem (s : State) (p : Nat) (c : Cluster) : (s.setCluster p c).mem = s.mem := rfl
@[simp] theorem setCluster_bad (s : State) (p : Nat) (c : Cluster) : (s.setCluster p c).bad = s.bad := rfl
@[simp] theorem setCluster_regs (s : State) (p : Nat) (c : Cluster) : (s.setCluster p c).regs = s.regs := rfl
@[simp] theorem setCluster_cores (s : State) (p : Nat) (c : Cluster) : (s.setCluster p c).cores = s.cores := rfl
@[simp] theorem setCluster_regions (s : State) (p : Nat) (c : Cluster) : (s.setCluster p c).regions = s.regions := rfl
@[simp] theorem setCluster_ranks (s : State) (p : Nat) (c : Cluster) : (s.setCluster p c).ranks = s.ranks := rfl
@[simp] theorem setCluster_ranksAt (s : State) (p : Nat) (c : Cluster) : (s.setCluster p c).ranksAt = s.ranksAt := rfl
@[simp] theorem setCluster_trseq (s : State) (p : Nat) (c : Cluster) : (s.setCluster p c).trseq = s.trseq := rfl
@[simp] theorem setCluster_late (s : State) (p : Nat) (c : Cluster) : (s.setCluster p c).late = s.late := rfl
@[simp] theorem setCluster_net (s : State) (p : Nat) (c : Cluster) : (s.setCluster p c).net = s.net := rfl
@[simp] theorem setCluster_bars (s : State) (p : Nat) (c : Cluster) : (s.setCluster p c).bars = s.bars := rfl
@[simp] theorem setCluster_fuses (s : State) (p : Nat) (c : Cluster) : (s.setCluster p c).fuses = s.fuses := rfl
@[simp] theorem setCluster_host (s : State) (p : Nat) (c : Cluster) : (s.setCluster p c).host = s.host := rfl

@[simp] theorem onCluster_plan (s : State) (p : Nat) (f : Cluster → Cluster) : (s.onCluster p f).plan = s.plan := rfl
@[simp] theorem onCluster_cur (s : State) (p : Nat) (f : Cluster → Cluster) : (s.onCluster p f).cur = s.cur := rfl
@[simp] theorem onCluster_spot (s : State) (p : Nat) (f : Cluster → Cluster) : (s.onCluster p f).spot = s.spot := rfl
@[simp] theorem onCluster_fresh (s : State) (p : Nat) (f : Cluster → Cluster) : (s.onCluster p f).fresh = s.fresh := rfl
@[simp] theorem onCluster_seq (s : State) (p : Nat) (f : Cluster → Cluster) : (s.onCluster p f).seq = s.seq := rfl
@[simp] theorem onCluster_now (s : State) (p : Nat) (f : Cluster → Cluster) : (s.onCluster p f).now = s.now := rfl
@[simp] theorem onCluster_mem (s : State) (p : Nat) (f : Cluster → Cluster) : (s.onCluster p f).mem = s.mem := rfl
@[simp] theorem onCluster_bad (s : State) (p : Nat) (f : Cluster → Cluster) : (s.onCluster p f).bad = s.bad := rfl
@[simp] theorem onCluster_regs (s : State) (p : Nat) (f : Cluster → Cluster) : (s.onCluster p f).regs = s.regs := rfl
@[simp] theorem onCluster_cores (s : State) (p : Nat) (f : Cluster → Cluster) : (s.onCluster p f).cores = s.cores := rfl
@[simp] theorem onCluster_regions (s : State) (p : Nat) (f : Cluster → Cluster) : (s.onCluster p f).regions = s.regions := rfl
@[simp] theorem onCluster_ranks (s : State) (p : Nat) (f : Cluster → Cluster) : (s.onCluster p f).ranks = s.ranks := rfl
@[simp] theorem onCluster_ranksAt (s : State) (p : Nat) (f : Cluster → Cluster) : (s.onCluster p f).ranksAt = s.ranksAt := rfl
@[simp] theorem onCluster_trseq (s : State) (p : Nat) (f : Cluster → Cluster) : (s.onCluster p f).trseq = s.trseq := rfl
@[simp] theorem onCluster_late (s : State) (p : Nat) (f : Cluster → Cluster) : (s.onCluster p f).late = s.late := rfl
@[simp] theorem onCluster_net (s : State) (p : Nat) (f : Cluster → Cluster) : (s.onCluster p f).net = s.net := rfl
@[simp] theorem onCluster_bars (s : State) (p : Nat) (f : Cluster → Cluster) : (s.onCluster p f).bars = s.bars := rfl
@[simp] theorem onCluster_fuses (s : State) (p : Nat) (f : Cluster → Cluster) : (s.onCluster p f).fuses = s.fuses := rfl
@[simp] theorem onCluster_host (s : State) (p : Nat) (f : Cluster → Cluster) : (s.onCluster p f).host = s.host := rfl

@[simp] theorem setRegion_plan (s : State) (p : Nat) (c : Region) : (s.setRegion p c).plan = s.plan := rfl
@[simp] theorem setRegion_cur (s : State) (p : Nat) (c : Region) : (s.setRegion p c).cur = s.cur := rfl
@[simp] theorem setRegion_spot (s : State) (p : Nat) (c : Region) : (s.setRegion p c).spot = s.spot := rfl
@[simp] theorem setRegion_fresh (s : State) (p : Nat) (c : Region) : (s.setRegion p c).fresh = s.fresh := rfl
@[simp] theorem setRegion_seq (s : State) (p : Nat) (c : Region) : (s.setRegion p c).seq = s.seq := rfl
@[simp] theorem setRegion_now (s : State) (p : Nat) (c : Region) : (s.setRegion p c).now = s.now := rfl
@[simp] theorem setRegion_mem (s : State) (p : Nat) (c : Region) : (s.setRegion p c).mem = s.mem := rfl
@[simp] theorem setRegion_bad (s : State) (p : Nat) (c : Region) : (s.setRegion p c).bad = s.bad := rfl
@[simp] theorem setRegion_regs (s : State) (p : Nat) (c : Region) : (s.setRegion p c).regs = s.regs := rfl
@[simp] theorem setRegion_cores (s : State) (p : Nat) (c : Region) : (s.setRegion p c).cores = s.cores := rfl
@[simp] theorem setRegion_clusters (s : State) (p : Nat) (c : Region) : (s.setRegion p c).clusters = s.clusters := rfl
@[simp] theorem setRegion_ranks (s : State) (p : Nat) (c : Region) : (s.setRegion p c).ranks = s.ranks := rfl
@[simp] theorem setRegion_ranksAt (s : State) (p : Nat) (c : Region) : (s.setRegion p c).ranksAt = s.ranksAt := rfl
@[simp] theorem setRegion_trseq (s : State) (p : Nat) (c : Region) : (s.setRegion p c).trseq = s.trseq := rfl
@[simp] theorem setRegion_late (s : State) (p : Nat) (c : Region) : (s.setRegion p c).late = s.late := rfl
@[simp] theorem setRegion_net (s : State) (p : Nat) (c : Region) : (s.setRegion p c).net = s.net := rfl
@[simp] theorem setRegion_bars (s : State) (p : Nat) (c : Region) : (s.setRegion p c).bars = s.bars := rfl
@[simp] theorem setRegion_fuses (s : State) (p : Nat) (c : Region) : (s.setRegion p c).fuses = s.fuses := rfl
@[simp] theorem setRegion_host (s : State) (p : Nat) (c : Region) : (s.setRegion p c).host = s.host := rfl

@[simp] theorem onRegion_plan (s : State) (p : Nat) (f : Region → Region) : (s.onRegion p f).plan = s.plan := rfl
@[simp] theorem onRegion_cur (s : State) (p : Nat) (f : Region → Region) : (s.onRegion p f).cur = s.cur := rfl
@[simp] theorem onRegion_spot (s : State) (p : Nat) (f : Region → Region) : (s.onRegion p f).spot = s.spot := rfl
@[simp] theorem onRegion_fresh (s : State) (p : Nat) (f : Region → Region) : (s.onRegion p f).fresh = s.fresh := rfl
@[simp] theorem onRegion_seq (s : State) (p : Nat) (f : Region → Region) : (s.onRegion p f).seq = s.seq := rfl
@[simp] theorem onRegion_now (s : State) (p : Nat) (f : Region → Region) : (s.onRegion p f).now = s.now := rfl
@[simp] theorem onRegion_mem (s : State) (p : Nat) (f : Region → Region) : (s.onRegion p f).mem = s.mem := rfl
@[simp] theorem onRegion_bad (s : State) (p : Nat) (f : Region → Region) : (s.onRegion p f).bad = s.bad := rfl
@[simp] theorem onRegion_regs (s : State) (p : Nat) (f : Region → Region) : (s.onRegion p f).regs = s.regs := rfl
@[simp] theorem onRegion_cores (s : State) (p : Nat) (f : Region → Region) : (s.onRegion p f).cores = s.cores := rfl
@[simp] theorem onRegion_clusters (s : State) (p : Nat) (f : Region → Region) : (s.onRegion p f).clusters = s.clusters := rfl
@[simp] theorem onRegion_ranks (s : State) (p : Nat) (f : Region → Region) : (s.onRegion p f).ranks = s.ranks := rfl
@[simp] theorem onRegion_ranksAt (s : State) (p : Nat) (f : Region → Region) : (s.onRegion p f).ranksAt = s.ranksAt := rfl
@[simp] theorem onRegion_trseq (s : State) (p : Nat) (f : Region → Region) : (s.onRegion p f).trseq = s.trseq := rfl
@[simp] theorem onRegion_late (s : State) (p : Nat) (f : Region → Region) : (s.onRegion p f).late = s.late := rfl
@[simp] theorem onRegion_net (s : State) (p : Nat) (f : Region → Region) : (s.onRegion p f).net = s.net := rfl
@[simp] theorem onRegion_bars (s : State) (p : Nat) (f : Region → Region) : (s.onRegion p f).bars = s.bars := rfl
@[simp] theorem onRegion_fuses (s : State) (p : Nat) (f : Region → Region) : (s.onRegion p f).fuses = s.fuses := rfl
@[simp] theorem onRegion_host (s : State) (p : Nat) (f : Region → Region) : (s.onRegion p f).host = s.host := rfl

@[simp] theorem setSlot_plan (s : State) (p n : Nat) (f : Slot) : (s.setSlot p n f).plan = s.plan := rfl
@[simp] theorem setSlot_cur (s : State) (p n : Nat) (f : Slot) : (s.setSlot p n f).cur = s.cur := rfl
@[simp] theorem setSlot_spot (s : State) (p n : Nat) (f : Slot) : (s.setSlot p n f).spot = s.spot := rfl
@[simp] theorem setSlot_fresh (s : State) (p n : Nat) (f : Slot) : (s.setSlot p n f).fresh = s.fresh := rfl
@[simp] theorem setSlot_seq (s : State) (p n : Nat) (f : Slot) : (s.setSlot p n f).seq = s.seq := rfl
@[simp] theorem setSlot_now (s : State) (p n : Nat) (f : Slot) : (s.setSlot p n f).now = s.now := rfl
@[simp] theorem setSlot_mem (s : State) (p n : Nat) (f : Slot) : (s.setSlot p n f).mem = s.mem := rfl
@[simp] theorem setSlot_bad (s : State) (p n : Nat) (f : Slot) : (s.setSlot p n f).bad = s.bad := rfl
@[simp] theorem setSlot_regs (s : State) (p n : Nat) (f : Slot) : (s.setSlot p n f).regs = s.regs := rfl
@[simp] theorem setSlot_clusters (s : State) (p n : Nat) (f : Slot) : (s.setSlot p n f).clusters = s.clusters := rfl
@[simp] theorem setSlot_regions (s : State) (p n : Nat) (f : Slot) : (s.setSlot p n f).regions = s.regions := rfl
@[simp] theorem setSlot_ranks (s : State) (p n : Nat) (f : Slot) : (s.setSlot p n f).ranks = s.ranks := rfl
@[simp] theorem setSlot_ranksAt (s : State) (p n : Nat) (f : Slot) : (s.setSlot p n f).ranksAt = s.ranksAt := rfl
@[simp] theorem setSlot_trseq (s : State) (p n : Nat) (f : Slot) : (s.setSlot p n f).trseq = s.trseq := rfl
@[simp] theorem setSlot_late (s : State) (p n : Nat) (f : Slot) : (s.setSlot p n f).late = s.late := rfl
@[simp] theorem setSlot_net (s : State) (p n : Nat) (f : Slot) : (s.setSlot p n f).net = s.net := rfl
@[simp] theorem setSlot_bars (s : State) (p n : Nat) (f : Slot) : (s.setSlot p n f).bars = s.bars := rfl
@[simp] theorem setSlot_fuses (s : State) (p n : Nat) (f : Slot) : (s.setSlot p n f).fuses = s.fuses := rfl
@[simp] theorem setSlot_host (s : State) (p n : Nat) (f : Slot) : (s.setSlot p n f).host = s.host := rfl

@[simp] theorem onSlot_plan (s : State) (p n : Nat) (f : Slot → Slot) : (s.onSlot p n f).plan = s.plan := rfl
@[simp] theorem onSlot_cur (s : State) (p n : Nat) (f : Slot → Slot) : (s.onSlot p n f).cur = s.cur := rfl
@[simp] theorem onSlot_spot (s : State) (p n : Nat) (f : Slot → Slot) : (s.onSlot p n f).spot = s.spot := rfl
@[simp] theorem onSlot_fresh (s : State) (p n : Nat) (f : Slot → Slot) : (s.onSlot p n f).fresh = s.fresh := rfl
@[simp] theorem onSlot_seq (s : State) (p n : Nat) (f : Slot → Slot) : (s.onSlot p n f).seq = s.seq := rfl
@[simp] theorem onSlot_now (s : State) (p n : Nat) (f : Slot → Slot) : (s.onSlot p n f).now = s.now := rfl
@[simp] theorem onSlot_mem (s : State) (p n : Nat) (f : Slot → Slot) : (s.onSlot p n f).mem = s.mem := rfl
@[simp] theorem onSlot_bad (s : State) (p n : Nat) (f : Slot → Slot) : (s.onSlot p n f).bad = s.bad := rfl
@[simp] theorem onSlot_regs (s : State) (p n : Nat) (f : Slot → Slot) : (s.onSlot p n f).regs = s.regs := rfl
@[simp] theorem onSlot_clusters (s : State) (p n : Nat) (f : Slot → Slot) : (s.onSlot p n f).clusters = s.clusters := rfl
@[simp] theorem onSlot_regions (s : State) (p n : Nat) (f : Slot → Slot) : (s.onSlot p n f).regions = s.regions := rfl
@[simp] theorem onSlot_ranks (s : State) (p n : Nat) (f : Slot → Slot) : (s.onSlot p n f).ranks = s.ranks := rfl
@[simp] theorem onSlot_ranksAt (s : State) (p n : Nat) (f : Slot → Slot) : (s.onSlot p n f).ranksAt = s.ranksAt := rfl
@[simp] theorem onSlot_trseq (s : State) (p n : Nat) (f : Slot → Slot) : (s.onSlot p n f).trseq = s.trseq := rfl
@[simp] theorem onSlot_late (s : State) (p n : Nat) (f : Slot → Slot) : (s.onSlot p n f).late = s.late := rfl
@[simp] theorem onSlot_net (s : State) (p n : Nat) (f : Slot → Slot) : (s.onSlot p n f).net = s.net := rfl
@[simp] theorem onSlot_bars (s : State) (p n : Nat) (f : Slot → Slot) : (s.onSlot p n f).bars = s.bars := rfl
@[simp] theorem onSlot_fuses (s : State) (p n : Nat) (f : Slot → Slot) : (s.onSlot p n f).fuses = s.fuses := rfl
@[simp] theorem onSlot_host (s : State) (p n : Nat) (f : Slot → Slot) : (s.onSlot p n f).host = s.host := rfl

@[simp] theorem onMyCore_plan (s : State) (f : Core → Core) : (s.onMyCore f).plan = s.plan := rfl
@[simp] theorem onMyCore_cur (s : State) (f : Core → Core) : (s.onMyCore f).cur = s.cur := rfl
@[simp] theorem onMyCore_spot (s : State) (f : Core → Core) : (s.onMyCore f).spot = s.spot := rfl
@[simp] theorem onMyCore_fresh (s : State) (f : Core → Core) : (s.onMyCore f).fresh = s.fresh := rfl
@[simp] theorem onMyCore_seq (s : State) (f : Core → Core) : (s.onMyCore f).seq = s.seq := rfl
@[simp] theorem onMyCore_now (s : State) (f : Core → Core) : (s.onMyCore f).now = s.now := rfl
@[simp] theorem onMyCore_mem (s : State) (f : Core → Core) : (s.onMyCore f).mem = s.mem := rfl
@[simp] theorem onMyCore_bad (s : State) (f : Core → Core) : (s.onMyCore f).bad = s.bad := rfl
@[simp] theorem onMyCore_regs (s : State) (f : Core → Core) : (s.onMyCore f).regs = s.regs := rfl
@[simp] theorem onMyCore_clusters (s : State) (f : Core → Core) : (s.onMyCore f).clusters = s.clusters := rfl
@[simp] theorem onMyCore_regions (s : State) (f : Core → Core) : (s.onMyCore f).regions = s.regions := rfl
@[simp] theorem onMyCore_ranks (s : State) (f : Core → Core) : (s.onMyCore f).ranks = s.ranks := rfl
@[simp] theorem onMyCore_ranksAt (s : State) (f : Core → Core) : (s.onMyCore f).ranksAt = s.ranksAt := rfl
@[simp] theorem onMyCore_trseq (s : State) (f : Core → Core) : (s.onMyCore f).trseq = s.trseq := rfl
@[simp] theorem onMyCore_late (s : State) (f : Core → Core) : (s.onMyCore f).late = s.late := rfl
@[simp] theorem onMyCore_net (s : State) (f : Core → Core) : (s.onMyCore f).net = s.net := rfl
@[simp] theorem onMyCore_bars (s : State) (f : Core → Core) : (s.onMyCore f).bars = s.bars := rfl
@[simp] theorem onMyCore_fuses (s : State) (f : Core → Core) : (s.onMyCore f).fuses = s.fuses := rfl
@[simp] theorem onMyCore_host (s : State) (f : Core → Core) : (s.onMyCore f).host = s.host := rfl

@[simp] theorem onMe_plan (s : State) (f : Slot → Slot) : (s.onMe f).plan = s.plan := rfl
@[simp] theorem onMe_cur (s : State) (f : Slot → Slot) : (s.onMe f).cur = s.cur := rfl
@[simp] theorem onMe_spot (s : State) (f : Slot → Slot) : (s.onMe f).spot = s.spot := rfl
@[simp] theorem onMe_fresh (s : State) (f : Slot → Slot) : (s.onMe f).fresh = s.fresh := rfl
@[simp] theorem onMe_seq (s : State) (f : Slot → Slot) : (s.onMe f).seq = s.seq := rfl
@[simp] theorem onMe_now (s : State) (f : Slot → Slot) : (s.onMe f).now = s.now := rfl
@[simp] theorem onMe_mem (s : State) (f : Slot → Slot) : (s.onMe f).mem = s.mem := rfl
@[simp] theorem onMe_bad (s : State) (f : Slot → Slot) : (s.onMe f).bad = s.bad := rfl
@[simp] theorem onMe_regs (s : State) (f : Slot → Slot) : (s.onMe f).regs = s.regs := rfl
@[simp] theorem onMe_clusters (s : State) (f : Slot → Slot) : (s.onMe f).clusters = s.clusters := rfl
@[simp] theorem onMe_regions (s : State) (f : Slot → Slot) : (s.onMe f).regions = s.regions := rfl
@[simp] theorem onMe_ranks (s : State) (f : Slot → Slot) : (s.onMe f).ranks = s.ranks := rfl
@[simp] theorem onMe_ranksAt (s : State) (f : Slot → Slot) : (s.onMe f).ranksAt = s.ranksAt := rfl
@[simp] theorem onMe_trseq (s : State) (f : Slot → Slot) : (s.onMe f).trseq = s.trseq := rfl
@[simp] theorem onMe_late (s : State) (f : Slot → Slot) : (s.onMe f).late = s.late := rfl
@[simp] theorem onMe_net (s : State) (f : Slot → Slot) : (s.onMe f).net = s.net := rfl
@[simp] theorem onMe_bars (s : State) (f : Slot → Slot) : (s.onMe f).bars = s.bars := rfl
@[simp] theorem onMe_fuses (s : State) (f : Slot → Slot) : (s.onMe f).fuses = s.fuses := rfl
@[simp] theorem onMe_host (s : State) (f : Slot → Slot) : (s.onMe f).host = s.host := rfl

@[simp] theorem setReg_plan (s : State) (r : Reg) (v : Word) : (s.setReg r v).plan = s.plan := rfl
@[simp] theorem setReg_cur (s : State) (r : Reg) (v : Word) : (s.setReg r v).cur = s.cur := rfl
@[simp] theorem setReg_spot (s : State) (r : Reg) (v : Word) : (s.setReg r v).spot = s.spot := rfl
@[simp] theorem setReg_fresh (s : State) (r : Reg) (v : Word) : (s.setReg r v).fresh = s.fresh := rfl
@[simp] theorem setReg_seq (s : State) (r : Reg) (v : Word) : (s.setReg r v).seq = s.seq := rfl
@[simp] theorem setReg_now (s : State) (r : Reg) (v : Word) : (s.setReg r v).now = s.now := rfl
@[simp] theorem setReg_mem (s : State) (r : Reg) (v : Word) : (s.setReg r v).mem = s.mem := rfl
@[simp] theorem setReg_bad (s : State) (r : Reg) (v : Word) : (s.setReg r v).bad = s.bad := rfl
@[simp] theorem setReg_regs (s : State) (r : Reg) (v : Word) : (s.setReg r v).regs = s.regs := rfl
@[simp] theorem setReg_clusters (s : State) (r : Reg) (v : Word) : (s.setReg r v).clusters = s.clusters := rfl
@[simp] theorem setReg_regions (s : State) (r : Reg) (v : Word) : (s.setReg r v).regions = s.regions := rfl
@[simp] theorem setReg_ranks (s : State) (r : Reg) (v : Word) : (s.setReg r v).ranks = s.ranks := rfl
@[simp] theorem setReg_ranksAt (s : State) (r : Reg) (v : Word) : (s.setReg r v).ranksAt = s.ranksAt := rfl
@[simp] theorem setReg_trseq (s : State) (r : Reg) (v : Word) : (s.setReg r v).trseq = s.trseq := rfl
@[simp] theorem setReg_late (s : State) (r : Reg) (v : Word) : (s.setReg r v).late = s.late := rfl
@[simp] theorem setReg_net (s : State) (r : Reg) (v : Word) : (s.setReg r v).net = s.net := rfl
@[simp] theorem setReg_bars (s : State) (r : Reg) (v : Word) : (s.setReg r v).bars = s.bars := rfl
@[simp] theorem setReg_fuses (s : State) (r : Reg) (v : Word) : (s.setReg r v).fuses = s.fuses := rfl
@[simp] theorem setReg_host (s : State) (r : Reg) (v : Word) : (s.setReg r v).host = s.host := rfl

@[simp] theorem setPending_plan (s : State) (r : Reg) (v : PSrc) : (s.setPending r v).plan = s.plan := rfl
@[simp] theorem setPending_cur (s : State) (r : Reg) (v : PSrc) : (s.setPending r v).cur = s.cur := rfl
@[simp] theorem setPending_spot (s : State) (r : Reg) (v : PSrc) : (s.setPending r v).spot = s.spot := rfl
@[simp] theorem setPending_fresh (s : State) (r : Reg) (v : PSrc) : (s.setPending r v).fresh = s.fresh := rfl
@[simp] theorem setPending_seq (s : State) (r : Reg) (v : PSrc) : (s.setPending r v).seq = s.seq := rfl
@[simp] theorem setPending_now (s : State) (r : Reg) (v : PSrc) : (s.setPending r v).now = s.now := rfl
@[simp] theorem setPending_mem (s : State) (r : Reg) (v : PSrc) : (s.setPending r v).mem = s.mem := rfl
@[simp] theorem setPending_bad (s : State) (r : Reg) (v : PSrc) : (s.setPending r v).bad = s.bad := rfl
@[simp] theorem setPending_regs (s : State) (r : Reg) (v : PSrc) : (s.setPending r v).regs = s.regs := rfl
@[simp] theorem setPending_clusters (s : State) (r : Reg) (v : PSrc) : (s.setPending r v).clusters = s.clusters := rfl
@[simp] theorem setPending_regions (s : State) (r : Reg) (v : PSrc) : (s.setPending r v).regions = s.regions := rfl
@[simp] theorem setPending_ranks (s : State) (r : Reg) (v : PSrc) : (s.setPending r v).ranks = s.ranks := rfl
@[simp] theorem setPending_ranksAt (s : State) (r : Reg) (v : PSrc) : (s.setPending r v).ranksAt = s.ranksAt := rfl
@[simp] theorem setPending_trseq (s : State) (r : Reg) (v : PSrc) : (s.setPending r v).trseq = s.trseq := rfl
@[simp] theorem setPending_late (s : State) (r : Reg) (v : PSrc) : (s.setPending r v).late = s.late := rfl
@[simp] theorem setPending_net (s : State) (r : Reg) (v : PSrc) : (s.setPending r v).net = s.net := rfl
@[simp] theorem setPending_bars (s : State) (r : Reg) (v : PSrc) : (s.setPending r v).bars = s.bars := rfl
@[simp] theorem setPending_fuses (s : State) (r : Reg) (v : PSrc) : (s.setPending r v).fuses = s.fuses := rfl
@[simp] theorem setPending_host (s : State) (r : Reg) (v : PSrc) : (s.setPending r v).host = s.host := rfl

@[simp] theorem setXreg_plan (s : State) (r : XIdx) (v : XWord) : (s.setXreg r v).plan = s.plan := rfl
@[simp] theorem setXreg_cur (s : State) (r : XIdx) (v : XWord) : (s.setXreg r v).cur = s.cur := rfl
@[simp] theorem setXreg_spot (s : State) (r : XIdx) (v : XWord) : (s.setXreg r v).spot = s.spot := rfl
@[simp] theorem setXreg_fresh (s : State) (r : XIdx) (v : XWord) : (s.setXreg r v).fresh = s.fresh := rfl
@[simp] theorem setXreg_seq (s : State) (r : XIdx) (v : XWord) : (s.setXreg r v).seq = s.seq := rfl
@[simp] theorem setXreg_now (s : State) (r : XIdx) (v : XWord) : (s.setXreg r v).now = s.now := rfl
@[simp] theorem setXreg_mem (s : State) (r : XIdx) (v : XWord) : (s.setXreg r v).mem = s.mem := rfl
@[simp] theorem setXreg_bad (s : State) (r : XIdx) (v : XWord) : (s.setXreg r v).bad = s.bad := rfl
@[simp] theorem setXreg_regs (s : State) (r : XIdx) (v : XWord) : (s.setXreg r v).regs = s.regs := rfl
@[simp] theorem setXreg_clusters (s : State) (r : XIdx) (v : XWord) : (s.setXreg r v).clusters = s.clusters := rfl
@[simp] theorem setXreg_regions (s : State) (r : XIdx) (v : XWord) : (s.setXreg r v).regions = s.regions := rfl
@[simp] theorem setXreg_ranks (s : State) (r : XIdx) (v : XWord) : (s.setXreg r v).ranks = s.ranks := rfl
@[simp] theorem setXreg_ranksAt (s : State) (r : XIdx) (v : XWord) : (s.setXreg r v).ranksAt = s.ranksAt := rfl
@[simp] theorem setXreg_trseq (s : State) (r : XIdx) (v : XWord) : (s.setXreg r v).trseq = s.trseq := rfl
@[simp] theorem setXreg_late (s : State) (r : XIdx) (v : XWord) : (s.setXreg r v).late = s.late := rfl
@[simp] theorem setXreg_net (s : State) (r : XIdx) (v : XWord) : (s.setXreg r v).net = s.net := rfl
@[simp] theorem setXreg_bars (s : State) (r : XIdx) (v : XWord) : (s.setXreg r v).bars = s.bars := rfl
@[simp] theorem setXreg_fuses (s : State) (r : XIdx) (v : XWord) : (s.setXreg r v).fuses = s.fuses := rfl
@[simp] theorem setXreg_host (s : State) (r : XIdx) (v : XWord) : (s.setXreg r v).host = s.host := rfl

@[simp] theorem jump_plan (s : State) (a : Word) : (s.jump a).plan = s.plan := rfl
@[simp] theorem jump_cur (s : State) (a : Word) : (s.jump a).cur = s.cur := rfl
@[simp] theorem jump_spot (s : State) (a : Word) : (s.jump a).spot = s.spot := rfl
@[simp] theorem jump_fresh (s : State) (a : Word) : (s.jump a).fresh = s.fresh := rfl
@[simp] theorem jump_seq (s : State) (a : Word) : (s.jump a).seq = s.seq := rfl
@[simp] theorem jump_now (s : State) (a : Word) : (s.jump a).now = s.now := rfl
@[simp] theorem jump_mem (s : State) (a : Word) : (s.jump a).mem = s.mem := rfl
@[simp] theorem jump_bad (s : State) (a : Word) : (s.jump a).bad = s.bad := rfl
@[simp] theorem jump_regs (s : State) (a : Word) : (s.jump a).regs = s.regs := rfl
@[simp] theorem jump_clusters (s : State) (a : Word) : (s.jump a).clusters = s.clusters := rfl
@[simp] theorem jump_regions (s : State) (a : Word) : (s.jump a).regions = s.regions := rfl
@[simp] theorem jump_ranks (s : State) (a : Word) : (s.jump a).ranks = s.ranks := rfl
@[simp] theorem jump_ranksAt (s : State) (a : Word) : (s.jump a).ranksAt = s.ranksAt := rfl
@[simp] theorem jump_trseq (s : State) (a : Word) : (s.jump a).trseq = s.trseq := rfl
@[simp] theorem jump_late (s : State) (a : Word) : (s.jump a).late = s.late := rfl
@[simp] theorem jump_net (s : State) (a : Word) : (s.jump a).net = s.net := rfl
@[simp] theorem jump_bars (s : State) (a : Word) : (s.jump a).bars = s.bars := rfl
@[simp] theorem jump_fuses (s : State) (a : Word) : (s.jump a).fuses = s.fuses := rfl
@[simp] theorem jump_host (s : State) (a : Word) : (s.jump a).host = s.host := rfl

@[simp] theorem tick_plan (s : State) : s.tick.plan = s.plan := rfl
@[simp] theorem tick_cur (s : State) : s.tick.cur = s.cur := rfl
@[simp] theorem tick_spot (s : State) : s.tick.spot = s.spot := rfl
@[simp] theorem tick_fresh (s : State) : s.tick.fresh = s.fresh := rfl
@[simp] theorem tick_now (s : State) : s.tick.now = s.now := rfl
@[simp] theorem tick_mem (s : State) : s.tick.mem = s.mem := rfl
@[simp] theorem tick_bad (s : State) : s.tick.bad = s.bad := rfl
@[simp] theorem tick_regs (s : State) : s.tick.regs = s.regs := rfl
@[simp] theorem tick_cores (s : State) : s.tick.cores = s.cores := rfl
@[simp] theorem tick_clusters (s : State) : s.tick.clusters = s.clusters := rfl
@[simp] theorem tick_regions (s : State) : s.tick.regions = s.regions := rfl
@[simp] theorem tick_ranks (s : State) : s.tick.ranks = s.ranks := rfl
@[simp] theorem tick_ranksAt (s : State) : s.tick.ranksAt = s.ranksAt := rfl
@[simp] theorem tick_trseq (s : State) : s.tick.trseq = s.trseq := rfl
@[simp] theorem tick_late (s : State) : s.tick.late = s.late := rfl
@[simp] theorem tick_net (s : State) : s.tick.net = s.net := rfl
@[simp] theorem tick_bars (s : State) : s.tick.bars = s.bars := rfl
@[simp] theorem tick_fuses (s : State) : s.tick.fuses = s.fuses := rfl
@[simp] theorem tick_host (s : State) : s.tick.host = s.host := rfl

@[simp] theorem tickFree_plan (s : State) : s.tickFree.plan = s.plan := rfl
@[simp] theorem tickFree_cur (s : State) : s.tickFree.cur = s.cur := rfl
@[simp] theorem tickFree_spot (s : State) : s.tickFree.spot = s.spot := rfl
@[simp] theorem tickFree_seq (s : State) : s.tickFree.seq = s.seq := rfl
@[simp] theorem tickFree_now (s : State) : s.tickFree.now = s.now := rfl
@[simp] theorem tickFree_mem (s : State) : s.tickFree.mem = s.mem := rfl
@[simp] theorem tickFree_bad (s : State) : s.tickFree.bad = s.bad := rfl
@[simp] theorem tickFree_regs (s : State) : s.tickFree.regs = s.regs := rfl
@[simp] theorem tickFree_cores (s : State) : s.tickFree.cores = s.cores := rfl
@[simp] theorem tickFree_clusters (s : State) : s.tickFree.clusters = s.clusters := rfl
@[simp] theorem tickFree_regions (s : State) : s.tickFree.regions = s.regions := rfl
@[simp] theorem tickFree_ranks (s : State) : s.tickFree.ranks = s.ranks := rfl
@[simp] theorem tickFree_ranksAt (s : State) : s.tickFree.ranksAt = s.ranksAt := rfl
@[simp] theorem tickFree_trseq (s : State) : s.tickFree.trseq = s.trseq := rfl
@[simp] theorem tickFree_late (s : State) : s.tickFree.late = s.late := rfl
@[simp] theorem tickFree_net (s : State) : s.tickFree.net = s.net := rfl
@[simp] theorem tickFree_bars (s : State) : s.tickFree.bars = s.bars := rfl
@[simp] theorem tickFree_fuses (s : State) : s.tickFree.fuses = s.fuses := rfl
@[simp] theorem tickFree_host (s : State) : s.tickFree.host = s.host := rfl

@[simp] theorem inject_plan (s : State) (a b : Port) (n : Nat) (p : Payload) : (s.inject a b n p).plan = s.plan := rfl
@[simp] theorem inject_cur (s : State) (a b : Port) (n : Nat) (p : Payload) : (s.inject a b n p).cur = s.cur := rfl
@[simp] theorem inject_spot (s : State) (a b : Port) (n : Nat) (p : Payload) : (s.inject a b n p).spot = s.spot := rfl
@[simp] theorem inject_fresh (s : State) (a b : Port) (n : Nat) (p : Payload) : (s.inject a b n p).fresh = s.fresh := rfl
@[simp] theorem inject_seq (s : State) (a b : Port) (n : Nat) (p : Payload) : (s.inject a b n p).seq = s.seq := rfl
@[simp] theorem inject_now (s : State) (a b : Port) (n : Nat) (p : Payload) : (s.inject a b n p).now = s.now := rfl
@[simp] theorem inject_mem (s : State) (a b : Port) (n : Nat) (p : Payload) : (s.inject a b n p).mem = s.mem := rfl
@[simp] theorem inject_bad (s : State) (a b : Port) (n : Nat) (p : Payload) : (s.inject a b n p).bad = s.bad := rfl
@[simp] theorem inject_regs (s : State) (a b : Port) (n : Nat) (p : Payload) : (s.inject a b n p).regs = s.regs := rfl
@[simp] theorem inject_cores (s : State) (a b : Port) (n : Nat) (p : Payload) : (s.inject a b n p).cores = s.cores := rfl
@[simp] theorem inject_clusters (s : State) (a b : Port) (n : Nat) (p : Payload) : (s.inject a b n p).clusters = s.clusters := rfl
@[simp] theorem inject_regions (s : State) (a b : Port) (n : Nat) (p : Payload) : (s.inject a b n p).regions = s.regions := rfl
@[simp] theorem inject_ranks (s : State) (a b : Port) (n : Nat) (p : Payload) : (s.inject a b n p).ranks = s.ranks := rfl
@[simp] theorem inject_ranksAt (s : State) (a b : Port) (n : Nat) (p : Payload) : (s.inject a b n p).ranksAt = s.ranksAt := rfl
@[simp] theorem inject_trseq (s : State) (a b : Port) (n : Nat) (p : Payload) : (s.inject a b n p).trseq = s.trseq := rfl
@[simp] theorem inject_late (s : State) (a b : Port) (n : Nat) (p : Payload) : (s.inject a b n p).late = s.late := rfl
@[simp] theorem inject_bars (s : State) (a b : Port) (n : Nat) (p : Payload) : (s.inject a b n p).bars = s.bars := rfl
@[simp] theorem inject_fuses (s : State) (a b : Port) (n : Nat) (p : Payload) : (s.inject a b n p).fuses = s.fuses := rfl
@[simp] theorem inject_host (s : State) (a b : Port) (n : Nat) (p : Payload) : (s.inject a b n p).host = s.host := rfl

@[simp] theorem send_plan (s : State) (a b : Port) (r : Routing) (x : Word) (d : List Word) : (s.send a b r x d).plan = s.plan := rfl
@[simp] theorem send_cur (s : State) (a b : Port) (r : Routing) (x : Word) (d : List Word) : (s.send a b r x d).cur = s.cur := rfl
@[simp] theorem send_spot (s : State) (a b : Port) (r : Routing) (x : Word) (d : List Word) : (s.send a b r x d).spot = s.spot := rfl
@[simp] theorem send_fresh (s : State) (a b : Port) (r : Routing) (x : Word) (d : List Word) : (s.send a b r x d).fresh = s.fresh := rfl
@[simp] theorem send_seq (s : State) (a b : Port) (r : Routing) (x : Word) (d : List Word) : (s.send a b r x d).seq = s.seq := rfl
@[simp] theorem send_now (s : State) (a b : Port) (r : Routing) (x : Word) (d : List Word) : (s.send a b r x d).now = s.now := rfl
@[simp] theorem send_mem (s : State) (a b : Port) (r : Routing) (x : Word) (d : List Word) : (s.send a b r x d).mem = s.mem := rfl
@[simp] theorem send_bad (s : State) (a b : Port) (r : Routing) (x : Word) (d : List Word) : (s.send a b r x d).bad = s.bad := rfl
@[simp] theorem send_regs (s : State) (a b : Port) (r : Routing) (x : Word) (d : List Word) : (s.send a b r x d).regs = s.regs := rfl
@[simp] theorem send_cores (s : State) (a b : Port) (r : Routing) (x : Word) (d : List Word) : (s.send a b r x d).cores = s.cores := rfl
@[simp] theorem send_clusters (s : State) (a b : Port) (r : Routing) (x : Word) (d : List Word) : (s.send a b r x d).clusters = s.clusters := rfl
@[simp] theorem send_regions (s : State) (a b : Port) (r : Routing) (x : Word) (d : List Word) : (s.send a b r x d).regions = s.regions := rfl
@[simp] theorem send_ranks (s : State) (a b : Port) (r : Routing) (x : Word) (d : List Word) : (s.send a b r x d).ranks = s.ranks := rfl
@[simp] theorem send_ranksAt (s : State) (a b : Port) (r : Routing) (x : Word) (d : List Word) : (s.send a b r x d).ranksAt = s.ranksAt := rfl
@[simp] theorem send_trseq (s : State) (a b : Port) (r : Routing) (x : Word) (d : List Word) : (s.send a b r x d).trseq = s.trseq := rfl
@[simp] theorem send_late (s : State) (a b : Port) (r : Routing) (x : Word) (d : List Word) : (s.send a b r x d).late = s.late := rfl
@[simp] theorem send_bars (s : State) (a b : Port) (r : Routing) (x : Word) (d : List Word) : (s.send a b r x d).bars = s.bars := rfl
@[simp] theorem send_fuses (s : State) (a b : Port) (r : Routing) (x : Word) (d : List Word) : (s.send a b r x d).fuses = s.fuses := rfl
@[simp] theorem send_host (s : State) (a b : Port) (r : Routing) (x : Word) (d : List Word) : (s.send a b r x d).host = s.host := rfl

@[simp] theorem sendTagged_plan (s : State) (a b : Port) (r : Routing) (n : Nat) (x : Word) (d : List Word) : (s.sendTagged a b r n x d).plan = s.plan := rfl
@[simp] theorem sendTagged_cur (s : State) (a b : Port) (r : Routing) (n : Nat) (x : Word) (d : List Word) : (s.sendTagged a b r n x d).cur = s.cur := rfl
@[simp] theorem sendTagged_spot (s : State) (a b : Port) (r : Routing) (n : Nat) (x : Word) (d : List Word) : (s.sendTagged a b r n x d).spot = s.spot := rfl
@[simp] theorem sendTagged_fresh (s : State) (a b : Port) (r : Routing) (n : Nat) (x : Word) (d : List Word) : (s.sendTagged a b r n x d).fresh = s.fresh := rfl
@[simp] theorem sendTagged_seq (s : State) (a b : Port) (r : Routing) (n : Nat) (x : Word) (d : List Word) : (s.sendTagged a b r n x d).seq = s.seq := rfl
@[simp] theorem sendTagged_now (s : State) (a b : Port) (r : Routing) (n : Nat) (x : Word) (d : List Word) : (s.sendTagged a b r n x d).now = s.now := rfl
@[simp] theorem sendTagged_mem (s : State) (a b : Port) (r : Routing) (n : Nat) (x : Word) (d : List Word) : (s.sendTagged a b r n x d).mem = s.mem := rfl
@[simp] theorem sendTagged_bad (s : State) (a b : Port) (r : Routing) (n : Nat) (x : Word) (d : List Word) : (s.sendTagged a b r n x d).bad = s.bad := rfl
@[simp] theorem sendTagged_regs (s : State) (a b : Port) (r : Routing) (n : Nat) (x : Word) (d : List Word) : (s.sendTagged a b r n x d).regs = s.regs := rfl
@[simp] theorem sendTagged_cores (s : State) (a b : Port) (r : Routing) (n : Nat) (x : Word) (d : List Word) : (s.sendTagged a b r n x d).cores = s.cores := rfl
@[simp] theorem sendTagged_clusters (s : State) (a b : Port) (r : Routing) (n : Nat) (x : Word) (d : List Word) : (s.sendTagged a b r n x d).clusters = s.clusters := rfl
@[simp] theorem sendTagged_regions (s : State) (a b : Port) (r : Routing) (n : Nat) (x : Word) (d : List Word) : (s.sendTagged a b r n x d).regions = s.regions := rfl
@[simp] theorem sendTagged_ranks (s : State) (a b : Port) (r : Routing) (n : Nat) (x : Word) (d : List Word) : (s.sendTagged a b r n x d).ranks = s.ranks := rfl
@[simp] theorem sendTagged_ranksAt (s : State) (a b : Port) (r : Routing) (n : Nat) (x : Word) (d : List Word) : (s.sendTagged a b r n x d).ranksAt = s.ranksAt := rfl
@[simp] theorem sendTagged_trseq (s : State) (a b : Port) (r : Routing) (n : Nat) (x : Word) (d : List Word) : (s.sendTagged a b r n x d).trseq = s.trseq := rfl
@[simp] theorem sendTagged_late (s : State) (a b : Port) (r : Routing) (n : Nat) (x : Word) (d : List Word) : (s.sendTagged a b r n x d).late = s.late := rfl
@[simp] theorem sendTagged_bars (s : State) (a b : Port) (r : Routing) (n : Nat) (x : Word) (d : List Word) : (s.sendTagged a b r n x d).bars = s.bars := rfl
@[simp] theorem sendTagged_fuses (s : State) (a b : Port) (r : Routing) (n : Nat) (x : Word) (d : List Word) : (s.sendTagged a b r n x d).fuses = s.fuses := rfl
@[simp] theorem sendTagged_host (s : State) (a b : Port) (r : Routing) (n : Nat) (x : Word) (d : List Word) : (s.sendTagged a b r n x d).host = s.host := rfl

/-! ### Reading back -/

@[simp] theorem core_setCore (s : State) (p : Nat) (c : Core) : (s.setCore p c).core p = c := by
  simp [core, setCore]

@[simp] theorem core_setCore_other (s : State) (p q : Nat) (c : Core) (h : q ≠ p) : (s.setCore p c).core q = s.core q := by
  simp [core, setCore, h]

@[simp] theorem core_onCore (s : State) (p : Nat) (f : Core → Core) : (s.onCore p f).core p = f (s.core p) := by
  simp [onCore]

@[simp] theorem core_onCore_other (s : State) (p q : Nat) (f : Core → Core) (h : q ≠ p) : (s.onCore p f).core q = s.core q := by
  simp [onCore, h]

@[simp] theorem cluster_setCluster (s : State) (p : Nat) (c : Cluster) : (s.setCluster p c).cluster p = c := by
  simp [cluster, setCluster]

@[simp] theorem cluster_setCluster_other (s : State) (p q : Nat) (c : Cluster) (h : q ≠ p) :
    (s.setCluster p c).cluster q = s.cluster q := by
  simp [cluster, setCluster, h]

@[simp] theorem cluster_onCluster (s : State) (p : Nat) (f : Cluster → Cluster) :
    (s.onCluster p f).cluster p = f (s.cluster p) := by
  simp [onCluster]

@[simp] theorem cluster_onCluster_other (s : State) (p q : Nat) (f : Cluster → Cluster) (h : q ≠ p) :
    (s.onCluster p f).cluster q = s.cluster q := by
  simp [onCluster, h]

@[simp] theorem region_setRegion (s : State) (p : Nat) (c : Region) : (s.setRegion p c).region p = c := by
  simp [region, setRegion]

@[simp] theorem region_setRegion_other (s : State) (p q : Nat) (c : Region) (h : q ≠ p) :
    (s.setRegion p c).region q = s.region q := by
  simp [region, setRegion, h]

@[simp] theorem region_onRegion (s : State) (p : Nat) (f : Region → Region) :
    (s.onRegion p f).region p = f (s.region p) := by
  simp [onRegion]

@[simp] theorem region_onRegion_other (s : State) (p q : Nat) (f : Region → Region) (h : q ≠ p) :
    (s.onRegion p f).region q = s.region q := by
  simp [onRegion, h]

@[simp] theorem core_setCluster (s : State) (p q : Nat) (c : Cluster) : (s.setCluster p c).core q = s.core q := rfl
@[simp] theorem core_onCluster (s : State) (p q : Nat) (f : Cluster → Cluster) : (s.onCluster p f).core q = s.core q := rfl
@[simp] theorem core_setRegion (s : State) (p q : Nat) (c : Region) : (s.setRegion p c).core q = s.core q := rfl
@[simp] theorem core_onRegion (s : State) (p q : Nat) (f : Region → Region) : (s.onRegion p f).core q = s.core q := rfl
@[simp] theorem cluster_setCore (s : State) (p q : Nat) (c : Core) : (s.setCore p c).cluster q = s.cluster q := rfl
@[simp] theorem cluster_onCore (s : State) (p q : Nat) (f : Core → Core) : (s.onCore p f).cluster q = s.cluster q := rfl
@[simp] theorem cluster_setRegion (s : State) (p q : Nat) (c : Region) : (s.setRegion p c).cluster q = s.cluster q := rfl
@[simp] theorem cluster_onRegion (s : State) (p q : Nat) (f : Region → Region) : (s.onRegion p f).cluster q = s.cluster q := rfl
@[simp] theorem region_setCore (s : State) (p q : Nat) (c : Core) : (s.setCore p c).region q = s.region q := rfl
@[simp] theorem region_onCore (s : State) (p q : Nat) (f : Core → Core) : (s.onCore p f).region q = s.region q := rfl
@[simp] theorem region_setCluster (s : State) (p q : Nat) (c : Cluster) : (s.setCluster p c).region q = s.region q := rfl
@[simp] theorem region_onCluster (s : State) (p q : Nat) (f : Cluster → Cluster) : (s.onCluster p f).region q = s.region q := rfl
@[simp] theorem cluster_onMe (s : State) (q : Nat) (f : Slot → Slot) : (s.onMe f).cluster q = s.cluster q := rfl
@[simp] theorem region_onMe (s : State) (q : Nat) (f : Slot → Slot) : (s.onMe f).region q = s.region q := rfl
@[simp] theorem cluster_onMyCore (s : State) (q : Nat) (f : Core → Core) : (s.onMyCore f).cluster q = s.cluster q := rfl
@[simp] theorem region_onMyCore (s : State) (q : Nat) (f : Core → Core) : (s.onMyCore f).region q = s.region q := rfl

/-- Two changes of one core are one. -/
@[simp] theorem setCore_setCore (s : State) (p : Nat) (c d : Core) : (s.setCore p c).setCore p d = s.setCore p d := by
  simp [setCore]

end State

@[simp] theorem Core.slot_setSlot (c : Core) (n : Nat) (f : Slot) : (c.setSlot n f).slot n = f := by
  simp [Core.slot, Core.setSlot]

@[simp] theorem Core.slot_setSlot_other (c : Core) (n m : Nat) (f : Slot) (h : m ≠ n) : (c.setSlot n f).slot m = c.slot m := by
  simp [Core.slot, Core.setSlot, h]

@[simp] theorem Core.setSlot_setSlot (c : Core) (n : Nat) (f g : Slot) : (c.setSlot n f).setSlot n g = c.setSlot n g := by
  simp [Core.setSlot]

namespace State

@[simp] theorem slot_setSlot (s : State) (p n : Nat) (f : Slot) : (s.setSlot p n f).slot p n = f := by
  simp [slot, setSlot]

@[simp] theorem slot_onSlot (s : State) (p n : Nat) (f : Slot → Slot) : (s.onSlot p n f).slot p n = f (s.slot p n) := by
  simp [onSlot]

@[simp] theorem slot_setSlot_other (s : State) (p n q m : Nat) (f : Slot) (h : q ≠ p ∨ m ≠ n) :
    (s.setSlot p n f).slot q m = s.slot q m := by
  by_cases hq : q = p
  · subst hq
    have hm : m ≠ n := by simpa using h
    simp [slot, setSlot, hm]
  · simp [slot, setSlot, hq]

@[simp] theorem me_onMe (s : State) (f : Slot → Slot) : (s.onMe f).me = f s.me := by
  simp [me, onMe]

@[simp] theorem myCore_onMyCore (s : State) (f : Core → Core) : (s.onMyCore f).myCore = f s.myCore := by
  exact core_onCore s s.cur.core f

end State

end Sys2Proof.Machine
end

