-- ==== Sys2Proof/Laws/Issue.lean ====
section
/-!
SUPPORT. What the issue of an instruction can do, said once: the checks of `ready`, the outcomes of `issue`, and `retired`.
-/

namespace Sys2Proof.Machine

/-- No register of a list is pending: the mask that the issue computes is 0. -/
theorem Slot.pendingMask_eq_zero (f : Slot) (rs : List Reg) (h : ∀ r ∈ rs, f.mark[r] = none) : f.pendingMask rs = 0#8 := by
  have key : ∀ (l : List Reg) (m : BitVec 8), (∀ r ∈ l, f.mark[r] = none) →
      l.foldl (fun m r => if f.pending r then m ||| (1#8 <<< r.val) else m) m = m := by
    intro l
    induction l with
    | nil => intro m _; rfl
    | cons r l ih =>
      intro m hl
      have hr : f.pending r = false := by simp [Slot.pending, hl r (by simp)]
      simp only [List.foldl_cons, hr]
      exact ih m fun x hx => hl x (by simp [hx])
  exact key rs 0#8 h

namespace State

theorem gatherTrap_none (s : State) (rs : List Reg) (h : ∀ r ∈ rs, s.me.mark[r] = none) : s.gatherTrap rs = none := by
  unfold gatherTrap
  simp only
  split
  · next hc =>
    have := h s.myCore.gk.reg (by simpa using hc.2.2.2.1)
    rw [hc.2.2.2.2] at this
    cases this
  · rfl

/-- The checks of R29 pass where the fibre is clear and the instruction's own conditions hold. -/
theorem ready_ok (s : State) (nd : Need) (h : s.Clear nd.reads nd.writes nd.xs) (hl : nd.legal = true)
    (hp : nd.priv = true → s.me.sup = true) (he : ∀ e, nd.engine = some e → engineHere s.cur.core e = true) :
    s.ready nd = .ok () := by
  obtain ⟨_, _, hu, hm, hr, hx⟩ := h
  have h1 : s.gatherTrap nd.reads = none := gatherTrap_none s _ fun r hr' => hm r (by simp [hr'])
  have h2 : s.me.pendingMask (nd.reads ++ nd.writes) = 0#8 := Slot.pendingMask_eq_zero _ _ hm
  have h3 : (nd.xs.find? fun x => (Tab.look s.myCore.xld x.val).isSome) = none := by
    simp only [List.find?_eq_none]
    intro x hx'
    simp [hx x hx']
  have h4 : (nd.reads.find? fun r => s.me.refused[r].isSome) = none := by
    simp only [List.find?_eq_none]
    intro x hx'
    simp [hr x hx']
  have h5 : (!nd.priv || s.me.sup) = true := by
    cases hq : nd.priv
    · rfl
    · simp [hp hq]
  have h6 : ∀ e, nd.engine = some e → engineHere s.cur.core e = true := he
  unfold ready
  simp only [hu, hl, h1, h2, h3, h4, h5, require, waitUnless]
  cases hq : nd.engine with
  | none => rfl
  | some e => simp only [h6 e hq]; rfl

/-- An instruction whose checks pass and whose effect succeeds retires. -/
theorem issue_next (s : State) (nd : Need) (body : State → Except Stop State) (t : State)
    (h : s.Clear nd.reads nd.writes nd.xs) (hl : nd.legal = true) (hp : nd.priv = true → s.me.sup = true)
    (he : ∀ e, nd.engine = some e → engineHere s.cur.core e = true) (hb : body (s.onMe (slotBegun nd.len)) = .ok t) :
    s.issue nd body = .next (retired s nd.passes t) := by
  have hr := ready_ok s nd h hl hp he
  unfold issue
  rw [h.1, h.2.1, hr]
  simp [Except.bind, hb]

/-- A change of the issuing fibre is a change of its core. -/
theorem onMe_eq (s : State) (f : Slot → Slot) : s.onMe f = s.setCore s.cur.core (s.myCore.setSlot s.cur.slot (f s.me)) := rfl

/-- A change of the issuing core. -/
theorem onMyCore_eq (s : State) (g : Core → Core) : s.onMyCore g = s.setCore s.cur.core (g s.myCore) := rfl

@[simp] theorem myCore_setCore (s : State) (c : Core) : (s.setCore s.cur.core c).myCore = c := by simp [myCore]

@[simp] theorem me_setCore (s : State) (c : Core) : (s.setCore s.cur.core c).me = c.slot s.cur.slot := by simp [me, slot]

@[simp] theorem slot_coreIssued (c : Core) (ac rc n : Nat) : (coreIssued ac rc c).slot n = c.slot n := rfl

theorem setSlot_coreIssued (c : Core) (ac rc n : Nat) (f : Slot) :
    (coreIssued ac rc c).setSlot n f = coreIssued ac rc (c.setSlot n f) := rfl

/-- The state after NextPC has been set and the fibre and the core have been changed. -/
theorem begun_change (s : State) (len : Nat) (f : Slot → Slot) (g : Core → Core) :
    ((s.onMe (slotBegun len)).onMe f).onMyCore g =
      s.setCore s.cur.core (g (s.myCore.setSlot s.cur.slot (f (slotBegun len s.me)))) := by
  simp [onMe_eq, onMyCore_eq, me, slot, myCore]

/-- The retirement of an instruction whose effect stands on its fibre and core alone. -/
theorem retired_after (s : State) (len passes : Nat) (f : Slot → Slot) (g : Core → Core) (h : s.me.live = true)
    (hf : ∀ x : Slot, (f x).live = x.live ∧ (f x).gen = x.gen)
    (hg : ∀ (c : Core) (n : Nat) (x : Slot), g (c.setSlot n x) = (g c).setSlot n x) :
    retired s passes (((s.onMe (slotBegun len)).onMe f).onMyCore g) = s.after len passes f g := by
  have h1 := hf (slotBegun len s.me)
  have h2 : (s.core s.cur.core).slot s.cur.slot = s.me := rfl
  rw [begun_change, hg]
  unfold retired after
  simp [onCore, onSlot, setSlot, slot, setSlot_coreIssued, h2, h1.1, h1.2]
  simp [slotBegun, h]

/-- The retirement of an instruction whose effect stands on its fibre alone. -/
theorem retired_me (s : State) (len passes : Nat) (f : Slot → Slot) (h : s.me.live = true)
    (hf : ∀ x : Slot, (f x).live = x.live ∧ (f x).gen = x.gen) :
    retired s passes ((s.onMe (slotBegun len)).onMe f) = s.after len passes f id := by
  have := retired_after s len passes f id h hf fun _ _ _ => rfl
  rwa [show ((s.onMe (slotBegun len)).onMe f).onMyCore id = (s.onMe (slotBegun len)).onMe f from by
    simp [onMyCore_eq, onMe_eq, me, slot, myCore]] at this

/-- What an instruction reads at its effect is what its fibre held at issue. -/
@[simp] theorem reg_begun (s : State) (len : Nat) (r : Reg) : (s.onMe (slotBegun len)).reg r = s.reg r := by
  simp [State.reg]
  rfl

@[simp] theorem myCore_q_begun (s : State) (len : Nat) : (s.onMe (slotBegun len)).myCore.q = s.myCore.q := by
  simp [onMe_eq, Core.setSlot]

@[simp] theorem xreg_begun (s : State) (len : Nat) (n : XIdx) : (s.onMe (slotBegun len)).xreg n = s.xreg n := by
  simp [State.xreg, onMe_eq, Core.setSlot]

theorem onMe_onMe (s : State) (f g : Slot → Slot) : (s.onMe f).onMe g = s.onMe fun x => g (f x) := by
  simp [onMe_eq, me, slot]

/-- A relative target is twice the offset from the instruction's own PC. -/
theorem relTarget_begun (s : State) (len : Nat) (d : Word) :
    relTarget (s.onMe (slotBegun len)) len d = s.me.pcWord + d * 2 := by
  simp [relTarget, slotBegun, Slot.pcWord]

/-- An instruction whose effect stands on its fibre and core alone. -/
theorem issue_core (s : State) (nd : Need) (body : State → Except Stop State) (f : Slot → Slot) (g : Core → Core)
    (h : s.Clear nd.reads nd.writes nd.xs) (hl : nd.legal = true) (hp : nd.priv = true → s.me.sup = true)
    (he : ∀ e, nd.engine = some e → engineHere s.cur.core e = true)
    (hf : ∀ x : Slot, (f x).live = x.live ∧ (f x).gen = x.gen)
    (hg : ∀ (c : Core) (n : Nat) (x : Slot), g (c.setSlot n x) = (g c).setSlot n x)
    (hb : body (s.onMe (slotBegun nd.len)) = .ok (((s.onMe (slotBegun nd.len)).onMe f).onMyCore g)) :
    s.issue nd body = .next (s.after nd.len nd.passes f g) := by
  rw [issue_next s nd body _ h hl hp he hb, retired_after s nd.len nd.passes f g h.1 hf hg]

/-- An instruction whose effect stands on its fibre alone. -/
theorem issue_me (s : State) (nd : Need) (body : State → Except Stop State) (f : Slot → Slot)
    (h : s.Clear nd.reads nd.writes nd.xs) (hl : nd.legal = true) (hp : nd.priv = true → s.me.sup = true)
    (he : ∀ e, nd.engine = some e → engineHere s.cur.core e = true)
    (hf : ∀ x : Slot, (f x).live = x.live ∧ (f x).gen = x.gen)
    (hb : body (s.onMe (slotBegun nd.len)) = .ok ((s.onMe (slotBegun nd.len)).onMe f)) :
    s.issue nd body = .next (s.after nd.len nd.passes f id) := by
  rw [issue_next s nd body _ h hl hp he hb, retired_me s nd.len nd.passes f h.1 hf]

/-- An instruction whose checks of R29 pass and whose effect traps. -/
theorem issue_trap (s : State) (nd : Need) (body : State → Except Stop State) (t : Trap)
    (h : s.Clear nd.reads nd.writes nd.xs) (hl : nd.legal = true) (hp : nd.priv = true → s.me.sup = true)
    (he : ∀ e, nd.engine = some e → engineHere s.cur.core e = true)
    (hb : body (s.onMe (slotBegun nd.len)) = .error (.trap t)) :
    s.issue nd body =
      .next ((s.onMyCore (coreIssued (s.coreAc s.cur.core) s.rc)).raiseFault s.cur.core s.cur.slot t) := by
  have hr := ready_ok s nd h hl hp he
  unfold issue
  rw [h.1, h.2.1, hr]
  simp only [Except.bind, hb]
  rfl

/-- An instruction that computes a register from others. -/
theorem compute_next (s : State) (nd : Need) (rd : Reg) (v : State → Word) (w : Word)
    (h : s.Clear nd.reads nd.writes nd.xs) (hl : nd.legal = true) (hp : nd.priv = true → s.me.sup = true)
    (he : ∀ e, nd.engine = some e → engineHere s.cur.core e = true) (hv : v (s.onMe (slotBegun nd.len)) = w) :
    s.compute nd rd v = .next (s.after nd.len nd.passes (fun f => f.write rd w) id) := by
  unfold compute
  rw [issue_next s nd (fun t => .ok (t.setReg rd (v t))) _ h hl hp he rfl]
  simp only [hv]
  unfold setReg
  rw [retired_me s nd.len nd.passes (fun f => f.write rd w) h.1 (fun x => ⟨rfl, rfl⟩)]

end State

end Sys2Proof.Machine
end

