-- ==== Sys2Proof/Laws/Memory.lean ====
section
/-!
SUPPORT. The laws of memory: what a byte or a value reads as after a write, and that every operation keeps the canonical form.
-/

namespace Sys2Proof.Machine.Memory

/-! ### The canonical form -/

/-- Every listed address is greater than a bound. -/
def Above (m : List Host.Cell) (k : Nat) : Prop := ∀ c ∈ m, k < c.1

theorem wf_cons (a : Nat) (b : Byte) (t : List Host.Cell) :
    wf ((a, b) :: t) = true ↔ b ≠ unlisted a ∧ Above t a ∧ wf t = true := by
  induction t generalizing a b with
  | nil => simp [wf, Above]
  | cons c t ih =>
    obtain ⟨a', b'⟩ := c
    simp only [wf, Bool.and_eq_true, decide_eq_true_eq, bne_iff_ne, ne_eq, Above, List.mem_cons, forall_eq_or_imp]
    constructor
    · rintro ⟨⟨h1, h2⟩, h3⟩
      exact ⟨h2, ⟨h1, fun c hc => Nat.lt_trans h1 (((ih a' b').1 h3).2.1 c hc)⟩, h3⟩
    · rintro ⟨h1, ⟨h2, -⟩, h3⟩
      exact ⟨⟨h2, h1⟩, h3⟩

theorem above_put {m : List Host.Cell} {k a : Nat} {b : Byte} (h : Above m k) (ha : k < a) : Above (put m a b) k := by
  induction m with
  | nil =>
    simp only [put]
    split <;> simp [Above, ha]
  | cons c t ih =>
    obtain ⟨a', b'⟩ := c
    have ht : Above t k := fun c hc => h c (by simp [hc])
    have h0 : k < a' := h (a', b') (by simp)
    have h1 := ih ht
    have h2 : ∀ c ∈ (a', b') :: t, k < c.1 := h
    simp only [put, Above]
    split
    · split
      · exact h2
      · intro c hc
        rcases List.mem_cons.1 hc with rfl | hc
        · exact ha
        · exact h2 c hc
    · split
      · split
        · exact ht
        · intro c hc
          rcases List.mem_cons.1 hc with rfl | hc
          · exact ha
          · exact ht c hc
      · intro c hc
        rcases List.mem_cons.1 hc with rfl | hc
        · exact h0
        · exact h1 c hc

/-- A write keeps the canonical form. -/
theorem wf_put {m : List Host.Cell} (a : Nat) (b : Byte) (h : wf m = true) : wf (put m a b) = true := by
  induction m with
  | nil =>
    simp only [put]
    split
    · rfl
    · simpa [wf]
  | cons c t ih =>
    obtain ⟨k, v⟩ := c
    obtain ⟨hv, hk, ht⟩ := (wf_cons k v t).1 h
    simp only [put]
    split
    · split
      · exact h
      · next hlt hb => exact (wf_cons _ _ _).2 ⟨hb, fun c hc => by
          rcases List.mem_cons.1 hc with rfl | hc
          · exact hlt
          · exact Nat.lt_trans hlt (hk c hc), h⟩
    · split
      · next heq =>
        subst heq
        split
        · exact ht
        · next hb => exact (wf_cons _ _ _).2 ⟨hb, hk, ht⟩
      · exact (wf_cons _ _ _).2 ⟨hv, above_put hk (by omega), ih ht⟩

theorem wf_store {m : List Host.Cell} (a n v : Nat) (h : wf m = true) : wf (store m a n v) = true := by
  induction n generalizing m a v with
  | zero => exact h
  | succ n ih => exact ih _ _ (wf_put _ _ h)

theorem wf_storeBytes {m : List Host.Cell} (a : Nat) (b : List Byte) (h : wf m = true) : wf (storeBytes m a b) = true := by
  induction b generalizing m a with
  | nil => exact h
  | cons x b ih => exact ih _ (wf_put _ _ h)

/-- A selection of cells keeps the canonical form. -/
theorem wf_filter {m : List Host.Cell} (p : Host.Cell → Bool) (h : wf m = true) : wf (m.filter p) = true := by
  induction m with
  | nil => rfl
  | cons c t ih =>
    obtain ⟨k, v⟩ := c
    obtain ⟨hv, hk, ht⟩ := (wf_cons k v t).1 h
    rw [List.filter_cons]
    split
    · exact (wf_cons _ _ _).2 ⟨hv, fun c hc => hk c (List.mem_filter.1 hc).1, ih ht⟩
    · exact ih ht

theorem wf_clear {m : List Host.Cell} (lo hi : Nat) (h : wf m = true) : wf (clear m lo hi) = true := wf_filter _ h

/-! ### Reads after writes -/

theorem byte_above {m : List Host.Cell} {a : Nat} (h : Above m a) : byte m a = unlisted a := by
  induction m with
  | nil => rfl
  | cons c t ih =>
    obtain ⟨k, v⟩ := c
    have := h (k, v) (by simp)
    simp only [byte]
    rw [if_neg (by simp only at this; omega), ih fun c hc => h c (by simp [hc])]

/-- A write of a byte, read back. -/
theorem byte_put {m : List Host.Cell} (h : wf m = true) (a : Nat) (b : Byte) (x : Nat) :
    byte (put m a b) x = if x = a then b else byte m x := by
  induction m with
  | nil =>
    simp only [put]
    split <;> rename_i hb <;> simp only [byte] <;> split <;> simp_all
  | cons c t ih =>
    obtain ⟨k, v⟩ := c
    obtain ⟨hv, hk, ht⟩ := (wf_cons k v t).1 h
    simp only [put]
    split
    · next hlt =>
      split
      · next hb =>
        split
        · next hx =>
          subst hx
          rw [byte_above (fun c hc => by
            rcases List.mem_cons.1 hc with rfl | hc
            · exact hlt
            · exact Nat.lt_trans hlt (hk c hc)), hb]
        · rfl
      · simp only [byte]
    · split
      · next heq =>
        subst heq
        split
        · next hb =>
          by_cases hx : x = a
          · subst hx
            rw [if_pos rfl, byte_above hk, hb]
          · rw [if_neg hx]
            simp only [byte]
            rw [if_neg hx]
        · simp only [byte]
          split <;> rfl
      · next hne =>
        simp only [byte, ih ht]
        by_cases hx : x = k
        · rw [if_pos hx, if_pos hx, if_neg (by omega)]
        · rw [if_neg hx, if_neg hx]

/-- Bytes written from an address up, read back. -/
theorem byte_storeBytes {m : List Host.Cell} (h : wf m = true) (a : Nat) (b : List Byte) (x : Nat) :
    byte (storeBytes m a b) x = if a ≤ x ∧ x < a + b.length then b.getD (x - a) 0 else byte m x := by
  induction b generalizing m a with
  | nil => simp [storeBytes, show ¬(a ≤ x ∧ x < a) by omega]
  | cons y b ih =>
    simp only [storeBytes, List.length_cons]
    rw [ih (wf_put _ _ h), byte_put h]
    by_cases h1 : a + 1 ≤ x ∧ x < a + 1 + b.length
    · rw [if_pos h1, if_pos (by omega)]
      obtain ⟨j, hj⟩ : ∃ j, x - a = j + 1 := ⟨x - a - 1, by omega⟩
      rw [hj, List.getD_cons_succ, show x - (a + 1) = j by omega]
    · rw [if_neg h1]
      by_cases hx : x = a
      · subst hx
        rw [if_pos rfl, if_pos (by omega), Nat.sub_self, List.getD_cons_zero]
      · rw [if_neg hx, if_neg (by omega)]

/-- The low bytes of a value written from an address up, read back. -/
theorem byte_store {m : List Host.Cell} (h : wf m = true) (a n v x : Nat) :
    byte (store m a n v) x = if a ≤ x ∧ x < a + n then BitVec.ofNat 8 (v / 256 ^ (x - a)) else byte m x := by
  induction n generalizing m a v with
  | zero => simp [store, show ¬(a ≤ x ∧ x < a) by omega]
  | succ n ih =>
    simp only [store]
    rw [ih (wf_put _ _ h), byte_put h]
    by_cases h1 : a + 1 ≤ x ∧ x < a + 1 + n
    · rw [if_pos h1, if_pos (by omega)]
      obtain ⟨j, hj⟩ : ∃ j, x - a = j + 1 := ⟨x - a - 1, by omega⟩
      rw [hj, show x - (a + 1) = j by omega, Nat.pow_succ, Nat.mul_comm, Nat.div_div_eq_div_mul]
    · rw [if_neg h1]
      by_cases hx : x = a
      · subst hx
        rw [if_pos rfl, if_pos (by omega), Nat.sub_self, Nat.pow_zero, Nat.div_one]
      · rw [if_neg hx, if_neg (by omega)]

/-- A value written from an address up, read back. -/
theorem value_store {m : List Host.Cell} (h : wf m = true) (a n v : Nat) : value (store m a n v) a n = v % 256 ^ n := by
  induction n generalizing m a v with
  | zero => simp [value, Nat.mod_one]
  | succ n ih =>
    simp only [value, store]
    rw [ih (wf_put _ _ h), byte_store (wf_put _ _ h), if_neg (by omega), byte_put h, if_pos rfl, Nat.pow_succ, Nat.mul_comm _ 256,
      Nat.mod_mul]
    simp

/-- A value away from the bytes written. -/
theorem value_store_other {m : List Host.Cell} (h : wf m = true) (a n v b k : Nat) (hb : b + k ≤ a ∨ a + n ≤ b) :
    value (store m a n v) b k = value m b k := by
  induction k generalizing b with
  | zero => rfl
  | succ k ih => simp only [value]; rw [ih (b + 1) (by omega), byte_store h, if_neg (by omega)]

theorem value_lt (m : List Host.Cell) (a n : Nat) : value m a n < 256 ^ n := by
  induction n generalizing a with
  | zero => simp [value]
  | succ n ih =>
    have h1 := ih (a + 1)
    have h2 := (byte m a).isLt
    simp only [value, Nat.pow_succ]
    omega

end Sys2Proof.Machine.Memory
end

