-- ==== Sys2Proof/Tests/Slice0.lean ====
section
/-!
SUPPORT. Tests: terms that are no instruction, words written out from the encodings of the specification, single steps whose
results the specification gives, and for the statements of Obligations a state and operands that meet their hypotheses.
-/

set_option Elab.async false

namespace Sys2Proof.Tests

open Sys2Proof.Machine

/-! ### Small states -/

/-- A fibre of task 0 in supervisor mode, whose addresses are physical (R324), with g0 up. -/
def fibre (g : List Word) : Slot :=
  { Slot.free with live := true, fw := true, sup := true, pc := 0x2000000, g := Vector.ofFn fun i => g.getD i.val 0 }

/-- The wafer after reset but for region r, Assigned, and its cluster of core pid, out of hold, in which core pid is RUNNING, of
task 1, with a fibre in slot 0. -/
def wafer (pid : Nat) (f : Slot) (k : Core → Core) : State :=
  { State.reset with
    cur := { core := pid, slot := 0 }
    cores := [(pid, k { Core.initial pid with entry := #v[0x102, 0, 0, 0, 0, 0, 0, 0], slots := [(0, f)] })]
    clusters := [(pid / 8,
      { Cluster.initial (pid / 8 % 64) with
        fwd := { Forwarder.initial (pid / 8 % 64) with hold := false, hreq := false, aligned := true }, heldAt := none })]
    regions := [(pid / 512, { Region.initial with life := .assigned })] }

/-- Core 0 of cluster 1 of region 0, a D cluster, with g0 up. -/
def core8 (g : List Word) : State := wafer 8 (fibre g) id

/-- `State.Clear`, computed. -/
def clear (s : State) (reads writes : List Reg) (xs : List XIdx) : Bool :=
  s.me.live && !s.me.frozen && !s.me.unc && (reads ++ writes).all (fun r => s.me.mark[r] == none) &&
    reads.all (fun r => s.me.refused[r] == none) && xs.all fun x => Tab.look s.myCore.xld x.val == none

theorem clear_iff (s : State) (reads writes : List Reg) (xs : List XIdx) : clear s reads writes xs = true ↔ s.Clear reads writes xs := by
  simp only [clear, State.Clear, Bool.and_eq_true, Bool.not_eq_true', List.all_eq_true, beq_iff_eq, and_assoc]


/-- `State.Maps`, computed. -/
def maps (s : State) (a : Access) (va : Word) (pa : Nat) : Bool :=
  canonical va && (physFault s.me.sup a pa == none) &&
    ((State.ofFlatar s.cur.core s.me && decide (va.toNat < 2 ^ 48) && decide (pa = va.toNat)) ||
      (!State.ofFlatar s.cur.core s.me &&
        match s.myCore.utlb.find? fun e => e.copy.hits (s.entryPasid s.cur.core) va with
        | some m => (m.copy.permits s.me.sup a == none) && decide (pa = m.copy.phys va)
        | none => false))

theorem maps_sound (s : State) (a : Access) (va : Word) (pa : Nat) (h : maps s a va pa = true) : s.Maps a va pa := by
  simp only [maps, Bool.and_eq_true, Bool.or_eq_true, beq_iff_eq, decide_eq_true_eq] at h
  refine ⟨h.1.1, h.1.2, ?_⟩
  rcases h.2 with h | h
  · exact Or.inl ⟨h.1.1, h.1.2, h.2⟩
  · refine Or.inr ⟨by simpa using h.1, ?_⟩
    have h2 := h.2
    split at h2
    · next m hm => exact ⟨m, hm, by simpa using h2⟩
    · simp at h2

/-- What an outcome's next state is asked. -/
def after (o : Host.Outcome State Fault Refusal) (p : State → Bool) : Bool :=
  match o with
  | .next t => p t
  | _ => false

/-- What the answer of a check is asked. -/
def holds {α : Type} (e : Except Stop α) (p : α → Bool) : Bool :=
  match e with
  | .ok a => p a
  | .error _ => false


/-! ### Meeting the hypotheses: scalar instructions -/

/-- Every scalar form, move of an x register and hint: no register is pending or refused, no XLD is in flight. -/
theorem witness_clear : clear (core8 [1, 2, 3, 4, 5, 6, 7, 8]) [0, 1, 2, 3, 4, 5, 6, 7] [0, 1, 2, 3, 4, 5, 6, 7] [0, 1, 15] = true := by decide +kernel

/-- HintsAdvance: words and parcels of the hint block. -/
theorem witness_hints : (0xFFFFFDFF#32).extractLsb' 9 7 = 0b1111110#7 ∧ (0x7800#16).toNat = 0x7800 ∧ (0x781F#16).toNat = 0x781F := by decide +kernel

/-- Register jumps: even and odd targets. -/
theorem witness_jumps : ((core8 [0, 0x1001]).reg 1 + (0xFFFF#16).signExtend 64).getLsbD 0 = false ∧
    ((core8 [0, 0x1001]).reg 1 + (0#16).signExtend 64).getLsbD 0 = true ∧ 1 < ((core8 [2]).reg 0).toNat ∧ ¬1 < ((core8 [1]).reg 0).toNat := by decide +kernel

/-- FloatSpecialCases: NaNs, zeros of both signs, negative numbers. -/
theorem witness_float :
    (f32 0x7F800001).isSNaN = true ∧ (f32 0x7FC00000).isNaN = true ∧ ({ neg := true, num := 0, exp := 0 } : Machine.Dyadic).num = 0 ∧
      ({ neg := true, num := 3, exp := -1 } : Machine.Dyadic).num ≠ 0 := by decide +kernel

/-- FloatRounding: finite numbers whose sum, product and quotient are not 0, whose a × b + d is 0, and each format. -/
theorem witness_rounding :
    let x : Machine.Dyadic := { neg := false, num := 3, exp := -1 }
    let y : Machine.Dyadic := { neg := true, num := 1, exp := 0 }
    Fmt.fp32 ∈ [Fmt.fp32, .bf16, .fp16] ∧ x.num ≠ 0 ∧ y.num ≠ 0 ∧ x.neg = false ∧ (3 : ℚ) * 2 ^ (-1 : ℤ) + -(1 * 2 ^ (0 : ℤ)) = 1 / 2 ∧
      (3 : ℚ) * 2 ^ (-1 : ℤ) * -(1 * 2 ^ (0 : ℤ)) + 3 * 2 ^ (-1 : ℤ) = 0 ∧ (ffma .fp32 .rne (.fin x) (.fin y) (.fin x)).bits = 0 ∧
      (fadd .fp32 .rne (.fin x) (.fin y)).bits = 0x3F000000 ∧ (fmul .fp32 .rne (.fin x) (.fin y)).bits = 0xBFC00000 ∧
      (match Fmt.fp16.value 0x3E00 with | .fin _ => true | _ => false) = true ∧ ftoInt (-8) 7 .rne (.fin x) = (2, { nx := true }) := by
  refine ⟨by simp, by decide, by decide, by decide, by norm_num, by norm_num, by decide +kernel, by decide +kernel, by decide +kernel, by decide +kernel, by decide +kernel⟩

/-- ScalarFrame: an instruction that completes, one that traps, and one that sets flags. -/
theorem witness_frame :
    after (exec (.add 1 2 3) (core8 [1, 2, 3, 4])) (fun t => decide (t.reg 1 = 7)) = true ∧
      after (exec (.jr 1 0) (core8 [1, 3])) (fun t => t.me.frozen) = true ∧ scalarWrites (.fdiv 1 2 3 .rne) = some ([1], true) := by
  decide +kernel

/-- PendingAndRefusedOperands. -/
theorem witness_pending :
    (wafer 8 { fibre [] with mark := (Vector.replicate 8 none).set 2 (some .load) } id).me.pending 2 = true ∧
      (wafer 8 { fibre [] with refused := (Vector.replicate 8 none).set 2 (some ⟨.page, .load⟩) } id).me.refused[(2 : Reg)] = some ⟨.page, .load⟩ := by
  decide +kernel

/-! ### Meeting the hypotheses: accesses -/

/-- The first byte of the TCM of core 8, of the TCM of core 9, and of the scratchpad of cluster 1. -/
def tcm8 : Word := 0x3000000
def tcm9 : Word := 0x3040000
def pad1 : Word := 0x2000000

/-- A user fibre of core 8 whose page 1 is the first page of the TCM, readable and writable. -/
def user (g : List Word) : State :=
  wafer 8 { fibre g with fw := false, sup := false } fun c =>
    { c with utlb := [{ slot := 0, copy := { tag := 0x100000, entry := 0x0300001F } }] }

/-- LocalLoads, LocalStores and LocalAtomics: of TCM and scratchpad, by physical and by translated addresses, in every mode. -/
theorem witness_local :
    [(core8 [0, tcm8, 8], tcm8.toNat, 1, Home.tcm 8), (core8 [0, pad1 + 8, 8], pad1.toNat + 8, 1, .scratchpad 1),
      (user [0, 0x10008, 8], tcm8.toNat + 8, 1, .tcm 8)].all (fun x =>
        maps x.1 .load (memEA x.1 1 8 (.disp 0)) x.2.1 && maps x.1 .store (memEA x.1 1 8 .postInc) x.2.1 &&
          maps x.1 .atomic (memEA x.1 1 8 (atomMem .postInc)) x.2.1 && place x.2.1 == some (x.2.2.2, .memory) && x.2.2.2.isLocal 8 &&
          x.1.localFault x.2.2.2 .load x.2.1 8 == none && x.1.localFault x.2.2.2 .store x.2.1 8 == none &&
          x.1.localFault x.2.2.2 .atomic x.2.1 8 == none && (memEA x.1 1 8 (.disp 0)).toNat % 8 == 0 &&
          clear x.1 [0, 1, 2] [0, 1, 2] [] && Memory.wf x.1.mem &&
          (match x.1.traceControl x.2.2.2 with | some w => flag w 0 == false | none => true)) = true := by
  decide +kernel

/-- AccessChecks: an address that is not canonical, and one that is no multiple of 8. -/
theorem witness_checks :
    canonical (memEA (core8 [0, 0x80000000000000]) 1 8 (.disp 0)) = false ∧ canonical (memEA (core8 [0, 0x7FFFFFFFFFFFF8]) 1 8 (.disp 0)) = true ∧
      (memEA (core8 [0, tcm8 + 4]) 1 8 (.disp 0)).toNat % 8 ≠ 0 := by decide +kernel

/-- RemoteAccesses and AccessWordsAgree: a neighbour's TCM and a control window. -/
theorem witness_remote :
    maps (core8 [0, tcm9]) .load tcm9 tcm9.toNat = true ∧ place tcm9.toNat = some (.tcm 9, .memory) ∧ (Home.tcm 9).isLocal 8 = false ∧
      place (controlBase 0 + 0x10) = some (.control 0, .regionControl) ∧ freeIndex (core8 []).myCore.tags 512 = some 0 ∧
      (core8 []).tagsOf 8 0 (core8 []).me.gen < 32 ∧ (core8 []).me.amig = false ∧ (core8 []).rankOf 8 < 2 ^ 16 := by decide +kernel

/-- An ACCESS of 8 bytes from core 9 at an address, with an operation and an operand. -/
def asked (op : Nat) (pa : Word) (v : Word) : State :=
  { core8 [] with
    net := [{ src := .core 9, dst := .home (.tcm 8), tc := 1, here := 1, held := none, pasid := none
              load := .msg { rw := 0x4 <<< 60, sel := BitVec.ofNat 64 (op * 2 ^ 48 + 3 * 2 ^ 52) + pa, data := [v, 0] } true }] }

/-- AccessPerformed: a load, a store and an atomic at the TCM of core 8. -/
theorem witness_performed :
    [0, 1, 2, 9].all (fun op =>
      let s := asked op tcm8 5
      match s.front s.spot.place with
      | some p =>
        match p.load with
        | .msg m _ =>
          m.kind == 4 && place (accessAsk m).pa == some (.tcm 8, .memory) && (accessAsk m).op == op && (accessAsk m).bytes == 8 &&
            !s.homeRefuses ((Packet.sender p).getD 0) true (.tcm 8) (accessAsk m).pa && !s.accessWaits (.tcm 8) (accessAsk m) &&
            s.localFault (.tcm 8) (accessAsk m).access (accessAsk m).pa 8 == none && Memory.wf s.mem
        | _ => false
      | none => false) = true := by decide +kernel

/-- A REPLY with tag 3 and a status at core 8, where the tag has a use. -/
def replied (use : TagUse) (status : Nat) (owed : Option Owed) : State :=
  { wafer 8 { fibre [] with owed := owed } (fun c => { c with tags := [(3, { slot := 0, gen := 0, use := use, scope := .quad, pc := 0, place := tcm9, issuer := 8 })] }) with
    net := [{ src := .home (.tcm 9), dst := .core 8, tc := 1, here := 1, held := none, pasid := none,
              load := .msg { rw := 0x5 <<< 60, sel := BitVec.ofNat 64 (3 + status * 2 ^ 9), data := [7] } false }] }

/-- ReplyAnswers: a value, a status word and a posted operation, accepted and refused, without and with a refusal owed. -/
theorem witness_replies :
    [replied (.value 1 .load) 0 none, replied (.value 1 .load) 1 none, replied (.status 2) 0 none, replied (.posted .store) 0 none, replied (.posted .store) 1 none,
      replied (.posted .store) 1 (some ⟨.page, 0, 0, .store, 255⟩)].all (fun s =>
        match s.front s.spot.place with
        | some p =>
          match p.load with
          | .msg m _ =>
            m.kind == 5 && !(s.core 8).fenced && s.portRuns 8 && !s.savedNow 8 && (Tab.look (s.core 8).tags (fld m.sel 0 9)).isSome && (s.slot 8 0).live
          | _ => false
        | none => false) = true ∧ statusCode 0 = none ∧ statusCode 1 ≠ none := by decide +kernel

/-- XldLoads: an XLD of the core's TCM, and one whose data has come. -/
theorem witness_xld :
    maps (core8 [tcm8]) .load (xldEA (core8 [tcm8]) 0 .postInc) tcm8.toNat = true ∧ (xldEA (core8 [tcm8]) 0 .postInc).toNat % 16 = 0 ∧
      (core8 [tcm8]).localFault (.tcm 8) .load tcm8.toNat 16 = none ∧
      Tab.look (({ wafer 8 (fibre []) (fun c => { c with xld := [(3, 5, 0)] }) with now := 2000 } : State).core 8).xld 3 = some (5, 0) ∧
      0 < ({ wafer 8 (fibre []) (fun c => { c with xld := [(3, 5, 0)] }) with now := 2000 } : State).coreAc 8 := by decide +kernel

/-! ### Meeting the hypotheses: settling, messages, queues -/

/-- The rank tables map rank 5 to core 9 of region 0, in every router of the region. -/
def ranked (s : State) : State := { s with ranks := [(0, [(5, 0x8009), (6, 0x8008)])] }

/-- An owed refusal. -/
def refusal : Owed := { code := .homeFenced, pc := 0x2000000, place := tcm9, kind := .store, count := 1 }

/-- A tag of the fibre in slot 0 with a home in its quad. -/
def quadTag : Tag := { slot := 0, gen := 0, use := .posted .store, scope := .quad, pc := 0, place := tcm9, issuer := 8 }

/-- SettlingInstructions, SettlingCovers and SettleCompletes: nothing outstanding, and a tag outstanding that a wide FENCE covers and a narrow one does not. -/
theorem witness_settling :
    let s := ranked (core8 [5])
    let t := ranked (wafer 8 { fibre [5] with owed := some refusal } fun c => { c with tags := [(0, quadTag)] })
    s.drained 8 0 0 .exit = true ∧ s.drained 8 0 0 (.mig 5) = true ∧ t.drained 8 0 0 .exit = false ∧ t.drained 8 0 0 (.fence .core) = true ∧
      t.drained 8 0 0 (.fence .quad) = false ∧ s.rankPort 8 5 = some (.core 9) ∧ s.me.epcv = false ∧ s.rankOf 8 < 2 ^ 16 ∧ s.taskOf 8 s.me < 2 ^ 12 ∧
      (∀ k ∈ [Settling.fence .wafer, .exit, .mig 5, .predict 5],
        ((ranked (wafer 8 { fibre [5] with settle := some k } id)).slot 8 0).settle = some k ∧
          ((ranked (wafer 8 { fibre [5] with settle := some k } id)).drained 8 0 0 k = true)) := by decide +kernel

/-- MessagesSent and MessagesRefused: words to rank 5, in TC1 and TC0, a record in local memory, and words with a reserved bit, a record in TC0, a rank without an
entry, and a service rank from user mode. -/
theorem witness_messages :
    let s := ranked (core8 [5, tcm8, 0x1000005, 0x2000005, 0x3000005, 0x8000000000000000, 7, 0xFF00])
    let u : State := ranked (user [0xFF00])
    s.rankPort 8 5 = some (.core 9) ∧ isServiceRank 5 = false ∧ freeIndex s.myCore.tags 512 = some 0 ∧ s.tagsOf 8 0 0 < 32 ∧
      (s.reg 3).getLsbD 25 = true ∧ (s.reg 3).getLsbD 24 = false ∧ (s.reg 4).getLsbD 24 = true ∧ (s.reg 5).toNat / 2 ^ 39 ≠ 0 ∧
      s.rankPort 8 7 = none ∧ isServiceRank (u.reg 0).toNat = true ∧ u.me.sup = false ∧
      holds ((s.onMe (State.slotBegun 4)).checkLocal .load .message tcm8 64 8) (fun x => x.2.2.localFault x.2.1 .load (x.1.phys tcm8) 64 == none) = true := by
  decide +kernel

/-- FibreInstructions: a handler and a count that pass, a slot that is free, and none that is. -/
theorem witness_fibres :
    let s := wafer 8 (fibre [0, 0x305, 3]) fun c => { c with entry := c.entry.set 1 0x10000 |>.set 3 0x3000000 }
    (s.reg 1).toNat / 2 ^ 16 = 0 ∧ (s.reg 1).toNat / 2 ^ 6 % 4 = 0 ∧ (s.reg 2).toNat / 2 ^ 8 = 0 ∧ s.freeSlot 8 = some 1 ∧
      (wafer 8 (fibre []) fun c => { c with slots := (List.range 256).map fun n => (n, fibre []) }).freeSlot 8 = none := by decide +kernel

/-- QueueMoves: an empty queue, one with an entry, and a full one. -/
theorem witness_queues :
    let s := wafer 8 (fibre []) fun c => { c with q := (Vector.replicate 8 []).set 5 [7] |>.set 6 (List.replicate 16 1) }
    s.myCore.q[4] = [] ∧ s.myCore.q[5] = [7] ∧ 16 ≤ s.myCore.q[6].length ∧ writersBefore s.myCore 5 (waitOrder s) = false ∧
      readersBefore s.myCore 5 (waitOrder s) = false := by decide +kernel

/-! ### Meeting the hypotheses: barriers, control registers, exceptions -/

/-- BarrierInstructions and CoreBarrier: levels granted and not, arrivals latched and not, counts at their limits, CNT0 at 0 and 1. -/
theorem witness_barriers :
    let s := wafer 8 (fibre [1, 256, 257]) fun c => { c with grant := 0x5#4, arv := 0x4#4, cnt0 := 1 }
    bitOf s.myCore.grant .quad = true ∧ bitOf s.myCore.arv .quad = false ∧ bitOf s.myCore.grant .region = true ∧ bitOf s.myCore.arv .region = true ∧
      bitOf s.myCore.grant .wafer = false ∧ (s.reg 0).toNat = 1 ∧ (s.reg 1).toNat = 256 ∧ 256 < (s.reg 2).toNat ∧ s.myCore.cnt0 - 1 = 0 := by decide +kernel

/-- A core of a level-1 unit whose other cores are excused, with its arrival on the way to the root. -/
def arriving : State :=
  { wafer 8 (fibre []) fun c => { c with grant := 1#4, exc := 0xE#4, seenExc := 0xE#4, arv := 1#4 } with
    bars := [{ core := 8, level := 1, kind := .arrive, legs := [], until_ := 5, seg := 0, prev := 0, due := true }] }

/-- BarrierInputs: the last input of its unit, and one while another is missing. -/
theorem witness_inputs :
    let s := arriving
    let t := { arriving with cores := arriving.cores ++ [(9, { Core.initial 9 with exc := 0xE#4, seenExc := 0xE#4 })] }
    let u (x : State) : State := ({ x with bars := [] }).onCore 8 fun c => { c with seenArv := c.seenArv ||| 1#4 }
    s.clusterRuns 1 = true ∧ (u s).unitComplete 8 1 = true ∧ (u s).sameUnit 1 8 8 = true ∧ (u t).unitComplete 8 1 = false ∧
      s.bars.all (fun e => decide (5 ≤ e.until_)) = true ∧ (Tab.look s.cores 8).isSome = true := by
  decide +kernel

/-- BarrierInputs at level 4: a keystone of its own region whose one core's arrival has come. -/
theorem witness_wafer :
    let s := { arriving with
      regs := [(controlBase 0 + 0x600, 0x80)]
      bars := [{ core := 8, level := 4, kind := .arrive, legs := [], until_ := 5, seg := 0, prev := combined, due := true }] }
    let u := ({ s with bars := [] }).onCore 8 fun c => { c with seenArv := c.seenArv ||| 8#4 }
    s.darkRouter 1 = false ∧ u.unitComplete 8 4 = true ∧ u.sameUnit 4 8 8 = true ∧ s.rootOf 0 = some 0 := by decide +kernel

/-- BarrierTravel: at the end of the last part of a path, and of the part before, with the band's delay to come. -/
theorem witness_travel :
    upLegs 8 1 = [{ unit := 1, acs := 2, band := false, node := false }] ∧ (arriving.clusterAc 1) = 0 ∧
      (downLegs 8 3).map Leg.band = [false, true] ∧ arriving.bandDelay 8 = 4 ∧ (State.reset.cluster 1).heldAt.isSome = true := by decide +kernel

/-- BarrierReleases: with an arrival latched, without one, and while SAVED. -/
theorem witness_releases :
    let s := { arriving with bars := [{ core := 8, level := 1, kind := .release 0x11, legs := [], until_ := 5, seg := 0, prev := 0, due := true }] }
    let t := s.onCore 8 fun c => { c with entry := c.entry.set 0 0x103 }
    (s.core 8).arv.getLsbD 0 = true ∧ (s.core 8).arv.getLsbD 1 = false ∧ s.savedNow 8 = false ∧ t.savedNow 8 = true ∧ s.clusterRuns 1 = true := by
  decide +kernel

/-- ControlRegisterReads, ControlRegisterValues and ControlRegisterWrites: every assigned register reads, in supervisor mode; 0x006 and 0x131 are not assigned. -/
theorem witness_control :
    assignedCr.all (fun n => ((core8 []).crRead 8 0 n).isSome) = true ∧ 0x006 ∉ assignedCr ∧ 0x131 ∉ assignedCr ∧ 0x100 ∈ assignedCr ∧
      (core8 []).taskOf 8 (core8 []).me < 2 ^ 12 ∧ (user []).me.sup = false ∧ writableFields false 0x000 = 0 ∧ writableFields true 0x014 ≠ 0 := by
  decide +kernel

/-- RegisterEvents: places of stub and destination registers at the ends of their ranges. -/
theorem witness_events : 0x020 ≤ 0x02F ∧ 0x02F < 0x030 ∧ 0x030 ≤ 0x03F ∧ 0x03F < 0x040 ∧ (core8 []).rankOf 8 < 2 ^ 16 ∧ (core8 []).entryTask 8 < 2 ^ 12 := by
  decide +kernel

/-- PrivilegedInstructions and TrapAndReturn: a user fibre with a vector, and a supervisor fibre with a trap held. -/
theorem witness_traps :
    let s := (user [0xFFFF, 0x10000]).onMyCore fun c => { c with tvec := 0x3000000 }
    s.me.sup = false ∧ s.me.epcv = false ∧ s.myCore.tvec ≠ 0 ∧ (s.reg 0).toNat < 2 ^ 16 ∧ ¬(s.reg 1).toNat < 2 ^ 16 ∧
      (wafer 8 { fibre [] with epcv := true } id).me.epcv = true := by decide +kernel

/-- A user fibre whose task has a fault handler 3 on rank 5 and a pager for its first 64 KiB page. -/
def handled : State :=
  { ranked (wafer 8 { fibre [] with fw := false, sup := false } fun c =>
      { c with entry := #v[0x102, 0x10000, 0x030005, 0x10000, 0, 0, 0, 0] }) with
    mem := (Memory.store (Memory.store [] 0x3000000 8 0x100) 0x3000018 8 0x4000) }

/-- FaultTaken and FaultDestinations: a destination with a port, of a fibre of task 0 and of a user fibre. -/
theorem witness_faults :
    let s := core8 []
    let t := State.trapOf .page .load tcm9
    s.faultDest 8 s.me t = (0xFF00, 0) ∧ s.rankPort 8 0xFF00 = some (.core 504) ∧ s.rankOf 8 < 2 ^ 16 ∧ (user []).me.epcv = false ∧
      State.ofFlatar 8 (user []).me = false ∧ (user []).pagerEntry 8 tcm9 = none ∧
      handled.rankPort 8 5 = some (.core 9) := by decide +kernel

/-- TranslationEntries: an entry that passes, with another standing in the TLB, and one that overlaps it. -/
theorem witness_tlb :
    let s := (core8 [7, 0x200001, 0x0304001F]).onCluster 1 fun c => { c with tlb := [(3, { tag := 0x100001, entry := 0x0300001F })] }
    let e : TlbEntry := { tag := s.reg 1, entry := s.reg 2 }
    s.me.sup = true ∧ (s.reg 0).toNat < 2 ^ 11 ∧ (s.reg 1).toNat / 2 ^ 60 % 4 = 0 ∧ (s.reg 2).toNat / 2 ^ 48 = 0 ∧ (s.reg 2).toNat / 2 ^ 5 % 2 ^ 11 = 0 ∧
      e.base % 2 ^ e.shift = 0 ∧ e.frame % 2 ^ e.shift = 0 ∧ e.valid = true ∧ e.overlaps { tag := 0x100001, entry := 0x0300001F } = false ∧
      ({ tag := 0x100001, entry := 0x1F } : TlbEntry).overlaps { tag := 0x100001, entry := 0x0300001F } = true ∧
      (s.reg 1).toNat / 2 ^ 20 % 2 ^ 43 ≠ 0 ∧ (0x8000000000000000#64).toNat / 2 ^ 20 % 2 ^ 43 = 0 := by decide +kernel

/-- UnitCommands: a target core, a save area, a region and a cluster that pass, and ones that do not. -/
theorem witness_units :
    let s := core8 [0x8009, 0x100000, 5, 65, 0x8008]
    (s.reg 0).toNat / 2 ^ 15 = 1 ∧ (s.reg 0).toNat % 2 ^ 15 ≠ s.cur.core ∧ (s.reg 4).toNat % 2 ^ 15 = s.cur.core ∧ saveAreaOk 0xC0000000 = true ∧
      saveAreaOk 8 = false ∧ s.rankOf 9 < 2 ^ 16 ∧ (s.reg 2).toNat < 63 ∧ (s.reg 2).toNat ≠ 0 ∧ (s.reg 3).toNat % 64 < 36 := by decide +kernel

/-- FrozenFibres: a frozen fibre that holds nothing in slot 1, one with a pending register in slot 2, and none in slot 3. -/
theorem witness_frozen :
    let s := ranked (wafer 8 (fibre [0x10006, 0x20006, 0x30006, 0, 0x10005, 6]) fun c =>
      { c with
        slots := [(0, fibre [0x10006, 0x20006, 0x30006, 0, 0x10005, 6]), (1, { fibre [] with frozen := true }),
          (2, { fibre [] with frozen := true, mark := (Vector.replicate 8 none).set 0 (some .bind) })] })
    (s.reg 0).toNat % 2 ^ 16 = s.rankOf 8 ∧ (s.slot 8 1).frozen = true ∧ s.movable 8 1 = true ∧ s.movable 8 2 = false ∧ (s.slot 8 3).live = false ∧
      (s.reg 4).toNat / 2 ^ 16 % 2 = 1 ∧ s.rankPort 8 ((s.reg 4).toNat % 2 ^ 16) = some (.core 9) ∧ (s.reg 5).toNat / 2 ^ 16 = 0 := by decide +kernel

/-! ### Meeting the hypotheses: mailboxes, code, translation -/

/-- A state with one packet in flight. -/
def inFlight (s : State) (src dst : Port) (load : Payload) : State :=
  { s with net := [{ src := src, dst := dst, tc := 1, load := load, here := ((s.stand dst).getD (1, 0)).1, held := none, pasid := none }] }

/-- A message of a kind to task 1. -/
def said (kind : Nat) (sel : Word) (data : List Word) : Msg := { rw := BitVec.ofNat 64 (kind * 2 ^ 60 + 2 ^ 20), sel := sel, data := data }

/-- RecordsArrive: a RUN and a MIGRATE with free entries, the port of a fenced core, and a core without entries. -/
theorem witness_arrive :
    [said 0 3 [1], said 3 0x3000000 [1, 2, 3, 4, 5, 6, 7, 8]].all (fun m =>
      let s := inFlight (core8 []) (.core 9) (.core 8) (.msg m true)
      let f := s.onCore 8 fun c => { c with fenced := true }
      let z := s.onCore 8 fun c => { c with mbInForce := 0 }
      (s.front s.spot.place).isSome && decide (m.kind ≤ 3) && !s.portRefuses (.core 9) 8 false && s.portRuns 8 && !s.recordWaits 8 m &&
        s.stubMatch 8 m == none && m.task == s.entryTask 8 && s.entryState 8 == 2 && !s.savedNow 8 && s.ringCount 8 == 0 &&
        decide ((s.core 8).part.length < (s.core 8).general) && decide ((s.core 8).reserve.length < (s.core 8).mres) &&
        f.portRefuses (.core 9) 8 false && !z.portRefuses (.core 9) 8 false && ((z.taken 0).performed (.tcm 8) false).placeFor 8 m == none &&
        (z.taken 0).placeFor 8 m == none && !z.recordWaits 8 m) = true := by
  decide +kernel

/-- StubsForward: a RUN that a stub to rank 5, or to a rank without an entry, matches, and one that has been forwarded three times. -/
theorem witness_stubs :
    let s (m : Msg) (rank : Word) := inFlight (ranked (wafer 8 (fibre []) fun c =>
      { c with kvreq := 0x80000003, skey := [(2, 1)], sdst := [(2, 0x10000 + rank)] })) (.core 9) (.core 8) (.msg m true)
    [(said 0 3 [1], 5), (said 0 3 [1], 77), (said 0 0x603 [1], 5)].all (fun x =>
      (s x.1 x.2).stubMatch 8 x.1 == some 2 && (s x.1 x.2).portRuns 8 && !(s x.1 x.2).recordWaits 8 x.1 && !(s x.1 x.2).portRefuses (.core 9) 8 false) = true ∧
      (s (said 0 3 [1]) 5).rankPort 8 5 = some (.core 9) ∧ (s (said 0 3 [1]) 77).rankPort 8 77 = none ∧ 0x603 / 2 ^ 9 % 4 = 3 := by decide +kernel

/-- Records of each kind held in entries of core 8, with a counter of 5 and a register bound. -/
def holding (m : Msg) (start : Option (Nat × Nat)) : State :=
  { wafer 8 { fibre [] with mark := (Vector.replicate 8 none).set 2 (some .bind) } (fun c =>
      { c with
        entry := (c.entry.set 1 0x3000000), counters := [(4, 5, 3)]
        part := [{ msg := m, start := start, first := false, order := 0, ac := 0 }] }) with
    mem := Memory.store [] 0x3000018 8 0x4000, now := 5000
    clusters := [(1, { Cluster.initial 1 with
      fwd := { Forwarder.initial 1 with hold := false, hreq := false, aligned := true }, heldAt := none
      tlb := [(0, { tag := 0x30000000, entry := 0x0300001F })] })] }

/-- RecordsDelivered: a RUN, a stream RUN, a COUNT below and at its counter, a DEPOSIT, a MIGRATE, and a start. -/
theorem witness_delivered :
    [holding (said 0 3 [1]) none, holding (said 0 0x101 [1]) none, holding (said 1 (0x400000002) [0]) none, holding (said 1 (0x400000005) [0]) none,
      holding (said 2 0x20000 [9]) none, holding (said 3 0x4000 [1, 2, 3, 4, 5, 6, 7, 8]) none, holding (said 1 0x400000005 [0]) (some (3, 4))].all (fun s =>
        s.mayDeliver 8 && (s.core 8).admitting && !s.inboxReady 8 && (s.core 8).resuming == none &&
          (oldest (((s.core 8).reserve ++ (s.core 8).part).filter (s.deliverable 8))).isSome) = true ∧
      (holding (said 0 3 [1]) none).handlerEmpty 8 3 = false ∧ depositCase ((holding (said 2 0x20000 [9]) none).core 8) (said 2 0x20000 [9]) = .applied := by
  decide +kernel

/-- A core whose inbound ring stands at 0x3001000 with one RUN in it. -/
def ringed : State :=
  { holding (said 0 3 [1]) none with
    mem := Memory.store (Memory.store (Memory.store [] 0x3001000 8 0x3002000) 0x3001008 8 4) 0x3001010 8 1
    cores := [(8, { (holding (said 0 3 [1]) none).core 8 with part := [], entry := #v[0x102, 0, 0, 0x3001000, 0, 0, 0, 0] })] }

/-- RingRefills: what the ring of core 8 is read as. -/
theorem witness_refills :
    ringed.running 8 = true ∧ ringed.portRuns 8 = true ∧ (ringed.core 8).admitting = true ∧ Memory.wf ringed.mem = true ∧
      (ringed.ringAt 8 (ringed.entryPasid 8) (ringed.entryAddr 8 3)).isSome = true ∧
      (ringed.ringHead 8 (ringed.entryPasid 8) (ringed.entryAddr 8 3)).isSome = true ∧ (ringed.core 8).part.length < (ringed.core 8).general := by
  decide +kernel

/-- RingRefills where no general entry is free: a MIGRATE at the ring's head, which the reserve takes. -/
theorem witness_reserve :
    let s := { ringed with
      mem := Memory.store ringed.mem 0x3002000 8 (3 * 2 ^ 60 + 2 ^ 20)
      cores := [(8, { ringed.core 8 with part := List.replicate (ringed.core 8).general { msg := said 0 3 [1], start := none, first := false, order := 0, ac := 0 } })] }
    (s.core 8).part.length = (s.core 8).general ∧ (s.core 8).reserve.length < (s.core 8).mres ∧
      (s.ringHead 8 (s.entryPasid 8) (s.entryAddr 8 3)).any (fun h => h.1.kind == 3) = true := by decide +kernel

/-- FaultInbox: a FAULT record with a filled handler and one without, a MIGRATE that came back, and one in the inbox. -/
theorem witness_inbox :
    let s := holding (said 0 3 [1]) none
    let a := inFlight s (.core 9) (.core 8) (.msg (said 10 0x503 [0, 5, 0, 0, 0, 0, 0, 0]) false)
    let d := { s with cores := [(8, { s.core 8 with inbox := [{ msg := said 10 0x503 [0, 5, 0, 0, 0, 0, 0, 0], back := none, ac := 0 }] })] }
    (a.front a.spot.place).isSome = true ∧ (said 10 0x503 []).kind = 10 ∧ a.portRuns 8 = true ∧ a.entryState 8 ≠ 0 ∧ (said 10 0x503 []).task = a.entryTask 8 ∧
      a.handlerEmpty 8 3 = false ∧ a.handlerEmpty 8 4 = true ∧ (a.core 8).inbox.length < 16 ∧
      d.freeSlot 8 = some 1 ∧ d.mayDeliver 8 = true ∧ d.inboxReady 8 = true ∧ (said 10 0x503 []).task = d.entryTask 8 := by decide +kernel

/-- FaultInbox: a MIGRATE that came back, on its way and in the inbox, and an inbox that is full. -/
theorem witness_returned :
    let s := holding (said 0 3 [1]) none
    let m := said 3 0x4000 [1, 2, 3, 4, 5, 6, 7, 8]
    let a := inFlight s (.core 9) (.core 8) (.returned m .homeFenced)
    let r : Inboxed := { msg := m, back := some .homeFenced, ac := 0 }
    let d := { s with cores := [(8, { s.core 8 with inbox := [r] })] }
    (a.front a.spot.place).isSome = true ∧ a.portRuns 8 = true ∧ (a.core 8).inbox.length < 16 ∧ d.inboxReady 8 = true ∧ d.mayDeliver 8 = true ∧
      m.task = d.entryTask 8 ∧ ({ s with cores := [(8, { s.core 8 with inbox := List.replicate 16 r })] }.core 8).inbox.length = 16 := by decide +kernel

/-- AgingPromotes and InstructionCache: a fibre whose AGE is 512, and one that waits for a parcel. -/
theorem witness_code :
    (wafer 8 { fibre [] with age := 512, hold := some (.icache 0x2000000) } id).slot 8 0 = { fibre [] with age := 512, hold := some (.icache 0x2000000) } ∧
      (core8 []).clusterRuns 1 = true ∧ place 0x2000000 = some (.scratchpad 1, .memory) ∧ (core8 []).homeDark (.scratchpad 1) = false ∧
      (core8 []).rimWiping (.scratchpad 1) 0x2000000 = false ∧ (core8 []).eccBad 0x2000000 2 = false ∧ (core8 []).clusterDead 1 = false ∧
      fld (said 11 0x2000000000000 []).sel 48 7 = 2 ∧ State.reset.region 0 = Region.initial ∧ (State.reset.region 0).life = .wiping := by decide +kernel

/-- MissAndNomap: a service core named and enabled by cr.tscfg, slots free and taken, and a fibre held on a page. -/
theorem witness_miss :
    let s := { core8 [] with clusters := [(1, { (core8 []).cluster 1 with tscfg := 0x8000000003000000 })] }
    let t := wafer 8 { fibre [] with hold := some (.miss 0 0x300 tcm8 .load) } id
    (s.cluster 1).tscfg.getLsbD 63 = true ∧ (s.cluster 1).tscfg.toNat / 2 ^ 56 % 8 = 8 % 8 ∧ s.portRuns 8 = true ∧ s.portRefuses (.core 9) 8 true = false ∧
      (s.slot 8 248).live = false ∧ (core8 []).cluster 1 ≠ s.cluster 1 ∧ (t.slot 8 0).live = true ∧ fld (0x3000000#64) 16 40 = 0x300 ∧
      t.me.hold = some (.miss 0 0x300 tcm8 .load) ∧ (∀ k ∈ [3, 4], fld (said 11 (BitVec.ofNat 64 (k * 2 ^ 48)) []).sel 48 7 = k) := by decide +kernel

/-- SystemDrains: a drain with a marked tag outstanding, and one with none. -/
theorem witness_drains :
    let s (b : Bool) := { wafer 8 (fibre []) (fun c => { c with tags := [(0, { quadTag with snap := b })] }) with
      clusters := [(1, { Cluster.initial 1 with draining := true })], spot := { place := 1, item := 0, v0 := 1, v1 := 1, v2 := 0, v3 := 0 } }
    ((s true).cluster 1).draining = true ∧ (∃ e ∈ ((s true).core 8).tags, e.2.snap = true) ∧ (¬∃ e ∈ ((s false).core 8).tags, e.2.snap = true) ∧
      (s true).spot.v0.getLsbD 0 = true := by decide +kernel

/-- InstructionCache: a fibre that waits for a parcel that it may read, of a home that reads well, with and without an uncorrected error there. -/
theorem witness_fill :
    let s := wafer 8 { fibre [] with hold := some (.icache 0x2000000) } id
    (∃ e ∈ (s.core 8).slots, e.2.hold = some (.icache 0x2000000) ∧ s.mayFill 8 (State.ofFlatar 8 e.2) 0x2000000 = true) ∧
      s.readsWell (.scratchpad 1) = true ∧ s.clusterRuns 1 = true ∧ (s.cluster 1).icache.length < 65536 ∧
      ({ s with bad := [0x400000] }.eccBad 0x2000000 2) = true := by decide +kernel

/-- A fibre that stands at the vector with a code, of a core whose cluster TLB holds something. -/
def calling (c : Nat) (va : Word) (tlb : Tab TlbEntry) : State :=
  let s := wafer 8 { fibre [va] with epcv := true, tcause := BitVec.ofNat 16 c, pc := 0x4000 } fun k =>
    { k with tvec := 0x4000, entry := #v[0x102, 0, 0, 0, 0, 0, 0, 0x10000] }
  { s with
    clusters := [(1, { s.cluster 1 with tlb := tlb })]
    mem := Memory.store (Memory.store (Memory.store (Memory.store [] 0x3000000 8 0x40000) 0x3000008 8 0x20000) 0x3000010 8 0x3010000) 0x3000018 8 0x8F000000 }

/-- The pager table's page, mapped to the first of the TCM. -/
def mapped : Tab TlbEntry := [(0, { tag := 0x100000, entry := 0x0300001F })]

/-- PagerCalls: the branches of each call. -/
theorem witness_pager :
    [0x20, 0x21, 0x22, 0x23].all (fun c => (calling c 0x40000 mapped).calls 8 0) = true ∧
      (calling 0x21 0 []).pagerReached 8 = false ∧ (calling 0x21 0 mapped).pagerReached 8 = true ∧ (calling 0x21 0 mapped).pagerIndex 8 0x80000 = none ∧
      (calling 0x21 0 mapped).pagerIndex 8 0x50000 = some 0 ∧ (calling 0x21 0 mapped).mappable 8 0x3010000 = true ∧
      (calling 0x22 0 mapped).userWord 8 0x10000 = some 0x40000 ∧ (calling 0x22 0 mapped).userWord 8 0x20000 = none ∧
      (calling 0x22 0 mapped).walking 8 0x20000 false = true ∧ (calling 0x22 0 mapped).walking 8 0x20000 true = false ∧
      (calling 0x22 0 mapped).walking 8 0x10000 false = false ∧ 1 ∈ (calling 0x23 0 mapped).taskClusters 8 ∧
      ({ tag := 0x100000, entry := 0x0300001F } : TlbEntry).holds (0, fld (0x10000 : Word) 16 40) = true := by decide +kernel

/-! ### Meeting the hypotheses: task entries, watchdogs, contexts -/

/-- A core in a state of its task entry, whose spot asks for a value. -/
def entryIn (n : Nat) (v : Word) : State :=
  { wafer 8 (fibre []) (fun c => { c with entry := c.entry.set 0 (BitVec.ofNat 64 (0x100 + n)), clearing := true }) with
    spot := { place := 8, item := 0, v0 := v, v1 := 0, v2 := 0, v3 := 0 } }

/-- TaskEntries: FREE with limits that hold and that do not, PLACING, RUNNING, and the clear running. -/
theorem witness_entries :
    (entryIn 0 0x101).entryState 8 = 0 ∧ (entryIn 0 0x101).mailboxOk 8 = true ∧ (entryIn 1 0x102).entryState 8 = 1 ∧ (entryIn 2 0).entryState 8 = 2 ∧
      ((entryIn 0 0x101).onCore 8 fun c => { c with mbcfg := 0 }).mailboxOk 8 = false ∧ ((entryIn 1 0x102).core 8).clearing = true ∧
      (entryIn 1 0x102).clusterRuns 1 = true ∧ (entryIn 3 0).entryState 8 = 3 ∧
      ((entryIn 0 0x101).tokens 1).held ≤ tokenCost 1 * ((entryIn 0 0x101).tokens 1).next ∧ (0x100#64).toNat % 4 = 0 ∧ (0x102#64).toNat % 4 ≥ 2 ∧
      (0x101#64).toNat % 2 = 1 := by decide +kernel

/-- WatchdogsAndFences: a watchdog at its limit and one below it; a live fibre whose slot errs. -/
theorem witness_watchdog :
    let w : Word := 0x80000001
    w.getLsbD 31 = true ∧ w.getLsbD 32 = false ∧ w.toNat % 2 ^ 20 ≠ 0 ∧ w.toNat % 2 ^ 20 * 1024 ≤ 1024 ∧ 1023 < w.toNat % 2 ^ 20 * 1024 ∧
      (core8 []).rankOf 8 < 2 ^ 16 ∧ ((core8 []).slot 8 0).live = true := by decide +kernel

/-- IssueNeedsRunning: a core that is FREE, one that is fenced, one whose cluster is held, one that has issued in its ac. -/
theorem witness_idle :
    (entryIn 0 0).entryState 8 ≠ 2 ∧ ((core8 []).onCore 8 fun c => { c with fenced := true }).mayIssue 8 = false ∧ State.reset.clusterRuns 1 = false ∧
      ((core8 []).onCore 8 fun c => { c with last := some ((core8 []).coreAc 8) }).mayIssue 8 = false ∧ (core8 []).mayIssue 8 = true := by decide +kernel

/-- ContextSwitches: a PRE and a RESUME at a core in each state, areas that can be reached and that cannot, and a pre-emption whose units stand. -/
theorem witness_contexts :
    let s (n kind : Nat) : State := inFlight { entryIn n 0 with cores := [(8, { (entryIn n 0).core 8 with clearing := false })] } (.core 9) (.core 8)
      (.msg (said kind pad1 [0]) true)
    let v : Saving := { area := pad1.toNat, pre := { src := .core 9, dst := .core 8, tc := 0, load := .msg (said 8 pad1 [0]) true, here := 1, held := none, pasid := none }, since := 0 }
    let t := (s 2 8).onCore 8 fun c => { c with saving := some v }
    let own : State := { s 3 9 with mem := Memory.store [] pad1.toNat 8 1 }
    let strayed : State := own.onCore 9 fun c => { c with tags := [(0, { slot := 0, gen := 0, use := .posted .store, scope := .quad, pc := 0, place := tcm9, issuer := 8 })] }
    (∀ n ∈ [0, 1, 2, 3], (s n 9).entryState 8 = n ∧ ((s n 9).core 8).clearing = false) ∧ (s 2 8).portRefuses (.core 9) 8 true = false ∧ (s 2 8).portRuns 8 = true ∧
      (said 8 0 []).kind = 8 ∧ (said 9 0 []).kind = 9 ∧ (s 3 9).areaReady pad1.toNat = true ∧ (s 3 9).areaReady 0xC4000000 = false ∧
      ((s 3 9).word pad1.toNat).toNat ≠ (s 3 9).entryTask 8 ∧ (own.word pad1.toNat).toNat = own.entryTask 8 ∧ own.mayLoad 8 pad1.toNat = true ∧
      strayed.mayLoad 8 pad1.toNat = false ∧ (((own.taken 0).resume 8 pad1.toNat).spillCount 8) = 0 ∧
      ((s 3 9).onCore 8 fun c => { c with loading := some 0 }).running 8 = false ∧ (t.areaWords 8).all (fun e => decide (e.1 + 8 ≤ 0x100000)) = true ∧
      (t.core 8).saving = some v ∧ t.engagedFor 8 = false ∧ t.areaReady v.area = true ∧ (t.tokens 1).held ≤ tokenCost 1 * (t.tokens 1).next ∧
      t.writesWell (.scratchpad 1) = true ∧ t.portRuns 8 = true := by decide +kernel

/-! ### Meeting the hypotheses: clocks, regions, the rim and the companion -/

/-- The wafer with region 1 in a state of its life, at a spot. -/
def regionIn (l : Life) (place item : Nat) (v : Word) (f : Region → Region) : State :=
  { State.reset with regions := [(1, f { Region.initial with life := l })], spot := { place := place, item := item, v0 := v, v1 := 0, v2 := 0, v3 := 0 } }

/-- OperatingPoints: a permitted point, the point in effect, a reserved one, 1.40 GHz without the grant, and a change in progress. -/
theorem witness_clock :
    let c := (regionIn .assigned 1 0 0x102 id).region 1 |>.clock
    c.stop = false ∧ c.cur = 0 ∧ c.g140 = false ∧ (0x102#64).getLsbD 8 = true ∧ (0x102#64).toNat % 8 = 2 ∧ (0x107#64).toNat % 8 ≥ 5 ∧
      ((regionIn .assigned 1 0 0 fun r => { r with clock := { r.clock with goal := some 2, stop := true } }).region 1).clock.goal = some 2 := by decide +kernel

/-- Forwarders: a cluster whose subtree is in hold, one whose subtree is not, and one that may leave hold. -/
theorem witness_forwarders :
    let s := { regionIn .assigned 66 0 0x2005 id with clusters := [(66, { Cluster.initial 2 with leaveAt := some 0, fwd := { Forwarder.initial 2 with hreq := false } })] }
    let t := { s with clusters := [(66, { Cluster.initial 2 with fwd := { Forwarder.initial 2 with hold := false } })] }
    (∀ c ∈ s.subtree 66, (s.cluster c).fwd.hold = true) ∧ 66 ∈ s.subtree 66 ∧ (∃ c ∈ t.subtree 66, (t.cluster c).fwd.hold = false) ∧ s.mayLeave 66 = true ∧
      s.fwdDepth 66 = some 0 ∧ (s.cluster 66).leaveAt = some 0 ∧ s.regionRuns 1 = true := by decide +kernel

/-- DarkLinks: a packet held at a dark region since the start, before DARKTO is over and after; a REPLY and an untagged word that wait there. -/
theorem witness_dark :
    let p (m : Msg) (tg : Bool) : Packet :=
      { src := .core 8, dst := .core 520, tc := 1, load := .msg m tg, here := 5, held := some (0, 64), pasid := none, toward := some 64 }
    let s (m : Msg) (tg : Bool) (t : Nat) : State :=
      { core8 [] with
        regions := [(0, { Region.initial with life := .assigned }), (1, { Region.initial with life := .dark })], net := [p m tg], now := t }
    ([(said 0 3 [1], true), (said 3 0 [1], true), (said 4 0 [1], true), (said 1 0 [1], false)].all fun x =>
      (s x.1 x.2 0).hopOf (p x.1 x.2) == some 64 && (s x.1 x.2 0).darkRouter 64 && !(s x.1 x.2 0).behind 0 (p x.1 x.2) 64 && x.1.kind != 5 &&
        (x.2 || decide (x.1.kind ≤ 3))) = true ∧
      ([(said 5 0 [1], false), (said 11 0 [1], false)].all fun x =>
        (s x.1 x.2 0).hopOf (p x.1 x.2) == some 64 && (s x.1 x.2 0).darkRouter 64 && !(s x.1 x.2 0).behind 0 (p x.1 x.2) 64 &&
          (x.1.kind == 5 || decide (3 < x.1.kind)) && (s x.1 x.2 0).portRegion (p x.1 x.2).dst == some 1) = true ∧
      ((s (said 0 3 [1]) false 0).rbctl 0).toNat / 2 ^ 48 = 500 ∧ 100 * 500 ≤ (s (said 0 3 [1]) false (1400 * 50000)).rc := by decide +kernel

/-- ClockLosses: a region whose clock runs and one whose clocks are stopped. -/
theorem witness_losses :
    (regionIn .assigned 66 0 0 id).regionRuns 1 = true ∧ ((regionIn .assigned 66 0 0 id).region 1).clock.stop = false ∧
      ((regionIn .assigned 66 0 0 fun r => { r with clock := { r.clock with stop := true } }).region 1).clock.stop = true ∧
      66 ∈ (regionIn .assigned 66 0 0 id).subtree 66 := by decide +kernel

/-- LifeCycleWrites, RegionsWiped and PowerAndReset: a region in each state; a WIPE word at its service core in each, refused where the region is dark or Wiping. -/
theorem witness_life :
    let wipe (l : Life) : State := inFlight (regionIn l 0 0 1 id) (.core 504) (.core 1016) (.msg (said 11 0x1000000000001 [0]) true)
    ([Life.dark, .wiping, .free, .assigned, .quarantined].all fun l => ((regionIn l 1 0 1 id).region 1).life == l) = true ∧
      ([Life.free, .assigned, .quarantined].all fun l =>
        !(wipe l).portRefuses (.core 504) 1016 true && ((wipe l).region 1).life == l && ((wipe l).front 0).isSome) = true ∧
      ([Life.dark, .wiping].all fun l =>
        (wipe l).portRefuses (.core 504) 1016 true && ((wipe l).region 1).life == l && ((wipe l).front 0).isSome) = true ∧
      fld (said 11 0x1000000000001 []).sel 48 7 = 1 ∧ ((wipe .free).tokens 64).held ≤ tokenCost 64 * ((wipe .free).tokens 64).next ∧
      ((wipe .free).tokens 100).held ≤ tokenCost 100 * ((wipe .free).tokens 100).next ∧
      ({ regionIn .wiping 1 0 0 id with fuses := { Fuses.blank with dead := [1016] } } : State).coreDead (512 * 1 + 504) = true ∧
      ((regionIn .wiping 1 0 0 id).region 1).wiper = none := by decide +kernel

/-- ReservedWordsCounted: events 9 and 127 at a core and at a cluster. -/
theorem witness_reserved :
    let s := inFlight (core8 []) (.core 9) (.core 8) (.msg (said 11 0x9000000000000 [0]) false)
    fld (said 11 0x9000000000000 []).sel 48 7 = 9 ∧ s.portRefuses (.core 9) 8 true = false ∧ s.portRuns 8 = true ∧ (s.front 0).isSome = true := by decide +kernel

/-- TrainingTests and FlashCommands: a channel with and without a test, a stack with and without a command, blocks in STATE 0 and 2. -/
theorem witness_windows :
    let t := regionIn .assigned 1 31 1 fun r => { r with tests := [(31, 0)] }
    let b : Word := 5
    let s := { regionIn .assigned 1 1 1 id with spot := { place := 1, item := 1, v0 := 1, v1 := 0, v2 := 0, v3 := 0 }, regs := [(0x7F8100000008, b), (0x7F8100000010, 0x100000000000)] }
    let r := { s with regions := [(8, { Region.initial with flash := some { block := 5, program := true, src := 0x100000000000, copied := 256, failed := false } })] }
    t.testing 1 31 = true ∧ s.testing 1 31 = false ∧ s.wearState 1 5 = 0 ∧ (s.region (flashRegion 1)).flash = none ∧ (r.region (flashRegion 1)).flash ≠ none ∧
      place 0x3000100 = some (.tcm 8, .memory) ∧ (core8 []).homeDark (.tcm 8) = false ∧ (core8 []).homeRuns (.tcm 8) = true ∧
      (core8 []).rimBusy 0x3000100 = false ∧ (core8 []).readsWell (.tcm 8) = true ∧ (s.region (flashRegion 1)).programmed = [] ∧
      State.programSourceOk 0x100000000000 = true ∧ State.programSourceOk 8 = false ∧ 0x100000000000 + 2 ^ 21 < 2 ^ 45 ∧
      (s.ctl 0x7F8100000008 0).toNat % 2 ^ 19 = 5 := by decide +kernel

/-- RimWipesAndMeasures: a range of the stack of region 1, a wipe that runs, and an extension that runs. -/
theorem witness_rim :
    let s := { regionIn .assigned 1 0 0x10001 id with regs := [(controlBase 1 + 0x300, 0x101000000000), (controlBase 1 + 0x308, 1)] }
    (regionStack 1).isSome = true ∧ (s.ctl (controlBase 1 + 0x300) 0).toNat = 0x101000000000 ∧ State.rimHolds 1 0x101000000000 (2 ^ 21) = true ∧
      (s.region 1).rimwipe = none ∧ (s.region 1).extending = none ∧ (0x10001#64).getLsbD 16 = true ∧ regionFlash 1 = none ∧
      ((regionIn .assigned 1 0 0 fun r => { r with rimwipe := some (0x101000000000, 8), extending := some (7, [], 0) }).region 1).extending = some (7, [], 0) := by
  decide +kernel

/-- The request ring of `rimRing`. -/
def rimQ : Request := { header := 0xC0001000, base := 0xC0002000, k := 4, producer := 0, consumer := 0, pasid := 0 }

/-- A request ring of 16 slots in the SRAM of region 0, with one request of n bytes from flash stack 0 to the scratchpad of cluster 1, both by
pages of PASID 0; the operation in progress for it and the locks of the stack. -/
def rimRing (n : Nat) (op : Option HodOp) (locks : Tab Lock) : State :=
  { wafer 8 (fibre []) id with
    regions := [(0, { Region.initial with life := .assigned, rings := [(0, { producer := some 1, op := op.map fun o => (o.no, rimQ) })], slocks := locks })]
    clusters := [(1,
      { Cluster.initial 1 with
        fwd := { Forwarder.initial 1 with hold := false, hreq := false, aligned := true }, heldAt := none
        tlb := [(0, { tag := 0x100000, entry := 0x20000000001F }), (1, { tag := 0x200000, entry := 0x200001F })] })]
    cores := [(504, { Core.initial 504 with hods := op.toList })]
    regs := [(controlBase 0 + 0x3000, 0x80000000C0001000)]
    spot := { place := 0, item := 0, v0 := 1, v1 := 0, v2 := 0, v3 := 0 }
    mem := Memory.store (Memory.store (Memory.store (Memory.store (Memory.store [] 0xC0001000 8 0xC0002000) 0xC0001008 8 4) 0xC0002000 8 0x10000)
      0xC0002008 8 0x20000) 0xC0002010 8 n }

/-- The operation of the slot of `rimRing` with what is still to be injected and whether its destination has ended. -/
def rimOp (todo : List (Word × Nat × Nat)) (done : Bool) : HodOp :=
  { no := 0, kind := .rim, slot := 256, gen := 0, reg := 0, pages := [(1, 0x20000000)], todo := todo, extent := 16
    dests := [{ HodDest.fresh 0x20000 [(2, 0x200)] [] with done := done }], bytes := 16, clip := none, counter := 0, failed := none, code := none
    block := none, rank := 0 }

/-- RimPushes: the ring of `rimRing` stands in the SRAM of its region. -/
theorem witness_ring_stands : RingStands 0 rimQ := by
  have h : ∀ i < 32, place (0xC0001000 + i) = some (.sram 0 0, .memory) := by decide +kernel
  have g : ∀ i < 32, place (0xC0002000 + i) = some (.sram 0 0, .memory) := by decide +kernel
  have e : State.rimSlot rimQ = 0xC0002000 := by decide +kernel
  refine ⟨fun x h1 h2 => ⟨0, ?_⟩, fun x h1 h2 => ⟨0, ?_⟩, by rw [e]; simp [rimQ]⟩
  · simp only [rimQ] at h1 h2
    simpa [Nat.add_sub_of_le h1] using h (x - 0xC0001000) (by omega)
  · rw [e] at h1 h2
    simpa [Nat.add_sub_of_le h1] using g (x - 0xC0002000) (by omega)

/-- RimPushes: a slot that is malformed, one whose range is not translated, and one that begins, meets a lock or finds the table full. -/
theorem witness_push :
    let s := rimRing 16 none []
    let lock (i : Nat) : Lock := { first := i, last := i, full := true, eng := 6, owner := 504, op := i, since := 0 }
    let mine : Lock := { first := 0x200000000000, last := 0x20000000000F, full := false, eng := 6, owner := 504, op := 0, since := 0 }
    s.requestRing 0 0 = some rimQ ∧ (rimRing 9 none []).requestRing 0 0 = some rimQ ∧ Memory.wf s.mem = true ∧ (s.ctl (controlBase 0 + 0x100) 0).getLsbD 0 = false ∧
      s.regionRuns 0 = true ∧ (∀ j < 16, j ≠ 0 → s.serveRing 0 j = none) ∧ (s.region 0).ringLast < 16 ∧ s.structReady rimQ.header = true ∧
      s.structReady (State.rimSlot rimQ) = true ∧ rimQ.consumer ≠ 1 ∧ ((rimRing 9 none []).word 0xC0002010).toNat % 2 ^ 32 % 8 ≠ 0 ∧
      s.rimRange 0 .load 0x10000 16 = some [(1, 0x20000000)] ∧ s.rimRange 0 .push 0x20000 16 = some [(2, 0x200)] ∧ s.rimRange 0 .load 0x30000 16 = none ∧
      (Pages.places [(2, 0x200)]).all (fun z => destinationUnit z == some (.scratchpad 1)) = true ∧
      State.apart [(1, 0x20000000)] 0x10000 16 [(2, 0x200)] 0x20000 16 = true ∧ (Pages.places [(1, 0x20000000)]).all (State.rimSource 0) = true ∧
      State.rimSource 1 (some (.flash 0 0, .memory)) = false ∧ Pages.span [(1, 0x20000000)] 0x10000 16 = (mine.first, mine.last) ∧ (s.region 0).rimwipe = none ∧
      (match s.addLock ((regionStack 0).map LockTable.stack) mine with | .added _ => true | _ => false) = true ∧
      (match (rimRing 16 none [(0, { mine with full := true })]).addLock ((regionStack 0).map LockTable.stack) mine with | .conflict => true | _ => false) = true ∧
      (match (rimRing 16 none ((List.range 64).map fun i => (i, lock i))).addLock ((regionStack 0).map LockTable.stack) mine with
        | .full => true | _ => false) = true := by decide +kernel

/-- RimPushes: a slot in progress with a beat to inject, and one whose destination has ended. -/
theorem witness_push_beat :
    let s := rimRing 16 (some (rimOp [(0x10000, 16, 0)] false)) []
    let e := rimRing 16 (some (rimOp [] true)) []
    let o := rimOp [(0x10000, 16, 0)] false
    s.requestRing 0 0 = some rimQ ∧ s.hodOp 504 0 = some o ∧ s.structReady (o.pages.phys 0x10000) = true ∧
      place (o.pages.phys 0x10000) = some (.flash 0 0, .memory) ∧ s.readsWell (.flash 0 0) = true ∧ s.badWord o.pages 0x10000 o.beatSize = none ∧
      place (Pages.phys [(2, 0x200)] 0x20000) = some (.scratchpad 1, .memory) ∧ e.hodOp 504 0 = some (rimOp [] true) ∧
      ((rimOp [] true).dests.all fun d => d.done) = true := by decide +kernel

/-- DriverCommands: a queue, one that does not exist, arguments at their limits, and each command in the mailbox. -/
theorem witness_host :
    let q : Queue := { ring := 0, k := 4, pasid := 0, completion := 0, producer := 3, consumer := 1, errors := 0, launch := none }
    let s (n : Nat) := { State.reset with
      host := { Companion.initial with queues := [(0, q)], opened := true, asked := some (BitVec.ofNat 64 n), args := [0, 16, 0xFFFFF, 0, 0, 0, 0, 0] } }
    (∀ n ∈ [1, 2, 3, 4, 5], (s n).asks n = true ∧ (s n).asks (n % 5 + 1) = false) ∧ ((s 1).argument 1).toNat = 16 ∧ ((s 1).argument 2).toNat < 2 ^ 20 ∧
      Tab.look (s 1).host.queues 0 = some q ∧ Tab.look (s 1).host.queues 16383 = none ∧ freeIndex (s 1).host.queues 16384 = some 1 ∧ q.producer ≤ 17 ∧
      17 ≤ q.consumer + 2 ^ q.k ∧ 2 < q.producer ∧ q.consumer + 2 ^ q.k < 18 ∧ 0 ∉ (s 1).host.retraining ∧ (s 3).host.records[(0 : Nat)]? = none ∧
      ((s 5).argument 0).toNat < 6 ∧
      ({ regionIn .assigned 1 0 0 id with host := { Companion.initial with interval := 0 } } : State).recordDue 1 = true ∧
      ({ regionIn .assigned 1 0 0 id with host := { Companion.initial with interval := 1 } } : State).recordDue 1 = false := by decide +kernel

/-- RegistersWritten: places of each register that the statement names. -/
theorem witness_registers :
    place (0x7F0000000000 + 27 * 0x100000000 + 31 * 0x10000 + 8 * 67) ≠ none ∧ place (0x7F8000000000 + 3 * 0x100000000 + 8) ≠ none ∧
      (regionStack 62).isSome = true ∧ place (controlBase 62 + 0xB000) ≠ none ∧ place 0x700000000000 = none := by decide +kernel

/-! ### Meeting the hypotheses: vectors and matrices -/

/-- A state of core p, with X0 and X1, and g0 up. -/
def described (p : Nat) (x0 x1 : XWord) (g : List Word) : State :=
  wafer p (fibre g) fun c => { c with x := (c.x.set 0 x0).set 1 x1 }

/-- The hypotheses of VectorIssues, computed, for X0 with rd, a and b. -/
def vectorPasses (s : State) (major minor : Nat) (rd a b : Reg) : Bool :=
  let f := vecForm major minor
  let o := vectorHead s major minor 0 rd a b
  let asrc := o.field 24 2
  let bsrc := o.field 26 2
  let u := s.onMe (State.slotBegun 4)
  clear s (vecReads s 0 f.two rd a b) [] [0] && vecDescOk f o &&
    holds (u.vecSource o asrc a) fun va =>
      holds (if f.two then va.2.vecSource o bsrc b else .ok (.absent, va.2)) fun vb =>
        holds (vb.2.checkLocal .store .engine (s.reg rd) o.dstBytes o.dstElem) fun d =>
          !va.1.clashes (s.reg rd) o.dstBytes && !vb.1.clashes (s.reg rd) o.dstBytes &&
            decide (o.inc = true → (rd :: (if asrc = 0 then [a] else []) ++ if f.two = true ∧ bsrc = 0 then [b] else []).Nodup) &&
            holds (d.2.2.checkLocks d.1 .store (s.reg rd) o.dstBytes) (fun _ => true) && holds (d.2.2.checkSourceLocks va.1) (fun _ => true) &&
            holds (d.2.2.checkSourceLocks vb.1) (fun _ => true) &&
            (streamNeeds o f.two).all (fun n => decide (n.2 ≤ (s.myCore.q.toList.getD n.1 []).length) && !readersBefore u.myCore n.1 (waitOrder s)) &&
            decide (s.myCore.vq.length < 8)

/-- VectorIssues: VIADD.S32 of memory with INC, of a stream and a scalar, a stochastic VCVT, VNZS in an S cluster, and a descriptor with a reserved bit. -/
theorem witness_vectors :
    vectorPasses (described 8 0x100A0004 0 [tcm8, tcm8 + 0x100, tcm8 + 0x200]) 0x21 0 0 1 2 = true ∧
      vectorPasses ((described 8 0x090A0004 0 [tcm8, 5, 7]).onCore 8 fun c => { c with q := c.q.set 1 [7, 8] }) 0x21 0 0 1 2 = true ∧
      vectorPasses (described 8 0x00000004 0 [tcm8, tcm8 + 0x100]) 0x22 4 0 1 0 = true ∧
      vecDescOk (vecForm 0x21 0) (vectorHead (described 8 0x2000A0004 0 []) 0x21 0 0 0 1 2) = false ∧ engineHere 8 .sparse = false ∧
      (List.range 64).any (fun c => engineHere (8 * c) .sparse) = true := by decide +kernel

/-- A vector operation: VIADD.S32 of four elements of the TCM. -/
def vectorOp : VecOp :=
  { vectorHead (described 8 0x000A0004 0 [tcm8]) 0x21 0 0 0 1 2 with
    a := .values [1, 2, 3, 4], b := .scalar 5, pages := [(tcm8.toNat / 65536, tcm8.toNat / 65536)], bytes := 16 }

/-- A run of it: its last row to be read, a row to be written, or nothing left, at ac 5. -/
def vectorRun (reads : List (Nat × List (Nat × Nat))) (writes : List (List (Nat × List Byte))) : VecRun where
  core := 8
  op := vectorOp
  reads := reads
  a := []
  b := []
  d := []
  gap := 0
  writes := writes
  moves := [(0, 16)]
  failed := none
  next := 5
  pace := 1
  ends := 5

/-- Cluster 1 with a run in a vector unit and the exponent unit, at an ac. -/
def performing (r : VecRun) (now : Nat) : State :=
  let s := wafer 8 { fibre [] with hold := some .performing } (fun c => { c with vq := [vectorOp] })
  { s with
    now := now, spot := { place := 1, item := 0, v0 := 0, v1 := 0, v2 := 0, v3 := 0 }
    clusters := s.clusters.map fun c => (c.1, { c.2 with vec0 := { run := some r, last := 0 }, exp := { run := some r, last := 0 } }) }

/-- VectorUnits: a queue with its unit free, a run that is over and one that is not, a row to read, with and without an uncorrected word, and one to
write; VectorElements: the elements. -/
theorem witness_vector_units :
    let s := { wafer 8 { fibre [] with hold := some .performing } (fun c => { c with vq := [vectorOp] }) with spot := { place := 1, item := 0, v0 := 0, v1 := 0, v2 := 0, v3 := 0 } }
    let ended := performing (vectorRun [] []) 7000
    let late := s.onCluster 1 fun c => { c with vec0 := { c.vec0 with freeAt := 9 } }
    let row := vectorRun [(0, [(tcm8.toNat, 16)])] []
    let reads := performing row 7000
    let writes := performing (vectorRun [] [[(tcm8.toNat, [1, 2])]]) 7000
    s.clusterRuns 1 = true ∧ (quadUnit s 1 0).run = none ∧ (quadUnit s 1 0).freeAt ≤ s.clusterAc 1 ∧ (quadUnit late 1 0).run = none ∧
      late.clusterAc 1 < (quadUnit late 1 0).freeAt ∧ (s.core 8).vq.head? = some vectorOp ∧ s.savedNow 8 = false ∧ s.toExponent 1 vectorOp = false ∧
      (∀ j < 4, j ≠ 0 → (s.core (8 * 1 + j)).vq = []) ∧ (quadUnit ended 1 0).run = some (vectorRun [] []) ∧ 5 ≤ ended.clusterAc 1 ∧
      (performing (vectorRun [] []) 0).clusterAc 1 < 5 ∧ reads.rowMay row (reads.clusterAc 1) = true ∧ reads.badRow row 0 [(tcm8.toNat, 16)] = none ∧
      (({ reads with bad := [tcm8.toNat / 8] } : State).badRow
        { row with op := { vectorOp with a := .memory [(tcm8.toNat / 65536, tcm8.toNat / 65536)] tcm8 16 } } 0 [(tcm8.toNat, 16)]).isSome = true ∧
      writes.rowMay (vectorRun [] [[(tcm8.toNat, [1, 2])]]) (writes.clusterAc 1) = true ∧ writes.writesWell (.tcm 8) = true ∧
      place tcm8.toNat = some (.tcm 8, .memory) ∧ vectorOp.n = 4 ∧ isIntFmt vectorOp.fmt = true ∧
      isSignedFmt vectorOp.fmt = true ∧ vectorOp.sat = false := by decide +kernel

/-- An operand descriptor (R213). -/
def operandOf (addr : Word) (rows fmt k stride : Nat) : XWord :=
  BitVec.ofNat 128 (addr.toNat + rows * 2 ^ 64 + fmt * 2 ^ 76 + k * 2 ^ 80 + stride * 2 ^ 96)

/-- The hypotheses of MatrixCommands on an MMA of a minor, computed: g1 the place, g2 the scale header. -/
def mmaPasses (s : State) (minor : Nat) : Bool :=
  match matPair minor with
  | none => false
  | some p =>
    let u := s.onMe (State.slotBegun 4)
    let w := s.reg 1
    let a := s.xreg 0
    let b := s.xreg 1
    let abytes := rowSpan (matRows a) (matStride a) (packedBytes (elemBits p.a) (matK a))
    let bbytes := rowSpan (matRows b) (matStride b) (packedBytes (elemBits p.b) (matK a))
    let asbytes := if p.aScale then matRows a * (matK a / 32) else 0
    let bsbytes := if p.bScale then matRows b * (matK a / 32) else 0
    engineHere s.cur.core .matrix && decide (s.myCore.mq.length < 4) && clear s [1, 2] [3] [0, 1] && matAOk p a (32 * p.step) && decide (1 ≤ matRows a) &&
      decide (matRows a ≤ 128) && matBOk p b (matK a) && fld w 18 46 == 0 && fld w 7 1 == 0 && decide (fld w 0 7 + matRows a ≤ 128) &&
      decide (fld w 8 8 + matRows b ≤ 256) &&
      holds (u.scaleHeader 2) fun h =>
        State.headerOk h.1 p.aScale p.bScale (minor == 10) &&
          holds (h.2.operand .load (some (.tcm s.cur.core)) (matAddr a) abytes 8) fun ap =>
            holds (ap.2.operand .load (some (.scratchpad (s.cur.core / 8))) (matAddr b) bbytes 8) fun bp =>
              holds (bp.2.operand .load (some (.tcm s.cur.core)) h.1.1 asbytes 1) fun sap =>
                holds (sap.2.operand .load (some (.scratchpad (s.cur.core / 8))) h.1.2.1 bsbytes 1) fun sbp =>
                  holds (sbp.2.enqueue 1 2 s.myCore.mq.length 3 [.core, .cluster]
                    [⟨ap.1, matAddr a, abytes, false⟩, ⟨bp.1, matAddr b, bbytes, false⟩, ⟨sap.1, h.1.1, asbytes, false⟩, ⟨sbp.1, h.1.2.1, bsbytes, false⟩])
                    fun _ => true

/-- A scale header of both operands at tcm8 + 0x1000. -/
def scaled (s : State) : State :=
  { s with mem := Memory.store (Memory.store (Memory.store [] 0x3001000 8 0x3002000) 0x3001008 8 0x2002000) 0x3001010 8 0x7F7F }

/-- MatrixCommands: an MMA without scales up to the last row and column of the station, and one with them. -/
theorem witness_mma :
    mmaPasses (described 8 (operandOf tcm8 2 10 64 64) (operandOf pad1 3 10 0 64) [0, 0xFD7E, 0, 0]) 10 = true ∧
      mmaPasses (scaled (described 8 (operandOf tcm8 2 3 64 64) (operandOf pad1 3 3 0 64) [0, 0, 0x3001000, 0])) 4 = true := by decide +kernel

/-- MatrixCommands: an MRING in a D cluster, an MMZ, an MST and an MLDC. -/
theorem witness_station :
    let s := described 8 (operandOf tcm8 2 10 64 64) (operandOf tcm8 0 0 0 64) [0, 0x0A000000, 0, 0]
    let u := s.onMe (State.slotBegun 4)
    let a := s.xreg 0
    let w : Word := 0x3010000
    let z := described 8 (operandOf tcm8 0 0 0 64) 0 [0, w, 0, 0]
    let v := z.onMe (State.slotBegun 4)
    engineHere 8 .matrixFull = true ∧ clear s [1, 2] [3] [0] = true ∧ fld (s.reg 1) 24 4 = 10 ∧ matAOk ⟨10, 10, 64, false, false⟩ a 64 = true ∧ matRows a = 2 ∧
      fld (s.reg 1) 49 15 = 0 ∧ fld (s.reg 1) 28 4 = 0 ∧ fld (s.reg 1) 18 6 = 0 ∧ fld (s.reg 1) 7 1 = 0 ∧ flag (s.reg 1) 48 = false ∧
      holds (u.scaleHeader 2) (fun h => State.headerOk h.1 false false true &&
        holds (h.2.operand .load (some (.tcm 8)) (matAddr a) 128 8) fun ap =>
          holds (ap.2.operand .load (some (.tcm 8)) h.1.1 0 1) fun sap =>
            holds (sap.2.enqueue 1 2 0 3 [.core] [⟨ap.1, matAddr a, 128, false⟩, ⟨sap.1, h.1.1, 0, false⟩]) fun _ => true) = true ∧
      stationOk w true = true ∧ stationOk w false = true ∧ clear z [1] [3] [0] = true ∧ matReserved (z.xreg 0) = true ∧ matRows (z.xreg 0) = 0 ∧ matK (z.xreg 0) = 0 ∧
      matStrideOk (z.xreg 0) (stCols w * storeElem 0) = true ∧ matFmt (z.xreg 0) = 0 ∧
      [(Access.store, true), (Access.load, false)].all (fun x =>
        let bytes := rowSpan (stRows w) (matStride (z.xreg 0)) (stCols w * storeElem 0)
        holds (v.operand x.1 none tcm8 bytes 8) fun ps =>
          holds (ps.2.enqueue 1 2 0 3 (v.scopesOf ps.1) [⟨ps.1, tcm8, bytes, x.2⟩]) fun _ => true) = true := by decide +kernel

/-- A grouped product of two groups with counts in two words; g1 the group header, g2 no scales. -/
def grouped (c0 c1 : Word) : State :=
  { described 8 (operandOf tcm8 0 10 64 64) (operandOf pad1 3 10 0 64) [0, 0x3001000, 0, 0] with
    mem := [(0x3001000, (0x3001100 : Word)), (0x3001008, 0xA000002), (0x3001010, 0x400), (0x3001018, 0x3008000), (0x3001020, 16), (0x3001028, 0),
      (0x3001100, c0 + 0x100000000 * c1)].foldl (fun m e => Memory.store m e.1 8 e.2.toNat) [] }

/-- The hypotheses of GroupedProducts, computed. -/
def groupedPasses (s : State) (rows : Nat) : Bool :=
  let u := s.onMe (State.slotBegun 4)
  let a := s.xreg 0
  let b := s.xreg 1
  let p : MatPair := ⟨10, 10, 64, false, false⟩
  clear s [1, 2] [3] [0, 1] && matReserved a && matRows a == 0 && matReserved b && matK b == 0 &&
    holds (u.checkLocal .load .engine (s.reg 1) 48 8) fun x =>
      holds (x.2.2.localRead .engine x.1 x.2.1 (s.reg 1) 48) fun gv =>
        let g := groupWord gv
        let groups := fld (g 1) 0 16
        let oStride := fld (g 4) 0 32
        let oFmt := fld (g 4) 32 4
        let abytes := rowSpan rows (matStride a) 64
        let bbytes := (groups - 1) * (g 2).toNat + rowSpan 3 (matStride b) 64
        let obytes := rowSpan rows oStride (3 * storeElem oFmt)
        fld (g 1) 24 4 == 10 && matAOk p a (32 * p.step) && matBOk p b (matK a) && fld (g 1) 16 8 == 0 && fld (g 1) 29 35 == 0 && decide (1 ≤ groups) &&
          decide (groups ≤ 256) && (g 2).toNat % 8 == 0 && fld (g 4) 36 28 == 0 && decide (oFmt ≤ 2) && oStride % 8 == 0 &&
          decide (3 * storeElem oFmt ≤ oStride) && g 5 == 0 &&
          holds (x.2.2.scaleHeader 2) fun h =>
            State.headerOk h.1 false false true &&
              holds (h.2.checkLocal .load .engine (g 0) (4 * groups) 4) fun c =>
                holds (c.2.2.localRead .engine c.1 c.2.1 (g 0) (4 * groups)) (fun cv => ((List.range groups).map fun i => cv / 2 ^ (32 * i) % 2 ^ 32).sum == rows) &&
                  holds (c.2.2.operand .load (some (.tcm 8)) (matAddr a) abytes 8) fun ap =>
                    holds (ap.2.operand .load (some (.scratchpad 1)) (matAddr b) bbytes 8) fun bp =>
                      holds (bp.2.operand .load (some (.tcm 8)) h.1.1 0 1) fun sap =>
                        holds (sap.2.operand .load (some (.scratchpad 1)) h.1.2.1 0 1) fun sbp =>
                          holds (sbp.2.operand .store none (g 3) obytes 8) fun op =>
                            holds (op.2.enqueue 1 2 0 3 [.core, .cluster]
                              [⟨ap.1, matAddr a, abytes, false⟩, ⟨sap.1, h.1.1, 0, false⟩, ⟨bp.1, matAddr b, bbytes, false⟩, ⟨sbp.1, h.1.2.1, 0, false⟩,
                                ⟨op.1, g 3, obytes, true⟩]) fun _ => true

/-- GroupedProducts: 5 rows, and none. MatrixQueries: thresholds 0, 4 and 5. -/
theorem witness_grouped :
    groupedPasses (grouped 2 3) 5 = true ∧ groupedPasses (grouped 0 0) 0 = true ∧ clear (described 8 0 0 [0, 4]) [1] [3] [] = true ∧
      (described 8 0 0 []).myCore.mq.length ≤ 0 := by decide +kernel

/-- A matrix command of core 8 at the first cells: 2 rows of A at the TCM, 3 of B at the scratchpad. -/
def command (kind : MatKind) (step : Nat) : MatCmd :=
  { MatCmd.issued (described 8 0 0 []) 0 1 kind 10 (operandOf tcm8 2 10 64 64) (operandOf pad1 3 10 0 64) 0x10000 with
    step := step, aPages := [(tcm8.toNat / 65536, tcm8.toNat / 65536)], bPages := [(pad1.toNat / 65536, pad1.toNat / 65536)] }

/-- Cluster 1 with a command at the head of core 8's queue, its unit free or serving it, at token level 8. -/
def commanded (c : MatCmd) (served : Option Nat) (level next held : Nat) : State :=
  let s := wafer 8 { fibre [] with mark := (Vector.replicate 8 none).set 1 (some .engine) } fun k => { k with mq := [c], station := [(0, 7)] }
  { s with
    now := 43200, spot := { place := 1, item := 0, v0 := 0, v1 := 0, v2 := 0, v3 := 0 }
    clusters := s.clusters.map fun x =>
      (x.1, { x.2 with mat := { x.2.mat with core := served, level := level }, tokens := { x.2.tokens with next := next, level := level, held := held } }) }

/-- MatrixUnit: a start, a step, and the ends of an MMA, an MMZ and an MLDC. -/
theorem witness_unit :
    let s := commanded (command .mma 0) none 0 8 (tokenCost 1 * 8)
    let t := commanded (command .mma 0) (some 0) 8 8 0
    s.clusterRuns 1 = true ∧ (s.core 8).mq = [command .mma 0] ∧ (∀ j < 8, s.eligible 1 j = true ↔ j = 0) ∧ (s.tokens 1).held = tokenCost 1 * (s.tokens 1).next ∧ s.noticeOver 1 = false ∧
      (t.cluster 1).mat.core = some 0 ∧ t.savedNow 8 = false ∧ 0 < matK (command .mma 0).a / 64 ∧ (t.cluster 1).mat.until_ ≤ t.clusterAc 1 ∧
      t.clusterAc 1 % stepDuration 1 = 0 ∧ (t.cluster 1).mat.starts = [] ∧ 0 < (t.cluster 1).mat.level ∧ (t.tokens 1).held ≤ tokenCost 1 * (t.tokens 1).next ∧ t.bad = [] ∧
      t.holder 8 = 8 ∧ ((List.range 8).all fun j => (t.core (8 * 1 + j)).owedWords == []) = true ∧
      ([command .mma 1, command .mmz 0, command .mldc 0].all fun c =>
        let u := commanded c (some 0) 8 8 0
        u.takesCompletions 8 (u.core 8).endings && !u.savedNow 8 && u.holder 8 == 8 && !(u.core 8).fenced && (u.core 8).mwaits == [] && (u.slot 8 0).mark[(1 : Fin 8)] == some .engine) = true ∧
      matK (command .mma 1).a / (command .mma 1).thePair.step ≤ 1 := by decide +kernel

/-! ### Meeting the hypotheses: copies and attention -/

/-- HodPushes: an 8-byte copy to the neighbour's TCM with a notice; words of each kind that do not pass. -/
theorem witness_hod_push :
    let s := ranked (described 8 (BitVec.ofNat 128 (tcm8.toNat + tcm9.toNat * 2 ^ 64)) 0 [0, 0x80000005, 8, 0x80000004, 4, 0x8000FF00])
    let u := s.onMe (State.slotBegun 4)
    let src := (s.xreg 0).setWidth 64
    let dst := (s.xreg 0).extractLsb' 64 64
    clear s [1, 2] [4] [0] = true ∧ flag (s.reg 1) 31 = true ∧ fld (s.reg 1) 32 32 = 0 ∧ fld (s.reg 1) 25 6 = 0 ∧ fld (s.reg 1) 22 2 = 0 ∧
      (s.rankPort 8 5).isSome = true ∧ (s.rankPort 8 4).isSome = false ∧ isServiceRank (fld (s.reg 5) 0 16) = true ∧ flag (s.reg 2) 31 = false ∧
      (user []).me.sup = false ∧
      holds (u.checkLocal .load .engine src 8 8) (fun a => holds (a.2.2.destination dst 8 8) fun b =>
        State.apart a.1 src 8 b.1 dst 8 && holds (b.2.2.startHod 4 (u.scopesOf b.1) [⟨a.1, src, 8, false⟩]) fun _ => true) = true := by decide +kernel

/-- HodTiles: a tile of 2 rows of 4 bytes whose box is whole, cut, and empty; handler 3 stands in the table. -/
theorem witness_tiles :
    let s (o : Word) : State :=
      let t := described 8 (BitVec.ofNat 128 (tcm8.toNat + 4 * 2 ^ 64 + 8 * 2 ^ 88)) (BitVec.ofNat 128 (tcm9.toNat + 3 * 2 ^ 56 + 2 * 2 ^ 64 + 4 * 2 ^ 80 + 16 * 2 ^ 96))
        [0, o]
      { t.onCore 8 fun c => { c with entry := c.entry.set 1 0x3000000, admitting := true } with
        mem := Memory.store [] 0x3000018 8 0x4000
        clusters := t.clusters.map fun c => (c.1, { c.2 with tlb := [(0, { tag := 0x30000000, entry := 0x0300001F })] }) }
    (s 0).handlerEmpty 8 3 = false ∧ clear (s 0) [1] [2] [0, 1] = true ∧
      ([(0, tileBox 4 8 2 4 0 0), (3, tileBox 4 8 2 4 3 0), (8, (0, 0, 0, 0))].all fun x =>
        let o : Word := x.1
        tileBox 4 8 2 4 (signed32 o 0) (signed32 o 32) == x.2) = true ∧ tileBox 4 8 2 4 0 0 = (0, 0, 2, 4) ∧ tileBox 4 8 2 4 3 0 = (0, 0, 1, 4) ∧
      (s 8).myCore.hasGeneral = true ∧ (s 8).ringCount 8 = 0 ∧ (s 8).entryState 8 = 2 ∧ (s 8).rankOf 8 < 65536 ∧
      ((s 8).onCore 8 fun c => { c with slots := [(0, { fibre [] with fw := false })] }).me.fw = false ∧
      (let t := s 0
       let u := t.onMe (State.slotBegun 4)
       holds (u.checkLocal .load .engine tcm8 20 1) fun a => holds (a.2.2.destination tcm9 8 1) fun b =>
         State.apart a.1 tcm8 20 b.1 tcm9 8 && holds (b.2.2.startHod 2 (u.scopesOf b.1) [⟨a.1, tcm8, 20, false⟩]) fun _ => true) = true := by decide +kernel

/-- HodMulticasts: a rectangle of two ranks, to TCMs with notices and to scratchpads; an MBPASS of two rows to a D core of the task. -/
theorem witness_multicast :
    let grid (s : State) : State :=
      { s with ranks := [(0, [(5, 0x8009), (6, 0x800A)])], regions := s.regions.map fun r => (r.1, { r.2 with grid := (8, 4) }) }
    ([8 * 2 ^ 64 + 2 ^ 95, 2 ^ 64 * 0x100000 + 2 ^ 88].all fun d =>
      let s := grid (described 8 (BitVec.ofNat 128 (tcm8.toNat + d)) 0 [0, 0x1020005, 16])
      let u := s.onMe (State.slotBegun 4)
      clear s [1, 2] [3] [0] && fld (s.reg 1) 32 32 == 0 && fld (s.reg 1) 16 8 == 2 && fld (s.reg 1) 24 8 == 1 && !isServiceRank (fld (s.reg 1) 0 16) &&
        (s.rectangleRanks 5 2 1).bind s.coresOf == some [(5, 9), (6, 10)] && (s.xreg 0).toNat / 2 ^ 64 % 2 ^ 24 % 8 == 0 &&
        holds (u.checkLocal .load .engine tcm8 16 8) fun a => holds (a.2.2.startHod 3 [] [⟨a.1, tcm8, 16, false⟩]) fun _ => true) = true ∧
    (let s := ranked ((described 8 (operandOf pad1 2 1 0 64) 0 [0, 5, 0]).onCore 9 fun c => { c with entry := c.entry.set 0 0x102 })
     let u := s.onMe (State.slotBegun 4)
     engineHere 8 .matrixFull = true ∧ matReserved (s.xreg 0) = true ∧ matStrideOk (s.xreg 0) 64 = true ∧ blockScales (matFmt (s.xreg 0)) = some (some false) ∧
       s.dCoreOfTask 5 = true ∧ s.rankPort 8 5 = some (.core 9) ∧
       holds (u.scaleHeader 2) (fun h => h.1.2.1 == 0 && holds (h.2.operand .load (some (.scratchpad 1)) pad1 128 8) fun b =>
         holds (b.2.operand .load (some (.scratchpad 1)) h.1.2.1 0 1) fun p =>
           holds (p.2.startHod 3 [scopeOfCore 8 9] [⟨b.1, pad1, 128, false⟩]) fun _ => true) = true) := by decide +kernel

/-- HodFrees: words that pass and that do not, and counters at and above a threshold of 1. -/
theorem witness_frees :
    let s := (ranked (described 8 0 0 [0, 0x10005, 1, 4, 0x100000])).onCore 8 fun c => { c with freeCtr := [(1, 1), (2, 5)] }
    clear s [1, 2] [3] [] = true ∧ fld (s.reg 1) 20 44 = 0 ∧ isServiceRank (fld (s.reg 1) 0 16) = false ∧ (s.rankPort 8 5).isSome = true ∧
      s.rankPort 8 (fld (s.reg 3) 0 16) = none ∧ fld (s.reg 4) 16 48 ≠ 0 ∧ Tab.read s.myCore.freeCtr 0 1 ≤ (s.reg 2).toNat ∧
      (s.reg 2).toNat < Tab.read s.myCore.freeCtr 0 2 := by decide +kernel

/-- A free for counter 3 of rank 6, in flight. -/
def freed (src dst : Port) (entry : List Combine) : State :=
  let s := ranked (wafer 8 { fibre [] with mark := (Vector.replicate 8 none).set 1 (some .engine) } fun c =>
    { c with freeCtr := [(3, 2)], hwaits := [⟨0, 0, 1, 3, 1⟩] })
  inFlight { s with clusters := s.clusters.map fun c => (c.1, { c.2 with combine := entry }) } src dst (.free 6 3)

/-- FreesCombine: a router with the entry and without it, an entry that this free completes and one that goes on, and the sender. -/
theorem witness_combine :
    let e (d : Nat) : Combine := ⟨6, 3, none, d, 0, [(.core 8, 0)]⟩
    let r := freed (.core 8) (.router 1) [e 1]
    (r.front 0).isSome = true ∧ ((freed (.core 8) (.router 1) []).front 0).isSome = true ∧ (r.cluster 1).combine = [e 1] ∧ r.rankPort 8 6 = some (.core 8) ∧
      ((freed (.core 8) (.router 1) [e 2]).cluster 1).combine = [e 2] ∧
      (let s := freed (.router 1) (.core 8) []
       (s.front 0).isSome = true ∧ (s.core 8).fenced = false ∧ s.portRuns 8 = true ∧ s.savedNow 8 = false ∧ s.holder 8 = 8 ∧ Tab.read (s.core 8).freeCtr 0 3 - 1 ≤ 1 ∧
         (s.slot 8 0).live = true ∧ (s.slot 8 0).mark[(1 : Fin 8)] = some .engine) := by decide +kernel

/-- A copy of 16 bytes to core 9's TCM, of core 8, with a notice to rank 5. -/
def pushOp (todo : List (Word × Nat × Nat)) (sent performed : Nat) (locked told : Bool) : HodOp :=
  { HodOp.issued (core8 []) 0 .push 1 [(tcm8.toNat / 65536, tcm8.toNat / 65536)] todo 16
      [{ HodDest.fresh tcm9 [(tcm9.toNat / 65536, tcm9.toNat / 65536)] [⟨5, 3, false⟩] with sent := sent, performed := performed, locked := locked, told := told }] 16 with
    kind := .push }

/-- Core 8 with such a copy in flight. -/
def copying (o : HodOp) : State :=
  { ranked (wafer 8 { fibre [] with mark := (Vector.replicate 8 none).set 1 (some .engine) } fun c => { c with hods := [o] }) with
    spot := { place := 1, item := 0, v0 := 0, v1 := 0, v2 := 0, v3 := 0 } }

/-- HodBeats: a beat to inject, a beat at its home that is the last and one that is not, and the completion at the engine. -/
theorem witness_beats :
    let s := copying (pushOp [(tcm8, 16, 0)] 0 0 false false)
    let b : Beat := ⟨8, 0, 0, tcm9.toNat, [1, 2, 3], 0⟩
    let arrive (o : HodOp) : State := { inFlight (copying o) (.cluster 1) (.home (.tcm 9)) (.beat b) with spot := { place := 0, item := 0, v0 := 0, v1 := 0, v2 := 0, v3 := 0 } }
    let landed := { inFlight (copying (pushOp [] 1 1 true true)) (.home (.tcm 9)) (.cluster 1) (.landed 8 0 0 0) with spot := { place := 0, item := 0, v0 := 0, v1 := 0, v2 := 0, v3 := 0 } }
    s.clusterRuns 1 = true ∧ (s.cluster 1).hodAt ≠ some (s.coreAc 8) ∧ s.hodNext 8 = some (pushOp [(tcm8, 16, 0)] 0 0 false false) ∧
      s.hodOp 8 0 = some (pushOp [(tcm8, 16, 0)] 0 0 false false) ∧ (∀ j < 8, 8 + j ≠ 8 → s.hodNext (8 + j) = none) ∧ s.bad = [] ∧
      place tcm9.toNat = some (.tcm 9, .memory) ∧
      ([pushOp [] 1 0 true false, pushOp [(tcm8, 8, 8)] 1 0 true false].all fun o =>
        let a := arrive o
        (a.moving 0).isSome && a.hodOp 8 0 == some o && !a.homeRefuses 8 (a.entryTask 8 == 0 || isService 8) (.tcm 9) tcm9.toNat && a.homeRuns (.tcm 9) &&
          !a.rimBusy tcm9.toNat && decide (b.since ≤ a.homeAc (.tcm 9)) && a.writesWell (.tcm 9) && Memory.wf a.mem) = true ∧
      (landed.moving 0).isSome = true ∧ landed.hodOp 8 0 = some (pushOp [] 1 1 true true) ∧ landed.portRuns 8 = true ∧ landed.savedNow 8 = false ∧ landed.holder 8 = 8 ∧
      (landed.core 8).fenced = false ∧ (landed.slot 8 0).live = true ∧ (landed.slot 8 0).mark[(1 : Fin 8)] = some .engine ∧ landed.rankPort 8 5 = some (.core 9) ∧
      landed.rankOf 8 < 65536 ∧ 0 ≤ landed.coreAc 8 := by decide +kernel

/-- HodBeats: the completion of a tile with a clip record, at a core of a user task with room in its mailbox. -/
theorem witness_clip :
    let o : HodOp := { pushOp [] 1 1 true true with clip := some (3, [1, 2, 3, 4, 5, 6, 7, 8]), dests := [{ HodDest.fresh tcm9 [] [] with sent := 1, performed := 1, told := true }] }
    let s := inFlight (copying o) (.home (.tcm 9)) (.cluster 1) (.landed 8 0 0 0)
    let t := s.onCore 8 fun c => { c with slots := c.slots.map fun e => (e.1, { e.2 with fw := false, sup := false }) }
    (t.moving 0).isSome = true ∧ t.hodOp 8 0 = some o ∧ o.code = none ∧ o.failed = none ∧ t.entryState 8 = 2 ∧ (t.slot 8 0).fw = false ∧ (t.core 8).admitting = true ∧
      t.ringCount 8 = 0 ∧ (t.core 8).hasGeneral = true ∧ t.savedNow 8 = false ∧ t.holder 8 = 8 ∧ (t.core 8).clearing = false ∧
      t.ringBlocked 8 (t.entryPasid 8) (t.entryAddr 8 3) = false ∧ isService 8 = false := by decide +kernel

/-- Core 48 of cluster 6, an A cluster: the first bytes of its TCM and of the scratchpad. -/
def tcm48 : Word := BitVec.ofNat 64 (tcmBase 48)

/-- A course at tcm48 + 64 of one pair of FP32 at tcm48 + 4096, at position 3, with a reference count; g1 names it, g2 a table. -/
def coursed (ref : Nat) (x : XWord) (g : List Word) : State :=
  { described 48 x 0 g with
    mem := Memory.store (Memory.store [] (tcm48.toNat + 64) 16 (tcm48.toNat + 4096 + 3 * 2 ^ 64 + 1 * 2 ^ 104)) (tcm48.toNat + 80) 16 ref }

/-- RotaryIssues: a KLD.ROT of one row at row 2 and a QROT of one row, to another part of the TCM. -/
theorem witness_rotary :
    let x (query : Bool) : XWord :=
      BitVec.ofNat 128 (tcm48.toNat + 8192 + (if query then 1 * 2 ^ 64 + 3 * 2 ^ 96 else 2 * 2 ^ 72) + 1 * 2 ^ 78)
    ([true, false].all fun q =>
      let s := coursed 1 (x q) [0, tcm48 + (if q then 4096 else 64), tcm48 + 16384]
      let u := s.onMe (State.slotBegun 4)
      let src := if q then tcm48 + 4096 else tcm48 + 4096 + 16
      let dst := tcm48 + 8192
      engineHere 48 .rotary && clear s [1, 2] [3] [0] && rotOk q (s.xreg 0) && (q || holds (u.readCourse .load .engine (s.reg 1)) fun c => c.1.pairs == 1 && c.1.fmt == 0) &&
        holds (u.operand .load none src 8 4) fun a => holds (a.2.operand .load none (s.reg 2) 4 4) fun b => holds (b.2.operand .store none dst 8 4) fun d =>
          !rangesMeet src 8 (s.reg 2) 4 && !rangesMeet src 8 dst 8 && !rangesMeet (s.reg 2) 4 dst 8 &&
            holds (d.2.enqueue 2 4 0 3 (u.scopesOf (a.1 ++ b.1 ++ d.1)) [⟨a.1, src, 8, false⟩, ⟨b.1, s.reg 2, 4, false⟩, ⟨d.1, dst, 8, true⟩]) fun _ => true) = true := by
  decide +kernel

/-- A rotary operation of one row of one pair, at a row. -/
def rotOp (row : Nat) : RotOp :=
  let page : Pages := [(tcm48.toNat / 65536, tcm48.toNat / 65536)]
  { no := 0, slot := 0, gen := 0, reg := 1, query := true, desc := BitVec.ofNat 128 (tcm48.toNat + 8192 + 1 * 2 ^ 64 + 1 * 2 ^ 78), src := tcm48 + 4096, pages := page
    sfmt := 0, pairs := 1, base := 3, table := tcm48 + 16384, tPages := page, dPages := page, e4sat := false, row := row, nan := false, ovf := false }

/-- Cluster 6 with a rotary operation at the head of core 48's queue. -/
def rotating (o : RotOp) (served : Option Nat) : State :=
  let s := wafer 48 { fibre [] with mark := (Vector.replicate 8 none).set 1 (some .engine) } fun c => { c with rq := [o] }
  { s with
    now := 43200, spot := { place := 6, item := 0, v0 := 0, v1 := 0, v2 := 0, v3 := 0 }
    clusters := s.clusters.map fun x =>
      (x.1, { x.2 with rot := { x.2.rot with core := served, level := 8 }, tokens := { x.2.tokens with next := 8, level := 8, held := tokenCost 6 * 8 } }) }

/-- RotaryUnit: a start, a row, and the end. RotationAtZero: a row of two finite values. -/
theorem witness_rotating :
    let s := rotating (rotOp 0) none
    let t := rotating (rotOp 0) (some 0)
    let e := rotating (rotOp 1) (some 0)
    s.clusterRuns 6 = true ∧ s.savedNow 48 = false ∧ 0 < (s.tokens 6).next ∧ s.rotNext 6 = some 0 ∧ (s.tokens 6).held = tokenCost 6 * (s.tokens 6).next ∧ s.noticeOver 6 = false ∧ t.writesWell (.tcm 48) = true ∧
      0 < (rotOp 0).nrow ∧ (t.cluster 6).rot.until_ ≤ t.clusterAc 6 ∧ (t.clusterAc 6 - (t.cluster 6).rot.begun) % ((1 + 15) / 16) = 0 ∧ (t.cluster 6).rot.starts = [] ∧
      0 < (t.cluster 6).rot.level ∧ (e.tokens 6).held ≤ tokenCost 6 * (e.tokens 6).next ∧ t.bad = [] ∧ (e.cluster 6).rot.core = some 0 ∧ e.holder 48 = 48 ∧ (rotOp 1).row = (rotOp 1).nrow ∧ (e.core 48).fenced = false ∧
      (e.slot 48 0).mark[(1 : Fin 8)] = some .engine ∧ ((rotOp 0).dPages.phys ((rotOp 0).dst)) = tcm48.toNat + 8192 ∧
      place (tcm48.toNat + 8192) = some (.tcm 48, .memory) ∧ (match (fmtOf 0).value 0x3F800000 with | .fin _ => true | _ => false) = true := by decide +kernel

/-- RowRotation: a pair at a phase that is not 0, its table's entries, and a Rot of finite numbers, one of which is 0. -/
theorem witness_row_rotation :
    let one : Machine.Dyadic := { neg := false, num := 1, exp := 0 }
    3 * [0x40000000].getD 0 0 % 2 ^ 32 ≠ 0 ∧ ([0x3F800000, 0x40000000] : List Nat).length = 2 * 1 ∧
      (match Fmt.fp32.value (sineTable (0x12345678 / 2 ^ 22)), Fmt.fp32.value (sineTable (0x12345678 / 2 ^ 22 + 1)) with | .fin _, .fin _ => true | _, _ => false) = true ∧
      (rot (.fin one) (.fin one) (.fin one) (.fin one)).bits = 0x40000000 ∧ (rot (.fin one) (.fin one) (.fin one) (.fin { one with neg := true })).bits = 0 := by
  decide +kernel

/-- SoftmaxArithmetic: a state of one element with two scores, one of them −inf, and their values; another state; states that are poisoned, empty, and without weight. -/
theorem witness_softmax_arithmetic :
    let t : Softmax := { m := 0x3F800000, l := 0x40000000, flags := 0, o := [0x3F800000] }
    let v : Softmax := { t with m := 0x40000000 }
    let finite (x : Nat) : Bool := match single x with | .fin _ => true | _ => false
    let u := t.score [0x40000000, 0xFF800000] [[single 0x3F800000], [single 0x7FC00000]]
    let d := t.merge v
    t.flags % 2 = 0 ∧ v.flags % 2 = 0 ∧ v.o.length = t.o.length ∧ finite t.m = true ∧ finite v.m = true ∧ finite t.l = true ∧ single 0xFF800000 = .inf true ∧
      single 0x7F800000 = .inf false ∧ (single 0x7FC00000).isNaN = true ∧ u.m = 0x40000000 ∧ finite u.l = true ∧ d.m = 0x40000000 ∧ finite d.l = true ∧
      (single 0).isZero = true ∧ (single t.l).isZero = false ∧ t.finish = ([0x3F000000], false) := by
  decide +kernel

/-- The hypotheses of SoftmaxMerges on an issue, computed, of modes 0 to 2: the state of one element at g0, scores or the other state at g1, values at g2. -/
def smxPasses (mode : Nat) : Bool :=
  let s := described 48 (BitVec.ofNat 128 (mode + 1 * 2 ^ 8 + if mode = 0 then 2 ^ 24 + 4 * 2 ^ 32 else 0)) 0 [tcm48, tcm48 + 64, tcm48 + 128]
  let u := s.onMe (State.slotBegun 4)
  let r2 : Reg := if mode = 0 then 2 else 0
  let how : Access := if mode = 2 then .store else .load
  let ab := if mode = 1 then 20 else 4
  let bb := if mode = 0 then 4 else 0
  engineHere 48 .exponent && clear s (0 :: 1 :: if mode = 0 then [r2] else []) [] [0] && smxOk (s.xreg 0) r2 &&
    holds (u.operand .store none (s.reg 0) 20 4) fun p => holds (p.2.operand how none (s.reg 1) ab 4) fun a => holds (a.2.operand .load none (s.reg r2) bb 4) fun b =>
      !rangesMeet (s.reg 0) 20 (s.reg 1) ab && !rangesMeet (s.reg 0) 20 (s.reg 2) bb && !rangesMeet (s.reg 1) ab (s.reg 2) bb &&
        holds (b.2.checkLocks p.1 .store (s.reg 0) 20) (fun _ => true) && holds (b.2.checkLocks a.1 how (s.reg 1) ab) (fun _ => true) &&
        (mode != 0 || holds (b.2.checkLocks b.1 .load (s.reg 2) bb) fun _ => true)

/-- SoftmaxMerges: issues of each mode, a queue with its unit free, and a state that is poisoned and one without weight. -/
theorem witness_softmax :
    (∀ m < 3, smxPasses m = true) ∧
      (let s := { rotating (rotOp 0) none with cores := (wafer 48 (fibre []) fun c => { c with sq := [{ vectorOp with major := 0x28 }] }).cores }
       s.clusterRuns 6 = true ∧ (s.cluster 6).exp.run = none ∧ (s.cluster 6).exp.freeAt ≤ s.clusterAc 6 ∧ (s.tokens 6).held ≠ 0 ∧ kindOf (6 % 64) = .attention ∧ (s.core 48).sq = [{ vectorOp with major := 0x28 }] ∧
         s.savedNow 48 = false ∧ ∀ n < 10, n ≠ 0 → s.expClient 6 n = none) ∧
      (let r := { vectorRun [(2, [(tcm8.toNat, 20)])] [] with op := { vectorOp with major := 0x28, minor := 2, pages := [(tcm8.toNat / 65536, tcm8.toNat / 65536)] } }
       let t := performing r 7000
       (t.cluster 1).exp.run = some r ∧ t.rowMay r (t.clusterAc 1) = true ∧ t.badRow r 2 [(tcm8.toNat, 20)] = none ∧ r.op.major = 0x28 ∧
         (t.onCluster 1 fun c => { c with exp := { c.exp with run := some { r with reads := [], writes := [[(tcm8.toNat, [1, 2])]] } } }).rowMay
           { r with reads := [], writes := [[(tcm8.toNat, [1, 2])]] } (t.clusterAc 1) = true) := by decide +kernel

/-- CourseCounts: descriptors with counts 0, 1, 2 and the greatest, and one of count 1 whose keys a lock covers. -/
theorem witness_courses :
    ([0, 1, 2, 2 ^ 32 - 1].all fun n =>
      let s := coursed n 0 [0, tcm48 + 64, 9]
      let u := s.onMe (State.slotBegun 4)
      Memory.wf s.mem && clear s [1, 2] [3] [] &&
        holds (u.readCourse .atomic .atomic (s.reg 1)) fun c =>
          c.1.ref == n && (place (c.2.1 + 16)).isSome && (place (c.2.1 + 8)).isSome &&
            holds (c.2.2.translateRange 48 u.me .load .atomic c.1.addr (64 * pairRow c.1.pairs c.1.fmt)) fun k =>
              k.1.places.head? == some (some (.tcm 48, .memory)) && (Home.tcm 48).table? == some (.cluster 6)) = true ∧
      overlaps (tcm48.toNat + 4096) (tcm48.toNat + 4096 + 511) (tcm48.toNat + 4096) (tcm48.toNat + 4097) = true := by decide +kernel

/-- A course of count 1 at tcm48 + 64 whose keys stand in the TCM of a core of another cluster, and the locks of cluster 6. -/
def distant (locks : Tab Lock) : State :=
  let s := coursed 1 0 [0, tcm48 + 64, 9]
  { s with
    mem := Memory.store s.mem (tcm48.toNat + 64) 16 (tcmBase 56 + 3 * 2 ^ 64 + 1 * 2 ^ 104)
    clusters := s.clusters.map fun c => (c.1, { c.2 with locks := locks }) }

/-- CourseReleases at issue: keys that another table covers, with the descriptor free and locked. -/
theorem witness_course_issue :
    let s := distant []
    let l : Lock := { first := tcm48.toNat + 64, last := tcm48.toNat + 95, full := true, eng := 5, owner := 48, op := 0, since := 0 }
    ([s, distant [(0, { l with eng := 1, owner := 49 })]].all fun s =>
      let u := s.onMe (State.slotBegun 4)
      clear s [1] [3] [] && holds (u.readCourse .atomic .atomic (s.reg 1)) fun c =>
        c.1.ref == 1 && c.2.1 == tcm48.toNat + 64 && holds (c.2.2.translateRange 48 u.me .load .atomic c.1.addr (64 * pairRow c.1.pairs c.1.fmt)) fun k =>
          k.1.places.head? == some (some (.tcm 56, .memory)) && !k.2.vectorDefers (some (.cluster 6)) l &&
            match k.2.addLock (some (.cluster 6)) l with
            | .added _ => (s.cluster 6).locks == []
            | .conflict => (s.cluster 6).locks != []
            | .full => false) = true ∧
      place (tcm48.toNat + 64) = some (.tcm 48, .memory) ∧ (Home.tcm 48).table? = some (.cluster 6) ∧ (Home.tcm 56).table? = some (.cluster 7) ∧
      freeIndex s.myCore.tags 512 = some 0 ∧ s.tagsOf 48 0 s.me.gen < 32 := by decide +kernel

/-- A REPLY with a status and a word to the check of a course at tcm48 + 64, whose lock stands. -/
def answeredCourse (status : Nat) (w : Word) : State :=
  let s := distant [(0, { first := tcm48.toNat + 64, last := tcm48.toNat + 95, full := true, eng := 5, owner := 48, op := 0, since := 0 })]
  let t := s.onCore 48 fun c =>
    { c with
      slots := c.slots.map fun e => (e.1, { e.2 with mark := (Vector.replicate 8 none).set 3 (some .load) })
      tags := [(0, { slot := 0, gen := 0, use := .course 3 (tcm48.toNat + 64), scope := .cluster, pc := 0, place := 0, issuer := 48 })] }
  inFlight t (.home (.tcm 56)) (.core 48) (.msg (said 5 (BitVec.ofNat 64 (status * 2 ^ 9)) [w]) false)

/-- CourseReleases at the REPLY: 1, 2, and a refusal. -/
theorem witness_course_reply :
    ([(0, (1 : Word)), (0, 2), (3, 0)].all fun x =>
      let s := answeredCourse x.1 x.2
      (s.front 0).isSome && (said 5 0 []).kind == 5 && !(s.core 48).fenced && s.portRuns 48 && s.holder 48 == 48 && !s.savedNow 48 &&
        ((Tab.look (s.core 48).tags 0).map Tag.use) == some (.course 3 (tcm48.toNat + 64)) && s.writesWell (.tcm 48) && Memory.wf s.mem &&
        (s.slot 48 0).live && (s.slot 48 0).mark[(3 : Fin 8)] == some .load) = true ∧ (statusCode 3).isSome = true := by decide +kernel

/-- CourseChecks: a check at the TCM of core 9. -/
theorem witness_checks_remote :
    let s := inFlight (core8 []) (.core 8) (.home (.tcm 9)) (.check 8 3 tcm9.toNat (tcm9.toNat + 511))
    (s.front 0).isSome = true ∧ (Home.tcm 9).table? = some (.cluster 1) ∧ s.homeRefuses 8 (s.entryTask 8 == 0 || isService 8) (.tcm 9) tcm9.toNat = false ∧
      s.homeRuns (.tcm 9) = true ∧ s.rankOf 8 < 65536 ∧ (Home.tcm 9).number < 65536 := by decide +kernel

/-! ### Meeting the hypotheses: the gather unit and tokens -/

/-- The parcels of a kernel: ADD g1, g2, g3 and EXIT. -/
def kernel : List Parcel := [0x8053, 0, 0x7000] ++ List.replicate 61 0

/-- A unit armed on two lines, with a run at a PC where there is one. -/
def armed (pc : Option Nat) (waits : List Nat) (seen : BitVec 64) : Gather :=
  { Gather.initial with
    mode := .armed, store := kernel, slot := 0, reg := 1, watch := tcm8, lines := 2, buf := tcm8 + 4096, bytes := 256, waits := waits, seen := seen
    ctx := match pc with
      | some p => { Slot.free with live := true, pc := BitVec.ofNat 56 p }
      | none => Slot.free }

/-- Core 8 with a gather unit, and X0; g1 pending on the unit. -/
def gathering (g : Gather) (x : XWord) : State :=
  let s := wafer 8 { fibre [tcm8 + 4096, 0, 0] with mark := (Vector.replicate 8 none).set 1 (some .gather) } fun c => { c with gk := g, x := c.x.set 0 x }
  { s with now := 43200, spot := { place := 8, item := 0, v0 := 0, v1 := 0, v2 := 0, v3 := 0 } }

/-- GatherForms: a kernel at tcm8 + 4096 that is legal and one that is not, an idle unit that holds a kernel, and armed units with and without a run. -/
theorem witness_gather_forms :
    let x : XWord := BitVec.ofNat 128 (tcm8.toNat + 1 * 2 ^ 56 + (tcm8.toNat + 8192) * 2 ^ 64 + 1 * 2 ^ 120)
    let s := { gathering { Gather.initial with store := kernel } x with mem := Memory.store [] (tcm8.toNat + 4096) 8 0x700000008053 }
    let u := s.onMe (State.slotBegun 4)
    clear s [0] [2] [0] = true ∧ s.myCore.gk.mode = .idle ∧ x.extractLsb' 62 2 = 0#2 ∧ (x.extractLsb' 120 8).toNat = 1 ∧
      holds (u.checkLocal .load .engine (s.reg 0) 128 8) (fun p => holds (p.2.2.localRead .engine p.1 p.2.1 (s.reg 0) 128) fun v =>
        (kernelOf 0 32 ((List.range 64).map fun i => BitVec.ofNat 16 (v / 2 ^ (16 * i)))).any kernelLegal) = true ∧
      (kernelOf 0 32 ([0xAC02, 0, 0x7000] : List Parcel)).any (fun l => !kernelLegal l) = true ∧
      holds (ownTcm u .load tcm8 128 64) (fun p => holds (ownTcm p.2 .store (tcm8 + 8192) 256 8) fun _ => true) = true ∧
      overlaps tcm8.toNat (tcm8.toNat + 127) (tcm8.toNat + 8192) (tcm8.toNat + 8447) = false ∧
      (gathering (armed none [] 0) 0).myCore.gk.mode = .armed ∧ (gathering (armed none [] 0) 0).myCore.gk.ctx.live = false ∧
      (gathering (armed (some 0) [] 0) 0).myCore.gk.ctx.live = true ∧ s.myCore.fenced = false ∧ s.holder 8 = 8 ∧ s.savedNow 8 = false := by decide +kernel

/-- GatherRuns: a line that waits, a run at its ADD, and a run at its EXIT, of 16 and of 32 bits, with lines to come and without. -/
theorem witness_gather_runs :
    let s := gathering (armed none [1] 2) 0
    let t := gathering (armed (some 0) [] 2) 0
    let e := gathering (armed (some 4) [] 2) 0
    let l := gathering (armed (some 4) [] 3) 0
    s.gatherRuns 8 = true ∧ (s.core 8).gk.waits = [1] ∧ (t.core 8).gk.ctx.hold = none ∧ (t.core 8).gk.ctx.readyAt ≤ t.coreAc 8 ∧
      State.kernelInstr (t.core 8).gk = some (.add 1 2 3) ∧ (t.core 8).gk.ctx.frozen = false ∧ (t.core 8).gk.ctx.unc = false ∧
      (t.core 8).gk.ctx.mark[(1 : Fin 8)] = none ∧ State.kernelInstr (e.core 8).gk = some .exitS ∧ (∃ i < 2, (e.core 8).gk.seen.getLsbD i = false) ∧
      (∀ i < 2, (l.core 8).gk.seen.getLsbD i = true) ∧ (l.slot 8 0).mark[(1 : Fin 8)] = some .gather ∧
      (t.tooLate 8 = false ∧ e.tooLate 8 = false ∧ l.tooLate 8 = false) ∧ (l.core 8).gk.waits = [] ∧ (l.core 8).fenced = false ∧ l.holder 8 = 8 ∧ l.savedNow 8 = false ∧
      (let long := gathering { armed (some 0) [] 2 with store := [0xB000, 0x0600] ++ List.replicate 62 0 } 0
       State.kernelInstr (long.core 8).gk = some .exit ∧ (long.core 8).gk.mode = .armed) := by decide +kernel

/-- Core 8 with its cluster's tokens, and g1 to g4 for words of every kind. -/
def tokened (f : Tokens → Tokens) : State :=
  let s := core8 [0, 3, 0x103, 0x100000003, 9]
  { s with clusters := s.clusters.map fun c => (c.1, { c.2 with tokens := f c.2.tokens }) }

/-- TokenRequests: legal words and illegal ones, a free tag, and levels at and above the grant, paced and not. -/
theorem witness_token_words :
    let s := tokened fun x => { x with gl := 8, next := 8, level := 8, held := tokenCost 1 * 8 }
    clear s [1, 2, 3, 4] [0] [] = true ∧ engineHere 8 .matrix = true ∧ freeIndex s.myCore.tags 512 = some 0 ∧ fld (s.reg 2) 0 4 = 3 ∧ flag (s.reg 2) 8 = true ∧
      fld (s.reg 2) 9 55 = 0 ∧ fld (s.reg 3) 4 28 = 0 ∧ fld (s.reg 3) 32 32 = 1 ∧ 8 < fld (s.reg 4) 0 4 ∧ s.paced 1 = false ∧ (s.tokens 1).waiting = none ∧
      (s.tokens 1).reclaim = none ∧ ((tokened fun x => { x with gl := 3 }).tokens 1).gl ≤ 3 ∧
      s.noticeOver 1 = false ∧ s.mayLend 1 3 = true ∧ (tokened fun x => { x with gl := 3 }).mayLend 1 3 = false ∧ (s.tokens 1).borrow = 0 ∧
      tokenCost 1 * 3 < (s.tokens 1).held ∧
      (let o : State := { tokened fun x => { x with gl := 8, next := 8, notice := true, tgt := 3, landed := some 0 } with now := 1400 * 200 }
       o.noticeOver 1 = true ∧ ({ o with now := 1400 * 200 - 1 } : State).noticeOver 1 = false ∧
        ({ o with clusters := o.clusters.map fun c => (c.1, { c.2 with mat := { c.2.mat with core := some 0 } }) } : State).paced 1 = true) := by decide +kernel

/-- A token word at its broker. -/
def brokered (ask level other : Nat) (f : Tokens → Tokens) : State :=
  let s := inFlight (tokened f) (.core 8) (.zone 0 (zoneOf 1)) (.token 8 ask level other (said 11 0 [0]))
  { s with clusters := s.clusters.map fun c => (c.1, { c.2 with mat := { c.2.mat with core := if other = 5 then some 0 else none } }) }

/-- BrokerAnswers: a request below the grant, one above it that the zone covers, a return, and lends that keep more and less than the grant. -/
theorem witness_broker :
    let quiet (s : State) : Bool := (zoneClusters 0 (zoneOf 1)).all fun c => (s.tokens c).waiting == none && (s.tokens c).reclaim == none
    let b := brokered 0 3 1 id
    1 ∈ zoneClusters 0 (zoneOf 1) ∧ (b.front 0).isSome = true ∧ ((brokered 0 0 1 id).tokens 1).gl = 0 ∧ (b.tokens 1).lending = false ∧ quiet b = true ∧ (b.tokens 1).tgt = 15 ∧
      (b.tokens 1).lendAsk = none ∧ tokenCost 1 * 3 ≤ b.grantable 0 (zoneOf 1) ∧
      (let r := brokered 1 2 0 fun x => { x with gl := 3, next := 2, held := tokenCost 1 * 2 }
       (r.front 0).isSome = true ∧ quiet r = true ∧ (r.tokens 1).held ≤ tokenCost 1 * (r.tokens 1).next) ∧
      (let l := brokered 2 2 5 fun x => { x with gl := 3, next := 3, held := tokenCost 1 * 3 }
       (l.front 0).isSome = true ∧ l.paced 1 = true ∧ (l.tokens 1).lendAsk = none) ∧
      (let l := brokered 2 2 5 fun x => { x with gl := 3, next := 2, held := tokenCost 1 * 3, lendAsk := some (2, 5) }
       (l.front 0).isSome = true ∧ l.paced 1 = true ∧ (l.tokens 1).lendAsk ≠ none) ∧
      ((brokered 3 3 5 fun x => { x with gl := 3 }).front 0).isSome = true ∧ b.darkRouter 1 = false ∧ b.clusterRuns 63 = true := by decide +kernel

/-- LendsAndNotices: a lend that has ended, one that has not, a notice in flight with tknote enabled, and one that landed 200 rc ago and less. -/
theorem witness_lends :
    let k := tokenCost 1
    let z (s : State) : State :=
      { s with regions := s.regions.map fun r => (r.1, { r.2 with zones := r.2.zones.map fun y => { y with loaned := k * 2 } }), spot := { place := 1, item := 0, v0 := 2, v1 := 0, v2 := 0, v3 := 0 } }
    let s : State := z (tokened fun x => { x with gl := 3, keep := 1, next := 1, held := k, lent := k * 2, lending := true, lendEnd := some 0 })
    let n : State := inFlight (ranked (tokened fun x => { x with tgt := 1, next := 3, gl := 3 })) (.zone 0 (zoneOf 1)) (.cluster 1) (.notice 1)
    let m : State := { n with clusters := n.clusters.map fun c => (c.1, { c.2 with tknote := 0x80000005 }) }
    let p : State := z (tokened fun x => { x with gl := 3, next := 3, notice := true, tgt := 1, landed := some 0 })
    (s.tokens 1).lending = true ∧ 0 ≤ s.now ∧ (s.tokens 1).lent = k * ((s.tokens 1).gl - (s.tokens 1).keep) ∧ s.regionHeld 0 + k * 2 ≤ s.tokenCap 0 ∧ k * 2 ≤ (s.zone 0 (zoneOf 1)).loaned ∧ k * 2 ≤ (s.zone 0 (zoneOf 1)).free ∧ (m.front 0).isSome = true ∧
      (m.tokens 1).tgt = 1 ∧ (m.tokens 1).landed = none ∧ flag (m.cluster 1).tknote 31 = true ∧ (m.rankPort 8 5).isSome = true ∧ p.now < 1400 * 200 ∧ p.noticeOver 1 = false ∧ (m.tokens 1).stale = 0 ∧
      ({ p with now := 1400 * 200 } : State).noticeOver 1 = true ∧ (p.tokens 1).next = 3 ∧ p.spot.v0.toNat % 16 < (p.tokens 1).gl ∧
      s.clusterRuns 63 = true ∧ p.returnsNow 1 = false ∧ (s.tokens 1).keep ≤ (s.tokens 1).gl ∧
      (p.withFetchWord 32 (52424 + 512 * 2 ^ 16)).returnsNow 1 = true := by decide +kernel

/-- BudgetsMove: an ask of zone 1, budgets below what a zone holds, above the cap and in between, and caps out of range, too low and in range. -/
theorem witness_budgets :
    let s (v : Word) : State := regionIn .assigned 1 1 v fun r => { r with asks := [(1, 4)] }
    let held := { s 0 with clusters := [(65, { Cluster.initial 1 with tokens := { Tokens.initial with held := 9 } })] }
    let total (b : Nat) : Nat := ((List.range 4).map fun y => ((s 0).zone 1 y).budget).sum - ((s 0).zone 1 1).budget + b
    let still : State := (s 0).setCtl (controlBase 1 + 0x780) (500 * 2 ^ 48 + 1120 * 2 ^ 32)
    ((s 0).region 1).asks = [(1, 4)] ∧ flag ((s 0).rbctl 1) 11 = true ∧ flag (still.rbctl 1) 11 = false ∧ (∀ q < 4, ((s 0).zone 1 q).free ≤ ((s 0).zone 1 q).budget ∧ ((s 0).zone 1 q).floor ≤ ((s 0).zone 1 q).budget) ∧
      (s 0).zoneHeld 1 1 ≤ 280 ∧ total 280 ≤ ((s 0).rbctl 1).toNat / 2 ^ 32 % 2 ^ 11 ∧ ((s 0).rbctl 1).toNat / 2 ^ 32 % 2 ^ 11 < total 281 ∧
      0 < held.zoneHeld 1 (zoneOf 65) ∧ (s 0).clusterRuns 127 = true ∧ 0 < held.regionHeld 1 ∧ (s 0).regionHeld 1 = 0 := by decide +kernel

/-! ### Meeting the hypotheses: the whole machine -/

/-- Core 8 about to issue, with two parcels at its fibre's PC. -/
def placed (p q : Parcel) : State :=
  let s := core8 [0, 0, 2, 3]
  { s with plan := [.issue 8], clusters := s.clusters.map fun c => (c.1, { c.2 with icache := [(0x2000000, p), (0x2000002, q)] }) }

/-- StepRunsDecoded, EncodedDecodes and DecodedEncodes: a 2-byte and a 4-byte instruction, parcels that decode to nothing, a core that may not issue, and one
with no fibre to pick. -/
theorem witness_step :
    (placed 0x8053 0).mayIssue 8 = true ∧ ((placed 0x8053 0).pick 8).isSome = true ∧ State.reset.mayIssue 8 = false ∧
      ((placed 0 0).onCore 8 fun c => { c with slots := [] }).pick 8 = none ∧
      holds ((placed 0x8053 0).translate 8 ((placed 0x8053 0).slot 8 0) .fetch .fetch ((placed 0x8053 0).slot 8 0).pcWord) (fun x => x.1 == 0x2000000) = true ∧
      (match decodeParcels [0x8053, 0], decodeParcels [0x7000], decodeParcels [0xFE00, 0] with
        | .ok (a, []), .ok (b, []), .error _ => a == .add 1 2 3 && b == .exitS
        | _, _, _ => false) = true ∧
      (let f := (placed 0x8053 0).onSlot 8 0 fun x => { x with far := true }
       f.mayIssue 8 = true ∧ (f.pick 8).isSome = true ∧ (f.slot 8 0).far = true) ∧
      (let p := (placed 0x8053 0).onCore 8 fun c => { c with slots := [(0, fibre []), (1, { fibre [] with pc := 0x2000000, mark := (Vector.replicate 8 none).set 2 (some .load) })] }
       p.readySlots 8 = [0, 1] ∧ ((p.park 8).slot 8 1).hold.isSome = true ∧ ((p.park 8).slot 8 0).hold = none) ∧
      (Instr.add 1 2 3).wellFormed = true ∧ (Instr.add 1 2 3).length = 4 ∧ encode (.add 1 2 3) = [0x8053, 0] := by decide +kernel

/-- StepKeepsMemory: a state with a byte listed that takes a step. -/
theorem witness_keeps :
    let s := { placed 0x8053 0 with mem := Memory.store [] 0x3000000 8 5 }
    Memory.wf s.mem = true ∧ after (step s) (fun t => (t.slot 8 0).g[(1 : Fin 8)] == 5 && Memory.wf t.mem) = true := by decide +kernel

/-! ### Words written out from the encodings -/

/-- Each word decodes to its instruction, and the instruction is well-formed. In them rd is 1, rs1 or base 2, rs2 3, xn 7, xm 9, a queue 5, a counter or a control
register 3, an immediate or offset 5 (or 0x10005 in 22 bits), a mode 00. -/
def allDecode (l : List (Nat × Nat × Instr)) : Bool := l.all fun e => decodeTableWord e.1 e.2.1 == some e.2.2 && e.2.2.wellFormed

theorem test_words_integer : allDecode
    ([(32, 0x00008053, .add 1 2 3), (32, 0x01008053, .sub 1 2 3), (32, 0x02008053, .and 1 2 3), (32, 0x03008053, .or 1 2 3), (32, 0x04008053, .xor 1 2 3), (32, 0x05008053, .andn 1 2 3), (32, 0x06008053, .orn 1 2 3), (32, 0x07008053, .xnor 1 2 3), (32, 0x08008053, .mul 1 2 3), (32, 0x09008053, .mulh 1 2 3), (32, 0x0A008053, .mulhu 1 2 3), (32, 0x0B008053, .div 1 2 3)] ++
      [(32, 0x0C008053, .divu 1 2 3), (32, 0x0D008053, .rem 1 2 3), (32, 0x0E008053, .remu 1 2 3), (32, 0x0F008053, .min 1 2 3), (32, 0x10008053, .max 1 2 3), (32, 0x11008053, .minu 1 2 3), (32, 0x12008053, .maxu 1 2 3), (32, 0x13008050, .mov 1 2), (32, 0x00008253, .sll 1 2 3), (32, 0x01008253, .srl 1 2 3), (32, 0x02008253, .sra 1 2 3), (32, 0x03008253, .rol 1 2 3)] ++
      [(32, 0x04008253, .ror 1 2 3), (32, 0x10008253, .seq 1 2 3), (32, 0x11008253, .sne 1 2 3), (32, 0x12008253, .slt 1 2 3), (32, 0x13008253, .sltu 1 2 3), (32, 0x14008253, .sle 1 2 3), (32, 0x15008253, .sleu 1 2 3), (32, 0x18008253, .sel 1 2 3), (32, 0x20008250, .clz 1 2), (32, 0x21008250, .ctz 1 2), (32, 0x22008250, .popc 1 2), (32, 0x23008250, .bswap 1 2)] ++
      [(32, 0x28018253, .lea 1 2 3 1), (32, 0x00058450, .addi 1 2 5), (32, 0x00058451, .andi 1 2 5), (32, 0x00058452, .ori 1 2 5), (32, 0x00058453, .xori 1 2 5), (32, 0x00058454, .slti 1 2 5), (32, 0x00058455, .sltiu 1 2 5), (32, 0x00058456, .muli 1 2 5), (32, 0x00058650, .slli 1 2 5), (32, 0x00058651, .srli 1 2 5), (32, 0x00058652, .srai 1 2 5), (32, 0x00058653, .seqi 1 2 5)] ++
      [(32, 0x00058654, .snei 1 2 5), (32, 0x00058841, .li 1 65541), (32, 0x00058A41, .lis 1 65541), (32, 0x00058C41, .addpc 1 65541), (32, 0x00058E41, .jal 1 65541)]) = true := by
  decide +kernel

theorem test_words_control : allDecode
    ([(32, 0x00059001, .j 65541), (32, 0x00059213, .beq 2 3 5), (32, 0x00059253, .bne 2 3 5), (32, 0x00059293, .blt 2 3 5), (32, 0x000592D3, .bge 2 3 5), (32, 0x00059313, .bltu 2 3 5), (32, 0x00059353, .bgeu 2 3 5), (32, 0x00059440, .loop 1 5), (32, 0x00059451, .jalr 1 2 5), (32, 0x00059412, .jr 2 5)]) = true := by
  decide +kernel

theorem test_words_float : allDecode
    ([(32, 0x00039853, .fadd 1 2 3 .rup), (32, 0x01039853, .fsub 1 2 3 .rup), (32, 0x02039853, .fmul 1 2 3 .rup), (32, 0x03039853, .fdiv 1 2 3 .rup), (32, 0x04039850, .fsqrt 1 2 .rup), (32, 0x05039853, .fma 1 2 3 .rup), (32, 0x06009853, .fmin 1 2 3), (32, 0x07009853, .fmax 1 2 3), (32, 0x08009850, .fabs 1 2), (32, 0x09009850, .fneg 1 2), (32, 0x0A009853, .feq 1 2 3), (32, 0x0B009853, .flt 1 2 3)] ++
      [(32, 0x0C009853, .fle 1 2 3), (32, 0x0D009850, .fclass 1 2), (32, 0x10039850, .ftoi 1 2 .rup), (32, 0x11039850, .ftou 1 2 .rup), (32, 0x12039850, .itof 1 2 .rup), (32, 0x13039850, .utof 1 2 .rup), (32, 0x14039850, .ftob 1 2 .rup), (32, 0x15009850, .btof 1 2), (32, 0x16039850, .ftoh 1 2 .rup), (32, 0x17009850, .htof 1 2)]) = true := by
  decide +kernel

theorem test_words_memory : allDecode
    ([(32, 0x0005A050, .ldB 1 2 (.disp 5)), (32, 0x1005A050, .ldH 1 2 (.disp 5)), (32, 0x2005A050, .ldW 1 2 (.disp 5)), (32, 0x3005A050, .ldD 1 2 (.disp 5)), (32, 0x0805A050, .ldBu 1 2 (.disp 5)), (32, 0x1805A050, .ldHu 1 2 (.disp 5)), (32, 0x2805A050, .ldWu 1 2 (.disp 5)), (32, 0x0005A250, .stB 1 2 (.disp 5)), (32, 0x1005A250, .stH 1 2 (.disp 5)), (32, 0x2005A250, .stW 1 2 (.disp 5)), (32, 0x3005A250, .stD 1 2 (.disp 5))]) = true := by
  decide +kernel

theorem test_words_atomic : allDecode
    ([(32, 0x2005A453, .aaddW 1 2 3 (.disp 5)), (32, 0x3005A453, .aaddD 1 2 3 (.disp 5)), (32, 0x2805A453, .aswapW 1 2 3 (.disp 5)), (32, 0x3805A453, .aswapD 1 2 3 (.disp 5)), (32, 0x2005A653, .aminW 1 2 3 (.disp 5)), (32, 0x3005A653, .aminD 1 2 3 (.disp 5)), (32, 0x2805A653, .amaxW 1 2 3 (.disp 5)), (32, 0x3805A653, .amaxD 1 2 3 (.disp 5)), (32, 0x2005A853, .aandW 1 2 3 (.disp 5)), (32, 0x3005A853, .aandD 1 2 3 (.disp 5)), (32, 0x2805A853, .aorW 1 2 3 (.disp 5)), (32, 0x3805A853, .aorD 1 2 3 (.disp 5))] ++
      [(32, 0x2005AA53, .axorW 1 2 3 (.disp 5)), (32, 0x3005AA53, .axorD 1 2 3 (.disp 5)), (32, 0x2805AA53, .acasW 1 2 3 (.disp 5)), (32, 0x3805AA53, .acasD 1 2 3 (.disp 5))]) = true := by
  decide +kernel

theorem test_words_order : allDecode
    ([(32, 0x0000AC01, .fence .quad), (32, 0x0000B013, .send 2 3), (32, 0x0100B013, .sendc 2 3), (32, 0x0200B013, .dep 2 3), (32, 0x0300B050, .bind 1 2), (32, 0x0400B013, .cntset 2 3), (32, 0x0500B053, .spawn 1 2 3), (32, 0x0600B000, .exit), (32, 0x0700B000, .yield), (32, 0x0800B010, .mig 2), (32, 0x1000B150, .qput 5 2), (32, 0x1100B068, .qget 1 5)] ++
      [(32, 0x1200B153, .qputNb 5 2 3), (32, 0x1300B06B, .qgetNb 1 5 3), (32, 0x1400B068, .qlen 1 5), (32, 0x0003B240, .barArv 1 0 .region), (32, 0x0003B241, .barWt 1 0 .region), (32, 0x0003B202, .barExc .region), (32, 0x0003B203, .barRjn .region)]) = true := by
  decide +kernel

theorem test_words_hod : allDecode
    ([(32, 0x7000B453, .hodPush 7 1 2 3), (32, 0x7901B450, .hodTile 7 9 1 2), (32, 0x7302B453, .hodMc 7 3 1 2 3), (32, 0x0003B410, .hodFree 2), (32, 0x0304B450, .hodWt 3 1 2), (32, 0x0305B440, .hodCnt 3 1)]) = true := by
  decide +kernel

theorem test_words_vector : allDecode
    ([(32, 0x7000C053, .vadd 7 1 2 3), (32, 0x7001C053, .vsub 7 1 2 3), (32, 0x7002C053, .vmul 7 1 2 3), (32, 0x7003C053, .vfma 7 1 2 3), (32, 0x7004C053, .vmin 7 1 2 3), (32, 0x7005C053, .vmax 7 1 2 3), (32, 0x7006C050, .vabs 7 1 2), (32, 0x7007C050, .vneg 7 1 2), (32, 0x7008C050, .vexp2 7 1 2), (32, 0x7009C050, .vrcp 7 1 2), (32, 0x7000C253, .viadd 7 1 2 3), (32, 0x7001C253, .visub 7 1 2 3)] ++
      [(32, 0x7002C253, .vimul 7 1 2 3), (32, 0x7003C253, .vand 7 1 2 3), (32, 0x7004C253, .vor 7 1 2 3), (32, 0x7005C253, .vxor 7 1 2 3), (32, 0x7006C253, .vshl 7 1 2 3), (32, 0x7007C253, .vshr 7 1 2 3), (32, 0x7010C253, .vceq 7 1 2 3), (32, 0x7011C253, .vclt 7 1 2 3), (32, 0x7012C253, .vcle 7 1 2 3), (32, 0x7013C253, .vsel 7 1 2 3), (32, 0x7020C250, .vrsum 7 1 2), (32, 0x7021C250, .vrmax 7 1 2)] ++
      [(32, 0x7022C250, .vrmin 7 1 2), (32, 0x7030C250, .vnzs 7 1 2), (32, 0x7000C450, .vcvtBf 7 1 2), (32, 0x7001C450, .vcvtH 7 1 2), (32, 0x7002C450, .vcvtE4 7 1 2), (32, 0x7003C450, .vcvtE5 7 1 2), (32, 0x7004C450, .vcvtSr4 7 1 2), (32, 0x7005C450, .vcvtSr5 7 1 2), (32, 0x7006C450, .vcvtF 7 1 2), (32, 0x7008C450, .vexpI4 7 1 2), (32, 0x7009C450, .vexpP23 7 1 2), (32, 0x700AC450, .vexpP32 7 1 2)]) = true := by
  decide +kernel

theorem test_words_matrix : allDecode
    ([(32, 0x7900C853, .mmaE4e4 7 9 1 2 3), (32, 0x7901C853, .mmaE4e5 7 9 1 2 3), (32, 0x7902C853, .mmaE5e4 7 9 1 2 3), (32, 0x7903C853, .mmaE5e5 7 9 1 2 3), (32, 0x7904C853, .mmaM8m8 7 9 1 2 3), (32, 0x7905C853, .mmaF4f4 7 9 1 2 3), (32, 0x7906C853, .mmaF4e4 7 9 1 2 3), (32, 0x7908C853, .mmaB16 7 9 1 2 3), (32, 0x7909C853, .mmaH16 7 9 1 2 3), (32, 0x790AC853, .mmaI8 7 9 1 2 3), (32, 0x0010C850, .mmz 1 2), (32, 0x7011C850, .mst 7 1 2)] ++
      [(32, 0x7012C850, .mldc 7 1 2), (32, 0x7013C853, .mring 7 1 2 3), (32, 0x7914C853, .gmm 7 9 1 2 3), (32, 0x0015C850, .mwait 1 2), (32, 0x0016C840, .mqry 1), (32, 0x7017C853, .mbpass 7 1 2 3)]) = true := by
  decide +kernel

theorem test_words_token : allDecode
    ([(32, 0x0000CC50, .tkreq 1 2), (32, 0x0100CC50, .tklend 1 2), (32, 0x0200CC50, .tkret 1 2), (32, 0x0300CC40, .tkq 1), (32, 0x0400CC50, .ecls 1 2)]) = true := by
  decide +kernel

theorem test_words_attention : allDecode
    ([(32, 0x7000D053, .kldRot 7 1 2 3), (32, 0x7001D053, .qrot 7 1 2 3), (32, 0x7002D053, .smx 7 1 2 3), (32, 0x0010D050, .cacq 1 2), (32, 0x0011D050, .crel 1 2), (32, 0x0012D053, .cpos 1 2 3)]) = true := by
  decide +kernel

theorem test_words_gather : allDecode
    ([(32, 0x0000D410, .gkSet 2), (32, 0x7001D450, .gkArm 7 1 2), (32, 0x0002D440, .gkStop 1)]) = true := by
  decide +kernel

theorem test_words_descriptor : allDecode
    ([(32, 0x7005E010, .xld 7 2 (.disp 5)), (32, 0x7000E213, .xset 7 2 3), (32, 0x7901E200, .xmov 7 9), (32, 0x7102E240, .xmovDRead 1 7 1), (32, 0x7103E210, .xmovDWrite 7 2 1), (32, 0x7204E210, .xmovW 7 2 2)]) = true := by
  decide +kernel

theorem test_words_system : allDecode
    ([(32, 0x0030F840, .crr 1 3), (32, 0x0031F810, .crw 3 2), (32, 0x0032F810, .crset 3 2), (32, 0x0033F810, .crclr 3 2), (32, 0x0000FA10, .trap 2), (32, 0x0100FA00, .tret), (32, 0x0200FA53, .tlbW 1 2 3), (32, 0x0300FA10, .tlbInv 2), (32, 0x0400FA10, .tlbInva 2), (32, 0x0500FA53, .ctxSave 1 2 3), (32, 0x0600FA53, .ctxLoad 1 2 3), (32, 0x0700FA53, .fres 1 2 3)] ++
      [(32, 0x0800FA50, .fkill 1 2), (32, 0x0900FA50, .wipe 1 2), (32, 0x0A00FA50, .icflush 1 2), (32, 0x0001FC02, .nop 514)]) = true := by
  decide +kernel

theorem test_words_compact : allDecode
    ([(16, 0x0145, .addiS 1 2 5), (16, 0x0905, .liS 1 5), (16, 0x1141, .aluS 1 2 .sub), (16, 0x1941, .accS 1 2 .sub), (16, 0x2145, .ldS 1 2 5), (16, 0x2945, .stS 1 2 5), (16, 0x3143, .ldpS 1 2 0 3), (16, 0x3943, .stpS 1 2 3), (16, 0x4145, .beqS 1 2 5), (16, 0x4945, .bneS 1 2 5), (16, 0x5005, .jS 5), (16, 0x5945, .slliS 1 2 5)] ++
      [(16, 0x6145, .srliS 1 2 5), (16, 0x6945, .sraiS 1 2 5), (16, 0x7000, .exitS), (16, 0x7001, .yieldS), (16, 0x7042, .jrS 2), (16, 0x7801, .nopS 1)]) = true := by
  decide +kernel

/-! ### Terms that are no instruction -/

/-- R27: the parcel 0 is no instruction, so no ADDI.S stands for it. -/
theorem test_ill_addi_s : (Instr.addiS 0 0 0).wellFormed = false ∧ (Instr.addiS 0 0 1).wellFormed = true := by decide

/-- R41: ACC.S MOV has no rs. -/
theorem test_ill_acc_s : (Instr.accS 1 2 .mov).wellFormed = false ∧ (Instr.accS 1 0 .mov).wellFormed = true := by decide

/-- R128: rs1 of BAR.ARV and BAR.WT is reserved at levels 1 to 4. -/
theorem test_ill_barrier : (Instr.barArv 1 2 .region).wellFormed = false ∧ (Instr.barWt 1 2 .wafer).wellFormed = false ∧ (Instr.barArv 1 2 .core).wellFormed = true ∧
    (Instr.barWt 1 0 .region).wellFormed = true ∧ (decodeTableWord 32 0x0003B250).isNone = true := by decide

/-- R38, R42: an 8-byte load has no zero-extending form. -/
theorem test_ill_ldp_s : (Instr.ldpS 1 2 1 3).wellFormed = false ∧ (Instr.ldpS 1 2 1 2).wellFormed = true := by decide

/-- Worked decodes of 02_opcode_map.md that are ILLEGAL: ACAS in mode 01, a reserved major, a mod8 that is not 0, the parcel after the hint block. -/
theorem test_illegal_words :
    [(32, 0x7800AACA), (32, 0x0000B600), (32, 0x0501FA00), (16, 0x7901), (16, 0)].all (fun e => decodeTableWord e.1 e.2 == none) = true := by decide +kernel

/-- Worked encodings of 01_instruction_word.md and worked decodes of 02_opcode_map.md. -/
theorem test_worked_words : allDecode
    [(32, 0x4800E000, .xld 4 0 .postInc), (32, 0x5000E000, .xld 5 0 (.disp 0)), (32, 0x4102E240, .xmovDRead 1 4 1), (32, 0x6000E209, .xset 6 1 1), (32, 0x5004E208, .xmovW 5 1 0),
      (32, 0x1400E01E, .xld 1 3 (.index 6)), (32, 0x23FFE008, .xld 2 1 (.disp 0x3FF)), (32, 0x000080CA, .add 3 1 2), (16, 0x12A0, .aluS 2 5 .add), (32, 0x3802AACA, .acasD 3 1 2 (.disp 2)),
      (32, 0x0600B000, .exit), (16, 0x70E2, .jrS 7), (32, 0x3000C800, .mmaE4e4 3 0 0 0 0), (32, 0x0500FA00, .ctxSave 0 0 0), (16, 0x7801, .nopS 1), (32, 0x0000B370, .barArv 5 6 .core)] = true := by
  decide +kernel

/-! ### Single steps and values that the specification works out -/

/-- R49's table. -/
theorem test_division :
    [((-7 : Word), (2 : Word), (-3 : Word), (-1 : Word), (0x7FFFFFFFFFFFFFFC : Word), (1 : Word)), (7, 0, -1, 7, 0xFFFFFFFFFFFFFFFF, 7),
      (0x8000000000000000, -1, 0x8000000000000000, 0, 0, 0x8000000000000000)].all (fun e =>
        let s := core8 [0, e.1, e.2.1]
        let is (i : Instr) (v : Word) : Bool := after (exec i s) fun t => (t.slot 8 0).g[(3 : Fin 8)] == v
        is (.div 3 1 2) e.2.2.1 && is (.rem 3 1 2) e.2.2.2.1 && is (.divu 3 1 2) e.2.2.2.2.1 && is (.remu 3 1 2) e.2.2.2.2.2) = true := by decide +kernel

/-- R52's example: LI g1, #65537 and LIS g1, #-2097152. -/
theorem test_chunks :
    after (exec (.li 1 65537) (core8 [])) (fun t => (t.slot 8 0).g[(1 : Fin 8)] == 0x10001 &&
      after (exec (.lis 1 (-2097152)) (core8 [0, 0x10001])) fun u => (u.slot 8 0).g[(1 : Fin 8)] == 0x4000200000) = true := by decide +kernel

/-- R51: ANDI sign-extends, ORI does not. -/
theorem test_immediates :
    (after (exec (.andi 2 1 (-16)) (core8 [0, 0x123456789ABCDEFF])) fun t => (t.slot 8 0).g[(2 : Fin 8)] == 0x123456789ABCDEF0) = true ∧
      (after (exec (.ori 2 1 (-16)) (core8 [0, 0x1234000000000001])) fun t => (t.slot 8 0).g[(2 : Fin 8)] == 0x123400000000FFF1) = true := by decide +kernel

/-- R62: FNEG of a quiet NaN keeps its bits but the sign. -/
theorem test_fneg : (after (exec (.fneg 2 1) (core8 [0, 0x7FC00000])) fun t => ((t.slot 8 0).g[(2 : Fin 8)]).setWidth 32 == 0xFFC00000#32) = true := by decide +kernel

/-- R66's example: core 3 of cluster (2,4) of region 14, and service core 1 of region 14. -/
theorem test_coord : coord (512 * 14 + 8 * 16 + 3) = 0x0000000E00510243 ∧ coord (512 * 14 + 8 * 63 + 1) = 0x0000000E00510FF9 := by decide +kernel

/-- 09_memory_model.md's example: the TCM of core 3 of cluster 16 in region 14. -/
theorem test_tcm_base : tcmBase (512 * 14 + 8 * 16 + 3) = 0xE210C0000 ∧ place 0xE210C0000 = some (.tcm (512 * 14 + 8 * 16 + 3), .memory) := by decide +kernel

/-- R190's example: six-bit elements in 3 bytes. -/
theorem test_six_bits : packedElems 6 0x207C1 4 = [0x01, 0x1F, 0x20, 0x00] := by decide +kernel

/-- The worked draw of 11_number_formats.md. -/
theorem test_stochastic :
    vecStochastic .e4m3 false 0 1 0x85EBCA6A [0x3F880000, 0x3F8FC000] = [0x38, 0x39] ∧ nextSeed 0x85EBCA6A = 0x39743500 := by decide +kernel

/-- R205's example: VADD of 1,024 FP32 elements in the TCM on 64 lanes reads 48 rows, computes for 16 ac and writes 16 rows, 82 ac with the two around them. -/
theorem test_occupancy :
    let o : VecOp := { vectorHead (described 8 0x00000400 0 []) 0x20 0 0 0 1 2 with
        a := .memory [(0x300, 0x300)] tcm8 4096, b := .memory [(0x300, 0x300)] (tcm8 + 0x1000) 4096, pages := [(0x300, 0x300)], va := tcm8 + 0x2000, bytes := 4096 }
    (o.taken 8 64 0 false).reads.length = 48 ∧ (o.taken 8 64 0 false).gap = 16 ∧ (o.destRows 64).length = 16 ∧ (o.taken 8 64 0 false).next = 1 := by decide +kernel

/-- TRAP from user mode (R304): the PC and mode are saved and the fibre goes on in supervisor mode at the vector; TRET restores them. -/
theorem test_trap :
    after (exec (.trap 1) ((user [0, 5]).onCore 8 fun c => { c with tvec := 0x4000 })) (fun t =>
      let f := t.slot 8 0
      f.sup && f.pc == 0x4000 &&
        after (exec .tret { t with cur := { core := 8, slot := 0 } }) fun u => !(u.slot 8 0).sup && (u.slot 8 0).pc == 0x2000004) = true := by decide +kernel

/-- R71: a store to the core's TCM, and the load that follows it. -/
theorem test_store_load :
    after (exec (.stW 2 1 (.disp 1)) (core8 [0, tcm8, 0x89ABCDEF01234567])) (fun t =>
      Memory.value t.mem (tcm8.toNat + 4) 4 == 0x01234567 && Memory.value t.mem (tcm8.toNat + 8) 4 == 0) = true ∧
    after (exec (.ldW 3 1 (.disp 1)) { core8 [0, tcm8] with mem := Memory.store [] (tcm8.toNat + 4) 4 0x89ABCDEF }) (fun t =>
      (t.slot 8 0).g[(3 : Fin 8)] == 0xFFFFFFFF89ABCDEF) = true := by decide +kernel

/-- The worked step of 12_vector_matrix_token_instructions.md: the tie rounds to even, the small product is cut off. -/
theorem test_matrix_step :
    let one : FVal := .fin ⟨false, 1, 0⟩
    (accum false 0 [one, .fin ⟨false, 1, -24⟩, .fin ⟨false, 1, -49⟩]).1 = 0x3F800000 := by decide +kernel

end Sys2Proof.Tests
end

section
/-!
PROOF. Decoding and encoding agree, both ways (R14, R16 to R18, R27, R35 to R42).
-/

namespace Sys2Proof

/-! ### Fields and words -/

/-- The fields of a 32-bit word (R16), at the width that their appending gives. -/
theorem word_parts (hi : BitVec 16) (b : BitVec 1) (major : BitVec 6) (rd rs1 rs2 : BitVec 3) :
    let w : BitVec (16 + 1 + 6 + 3 + 3 + 3) := hi ++ b ++ major ++ rd ++ rs1 ++ rs2
    w.extractLsb' 16 16 = hi ∧ w.extractLsb' 15 1 = b ∧ w.extractLsb' 9 6 = major ∧ w.extractLsb' 6 3 = rd ∧
      w.extractLsb' 3 3 = rs1 ∧ w.extractLsb' 0 3 = rs2 := by
  simp (disch := decide) only [BitVec.extractLsb'_append_eq_of_le, BitVec.extractLsb'_append_eq_of_add_le, Nat.reduceSub,
    BitVec.extractLsb'_eq_self, and_self]

/-- The fields of a 16-bit parcel (R18), at the width that their appending gives. -/
theorem parcel_parts (b : BitVec 1) (op : BitVec 4) (rd rs : BitVec 3) (imm : BitVec 5) :
    let p : BitVec (1 + 4 + 3 + 3 + 5) := b ++ op ++ rd ++ rs ++ imm
    p.extractLsb' 15 1 = b ∧ p.extractLsb' 11 4 = op ∧ p.extractLsb' 8 3 = rd ∧ p.extractLsb' 5 3 = rs ∧
      p.extractLsb' 0 5 = imm := by
  simp (disch := decide) only [BitVec.extractLsb'_append_eq_of_le, BitVec.extractLsb'_append_eq_of_add_le, Nat.reduceSub,
    BitVec.extractLsb'_eq_self, and_self]

theorem extractLsb'_one_eq {w : Nat} (x : BitVec w) (n : Nat) : x.extractLsb' n 1 = BitVec.ofBool (x.getLsbD n) := by
  ext i hi
  simp [show i = 0 by omega]

@[simp] theorem Fields.ofWord_toWord (f : Fields) : Fields.ofWord f.toWord = f := by
  obtain ⟨hhi, -, hmajor, hrd, hrs1, hrs2⟩ := word_parts f.hi 1#1 f.major (.ofFin f.rd) (.ofFin f.rs1) (.ofFin f.rs2)
  exact congr (congr (congr (congr (congrArg Fields.mk hhi) hmajor) (congrArg BitVec.toFin hrd)) (congrArg BitVec.toFin hrs1))
    (congrArg BitVec.toFin hrs2)

theorem Fields.toWord_ofWord (w : BitVec 32) (h : w.getLsbD 15 = true) : (Fields.ofWord w).toWord = w := by
  have hb : (1#1 : BitVec 1) = w.extractLsb' 15 1 := by rw [extractLsb'_one_eq, h]; rfl
  simp only [Fields.ofWord, Fields.toWord, BitVec.ofFin_toFin, hb]
  simp (disch := decide) only [BitVec.extractLsb'_append_extractLsb'_eq_extractLsb']
  exact BitVec.extractLsb'_eq_self

@[simp] theorem CompactFields.ofParcel_toParcel (f : CompactFields) : CompactFields.ofParcel f.toParcel = f := by
  obtain ⟨-, hop, hrd, hrs, himm⟩ := parcel_parts 0#1 f.op (.ofFin f.rd) (.ofFin f.rs) f.imm
  exact congr (congr (congr (congrArg CompactFields.mk hop) (congrArg BitVec.toFin hrd)) (congrArg BitVec.toFin hrs)) himm

theorem CompactFields.toParcel_ofParcel (p : Parcel) (h : p.getLsbD 15 = false) : (CompactFields.ofParcel p).toParcel = p := by
  have hb : (0#1 : BitVec 1) = p.extractLsb' 15 1 := by rw [extractLsb'_one_eq, h]; rfl
  simp only [CompactFields.ofParcel, CompactFields.toParcel, BitVec.ofFin_toFin, hb]
  simp (disch := decide) only [BitVec.extractLsb'_append_extractLsb'_eq_extractLsb']
  exact BitVec.extractLsb'_eq_self

/-! ### Parcels of a word and of a compact word -/

theorem Fields.getLsbD_toWord (f : Fields) : f.toWord.getLsbD 15 = true := by
  have h := (word_parts f.hi 1#1 f.major (.ofFin f.rd) (.ofFin f.rs1) (.ofFin f.rs2)).2.1
  rw [extractLsb'_one_eq] at h
  exact (BitVec.ofBool_eq_iff_eq (b' := true)).1 h

theorem CompactFields.isLong_toParcel (f : CompactFields) : Parcel.isLong f.toParcel = false := by
  have h := (parcel_parts 0#1 f.op (.ofFin f.rd) (.ofFin f.rs) f.imm).1
  rw [extractLsb'_one_eq] at h
  exact (BitVec.ofBool_eq_iff_eq (b' := false)).1 h

/-- The two halves of a word. -/
theorem word_halves (w : BitVec 32) : w.extractLsb' 16 16 ++ w.extractLsb' 0 16 = w :=
  BitVec.extractLsb'_append_extractLsb' (w := 16) (len := 16)

theorem Parcel.isLong_lowHalf (w : BitVec 32) : Parcel.isLong (w.extractLsb' 0 16) = w.getLsbD 15 := by
  simp [Parcel.isLong]

/-- Reading a 4-byte instruction is reading its fields. -/
theorem decodeParcels_longParcels {f : Fields} {i : Instr} (rest : List Parcel) (h : decodeFields f = .ok i) :
    decodeParcels (longParcels f ++ rest) = .ok (i, rest) := by
  simp only [longParcels, List.cons_append, List.nil_append, decodeParcels, Parcel.isLong_lowHalf, f.getLsbD_toWord, decode32,
    word_halves, Fields.ofWord_toWord, h, if_true]

theorem decodeParcels_shortParcel {op : BitVec 4} {rd rs : Reg} {imm : BitVec 5} {i : Instr} (rest : List Parcel)
    (h : decodeCompact ⟨op, rd, rs, imm⟩ = .ok i) : decodeParcels (shortParcel op rd rs imm ++ rest) = .ok (i, rest) := by
  simp [shortParcel, decodeParcels, CompactFields.isLong_toParcel, decode16, h]

/-- What is read was a word's two parcels or a compact word's one. -/
theorem decodeParcels_cases {ps : List Parcel} {i : Instr} {rest : List Parcel} (h : decodeParcels ps = .ok (i, rest)) :
    (∃ f, decodeFields f = .ok i ∧ longParcels f ++ rest = ps) ∨
      ∃ f, decodeCompact f = .ok i ∧ CompactFields.toParcel f :: rest = ps := by
  cases ps with
  | nil => cases h
  | cons p qs =>
    simp only [decodeParcels] at h
    split at h
    · next hp =>
      split at h
      · cases h
      · next q qs =>
        split at h
        · next j hj =>
          cases h
          have hw : (q ++ p).getLsbD 15 = true := (BitVec.getLsbD_append (x := q) (y := p)).trans hp
          refine .inl ⟨Fields.ofWord (q ++ p), hj, ?_⟩
          rw [longParcels, Fields.toWord_ofWord _ hw]
          have hp : (q ++ p).extractLsb' 0 16 = p := BitVec.extractLsb'_append_eq_right
          have hq : (q ++ p).extractLsb' 16 16 = q := BitVec.extractLsb'_append_eq_left
          rw [hp, hq]
          rfl
        · cases h
    · next hp =>
      split at h
      · next j hj =>
        cases h
        exact .inr ⟨_, hj, by rw [CompactFields.toParcel_ofParcel p (by simpa [Parcel.isLong] using hp)]⟩
      · cases h

/-! ### The families of layouts -/

section
variable (M : BitVec 6) (n d : BitVec 8) (rd a b : Reg)

@[simp] theorem rrFields_major : (rrFields M n d rd a b).major = M := rfl
@[simp] theorem rrFields_rd : (rrFields M n d rd a b).rd = rd := rfl
@[simp] theorem rrFields_rs1 : (rrFields M n d rd a b).rs1 = a := rfl
@[simp] theorem rrFields_rs2 : (rrFields M n d rd a b).rs2 = b := rfl
@[simp] theorem rrFields_minorRR : (rrFields M n d rd a b).minorRR = n := BitVec.extractLsb'_append_eq_left
@[simp] theorem rrFields_mod8 : (rrFields M n d rd a b).mod8 = d := BitVec.extractLsb'_append_eq_right

end

section
variable (M : BitVec 6) (fn : Reg) (imm : BitVec 16) (rd a : Reg)

@[simp] theorem riFields_major : (riFields M fn imm rd a).major = M := rfl
@[simp] theorem riFields_rd : (riFields M fn imm rd a).rd = rd := rfl
@[simp] theorem riFields_rs1 : (riFields M fn imm rd a).rs1 = a := rfl
@[simp] theorem riFields_rs2 : (riFields M fn imm rd a).rs2 = fn := rfl
@[simp] theorem riFields_hi : (riFields M fn imm rd a).hi = imm := rfl

end

@[simp] theorem liFields_major (M : BitVec 6) (imm : BitVec 22) (rd : Reg) : (liFields M imm rd).major = M := rfl
@[simp] theorem liFields_rd (M : BitVec 6) (imm : BitVec 22) (rd : Reg) : (liFields M imm rd).rd = rd := rfl
@[simp] theorem liFields_imm22 (M : BitVec 6) (imm : BitVec 22) (rd : Reg) : (liFields M imm rd).imm22 = imm := by
  simp only [liFields, Fields.imm22, BitVec.ofFin_toFin]
  simp (disch := decide) only [BitVec.extractLsb'_append_extractLsb'_eq_extractLsb']
  exact BitVec.extractLsb'_eq_self

section
variable (c : Reg) (off : BitVec 16) (a b : Reg)

@[simp] theorem brFields_major : (brFields c off a b).major = 0x09#6 := rfl
@[simp] theorem brFields_rd : (brFields c off a b).rd = c := rfl
@[simp] theorem brFields_rs1 : (brFields c off a b).rs1 = a := rfl
@[simp] theorem brFields_rs2 : (brFields c off a b).rs2 = b := rfl
@[simp] theorem brFields_hi : (brFields c off a b).hi = off := rfl

end

/-- The parts of the second parcel of the MM family (R17). -/
theorem mm_parts (m size : BitVec 2) (fn : BitVec 1) (imm : BitVec 11) :
    let h : BitVec (2 + 2 + 1 + 11) := m ++ size ++ fn ++ imm
    h.extractLsb' 14 2 = m ∧ h.extractLsb' 12 2 = size ∧ h.extractLsb' 11 1 = fn ∧ h.extractLsb' 0 11 = imm := by
  simp (disch := decide) only [BitVec.extractLsb'_append_eq_of_le, BitVec.extractLsb'_append_eq_of_add_le, Nat.reduceSub,
    BitVec.extractLsb'_eq_self, and_self]

section
variable (M : BitVec 6) (size : BitVec 2) (fn : BitVec 1) (rd base op : Reg)

@[simp] theorem mmFields_major (ea : MemMode) : (mmFields M size fn rd base ea).major = M := by cases ea <;> rfl
@[simp] theorem mmFields_rd (ea : MemMode) : (mmFields M size fn rd base ea).rd = rd := by cases ea <;> rfl
@[simp] theorem mmFields_rs1 (ea : MemMode) : (mmFields M size fn rd base ea).rs1 = base := by cases ea <;> rfl
@[simp] theorem mmFields_sizeMM (ea : MemMode) : (mmFields M size fn rd base ea).sizeMM = size := by
  cases ea <;> exact (mm_parts ..).2.1
@[simp] theorem mmFields_fn1 (ea : MemMode) : (mmFields M size fn rd base ea).fn1 = fn := by
  cases ea <;> exact (mm_parts ..).2.2.1
theorem mmFields_modeMM (ea : MemMode) :
    (mmFields M size fn rd base ea).modeMM = match ea with | .disp _ => 0#2 | .index _ => 1#2 | .postInc => 2#2 := by
  cases ea <;> exact (mm_parts ..).1
theorem mmFields_imm11 (ea : MemMode) :
    (mmFields M size fn rd base ea).imm11 = match ea with | .disp imm => imm | _ => 0#11 := by
  cases ea <;> exact (mm_parts ..).2.2.2
theorem mmFields_rs2 (ea : MemMode) :
    (mmFields M size fn rd base ea).rs2 = match ea with | .index idx => idx | _ => 0 := by
  cases ea <;> rfl
@[simp] theorem decodeMemMode_mmFields (ea : MemMode) : decodeMemMode (mmFields M size fn rd base ea) = .ok ea := by
  cases ea <;> simp [decodeMemMode, mmFields_modeMM, mmFields_imm11, mmFields_rs2]

@[simp] theorem atFields_major (ea : AtomMode) : (atFields M size fn rd base op ea).major = M := by cases ea <;> rfl
@[simp] theorem atFields_rd (ea : AtomMode) : (atFields M size fn rd base op ea).rd = rd := by cases ea <;> rfl
@[simp] theorem atFields_rs1 (ea : AtomMode) : (atFields M size fn rd base op ea).rs1 = base := by cases ea <;> rfl
@[simp] theorem atFields_rs2 (ea : AtomMode) : (atFields M size fn rd base op ea).rs2 = op := by cases ea <;> rfl
@[simp] theorem atFields_sizeMM (ea : AtomMode) : (atFields M size fn rd base op ea).sizeMM = size := by
  cases ea <;> exact (mm_parts ..).2.1
@[simp] theorem atFields_fn1 (ea : AtomMode) : (atFields M size fn rd base op ea).fn1 = fn := by
  cases ea <;> exact (mm_parts ..).2.2.1
theorem atFields_modeMM (ea : AtomMode) :
    (atFields M size fn rd base op ea).modeMM = match ea with | .disp _ => 0#2 | .postInc => 2#2 := by
  cases ea <;> exact (mm_parts ..).1
theorem atFields_imm11 (ea : AtomMode) :
    (atFields M size fn rd base op ea).imm11 = match ea with | .disp imm => imm | .postInc => 0#11 := by
  cases ea <;> exact (mm_parts ..).2.2.2
@[simp] theorem decodeAtomMode_atFields (ea : AtomMode) : decodeAtomMode (atFields M size fn rd base op ea) = .ok ea := by
  cases ea <;> simp [decodeAtomMode, atFields_modeMM, atFields_imm11]

end

/-- The parts of the second parcel of the XM family (R17). -/
theorem xm_parts (xn : BitVec 4) (m : BitVec 2) (imm : BitVec 10) :
    let h : BitVec (4 + 2 + 10) := xn ++ m ++ imm
    h.extractLsb' 12 4 = xn ∧ h.extractLsb' 10 2 = m ∧ h.extractLsb' 0 10 = imm := by
  simp (disch := decide) only [BitVec.extractLsb'_append_eq_of_le, BitVec.extractLsb'_append_eq_of_add_le, Nat.reduceSub,
    BitVec.extractLsb'_eq_self, and_self]

section
variable (xn : XIdx) (base : Reg) (ea : XldMode)

@[simp] theorem xmFields_major : (xmFields xn base ea).major = 0x30#6 := by cases ea <;> rfl
@[simp] theorem xmFields_rd : (xmFields xn base ea).rd = 0 := by cases ea <;> rfl
@[simp] theorem xmFields_rs1 : (xmFields xn base ea).rs1 = base := by cases ea <;> rfl
@[simp] theorem xmFields_xn : (xmFields xn base ea).xn = xn := by
  cases ea <;> exact congrArg BitVec.toFin (xm_parts (.ofFin xn) ..).1
theorem xmFields_modeXM :
    (xmFields xn base ea).modeXM = match ea with | .disp _ => 0#2 | .index _ => 1#2 | .postInc => 2#2 := by
  cases ea <;> exact (xm_parts (.ofFin xn) ..).2.1
theorem xmFields_imm10 : (xmFields xn base ea).imm10 = match ea with | .disp imm => imm | _ => 0#10 := by
  cases ea <;> exact (xm_parts (.ofFin xn) ..).2.2
theorem xmFields_rs2 : (xmFields xn base ea).rs2 = match ea with | .index idx => idx | _ => 0 := by cases ea <;> rfl
@[simp] theorem decodeXldMode_xmFields : decodeXldMode (xmFields xn base ea) = .ok ea := by
  cases ea <;> simp [decodeXldMode, xmFields_modeXM, xmFields_imm10, xmFields_rs2]

end

/-- The parts of the second parcel of the XE family (R17). -/
theorem xe_parts (xn xm : BitVec 4) (n : BitVec 8) :
    let h : BitVec (4 + 4 + 8) := xn ++ xm ++ n
    h.extractLsb' 12 4 = xn ∧ h.extractLsb' 8 4 = xm ∧ h.extractLsb' 0 8 = n := by
  simp (disch := decide) only [BitVec.extractLsb'_append_eq_of_le, BitVec.extractLsb'_append_eq_of_add_le, Nat.reduceSub,
    BitVec.extractLsb'_eq_self, and_self]

section
variable (M : BitVec 6) (n : BitVec 8) (xn xm : BitVec 4) (rd a b : Reg)

@[simp] theorem xeFields_major : (xeFields M n xn xm rd a b).major = M := rfl
@[simp] theorem xeFields_rd : (xeFields M n xn xm rd a b).rd = rd := rfl
@[simp] theorem xeFields_rs1 : (xeFields M n xn xm rd a b).rs1 = a := rfl
@[simp] theorem xeFields_rs2 : (xeFields M n xn xm rd a b).rs2 = b := rfl
@[simp] theorem xeFields_minorXE : (xeFields M n xn xm rd a b).minorXE = n := (xe_parts xn xm n).2.2
@[simp] theorem xeFields_xmBits : (xeFields M n xn xm rd a b).xmBits = xm := (xe_parts xn xm n).2.1
@[simp] theorem xeFields_xm : (xeFields M n xn xm rd a b).xm = xm.toFin := congrArg BitVec.toFin (xe_parts xn xm n).2.1
@[simp] theorem xeFields_xn : (xeFields M n xn xm rd a b).xn = xn.toFin := congrArg BitVec.toFin (xe_parts xn xm n).1

end

section
variable (n : BitVec 4) (crn : BitVec 12) (rd a : Reg)

@[simp] theorem crFields_major : (crFields n crn rd a).major = 0x3C#6 := rfl
@[simp] theorem crFields_rd : (crFields n crn rd a).rd = rd := rfl
@[simp] theorem crFields_rs1 : (crFields n crn rd a).rs1 = a := rfl
@[simp] theorem crFields_rs2 : (crFields n crn rd a).rs2 = 0 := rfl
@[simp] theorem crFields_minorCR : (crFields n crn rd a).minorCR = n := BitVec.extractLsb'_append_eq_right
@[simp] theorem crFields_crn : (crFields n crn rd a).crn = crn := BitVec.extractLsb'_append_eq_left

end

@[simp] theorem hintFields_major (h : BitVec 25) : (hintFields h).major = 0x3E#6 := rfl
@[simp] theorem hintFields_hint (h : BitVec 25) : (hintFields h).hint = h := by
  simp only [hintFields, Fields.hint, BitVec.ofFin_toFin]
  simp (disch := decide) only [BitVec.extractLsb'_append_extractLsb'_eq_extractLsb']
  exact BitVec.extractLsb'_eq_self

@[simp] theorem RoundSel.ofBits_bits (m : RoundSel) : RoundSel.ofBits m.bits = some m := by cases m <;> rfl
@[simp] theorem Scope.ofReg_reg (s : Scope) : Scope.ofReg s.reg = some s := by cases s <;> rfl
@[simp] theorem Level.ofBits_bits (l : Level) : Level.ofBits l.bits = some l := by cases l <;> rfl
@[simp] theorem CompactOp.ofBits_bits (o : CompactOp) : CompactOp.ofBits o.bits = some o := by cases o <;> rfl

@[simp] theorem checked_true (i : Instr) : checked true i = .ok i := rfl

theorem checked_of {z : Bool} (i : Instr) (h : z = true) : checked z i = .ok i := by rw [h, checked_true]

/-! Operands that fill the low bits of their field, with reserved bits above them. -/

theorem padded2_8 (x : BitVec 2) : (0#6 ++ x : BitVec 8).extractLsb' 2 6 = 0#6 ∧ (0#6 ++ x : BitVec 8).extractLsb' 0 2 = x :=
  ⟨BitVec.extractLsb'_append_eq_left, BitVec.extractLsb'_append_eq_right⟩

theorem padded6_16 (x : BitVec 6) : (0#10 ++ x : BitVec 16).extractLsb' 6 10 = 0#10 ∧ (0#10 ++ x : BitVec 16).extractLsb' 0 6 = x :=
  ⟨BitVec.extractLsb'_append_eq_left, BitVec.extractLsb'_append_eq_right⟩

theorem padded3_16 (x : BitVec 3) : (0#13 ++ x : BitVec 16).extractLsb' 3 13 = 0#13 ∧ (0#13 ++ x : BitVec 16).extractLsb' 0 3 = x :=
  ⟨BitVec.extractLsb'_append_eq_left, BitVec.extractLsb'_append_eq_right⟩

theorem padded1_4 (x : BitVec 1) : (0#3 ++ x : BitVec 4).extractLsb' 1 3 = 0#3 ∧ (0#3 ++ x : BitVec 4).extractLsb' 0 1 = x :=
  ⟨BitVec.extractLsb'_append_eq_left, BitVec.extractLsb'_append_eq_right⟩

theorem padded2_4 (x : BitVec 2) : (0#2 ++ x : BitVec 4).extractLsb' 2 2 = 0#2 ∧ (0#2 ++ x : BitVec 4).extractLsb' 0 2 = x :=
  ⟨BitVec.extractLsb'_append_eq_left, BitVec.extractLsb'_append_eq_right⟩

theorem padded2_5 (x : BitVec 2) : (0#3 ++ x : BitVec 5).extractLsb' 2 3 = 0#3 ∧ (0#3 ++ x : BitVec 5).extractLsb' 0 2 = x :=
  ⟨BitVec.extractLsb'_append_eq_left, BitVec.extractLsb'_append_eq_right⟩

/-- The imm5 of LDP.S (R42): fn1 and size under two reserved bits; the pattern 7 is fn1 = 1 with size 3. -/
theorem loadPair_imm : ∀ (fn : BitVec 1) (size : BitVec 2),
    (0#2 ++ fn ++ size : BitVec 5).extractLsb' 3 2 = 0#2 ∧ (0#2 ++ fn ++ size : BitVec 5).extractLsb' 2 1 = fn ∧
      (0#2 ++ fn ++ size : BitVec 5).extractLsb' 0 2 = size ∧
      ((0#2 ++ fn ++ size : BitVec 5).extractLsb' 0 3 = 7#3 ↔ fn = 1#1 ∧ size = 3#2) := by
  decide

theorem liS_imm8 (op : BitVec 4) (rd : Reg) (imm : BitVec 8) :
    CompactFields.imm8 ⟨op, rd, (imm.extractLsb' 5 3).toFin, imm.extractLsb' 0 5⟩ = imm := by
  simp only [CompactFields.imm8, BitVec.ofFin_toFin]
  exact BitVec.extractLsb'_append_extractLsb' (w := 3) (len := 5)

theorem jS_imm11 (op : BitVec 4) (imm : BitVec 11) :
    CompactFields.imm11 ⟨op, (imm.extractLsb' 8 3).toFin, (imm.extractLsb' 5 3).toFin, imm.extractLsb' 0 5⟩ = imm := by
  simp only [CompactFields.imm11, BitVec.ofFin_toFin]
  simp (disch := decide) only [BitVec.extractLsb'_append_extractLsb'_eq_extractLsb']
  exact BitVec.extractLsb'_eq_self

/-! ### What is encoded is read back, by layout -/

/-- The decoder reads back an instruction of 4 bytes. -/
def ReadBack (i : Instr) : Prop := ∃ f, encode i = longParcels f ∧ decodeFields f = .ok i

/-- The decoder reads back an instruction of 2 bytes. -/
def ShortReadBack (i : Instr) : Prop := ∃ f, encode i = [CompactFields.toParcel f] ∧ decodeCompact f = .ok i

theorem readBack_threeRegisters (rd a b : Reg) :
    ∀ c ∈ [Instr.add, .sub, .and, .or, .xor, .andn, .orn, .xnor, .mul, .mulh, .mulhu, .div, .divu, .rem, .remu, .min, .max,
      .minu, .maxu, .sll, .srl, .sra, .rol, .ror, .seq, .sne, .slt, .sltu, .sle, .sleu, .sel, .fmin, .fmax, .feq, .flt, .fle,
      .spawn, .qputNb, .qgetNb, .tlbW, .ctxSave, .ctxLoad, .fres], ReadBack (c rd a b) := by
  intro c hc
  fin_cases hc <;> exact ⟨_, rfl, by simp [decodeFields, decodeIntegerA, decodeIntegerB, decodeFloat, decodeMessage,
    decodeSystem]⟩

theorem readBack_twoRegisters (rd a : Reg) :
    ∀ c ∈ [Instr.mov, .clz, .ctz, .popc, .bswap, .fabs, .fneg, .fclass, .btof, .htof, .send, .sendc, .dep, .bind, .cntset,
      .qput, .qget, .qlen, .tkreq, .tklend, .tkret, .ecls, .fkill, .wipe, .icflush], ReadBack (c rd a) := by
  intro c hc
  fin_cases hc <;> exact ⟨_, rfl, by simp [decodeFields, decodeIntegerA, decodeIntegerB, decodeFloat, decodeMessage,
    decodeToken, decodeSystem]⟩

theorem readBack_oneRegister (rd : Reg) :
    ∀ c ∈ [Instr.mig, .tkq, .trap, .tlbInv, .tlbInva], ReadBack (c rd) := by
  intro c hc
  fin_cases hc <;> exact ⟨_, rfl, by simp [decodeFields, decodeMessage, decodeToken, decodeSystem]⟩

theorem readBack_roundedTwoSources (rd a b : Reg) (m : RoundSel) :
    ∀ c ∈ [Instr.fadd, .fsub, .fmul, .fdiv, .fma], ReadBack (c rd a b m) := by
  intro c hc
  fin_cases hc <;> exact ⟨_, rfl, by simp [decodeFields, decodeFloat, rounding]⟩

theorem readBack_roundedOneSource (rd a : Reg) (m : RoundSel) :
    ∀ c ∈ [Instr.fsqrt, .ftoi, .ftou, .itof, .utof, .ftob, .ftoh], ReadBack (c rd a m) := by
  intro c hc
  fin_cases hc <;> exact ⟨_, rfl, by simp [decodeFields, decodeFloat, rounding]⟩

theorem readBack_immediate16 (rd a : Reg) (imm : BitVec 16) :
    ∀ c ∈ [Instr.addi, .andi, .ori, .xori, .slti, .sltiu, .muli, .seqi, .snei, .jalr], ReadBack (c rd a imm) := by
  intro c hc
  fin_cases hc <;> exact ⟨_, rfl, by simp [decodeFields, decodeImmA, decodeImmB, decodeJump]⟩

theorem readBack_immediate22 (rd : Reg) (imm : BitVec 22) :
    ∀ c ∈ [Instr.li, .lis, .addpc, .jal], ReadBack (c rd imm) := by
  intro c hc
  fin_cases hc <;> exact ⟨_, rfl, by simp [decodeFields]⟩

theorem readBack_branch (rd a : Reg) (imm : BitVec 16) :
    ∀ c ∈ [Instr.beq, .bne, .blt, .bge, .bltu, .bgeu], ReadBack (c rd a imm) := by
  intro c hc
  fin_cases hc <;> exact ⟨_, rfl, by simp [decodeFields, decodeBranch]⟩

theorem readBack_loadOrStore (rd a : Reg) (ea : MemMode) :
    ∀ c ∈ [Instr.ldB, .ldH, .ldW, .ldD, .ldBu, .ldHu, .ldWu, .stB, .stH, .stW, .stD], ReadBack (c rd a ea) := by
  intro c hc
  fin_cases hc <;> exact ⟨_, rfl, by simp [decodeFields, decodeLoad, decodeStore, memory]⟩

theorem readBack_atomic (rd a b : Reg) (ea : AtomMode) :
    ∀ c ∈ [Instr.aaddW, .aaddD, .aswapW, .aswapD, .aminW, .aminD, .amaxW, .amaxD, .aandW, .aandD, .aorW, .aorD, .axorW, .axorD,
      .acasW, .acasD], ReadBack (c rd a b ea) := by
  intro c hc
  fin_cases hc <;> exact ⟨_, rfl, by simp [decodeFields, decodeAtomA, decodeAtomB, decodeAtomC, decodeAtomD, atomic]⟩

theorem readBack_extendedThreeRegisters (xn : XIdx) (rd a b : Reg) :
    ∀ c ∈ [Instr.hodPush, .vadd, .vsub, .vmul, .vfma, .vmin, .vmax, .viadd, .visub, .vimul, .vand, .vor, .vxor, .vshl, .vshr,
      .vceq, .vclt, .vcle, .vsel, .mring, .mbpass, .kldRot, .qrot, .smx], ReadBack (c xn rd a b) := by
  intro c hc
  fin_cases hc <;> exact ⟨_, rfl, by simp [decodeFields, decodeHod, decodeVectorFloat, decodeVectorInt, decodeMatrix,
    decodeAttention]⟩

theorem readBack_extendedTwoRegisters (xn : XIdx) (rd a : Reg) :
    ∀ c ∈ [Instr.vabs, .vneg, .vexp2, .vrcp, .vrsum, .vrmax, .vrmin, .vnzs, .vcvtBf, .vcvtH, .vcvtE4, .vcvtE5, .vcvtSr4,
      .vcvtSr5, .vcvtF, .vexpI4, .vexpP23, .vexpP32, .mst, .mldc, .gkArm, .xset], ReadBack (c xn rd a) := by
  intro c hc
  fin_cases hc <;> exact ⟨_, rfl, by simp [decodeFields, decodeVectorFloat, decodeVectorInt, decodeVectorConv, decodeMatrix,
    decodeGather, decodeXmov]⟩

theorem readBack_twoExtended (xn xm : XIdx) (rd a b : Reg) :
    ∀ c ∈ [Instr.mmaE4e4, .mmaE4e5, .mmaE5e4, .mmaE5e5, .mmaM8m8, .mmaF4f4, .mmaF4e4, .mmaB16, .mmaH16, .mmaI8,
      .gmm], ReadBack (c xn xm rd a b) := by
  intro c hc
  fin_cases hc <;> exact ⟨_, rfl, by simp [decodeFields, decodeMatrix]⟩

/-- Every well-formed instruction is read back; a term that encodes to nothing is a step. -/
theorem readBack_of_wellFormed (i : Instr) (hw : i.wellFormed = true) (hl : i.length ≠ 0) : ReadBack i ∨ ShortReadBack i := by
  cases i
  case add | sub | and | or | xor | andn | orn | xnor | mul | mulh | mulhu | div | divu | rem | remu | min | max | minu | maxu |
      sll | srl | sra | rol | ror | seq | sne | slt | sltu | sle | sleu | sel | fmin | fmax | feq | flt | fle | spawn | qputNb |
      qgetNb | tlbW | ctxSave | ctxLoad | fres =>
    exact .inl (readBack_threeRegisters _ _ _ _ (by simp))
  case mov | clz | ctz | popc | bswap | fabs | fneg | fclass | btof | htof | send | sendc | dep | bind | cntset | qput | qget |
      qlen | tkreq | tklend | tkret | ecls | fkill | wipe | icflush =>
    exact .inl (readBack_twoRegisters _ _ _ (by simp))
  case mig | tkq | trap | tlbInv | tlbInva =>
    exact .inl (readBack_oneRegister _ _ (by simp))
  case fadd | fsub | fmul | fdiv | fma =>
    exact .inl (readBack_roundedTwoSources _ _ _ _ _ (by simp))
  case fsqrt | ftoi | ftou | itof | utof | ftob | ftoh =>
    exact .inl (readBack_roundedOneSource _ _ _ _ (by simp))
  case addi | andi | ori | xori | slti | sltiu | muli | seqi | snei | jalr =>
    exact .inl (readBack_immediate16 _ _ _ _ (by simp))
  case li | lis | addpc | jal =>
    exact .inl (readBack_immediate22 _ _ _ (by simp))
  case beq | bne | blt | bge | bltu | bgeu =>
    exact .inl (readBack_branch _ _ _ _ (by simp))
  case ldB | ldH | ldW | ldD | ldBu | ldHu | ldWu | stB | stH | stW | stD =>
    exact .inl (readBack_loadOrStore _ _ _ _ (by simp))
  case aaddW | aaddD | aswapW | aswapD | aminW | aminD | amaxW | amaxD | aandW | aandD | aorW | aorD | axorW | axorD | acasW |
      acasD =>
    exact .inl (readBack_atomic _ _ _ _ _ (by simp))
  case hodPush | vadd | vsub | vmul | vfma | vmin | vmax | viadd | visub | vimul | vand | vor | vxor | vshl | vshr | vceq |
      vclt | vcle | vsel | mring | mbpass | kldRot | qrot | smx =>
    exact .inl (readBack_extendedThreeRegisters _ _ _ _ _ (by simp))
  case vabs | vneg | vexp2 | vrcp | vrsum | vrmax | vrmin | vnzs | vcvtBf | vcvtH | vcvtE4 | vcvtE5 | vcvtSr4 | vcvtSr5 |
      vcvtF | vexpI4 | vexpP23 | vexpP32 | mst | mldc | gkArm | xset =>
    exact .inl (readBack_extendedTwoRegisters _ _ _ _ (by simp))
  case mmaE4e4 | mmaE4e5 | mmaE5e4 | mmaE5e5 | mmaM8m8 | mmaF4f4 | mmaF4e4 | mmaB16 | mmaH16 | mmaI8 | gmm =>
    exact .inl (readBack_twoExtended _ _ _ _ _ _ (by simp))
  case lea => exact .inl ⟨_, rfl, by simp [decodeFields, decodeIntegerB, padded2_8]⟩
  case slli | srli | srai => exact .inl ⟨_, rfl, by simp [decodeFields, decodeImmB, padded6_16]⟩
  case j | nop => exact .inl ⟨_, rfl, by simp [decodeFields]⟩
  case loop | jr => exact .inl ⟨_, rfl, by simp [decodeFields, decodeJump]⟩
  case fence => exact .inl ⟨_, rfl, by simp [decodeFields, decodeFence]⟩
  case exit | yield => exact .inl ⟨_, rfl, by simp [decodeFields, decodeMessage]⟩
  case barArv | barWt => exact .inl ⟨_, rfl, by simp [decodeFields, decodeBarrier, barrier, padded3_16, checked_of (z := _ || _) _ hw]⟩
  case barExc | barRjn => exact .inl ⟨_, rfl, by simp [decodeFields, decodeBarrier, barrier, padded3_16]⟩
  case hodTile | hodMc | hodFree | hodWt | hodCnt => exact .inl ⟨_, rfl, by simp [decodeFields, decodeHod]⟩
  case mmz | mwait | mqry => exact .inl ⟨_, rfl, by simp [decodeFields, decodeMatrix]⟩
  case cacq | crel | cpos => exact .inl ⟨_, rfl, by simp [decodeFields, decodeAttention]⟩
  case gkSet | gkStop => exact .inl ⟨_, rfl, by simp [decodeFields, decodeGather]⟩
  case xld => exact .inl ⟨_, rfl, by simp [decodeFields, decodeXld]⟩
  case xmov | xmovDRead | xmovDWrite | xmovW => exact .inl ⟨_, rfl, by simp [decodeFields, decodeXmov, padded1_4, padded2_4]⟩
  case crr | crw | crset | crclr => exact .inl ⟨_, rfl, by simp [decodeFields, decodeControl]⟩
  case tret => exact .inl ⟨_, rfl, by simp [decodeFields, decodeSystem]⟩
  case ldS | stS | beqS | bneS | slliS | srliS | sraiS | exitS | yieldS | jrS | nopS | aluS =>
    exact .inr ⟨_, rfl, by simp [decodeCompact]⟩
  case liS => exact .inr ⟨_, rfl, congrArg (Except.ok ∘ Instr.liS _) (liS_imm8 ..)⟩
  case jS => exact .inr ⟨_, rfl, congrArg (Except.ok ∘ Instr.jS) (jS_imm11 ..)⟩
  case addiS => exact .inr ⟨_, rfl, by simpa [decodeCompact, Instr.wellFormed, imp_iff_not_or, or_assoc] using hw⟩
  case accS fn => exact .inr ⟨_, rfl, by cases fn <;> simp_all [decodeCompact, CompactOp.bits, CompactOp.ofBits, Instr.wellFormed]⟩
  case ldpS => exact .inr ⟨_, rfl, by simpa [decodeCompact, loadPair_imm, Instr.wellFormed, imp_iff_not_or] using hw⟩
  case stpS => exact .inr ⟨_, rfl, by simp [decodeCompact, padded2_5]⟩
  all_goals exact absurd rfl hl

/-- Settles O55: the instruction's layout is read back field by field (`readBack_of_wellFormed`). -/
theorem encodedDecodes : Obligations.EncodedDecodes := by
  unfold Obligations.EncodedDecodes
  intro i rest hw hl
  obtain ⟨f, he, hf⟩ | ⟨f, he, hf⟩ := readBack_of_wellFormed i hw hl
  · rw [he, decodeParcels_longParcels rest hf]
  · rw [he]
    exact decodeParcels_shortParcel rest hf

/-! ### What is read encodes to what was read, by layout -/

/-- An instruction is well-formed and encodes to the parcels of the fields. -/
def ReadFrom (i : Instr) (f : Fields) : Prop := i.wellFormed = true ∧ encode i = longParcels f

theorem checked_eq_ok {z : Bool} {i j : Instr} : checked z i = .ok j ↔ z = true ∧ i = j := by
  cases z <;> simp [checked]

/-- A form without a reserved field is one whose check is `true`. -/
theorem ok_eq_ok {i j : Instr} : (Except.ok i : Except Reject Instr) = .ok j ↔ true = true ∧ i = j := by simp

theorem RoundSel.eq_bits {b : BitVec 8} {m : RoundSel} (h : RoundSel.ofBits b = some m) : b = m.bits := by
  unfold RoundSel.ofBits at h
  split at h <;> simp only [Option.some.injEq, reduceCtorEq] at h
  all_goals
    subst h
    exact BitVec.eq_of_toNat_eq ‹_›

theorem rounding_eq_ok {f : Fields} {z : Bool} {mk : RoundSel → Instr} {j : Instr} (h : rounding f z mk = .ok j) :
    ∃ m, f.mod8 = m.bits ∧ z = true ∧ mk m = j := by
  unfold rounding at h
  split at h
  · next m hm => exact ⟨m, RoundSel.eq_bits hm, checked_eq_ok.1 h⟩
  · cases h

theorem rrFields_eq_iff {M : BitVec 6} {n d : BitVec 8} {rd a b : Reg} {f : Fields} :
    rrFields M n d rd a b = f ↔
      M = f.major ∧ n.toNat = f.minorRR.toNat ∧ d = f.mod8 ∧ rd = f.rd ∧ a = f.rs1 ∧ b = f.rs2 := by
  constructor
  · rintro rfl
    simp
  · rintro ⟨rfl, hn, rfl, rfl, rfl, rfl⟩
    obtain rfl := BitVec.eq_of_toNat_eq hn
    simp only [rrFields, Fields.minorRR, Fields.mod8]
    exact congrArg (Fields.mk · _ _ _ _) (BitVec.extractLsb'_append_extractLsb' (w := 8) (len := 8))

theorem riFields_eq_iff {M : BitVec 6} {fn : Reg} {imm : BitVec 16} {rd a : Reg} {f : Fields} :
    riFields M fn imm rd a = f ↔ M = f.major ∧ fn.val = f.rs2.val ∧ imm = f.hi ∧ rd = f.rd ∧ a = f.rs1 := by
  obtain ⟨hi, major, rd', rs1, rs2⟩ := f
  simp [riFields, Fin.ext_iff]
  tauto

theorem brFields_eq_iff {c : Reg} {off : BitVec 16} {a b : Reg} {f : Fields} :
    brFields c off a b = f ↔ 0x09#6 = f.major ∧ c.val = f.rd.val ∧ off = f.hi ∧ a = f.rs1 ∧ b = f.rs2 := by
  obtain ⟨hi, major, rd, rs1, rs2⟩ := f
  simp [brFields, Fin.ext_iff]
  tauto

/-- The parts of the 22-bit immediate of the LI family (R17). -/
theorem li_parts (a b : BitVec 3) (hi : BitVec 16) :
    let imm : BitVec (3 + 3 + 16) := a ++ b ++ hi
    imm.extractLsb' 0 16 = hi ∧ imm.extractLsb' 19 3 = a ∧ imm.extractLsb' 16 3 = b := by
  simp (disch := decide) only [BitVec.extractLsb'_append_eq_of_le, BitVec.extractLsb'_append_eq_of_add_le, Nat.reduceSub,
    BitVec.extractLsb'_eq_self, and_self]

theorem liFields_imm22_eq {M : BitVec 6} {f : Fields} (hM : f.major = M) : liFields M f.imm22 f.rd = f := by
  obtain ⟨hi, major, rd, rs1, rs2⟩ := f
  obtain ⟨hhi, ha, hb⟩ := li_parts (.ofFin rs1) (.ofFin rs2) hi
  exact (Fields.mk.injEq ..).mpr ⟨hhi, hM.symm, rfl, congrArg BitVec.toFin ha, congrArg BitVec.toFin hb⟩

/-- The parts of the 25 bits of a hint (R28). -/
theorem hint_parts (hi : BitVec 16) (rd a b : BitVec 3) :
    let h : BitVec (16 + 3 + 3 + 3) := hi ++ rd ++ a ++ b
    h.extractLsb' 9 16 = hi ∧ h.extractLsb' 6 3 = rd ∧ h.extractLsb' 3 3 = a ∧ h.extractLsb' 0 3 = b := by
  simp (disch := decide) only [BitVec.extractLsb'_append_eq_of_le, BitVec.extractLsb'_append_eq_of_add_le, Nat.reduceSub,
    BitVec.extractLsb'_eq_self, and_self]

theorem hintFields_hint_eq {f : Fields} (hM : f.major = 0x3E#6) : hintFields f.hint = f := by
  obtain ⟨hi, major, rd, rs1, rs2⟩ := f
  obtain ⟨hhi, hrd, ha, hb⟩ := hint_parts hi (.ofFin rd) (.ofFin rs1) (.ofFin rs2)
  exact (Fields.mk.injEq ..).mpr
    ⟨hhi, hM.symm, congrArg BitVec.toFin hrd, congrArg BitVec.toFin ha, congrArg BitVec.toFin hb⟩

theorem ofFin_xm {f : Fields} : BitVec.ofFin f.xm = f.xmBits := rfl

theorem xmBits_eq_zero {f : Fields} : f.xm = 0 ↔ f.xmBits = 0#4 := BitVec.toFin_inj (y := 0#4)

theorem xeFields_eq_iff {M : BitVec 6} {n : BitVec 8} {xn xm : BitVec 4} {rd a b : Reg} {f : Fields} :
    xeFields M n xn xm rd a b = f ↔
      M = f.major ∧ n.toNat = f.minorXE.toNat ∧ xn.toFin = f.xn ∧ xm = f.xmBits ∧ rd = f.rd ∧ a = f.rs1 ∧ b = f.rs2 := by
  constructor
  · rintro rfl
    simp
  · rintro ⟨rfl, hn, hxn, rfl, rfl, rfl, rfl⟩
    obtain rfl := BitVec.eq_of_toNat_eq hn
    obtain rfl := BitVec.toFin_inj.1 (hxn.trans rfl : xn.toFin = (f.hi.extractLsb' 12 4).toFin)
    simp only [xeFields, Fields.minorXE, Fields.xmBits]
    simp (disch := decide) only [BitVec.extractLsb'_append_extractLsb'_eq_extractLsb']
    exact congrArg (Fields.mk · _ _ _ _) BitVec.extractLsb'_eq_self

theorem crFields_eq_iff {n : BitVec 4} {crn : BitVec 12} {rd a : Reg} {f : Fields} :
    crFields n crn rd a = f ↔
      0x3C#6 = f.major ∧ n.toNat = f.minorCR.toNat ∧ crn = f.crn ∧ rd = f.rd ∧ a = f.rs1 ∧ 0 = f.rs2 := by
  constructor
  · rintro rfl
    simp
  · rintro ⟨hM, hn, rfl, rfl, rfl, h2⟩
    obtain rfl := BitVec.eq_of_toNat_eq hn
    simp only [crFields, Fields.minorCR, Fields.crn, hM, h2]
    exact congrArg (Fields.mk · _ _ _ _) (BitVec.extractLsb'_append_extractLsb' (w := 12) (len := 4))

/-! Reserved bits that are 0, above an operand that fills the low bits. -/

theorem joined2_8 {x : BitVec 8} (h : x.extractLsb' 2 6 = 0#6) : 0#6 ++ x.extractLsb' 0 2 = x := by
  rw [← h]
  exact BitVec.extractLsb'_append_extractLsb' (w := 6) (len := 2)

theorem joined6_16 {x : BitVec 16} (h : x.extractLsb' 6 10 = 0#10) : 0#10 ++ x.extractLsb' 0 6 = x := by
  rw [← h]
  exact BitVec.extractLsb'_append_extractLsb' (w := 10) (len := 6)

theorem joined3_16 {x : BitVec 16} (h : x.extractLsb' 3 13 = 0#13) : 0#13 ++ x.extractLsb' 0 3 = x := by
  rw [← h]
  exact BitVec.extractLsb'_append_extractLsb' (w := 13) (len := 3)

theorem joined1_4 {x : BitVec 4} (h : x.extractLsb' 1 3 = 0#3) : 0#3 ++ x.extractLsb' 0 1 = x := by
  rw [← h]
  exact BitVec.extractLsb'_append_extractLsb' (w := 3) (len := 1)

theorem joined2_4 {x : BitVec 4} (h : x.extractLsb' 2 2 = 0#2) : 0#2 ++ x.extractLsb' 0 2 = x := by
  rw [← h]
  exact BitVec.extractLsb'_append_extractLsb' (w := 2) (len := 2)

theorem Scope.reg_eq {r : Reg} {s : Scope} (h : Scope.ofReg r = some s) : s.reg.val = r.val := by
  unfold Scope.ofReg at h
  split at h <;> simp only [Option.some.injEq, reduceCtorEq] at h
  all_goals
    subst h
    exact Eq.symm ‹_›

theorem Level.eq_bits {b : BitVec 3} {l : Level} (h : Level.ofBits b = some l) : b = l.bits := by
  unfold Level.ofBits at h
  split at h <;> simp only [Option.some.injEq, reduceCtorEq] at h
  all_goals
    subst h
    exact BitVec.eq_of_toNat_eq ‹_›

theorem barrier_eq_ok {f : Fields} {z : Level → Bool} {mk : Level → Instr} {j : Instr} (h : barrier f z mk = .ok j) :
    ∃ l : Level, 0#13 ++ l.bits = f.hi ∧ z l = true ∧ mk l = j := by
  unfold barrier at h
  split at h
  · next l hl =>
    obtain ⟨hz, rfl⟩ := checked_eq_ok.1 h
    simp only [Bool.and_eq_true, beq_iff_eq] at hz
    exact ⟨l, by rw [← Level.eq_bits hl, joined3_16 hz.2], hz.1, rfl⟩
  · cases h

theorem memory_eq_ok {f : Fields} {mk : MemMode → Instr} {j : Instr} :
    memory f mk = .ok j ↔ ∃ ea, decodeMemMode f = .ok ea ∧ mk ea = j := by
  unfold memory
  split <;> simp_all

theorem atomic_eq_ok {f : Fields} {mk : AtomMode → Instr} {j : Instr} :
    atomic f mk = .ok j ↔ ∃ ea, decodeAtomMode f = .ok ea ∧ mk ea = j := by
  unfold atomic
  split <;> simp_all

/-- The second parcel of the MM family is its four parts. -/
theorem mm_hi_eq (f : Fields) : f.modeMM ++ f.sizeMM ++ f.fn1 ++ f.imm11 = f.hi := by
  simp only [Fields.modeMM, Fields.sizeMM, Fields.fn1, Fields.imm11]
  simp (disch := decide) only [BitVec.extractLsb'_append_extractLsb'_eq_extractLsb']
  exact BitVec.extractLsb'_eq_self

/-- The second parcel of the XM family is its three parts. -/
theorem xm_hi_eq (f : Fields) : (BitVec.ofFin f.xn : BitVec 4) ++ f.modeXM ++ f.imm10 = f.hi := by
  simp only [Fields.xn, Fields.modeXM, Fields.imm10, BitVec.ofFin_toFin]
  simp (disch := decide) only [BitVec.extractLsb'_append_extractLsb'_eq_extractLsb']
  exact BitVec.extractLsb'_eq_self

theorem decodeMemMode_eq_ok {f : Fields} {ea : MemMode} (h : decodeMemMode f = .ok ea) :
    (ea = .disp f.imm11 ∧ f.modeMM = 0#2 ∧ f.rs2 = 0) ∨ (ea = .index f.rs2 ∧ f.modeMM = 1#2 ∧ f.imm11 = 0#11) ∨
      (ea = .postInc ∧ f.modeMM = 2#2 ∧ f.imm11 = 0#11 ∧ f.rs2 = 0) := by
  unfold decodeMemMode at h
  split at h
  case h_1 hm =>
    split at h <;> cases h
    exact .inl ⟨rfl, BitVec.eq_of_toNat_eq hm, ‹_›⟩
  case h_2 hm =>
    split at h <;> cases h
    exact .inr (.inl ⟨rfl, BitVec.eq_of_toNat_eq hm, ‹_›⟩)
  case h_3 hm =>
    split at h <;> cases h
    exact .inr (.inr ⟨rfl, BitVec.eq_of_toNat_eq hm, ‹_›⟩)
  case h_4 => cases h

theorem decodeAtomMode_eq_ok {f : Fields} {ea : AtomMode} (h : decodeAtomMode f = .ok ea) :
    (ea = .disp f.imm11 ∧ f.modeMM = 0#2) ∨ (ea = .postInc ∧ f.modeMM = 2#2 ∧ f.imm11 = 0#11) := by
  unfold decodeAtomMode at h
  split at h
  case h_1 hm =>
    cases h
    exact .inl ⟨rfl, BitVec.eq_of_toNat_eq hm⟩
  case h_2 hm =>
    split at h <;> cases h
    exact .inr ⟨rfl, BitVec.eq_of_toNat_eq hm, ‹_›⟩
  case h_3 => cases h

theorem decodeXldMode_eq_ok {f : Fields} {ea : XldMode} (h : decodeXldMode f = .ok ea) :
    (ea = .disp f.imm10 ∧ f.modeXM = 0#2 ∧ f.rs2 = 0) ∨ (ea = .index f.rs2 ∧ f.modeXM = 1#2 ∧ f.imm10 = 0#10) ∨
      (ea = .postInc ∧ f.modeXM = 2#2 ∧ f.imm10 = 0#10 ∧ f.rs2 = 0) := by
  unfold decodeXldMode at h
  split at h
  case h_1 hm =>
    split at h <;> cases h
    exact .inl ⟨rfl, BitVec.eq_of_toNat_eq hm, ‹_›⟩
  case h_2 hm =>
    split at h <;> cases h
    exact .inr (.inl ⟨rfl, BitVec.eq_of_toNat_eq hm, ‹_›⟩)
  case h_3 hm =>
    split at h <;> cases h
    exact .inr (.inr ⟨rfl, BitVec.eq_of_toNat_eq hm, ‹_›⟩)
  case h_4 => cases h

theorem mmFields_eq {M : BitVec 6} {size : BitVec 2} {fn : BitVec 1} {f : Fields} {ea : MemMode}
    (h : decodeMemMode f = .ok ea) (hM : f.major = M) (hf : f.fn1 = fn) (hs : f.sizeMM = size) :
    mmFields M size fn f.rd f.rs1 ea = f := by
  have hhi := mm_hi_eq f
  subst hM hf hs
  obtain ⟨rfl, hm, h2⟩ | ⟨rfl, hm, hi⟩ | ⟨rfl, hm, hi, h2⟩ := decodeMemMode_eq_ok h <;> simp only [mmFields, ← hm, hhi]
  · rw [← h2]
  · rw [← hi, hhi]
  · rw [← hi, hhi, ← h2]

theorem atFields_eq {M : BitVec 6} {size : BitVec 2} {fn : BitVec 1} {f : Fields} {ea : AtomMode}
    (h : decodeAtomMode f = .ok ea) (hM : f.major = M) (hf : f.fn1 = fn) (hs : f.sizeMM = size) :
    atFields M size fn f.rd f.rs1 f.rs2 ea = f := by
  have hhi := mm_hi_eq f
  subst hM hf hs
  obtain ⟨rfl, hm⟩ | ⟨rfl, hm, hi⟩ := decodeAtomMode_eq_ok h <;> simp only [atFields, ← hm, hhi]
  rw [← hi, hhi]

theorem xmFields_eq {f : Fields} {ea : XldMode} (h : decodeXldMode f = .ok ea) (hM : f.major = 0x30#6) (hd : f.rd = 0) :
    xmFields f.xn f.rs1 ea = f := by
  have hhi := xm_hi_eq f
  have hea := decodeXldMode_eq_ok h
  obtain ⟨hi, major, rd, rs1, rs2⟩ := f
  obtain rfl : major = 0x30#6 := hM
  obtain rfl : rd = 0 := hd
  obtain ⟨rfl, hm, h2⟩ | ⟨rfl, hm, h0⟩ | ⟨rfl, hm, h0, h2⟩ := hea
  · obtain rfl : rs2 = 0 := h2
    simp only [xmFields, ← hm, hhi]
  · simp only [xmFields, ← hm, ← h0, hhi]
  · obtain rfl : rs2 = 0 := h2
    simp only [xmFields, ← hm, ← h0, hhi]

theorem readFrom_rr {f : Fields} {i : Instr} {M : BitVec 6} {D : Fields → Except Reject Instr} (hM : f.major = M)
    (h : D f = .ok i) (hp : (M, D) ∈ [(0x00#6, decodeIntegerA), (0x01#6, decodeIntegerB), (0x18#6, decodeMessage),
      (0x26#6, decodeToken), (0x3D#6, decodeSystem)]) :
    ReadFrom i f := by
  simp only [List.mem_cons, Prod.mk.injEq, List.not_mem_nil, or_false] at hp
  obtain ⟨rfl, rfl⟩ | ⟨rfl, rfl⟩ | ⟨rfl, rfl⟩ | ⟨rfl, rfl⟩ | ⟨rfl, rfl⟩ := hp <;>
    simp only [decodeIntegerA, decodeIntegerB, decodeMessage, decodeToken, decodeSystem] at h <;>
    split at h <;> simp only [checked_eq_ok, reduceCtorEq] at h
  all_goals
    obtain ⟨hz, rfl⟩ := h
    exact ⟨rfl, congrArg longParcels (rrFields_eq_iff.2 (by simp_all [joined2_8]))⟩

theorem readFrom_float {f : Fields} {i : Instr} (hM : f.major = 0x0C#6) (h : decodeFloat f = .ok i) : ReadFrom i f := by
  unfold decodeFloat at h
  split at h
  case h_23 => cases h
  case h_7 | h_8 | h_9 | h_10 | h_11 | h_12 | h_13 | h_14 | h_20 | h_22 =>
    obtain ⟨hz, rfl⟩ := checked_eq_ok.1 h
    exact ⟨rfl, congrArg longParcels (rrFields_eq_iff.2 (by simp_all))⟩
  all_goals
    obtain ⟨m, hm, hz, rfl⟩ := rounding_eq_ok h
    exact ⟨rfl, congrArg longParcels (rrFields_eq_iff.2 (by simp_all))⟩

theorem readFrom_ri {f : Fields} {i : Instr} {M : BitVec 6} {D : Fields → Except Reject Instr} (hM : f.major = M)
    (h : D f = .ok i) (hp : (M, D) ∈ [(0x02#6, decodeImmA), (0x03#6, decodeImmB), (0x0A#6, decodeJump)]) :
    ReadFrom i f := by
  simp only [List.mem_cons, Prod.mk.injEq, List.not_mem_nil, or_false] at hp
  obtain ⟨rfl, rfl⟩ | ⟨rfl, rfl⟩ | ⟨rfl, rfl⟩ := hp <;>
    simp only [decodeImmA, decodeImmB, decodeJump] at h <;>
    split at h <;> simp only [checked_eq_ok, ok_eq_ok, reduceCtorEq] at h
  all_goals
    obtain ⟨hz, rfl⟩ := h
    exact ⟨rfl, congrArg longParcels (riFields_eq_iff.2 (by simp_all [joined6_16]))⟩

theorem readFrom_xe {f : Fields} {i : Instr} {M : BitVec 6} {D : Fields → Except Reject Instr} (hM : f.major = M)
    (h : D f = .ok i) (hp : (M, D) ∈ [(0x1A#6, decodeHod), (0x20#6, decodeVectorFloat), (0x21#6, decodeVectorInt),
      (0x22#6, decodeVectorConv), (0x24#6, decodeMatrix), (0x28#6, decodeAttention), (0x2A#6, decodeGather), (0x31#6, decodeXmov)]) :
    ReadFrom i f := by
  simp only [List.mem_cons, Prod.mk.injEq, List.not_mem_nil, or_false] at hp
  obtain ⟨rfl, rfl⟩ | ⟨rfl, rfl⟩ | ⟨rfl, rfl⟩ | ⟨rfl, rfl⟩ | ⟨rfl, rfl⟩ | ⟨rfl, rfl⟩ | ⟨rfl, rfl⟩ | ⟨rfl, rfl⟩ := hp <;>
    simp only [decodeHod, decodeVectorFloat, decodeVectorInt, decodeVectorConv, decodeMatrix, decodeAttention,
    decodeGather, decodeXmov] at h <;>
    split at h <;> simp only [checked_eq_ok, reduceCtorEq] at h
  all_goals
    obtain ⟨hz, rfl⟩ := h
    exact ⟨rfl, congrArg longParcels (xeFields_eq_iff.2 (by simp_all [joined1_4, joined2_4, xmBits_eq_zero, ofFin_xm]))⟩

theorem readFrom_branch {f : Fields} {i : Instr} (hM : f.major = 0x09#6) (h : decodeBranch f = .ok i) : ReadFrom i f := by
  unfold decodeBranch at h
  split at h <;> simp only [ok_eq_ok, reduceCtorEq] at h
  all_goals
    obtain ⟨-, rfl⟩ := h
    exact ⟨rfl, congrArg longParcels (brFields_eq_iff.2 (by simp_all))⟩

theorem readFrom_control {f : Fields} {i : Instr} (hM : f.major = 0x3C#6) (h : decodeControl f = .ok i) : ReadFrom i f := by
  unfold decodeControl at h
  split at h <;> simp only [checked_eq_ok, reduceCtorEq] at h
  all_goals
    obtain ⟨hz, rfl⟩ := h
    exact ⟨rfl, congrArg longParcels (crFields_eq_iff.2 (by simp_all))⟩

theorem readFrom_fence {f : Fields} {i : Instr} (hM : f.major = 0x16#6) (h : decodeFence f = .ok i) : ReadFrom i f := by
  unfold decodeFence at h
  split at h
  · next s hs =>
    obtain ⟨hz, rfl⟩ := checked_eq_ok.1 h
    exact ⟨rfl, congrArg longParcels (riFields_eq_iff.2 (by simp_all [Scope.reg_eq hs]))⟩
  · cases h

theorem readFrom_barrier {f : Fields} {i : Instr} (hM : f.major = 0x19#6) (h : decodeBarrier f = .ok i) : ReadFrom i f := by
  unfold decodeBarrier at h
  split at h
  case h_5 => cases h
  all_goals
    obtain ⟨l, hl, hz, rfl⟩ := barrier_eq_ok h
    exact ⟨by simp_all [Instr.wellFormed], congrArg longParcels (riFields_eq_iff.2 (by simp_all))⟩

theorem readFrom_memory {f : Fields} {i : Instr} {M : BitVec 6} {D : Fields → Except Reject Instr} (hM : f.major = M)
    (h : D f = .ok i) (hp : (M, D) ∈ [(0x10#6, decodeLoad), (0x11#6, decodeStore)]) :
    ReadFrom i f := by
  simp only [List.mem_cons, Prod.mk.injEq, List.not_mem_nil, or_false] at hp
  obtain ⟨rfl, rfl⟩ | ⟨rfl, rfl⟩ := hp <;>
    simp only [decodeLoad, decodeStore] at h <;> split at h <;> simp only [memory_eq_ok, reduceCtorEq] at h
  all_goals
    obtain ⟨ea, hea, rfl⟩ := h
    exact ⟨rfl, congrArg longParcels (mmFields_eq hea hM (BitVec.eq_of_toNat_eq ‹_›) (BitVec.eq_of_toNat_eq ‹_›))⟩

theorem readFrom_atomic {f : Fields} {i : Instr} {M : BitVec 6} {D : Fields → Except Reject Instr} (hM : f.major = M)
    (h : D f = .ok i) (hp : (M, D) ∈ [(0x12#6, decodeAtomA), (0x13#6, decodeAtomB), (0x14#6, decodeAtomC),
      (0x15#6, decodeAtomD)]) :
    ReadFrom i f := by
  simp only [List.mem_cons, Prod.mk.injEq, List.not_mem_nil, or_false] at hp
  obtain ⟨rfl, rfl⟩ | ⟨rfl, rfl⟩ | ⟨rfl, rfl⟩ | ⟨rfl, rfl⟩ := hp <;>
    simp only [decodeAtomA, decodeAtomB, decodeAtomC, decodeAtomD] at h <;> split at h <;>
    simp only [atomic_eq_ok, reduceCtorEq] at h
  all_goals
    obtain ⟨ea, hea, rfl⟩ := h
    exact ⟨rfl, congrArg longParcels (atFields_eq hea hM (BitVec.eq_of_toNat_eq ‹_›) (BitVec.eq_of_toNat_eq ‹_›))⟩

theorem readFrom_xld {f : Fields} {i : Instr} (hM : f.major = 0x30#6) (h : decodeXld f = .ok i) : ReadFrom i f := by
  unfold decodeXld at h
  split at h
  · next ea hea =>
    obtain ⟨hz, rfl⟩ := checked_eq_ok.1 h
    exact ⟨rfl, congrArg longParcels (xmFields_eq hea hM (by simpa using hz))⟩
  · cases h


/-! ### The decoder as a whole -/

theorem eq_ofNat_of_toNat_eq {w k : Nat} {x : BitVec w} (h : x.toNat = k) : x = BitVec.ofNat w k := by
  rw [← h, BitVec.ofNat_toNat, BitVec.setWidth_eq]

/-- A word's fields that decode are those of a well-formed instruction. -/
theorem decodeFields_readFrom {f : Fields} {i : Instr} (h : decodeFields f = .ok i) : ReadFrom i f := by
  unfold decodeFields at h
  split at h
  case h_1 hn | h_2 hn | h_20 hn | h_27 hn | h_33 hn => exact readFrom_rr (eq_ofNat_of_toNat_eq hn) h (by simp)
  case h_3 hn | h_4 hn | h_11 hn => exact readFrom_ri (eq_ofNat_of_toNat_eq hn) h (by simp)
  case h_5 hn | h_6 hn | h_7 hn | h_8 hn =>
    cases h
    exact ⟨rfl, congrArg longParcels (liFields_imm22_eq (eq_ofNat_of_toNat_eq hn))⟩
  case h_9 hn =>
    obtain ⟨hz, rfl⟩ := checked_eq_ok.1 h
    refine ⟨rfl, congrArg longParcels ?_⟩
    rw [← liFields_imm22_eq (f := f) (eq_ofNat_of_toNat_eq hn), eq_of_beq hz, liFields_imm22]
  case h_10 hn => exact readFrom_branch (eq_ofNat_of_toNat_eq hn) h
  case h_12 hn => exact readFrom_float (eq_ofNat_of_toNat_eq hn) h
  case h_13 hn | h_14 hn => exact readFrom_memory (eq_ofNat_of_toNat_eq hn) h (by simp)
  case h_15 hn | h_16 hn | h_17 hn | h_18 hn => exact readFrom_atomic (eq_ofNat_of_toNat_eq hn) h (by simp)
  case h_19 hn => exact readFrom_fence (eq_ofNat_of_toNat_eq hn) h
  case h_21 hn => exact readFrom_barrier (eq_ofNat_of_toNat_eq hn) h
  case h_22 hn | h_23 hn | h_24 hn | h_25 hn | h_26 hn | h_28 hn | h_29 hn | h_31 hn =>
    exact readFrom_xe (eq_ofNat_of_toNat_eq hn) h (by simp)
  case h_30 hn => exact readFrom_xld (eq_ofNat_of_toNat_eq hn) h
  case h_32 hn => exact readFrom_control (eq_ofNat_of_toNat_eq hn) h
  case h_34 hn =>
    cases h
    exact ⟨rfl, congrArg longParcels (hintFields_hint_eq (eq_ofNat_of_toNat_eq hn))⟩
  case h_35 => cases h

theorem CompactOp.eq_bits {b : BitVec 5} {o : CompactOp} (h : CompactOp.ofBits b = some o) : b = o.bits := by
  unfold CompactOp.ofBits at h
  split at h <;> simp only [Option.some.injEq, reduceCtorEq] at h
  all_goals
    subst h
    exact BitVec.eq_of_toNat_eq ‹_›

/-- LDP.S (R42): an imm5 whose reserved bits are 0 is fn1 and size. -/
theorem loadPair_joined : ∀ x : BitVec 5, x.extractLsb' 3 2 = 0 →
    0#2 ++ x.extractLsb' 2 1 ++ x.extractLsb' 0 2 = x ∧
      (x.extractLsb' 0 3 ≠ 7#3 → ¬(x.extractLsb' 2 1 = 1#1 ∧ x.extractLsb' 0 2 = 3#2)) := by
  decide

theorem storePair_joined : ∀ x : BitVec 5, x.extractLsb' 2 3 = 0 → 0#3 ++ x.extractLsb' 0 2 = x := by decide

/-- The three parts of an 11-bit offset (R41). -/
theorem imm11_parts (a b : BitVec 3) (c : BitVec 5) :
    let x : BitVec (3 + 3 + 5) := a ++ b ++ c
    x.extractLsb' 8 3 = a ∧ x.extractLsb' 5 3 = b ∧ x.extractLsb' 0 5 = c := by
  simp (disch := decide) only [BitVec.extractLsb'_append_eq_of_le, BitVec.extractLsb'_append_eq_of_add_le, Nat.reduceSub,
    BitVec.extractLsb'_eq_self, and_self]

theorem shortParcel_eq {op : BitVec 4} {rd rs : Reg} {imm : BitVec 5} {f : CompactFields} (ho : f.op.toNat = op.toNat)
    (hd : rd = f.rd) (hs : rs = f.rs) (hi : imm = f.imm) : shortParcel op rd rs imm = [CompactFields.toParcel f] := by
  obtain ⟨op', rd', rs', imm'⟩ := f
  obtain rfl := BitVec.eq_of_toNat_eq ho
  obtain ⟨rfl, rfl, rfl⟩ := And.intro hd (And.intro hs hi)
  rfl

/-- A parcel's fields that decode are those of a well-formed instruction. -/
theorem decodeCompact_readFrom {f : CompactFields} {i : Instr} (h : decodeCompact f = .ok i) :
    i.wellFormed = true ∧ encode i = [CompactFields.toParcel f] := by
  unfold decodeCompact at h
  split at h
  case h_1 hn =>
    split at h <;> cases h
    next h0 => exact ⟨by simpa [Instr.wellFormed, imp_iff_not_or, or_assoc] using h0, shortParcel_eq hn rfl rfl rfl⟩
  case h_2 hn =>
    cases h
    exact ⟨rfl, shortParcel_eq hn rfl (congrArg BitVec.toFin BitVec.extractLsb'_append_eq_left) BitVec.extractLsb'_append_eq_right⟩
  case h_3 hn =>
    split at h <;> cases h
    next o ho => exact ⟨rfl, shortParcel_eq hn rfl rfl (CompactOp.eq_bits ho).symm⟩
  case h_4 hn =>
    split at h
    · next ho =>
      obtain ⟨hz, rfl⟩ := checked_eq_ok.1 h
      exact ⟨hz, shortParcel_eq hn rfl rfl (CompactOp.eq_bits ho).symm⟩
    · next o hne ho =>
      cases h
      exact ⟨by simp [Instr.wellFormed, show o ≠ .mov from hne], shortParcel_eq hn rfl rfl (CompactOp.eq_bits ho).symm⟩
    · cases h
  case h_7 hn =>
    split at h
    · next h0 =>
      split at h <;> cases h
      next h7 =>
      obtain ⟨hj, hw⟩ := loadPair_joined _ h0
      exact ⟨by simpa [Instr.wellFormed, imp_iff_not_or] using hw h7, shortParcel_eq hn rfl rfl hj⟩
    · cases h
  case h_8 hn =>
    obtain ⟨hz, rfl⟩ := checked_eq_ok.1 h
    exact ⟨rfl, shortParcel_eq hn rfl rfl (storePair_joined _ (eq_of_beq hz))⟩
  case h_11 hn =>
    cases h
    obtain ⟨hd, hs, hi⟩ := imm11_parts (.ofFin f.rd) (.ofFin f.rs) f.imm
    exact ⟨rfl, shortParcel_eq hn (congrArg BitVec.toFin hd) (congrArg BitVec.toFin hs) hi⟩
  case h_15 hn =>
    split at h <;> simp only [checked_eq_ok, reduceCtorEq] at h
    all_goals
      next hi =>
      obtain ⟨hz, rfl⟩ := h
      exact ⟨rfl, shortParcel_eq hn (by simp_all) (by simp_all) (eq_ofNat_of_toNat_eq hi).symm⟩
  case h_16 h0 h1 h2 h3 h4 h5 h6 h7 h8 h9 h10 h11 h12 h13 h14 =>
    have hn : f.op.toNat = 15 := by
      have := f.op.isLt
      simp only [imp_false] at *
      omega
    obtain ⟨hz, rfl⟩ := checked_eq_ok.1 h
    exact ⟨rfl, shortParcel_eq hn (by simp_all) (by simp_all) rfl⟩
  case h_5 hn | h_6 hn | h_9 hn | h_10 hn | h_12 hn | h_13 hn | h_14 hn =>
    cases h
    exact ⟨rfl, shortParcel_eq hn rfl rfl rfl⟩

theorem length_of_longParcels {i : Instr} {f : Fields} (h : encode i = longParcels f) : i.length = 4 := by
  simp [Instr.length, encodeBytes, h, longParcels, bytesOfParcels]

theorem length_of_oneParcel {i : Instr} {p : Parcel} (h : encode i = [p]) : i.length = 2 := by
  simp [Instr.length, encodeBytes, h, bytesOfParcels]

/-- Settles O56: what was read is a word's fields (`decodeFields_readFrom`) or a parcel's (`decodeCompact_readFrom`). -/
theorem decodedEncodes : Obligations.DecodedEncodes := by
  unfold Obligations.DecodedEncodes
  intro ps i rest h
  obtain ⟨f, hf, rfl⟩ | ⟨f, hf, rfl⟩ := decodeParcels_cases h
  · obtain ⟨hw, he⟩ := decodeFields_readFrom hf
    exact ⟨hw, .inr (length_of_longParcels he), by rw [he]⟩
  · obtain ⟨hw, he⟩ := decodeCompact_readFrom hf
    exact ⟨hw, .inl (length_of_oneParcel he), by rw [he]; rfl⟩

/-- Settles O57: each word is decoded as it stands. -/
theorem wordsDecode : Obligations.WordsDecode := by
  unfold Obligations.WordsDecode
  decide +kernel

end Sys2Proof
end

section
/-!
PROOF. The checks of an issue one by one, and the frame of the scalar instructions (O9): what an issue leaves of the state where
the instruction's effect is framed, for its retirement, a hold and a trap.
-/

namespace Sys2Proof.Machine

/-- What a fibre keeps whose g registers of a list may change: the others with their marks and refusals, and its handler state. -/
structure SlotKept (w : List Reg) (x y : Slot) : Prop where
  regs : ∀ r : Reg, r ∉ w → y.g[r] = x.g[r] ∧ y.mark[r] = x.mark[r] ∧ y.refused[r] = x.refused[r]
  live : y.live = x.live
  gen : y.gen = x.gen
  prio : y.prio = x.prio
  ecls : y.ecls = x.ecls
  amig : y.amig = x.amig
  owed : y.owed = x.owed
  sup : y.sup = x.sup
  fw : y.fw = x.fw
  epcv : y.epcv = x.epcv
  epc : y.epc = x.epc
  tcause : y.tcause = x.tcause

namespace SlotKept

theorem refl (w : List Reg) (x : Slot) : SlotKept w x x := by constructor <;> simp

theorem trans {w : List Reg} {x y z : Slot} (h : SlotKept w x y) (k : SlotKept w y z) : SlotKept w x z where
  regs r hr := by
    obtain ⟨hg, hm, hf⟩ := h.regs r hr
    obtain ⟨kg, km, kf⟩ := k.regs r hr
    exact ⟨kg.trans hg, km.trans hm, kf.trans hf⟩
  live := k.live.trans h.live
  gen := k.gen.trans h.gen
  prio := k.prio.trans h.prio
  ecls := k.ecls.trans h.ecls
  amig := k.amig.trans h.amig
  owed := k.owed.trans h.owed
  sup := k.sup.trans h.sup
  fw := k.fw.trans h.fw
  epcv := k.epcv.trans h.epcv
  epc := k.epc.trans h.epc
  tcause := k.tcause.trans h.tcause

theorem write {w : List Reg} {r : Reg} (h : r ∈ w) (v : Word) (x : Slot) : SlotKept w x (x.write r v) where
  regs q hq := by
    have hne : r.val ≠ q.val := fun e => hq (Fin.ext e ▸ h)
    simp [Slot.write, Fin.getElem_fin, Vector.getElem_set_ne _ _ hne]
  live := rfl
  gen := rfl
  prio := rfl
  ecls := rfl
  amig := rfl
  owed := rfl
  sup := rfl
  fw := rfl
  epcv := rfl
  epc := rfl
  tcause := rfl

/-- What the issue of an instruction moves is none of it. -/
theorem sequencing {w : List Reg} {x y : Slot} {pc : BitVec 56} {far frozen : Bool} {hold : Option Hold}
    {settle : Option Settling} {walked : List MicroEntry} {ac : Nat}
    (h : y = { x with pc := pc, far := far, frozen := frozen, hold := hold, settle := settle, walked := walked, readyAt := ac }) :
    SlotKept w x y := by
  subst h
  exact ⟨fun _ _ => ⟨rfl, rfl, rfl⟩, rfl, rfl, rfl, rfl, rfl, rfl, rfl, rfl, rfl, rfl, rfl⟩

end SlotKept

namespace State

/-- The frame of the scalar instructions, from one state to another of the same turn. -/
structure Framed (w : List Reg) (fl : Bool) (s t : State) : Prop where
  cur : t.cur = s.cur
  outside : s.OutsideKept t
  core : s.CoreKept t fl
  fibre : SlotKept w s.me t.me

namespace Framed

variable {w : List Reg} {fl : Bool} {s t u : State}

theorem fibreKept (h : Framed w fl s t) : s.FibreKept t w := by
  obtain ⟨hc, -, -, h⟩ := h
  have hm : t.me = t.slot s.cur.core s.cur.slot := by rw [← hc]; rfl
  rw [hm] at h
  exact ⟨h.regs, h.live, h.gen, h.prio, h.ecls, h.amig, h.owed, h.sup, h.fw, h.epcv, h.epc, h.tcause⟩

theorem refl (s : State) : Framed w fl s s :=
  ⟨rfl, ⟨fun _ => rfl, rfl, rfl, fun _ _ => rfl, rfl, rfl, rfl, rfl, rfl, rfl, rfl, rfl, rfl⟩,
    ⟨rfl, rfl, fun _ _ => rfl⟩, .refl w _⟩

theorem trans (h : Framed w fl s t) (k : Framed w fl t u) : Framed w fl s u where
  cur := k.cur.trans h.cur
  outside := by
    obtain ⟨h1, h2, h3, h4, h5, h6, h7, h8, h9, h10, h11, h12, h13⟩ := h.outside
    obtain ⟨k1, k2, k3, k4, k5, k6, k7, k8, k9, k10, k11, k12, k13⟩ := k.outside
    rw [h.cur] at k4
    exact ⟨fun a => (k1 a).trans (h1 a), k2.trans h2, k3.trans h3, fun p hp => (k4 p hp).trans (h4 p hp), k5.trans h5,
      k6.trans h6, k7.trans h7, k8.trans h8, k9.trans h9, k10.trans h10, k11.trans h11, k12.trans h12, k13.trans h13⟩
  core := by
    obtain ⟨h1, h2, h3⟩ := h.core
    obtain ⟨k1, k2, k3⟩ := k.core
    rw [myCore, h.cur] at k1 k2
    rw [h.cur] at k3
    exact ⟨k1.trans h1, k2.trans h2, fun n hn => (k3 n hn).trans (h3 n hn)⟩
  fibre := h.fibre.trans k.fibre

end Framed

/-- A change of the issuing core outside its slots is framed where it changes no more than what an issue books and, in cr.fpmode,
the bits that the frame lets go. -/
theorem framed_onMyCore {w : List Reg} {fl : Bool} (s : State) {g : Core → Core} (hr : coreRest (g s.myCore) = coreRest s.myCore)
    (hs : (g s.myCore).slots = s.myCore.slots)
    (hf : (g s.myCore).fpmode &&& ~~~(if fl then 0x1F00#64 else 0) = s.myCore.fpmode &&& ~~~(if fl then 0x1F00#64 else 0)) :
    Framed w fl s (s.onMyCore g) := by
  have hc : (s.onMyCore g).core s.cur.core = g s.myCore := myCore_onMyCore s g
  have hslot : ∀ n, (s.onMyCore g).slot s.cur.core n = s.slot s.cur.core n := fun n => by
    rw [slot, hc, Core.slot, hs]
    rfl
  refine ⟨rfl, ?_, ⟨by rw [hc, hr], by rw [hc, hf], fun n _ => hslot n⟩, ?_⟩
  · exact ⟨fun _ => rfl, rfl, rfl, fun p hp => core_onCore_other s _ p g hp, rfl, rfl, rfl, rfl, rfl, rfl, rfl, rfl, rfl⟩
  · have hm : (s.onMyCore g).me = s.me := hslot s.cur.slot
    rw [hm]
    exact .refl w _

theorem framed_onMe {w : List Reg} {fl : Bool} (s : State) {f : Slot → Slot} (hf : SlotKept w s.me (f s.me)) :
    Framed w fl s (s.onMe f) := by
  have hc : (s.onMe f).core s.cur.core = s.myCore.setSlot s.cur.slot (f s.me) := by rw [onMe_eq, core_setCore]
  refine ⟨rfl, ?_, ⟨by rw [hc]; rfl, by rw [hc]; rfl, fun n hn => slot_setSlot_other s _ _ _ n _ (.inr hn)⟩, ?_⟩
  · exact ⟨fun _ => rfl, rfl, rfl, fun p hp => core_onCore_other s _ p _ hp, rfl, rfl, rfl, rfl, rfl, rfl, rfl, rfl, rfl⟩
  · rwa [me_onMe]

/-- A fault record changes what is in flight and nothing else. -/
theorem sendFault_eq_net (s : State) (pid n : Nat) (f : Slot) (t : Trap) :
    ∃ net, s.sendFault pid n f t = { s with net := net } := by
  unfold sendFault sendToRank
  dsimp only
  split
  · exact ⟨_, rfl⟩
  · exact ⟨_, rfl⟩

/-- A change of what is in flight is framed. -/
theorem framed_net {w : List Reg} {fl : Bool} (s : State) (net : List Packet) : Framed w fl s { s with net := net } :=
  ⟨rfl, ⟨fun _ => rfl, rfl, rfl, fun _ _ => rfl, rfl, rfl, rfl, rfl, rfl, rfl, rfl, rfl, rfl⟩,
    ⟨rfl, rfl, fun _ _ => rfl⟩, .refl w _⟩

/-! ### What an issue leaves -/

/-- The stops that a scalar form meets: a trap that carries no owed refusal, or a hold at registers. -/
def ScalarStop : Stop → Prop
  | .trap t => t.owed = none
  | .hold (.regs _) => True
  | .hold (.xreg _) => True
  | _ => False

/-- What an issue that is no model fault has come to: the instruction retired, or it stopped at a check or at its effect. -/
theorem issue_inv {s t : State} {nd : Need} {body : State → Except Stop State} (h : s.issue nd body = .next t) :
    (∃ u, body (s.onMe (slotBegun nd.len)) = .ok u ∧ t = retired s nd.passes u) ∨
      ∃ st, (s.ready nd = .error st ∨ body (s.onMe (slotBegun nd.len)) = .error st) ∧ t = s.stopped st := by
  unfold issue at h
  cases hl : (s.me.live && !s.me.frozen) with
  | false => rw [hl] at h; cases h
  | true =>
    rw [hl, if_pos rfl] at h
    cases hr : s.ready nd with
    | error st =>
      rw [hr] at h
      cases h
      exact .inr ⟨st, .inl rfl, rfl⟩
    | ok a =>
      rw [hr] at h
      cases hb : body (s.onMe (slotBegun nd.len)) with
      | error st =>
        simp only [Except.bind, hb] at h
        cases h
        exact .inr ⟨st, .inr rfl, rfl⟩
      | ok u =>
        simp only [Except.bind, hb] at h
        cases h
        exact .inl ⟨u, rfl, rfl⟩

/-- Every stop of a computation is one that a scalar form may meet. -/
def ScalarStops {α : Type} (x : Except Stop α) : Prop := ∀ st, x = .error st → ScalarStop st

theorem scalarStops_ok {α : Type} (a : α) : ScalarStops (.ok a) := fun _ h => by cases h

theorem scalarStops_error {α : Type} {st : Stop} (h : ScalarStop st) : ScalarStops (α := α) (.error st) := fun _ e => by
  cases e
  exact h

theorem scalarStops_bind {α β : Type} {x : Except Stop α} {f : α → Except Stop β} (hx : ScalarStops x)
    (hf : ∀ a, ScalarStops (f a)) : ScalarStops (x >>= f) := by
  cases x with
  | error e => exact scalarStops_error (hx e rfl)
  | ok a => exact hf a

theorem scalarStops_require (c : Bool) (code : FaultCode) (kind : FaultKind) (va : Word) :
    ScalarStops (require c code kind va) := by
  unfold require
  split
  · exact scalarStops_ok ()
  · exact scalarStops_error rfl

/-! ### The checks of R29, one by one -/

/-- EngineHere, where an instruction needs an engine. -/
def engineCheck (s : State) (nd : Need) : Except Stop Unit :=
  match nd.engine with
  | some e => require (engineHere s.cur.core e) .engineAbsent .instruction 0
  | none => .ok ()

/-- The trap of a faulted gather unit. -/
def gatherCheck (s : State) (nd : Need) : Except Stop Unit :=
  match s.gatherTrap nd.reads with
  | some t => .error (.trap t)
  | none => .ok ()

/-- The hold at pending registers. -/
def pendingCheck (s : State) (nd : Need) : Except Stop Unit :=
  waitUnless (s.me.pendingMask (nd.reads ++ nd.writes) == 0#8) (.regs (s.me.pendingMask (nd.reads ++ nd.writes)))

/-- The hold at an x register with an XLD in flight. -/
def xregCheck (s : State) (nd : Need) : Except Stop Unit :=
  match nd.xs.find? fun x => (Tab.look s.myCore.xld x.val).isSome with
  | some x => .error (.hold (.xreg x.val))
  | none => .ok ()

/-- The trap of a refused operand. -/
def refusedCheck (s : State) (nd : Need) : Except Stop Unit :=
  match nd.reads.find? fun r => s.me.refused[r].isSome with
  | some r =>
    match s.me.refused[r] with
    | some c => trapAt c.code c.kind (s.me.reg r)
    | none => .ok ()
  | none => .ok ()

/-- `ready` is the checks in their order. -/
theorem ready_eq_checks (s : State) (nd : Need) :
    s.ready nd = (do
      require (!s.me.unc) .uncorrected .context 0
      require nd.legal .illegal .instruction 0
      require (!nd.priv || s.me.sup) .privilege .instruction 0
      s.engineCheck nd
      s.gatherCheck nd
      s.pendingCheck nd
      s.xregCheck nd
      s.refusedCheck nd) := by
  unfold ready engineCheck gatherCheck pendingCheck xregCheck refusedCheck
  cases nd.engine <;> cases s.gatherTrap nd.reads <;>
    cases nd.xs.find? fun x => (Tab.look s.myCore.xld x.val).isSome <;> rfl

theorem gatherTrap_owed {s : State} {rs : List Reg} {t : Trap} (h : s.gatherTrap rs = some t) : t.owed = none := by
  unfold gatherTrap Gather.faultOf at h
  dsimp only at h
  split at h
  · split at h
    · obtain ⟨f, -, rfl⟩ := Option.map_eq_some_iff.mp h
      rfl
    · cases h
  · cases h

/-- The checks of R29 stop an instruction by a trap without an owed refusal or by a hold at registers. -/
theorem scalarStops_ready (s : State) (nd : Need) : ScalarStops (s.ready nd) := by
  have hengine : ScalarStops (s.engineCheck nd) := by
    unfold engineCheck
    split
    · exact scalarStops_require _ _ _ _
    · exact scalarStops_ok ()
  have hgather : ScalarStops (s.gatherCheck nd) := by
    unfold gatherCheck
    split
    · next t h => exact scalarStops_error (gatherTrap_owed h)
    · exact scalarStops_ok ()
  have hpending : ScalarStops (s.pendingCheck nd) := by
    unfold pendingCheck waitUnless
    split
    · exact scalarStops_ok ()
    · exact scalarStops_error trivial
  have hxreg : ScalarStops (s.xregCheck nd) := by
    unfold xregCheck
    split
    · exact scalarStops_error trivial
    · exact scalarStops_ok ()
  have hrefused : ScalarStops (s.refusedCheck nd) := by
    unfold refusedCheck
    split
    · split
      · exact scalarStops_error rfl
      · exact scalarStops_ok ()
    · exact scalarStops_ok ()
  rw [ready_eq_checks]
  exact scalarStops_bind (scalarStops_require _ _ _ _) fun _ => scalarStops_bind (scalarStops_require _ _ _ _) fun _ =>
    scalarStops_bind (scalarStops_require _ _ _ _) fun _ => scalarStops_bind hengine fun _ => scalarStops_bind hgather fun _ =>
      scalarStops_bind hpending fun _ => scalarStops_bind hxreg fun _ => hrefused

variable {w : List Reg} {fl : Bool}

theorem framed_coreIssued (s : State) (ac rc : Nat) : Framed w fl s (s.onMyCore (coreIssued ac rc)) :=
  framed_onMyCore s rfl rfl rfl

/-- Taking a trap that carries no owed refusal is framed. -/
theorem framed_raiseFault (s : State) (t : Trap) (h : t.owed = none) :
    Framed w fl s (s.raiseFault s.cur.core s.cur.slot t) := by
  obtain ⟨net, hnet⟩ := s.sendFault_eq_net s.cur.core s.cur.slot s.me t
  have he : s.raiseFault s.cur.core s.cur.slot t = State.onMe { s with net := net } fun f =>
      { f with frozen := true, hold := none, settle := none, walked := [] } := by
    change (s.sendFault s.cur.core s.cur.slot s.me t).setSlot _ _ _ = _
    rw [hnet, h]
    rfl
  rw [he]
  exact (framed_net s net).trans (framed_onMe _ (.sequencing rfl))

/-- A hold at registers leaves the instruction unissued. -/
theorem stopped_regs (s : State) (m : BitVec 8) :
    s.stopped (.hold (.regs m)) =
      s.onMe fun f => { f with hold := some (.regs m), readyAt := max f.readyAt (s.coreAc s.cur.core + 1) } :=
  onMe_onMe s (fun f => { f with hold := some (.regs m) }) _

theorem stopped_xreg (s : State) (n : Nat) :
    s.stopped (.hold (.xreg n)) =
      s.onMe fun f => { f with hold := some (.xreg n), readyAt := max f.readyAt (s.coreAc s.cur.core + 1) } :=
  onMe_onMe s (fun f => { f with hold := some (.xreg n) }) _

theorem framed_stopped (s : State) {st : Stop} (h : ScalarStop st) : Framed w fl s (s.stopped st) := by
  match st, h with
  | .trap t, h => exact (framed_coreIssued s _ _).trans (framed_raiseFault _ t h)
  | .hold (.regs m), _ =>
    rw [stopped_regs]
    exact framed_onMe s (.sequencing rfl)
  | .hold (.xreg n), _ =>
    rw [stopped_xreg]
    exact framed_onMe s (.sequencing rfl)

theorem framed_retired {s u : State} (passes : Nat) (h : Framed w fl s u) : Framed w fl s (retired s passes u) := by
  have h1 := h.trans (framed_coreIssued u (s.coreAc s.cur.core) s.rc)
  have hc : (u.onMyCore (coreIssued (s.coreAc s.cur.core) s.rc)) = u.onCore s.cur.core (coreIssued (s.coreAc s.cur.core) s.rc) := by
    rw [onMyCore, h.cur]
  rw [hc] at h1
  unfold retired
  dsimp only
  split
  · refine h1.trans ?_
    have := framed_onMe (w := w) (fl := fl) (u.onCore s.cur.core (coreIssued (s.coreAc s.cur.core) s.rc))
      (f := slotBusy (s.coreAc s.cur.core + 8 * passes)) (.sequencing rfl)
    rwa [onMe, onCore_cur, h.cur] at this
  · exact h1

/-- An effect that is framed and that stops as scalar forms do makes an instruction that is framed in every outcome. -/
theorem framed_issue {s t : State} {nd : Need} {body : State → Except Stop State}
    (hb : ∀ u v, body u = .ok v → Framed w fl u v) (he : ∀ u, ScalarStops (body u)) (h : s.issue nd body = .next t) :
    Framed w fl s t := by
  rcases issue_inv h with ⟨v, hv, rfl⟩ | ⟨st, hst, rfl⟩
  · exact framed_retired _ ((framed_onMe s (.sequencing rfl)).trans (hb _ v hv))
  · rcases hst with hst | hst
    · exact framed_stopped s (scalarStops_ready s nd st hst)
    · exact framed_stopped s (he _ st hst)

/-! ### The shapes of the scalar forms -/

theorem framed_setReg {r : Reg} (h : r ∈ w) (s : State) (v : Word) : Framed w fl s (s.setReg r v) :=
  framed_onMe s (.write h v _)

theorem framed_jump (s : State) (a : Word) : Framed w fl s (s.jump a) := framed_onMe s (.sequencing rfl)

/-- A form that writes one register (R48 to R52, R56, R26). -/
theorem framed_compute {s t : State} {nd : Need} {rd : Reg} {v : State → Word} (h : s.compute nd rd v = .next t) :
    Framed [rd] fl s t :=
  framed_issue (fun u _ hu => by cases hu; exact framed_setReg (by simp) u _) (fun _ => scalarStops_ok _) h

theorem framed_branch {s t : State} {len : Nat} {a b : Reg} {off : Word} {taken : Word → Word → Bool}
    (h : branch s len a b off taken = .next t) : Framed [] fl s t :=
  framed_issue (fun u _ hu => by
    cases hu
    split
    · exact framed_jump u _
    · exact .refl u) (fun _ => scalarStops_ok _) h

theorem framed_jumpRel {s t : State} {len : Nat} {off : Word} (h : jumpRel s len off = .next t) : Framed [] fl s t :=
  framed_issue (fun u _ hu => by cases hu; exact framed_jump u _) (fun _ => scalarStops_ok _) h

theorem framed_jal {s t : State} {rd : Reg} {imm : BitVec 22} (h : execJal rd imm s = .next t) : Framed [rd] fl s t :=
  framed_issue (fun u _ hu => by cases hu; exact (framed_setReg (by simp) u _).trans (framed_jump _ _))
    (fun _ => scalarStops_ok _) h

theorem framed_loop {s t : State} {rd : Reg} {off : BitVec 16} (h : execLoop rd off s = .next t) : Framed [rd] fl s t :=
  framed_issue (fun u _ hu => by
    cases hu
    split
    · exact (framed_setReg (by simp) u _).trans (framed_jump _ _)
    · exact framed_setReg (by simp) u _) (fun _ => scalarStops_ok _) h

/-- The links of a register jump: the registers of the list, each written. -/
theorem framed_links (v : Word) (l : List Reg) (hl : ∀ r ∈ l, r ∈ w) (u : State) :
    Framed w fl u (l.foldl (fun x r => x.setReg r v) u) := by
  induction l generalizing u with
  | nil => exact .refl u
  | cons r l ih =>
    exact (framed_setReg (hl r (by simp)) u v).trans (ih (fun q hq => hl q (by simp [hq])) _)

theorem framed_jumpReg {s t : State} {len : Nat} {a : Reg} {off : Word} {link : List Reg}
    (h : jumpReg s len a off link = .next t) : Framed link fl s t := by
  refine framed_issue (fun u v hu => ?_) (fun u => scalarStops_bind (scalarStops_require _ _ _ _) fun _ => scalarStops_ok _) h
  cases hq : require (!(u.reg a + off).getLsbD 0) .align .instruction (u.reg a + off) with
  | error st =>
    simp only [hq] at hu
    cases hu
  | ok _ =>
    simp only [hq] at hu
    cases hu
    exact (framed_links _ link (fun _ hr => hr) u).trans (framed_jump _ _)

theorem framed_hint {s t : State} {len : Nat} (h : hint s len = .next t) : Framed [] fl s t :=
  framed_issue (fun u _ hu => by cases hu; exact .refl u) (fun _ => scalarStops_ok _) h

/-- The flags that a float form raises stand in bits [12:8] of cr.fpmode (R59). -/
theorem raiseFlags_and_keep (m : Word) (x : FpFlags) : raiseFlags m x &&& ~~~0x1F00#64 = m &&& ~~~0x1F00#64 := by
  have hx : x.bits &&& ~~~0x1F00#64 = 0#64 := by
    obtain ⟨nv, dz, ovf, unf, nx⟩ := x
    revert nv dz ovf unf nx
    decide
  rw [raiseFlags, BitVec.and_or_distrib_right, hx, BitVec.or_zero]

theorem framed_floatForm {s t : State} {p : Nat} {reads : List Reg} {rd : Reg} {f : State → Word × FpFlags}
    (h : floatForm s p reads rd f = .next t) : Framed [rd] true s t :=
  framed_issue (fun u _ hu => by
    cases hu
    exact (framed_setReg (by simp) u _).trans (framed_onMyCore _ rfl rfl (raiseFlags_and_keep _ _)))
    (fun _ => scalarStops_ok _) h

end State

open State

theorem framed_exec {s t : State} {i : Instr} {w : List Reg} {fl : Bool} (hw : scalarWrites i = some (w, fl))
    (h : exec i s = .next t) : Framed w fl s t := by
  cases i with
  | add | sub | and | or | xor | andn | orn | xnor | mul | mulh | mulhu | min | max | minu | maxu | sll | srl | sra | rol
  | ror | lea =>
    cases hw
    unfold exec at h
    dsimp only [execAdd, execSub, execAnd, execOr, execXor, execAndn, execOrn, execXnor, execMul, execMulh, execMulhu, execMin,
      execMax, execMinu, execMaxu, execSll, execSrl, execSra, execRol, execRor, execLea, binary] at h
    exact framed_compute h
  | seq | sne | slt | sltu | sle | sleu =>
    cases hw
    unfold exec at h
    dsimp only [execSeq, execSne, execSlt, execSltu, execSle, execSleu, compare, binary] at h
    exact framed_compute h
  | div | divu | rem | remu =>
    cases hw
    unfold exec at h
    dsimp only [execDiv, execDivu, execRem, execRemu, divide] at h
    exact framed_compute h
  | mov | clz | ctz | popc | bswap | addi | andi | ori | xori | slti | sltiu | muli | slli | srli | srai | seqi | snei =>
    cases hw
    unfold exec at h
    dsimp only [execMov, execClz, execCtz, execPopc, execBswap, execAddi, execAndi, execOri, execXori, execSlti, execSltiu,
      execMuli, execSlli, execSrli, execSrai, execSeqi, execSnei, unary] at h
    exact framed_compute h
  | sel | li | lis | addpc | liS | aluS | accS | xmovDRead =>
    cases hw
    unfold exec at h
    dsimp only [execSel, execLi, execLis, execAddpc, execLiS, execAluS, execAccS, execXmovDRead] at h
    exact framed_compute h
  | addiS | slliS | srliS | sraiS =>
    cases hw
    unfold exec at h
    dsimp only [execAddiS, execSlliS, execSrliS, execSraiS, compactUnary] at h
    exact framed_compute h
  | beq | bne | blt | bge | bltu | bgeu | beqS | bneS =>
    cases hw
    unfold exec at h
    dsimp only [execBeq, execBne, execBlt, execBge, execBltu, execBgeu, execBeqS, execBneS] at h
    exact framed_branch h
  | j | jS =>
    cases hw
    unfold exec at h
    dsimp only [execJ, execJS] at h
    exact framed_jumpRel h
  | jal =>
    cases hw
    exact framed_jal h
  | loop =>
    cases hw
    exact framed_loop h
  | jalr | jr | jrS =>
    cases hw
    unfold exec at h
    dsimp only [execJalr, execJr, execJrS] at h
    exact framed_jumpReg h
  | nop | nopS =>
    cases hw
    unfold exec at h
    dsimp only [execNop, execNopS] at h
    exact framed_hint h
  | fadd | fsub | fmul | fdiv | fsqrt | fma | fmin | fmax | fabs | fneg | fclass | ftoi | ftou | itof | utof =>
    cases hw
    unfold exec at h
    dsimp only [execFadd, execFsub, execFmul, execFdiv, execFsqrt, execFma, execFmin, execFmax, execFabs, execFneg, execFclass,
      execFtoi, execFtou, execItof, execUtof] at h
    exact framed_floatForm h
  | feq | flt | fle =>
    cases hw
    unfold exec at h
    dsimp only [execFeq, execFlt, execFle, floatCompare] at h
    exact framed_floatForm h
  | ftob | btof | ftoh | htof =>
    cases hw
    unfold exec at h
    dsimp only [execFtob, execBtof, execFtoh, execHtof, floatConvert] at h
    exact framed_floatForm h
  | _ => cases hw

/-- Settles O9: every scalar form is the issue of an effect of one of the shapes above, and each is framed. -/
theorem scalarFrame : Obligations.ScalarFrame := by
  unfold Obligations.ScalarFrame
  intro s t i w fl hw h
  have hf := framed_exec hw h
  exact ⟨hf.outside, hf.core, hf.fibreKept⟩

end Sys2Proof.Machine
end

section
/-!
PROOF. The hints (O6); the moves of x registers, and what pending and refused operands do (O8).
-/

namespace Sys2Proof.Machine

open State

/-! ### Hints -/

/-- A word of major 0x3E is a hint, whatever its other bits (R28). -/
theorem decode32_hint (w : BitVec 32) (hw : w.extractLsb' 9 7 = 0b1111110#7) : ∃ h, decode32 w = .ok (.nop h) := by
  have hm : (Fields.ofWord w).major = 0x3E#6 := by
    have : (w.extractLsb' 9 7).setWidth 6 = 0x3E#6 := by rw [hw]; rfl
    rw [← this]
    simp only [Fields.ofWord]
    ext k hk
    simp
    omega
  refine ⟨(Fields.ofWord w).hint, ?_⟩
  unfold decode32 decodeFields
  rw [hm]
  rfl

/-- The parcels 0x7800 to 0x781F are hints (R28). -/
theorem decode16_hint (p : Parcel) (h1 : 0x7800 ≤ p.toNat) (h2 : p.toNat ≤ 0x781F) : ∃ k, decode16 p = .ok (.nopS k) := by
  have hop : (CompactFields.ofParcel p).op = 15#4 := by
    apply BitVec.eq_of_toNat_eq
    simp [CompactFields.ofParcel, BitVec.extractLsb'_toNat, Nat.shiftRight_eq_div_pow]
    omega
  have hrd : (CompactFields.ofParcel p).rd = 0 := by
    apply Fin.ext
    simp [CompactFields.ofParcel, Nat.shiftRight_eq_div_pow]
    omega
  have hrs : (CompactFields.ofParcel p).rs = 0 := by
    apply Fin.ext
    simp [CompactFields.ofParcel, Nat.shiftRight_eq_div_pow]
    omega
  refine ⟨(CompactFields.ofParcel p).imm, ?_⟩
  unfold decode16 decodeCompact
  rw [hop, hrd, hrs]
  rfl

/-- A hint completes with its length and one pass, and its effect is nothing. -/
theorem hint_next (s : State) (len : Nat) (h : s.Clear [] [] []) : hint s len = .next (s.after len 1 id id) :=
  issue_me s { Need.plain [] [] with len := len } _ id h rfl (fun h => by cases h) (fun _ h => by cases h) (fun _ => ⟨rfl, rfl⟩)
    (by rw [onMe_onMe]; rfl)

/-- Settles O6: the decoder's arm of major 0x3E and of op 15, and the issue of an effect that is nothing. -/
theorem hintsAdvance : Obligations.HintsAdvance := by
  unfold Obligations.HintsAdvance
  exact ⟨decode32_hint, decode16_hint, fun s _ _ hs => ⟨hint_next s 4 hs, hint_next s 2 hs⟩⟩

/-! ### Moves of x registers -/

namespace State

/-- An instruction of one pass whose effect is an x register. -/
theorem issue_setXreg (s : State) (nd : Need) (body : State → Except Stop State) (xn : XIdx) (v : XWord)
    (hc : s.Clear nd.reads nd.writes nd.xs) (hl : nd.legal = true) (hp : nd.priv = false) (he : nd.engine = none)
    (hb : body (s.onMe (slotBegun nd.len)) = .ok ((s.onMe (slotBegun nd.len)).setXreg xn v)) :
    s.issue nd body = .next (s.after nd.len nd.passes id fun c => { c with x := c.x.set xn v }) :=
  issue_core s nd body id (fun c => { c with x := c.x.set xn v }) hc hl (fun h => by rw [hp] at h; cases h)
    (fun _ h => by rw [he] at h; cases h) (fun _ => ⟨rfl, rfl⟩) (fun _ _ _ => rfl) (by rw [hb, onMe_onMe]; rfl)

end State

theorem xset_next (s : State) (xn : XIdx) (a b : Reg) (h : s.Clear [a, b] [] [xn]) :
    exec (.xset xn a b) s = .next (s.after 4 1 id fun c => { c with x := c.x.set xn (s.reg b ++ s.reg a) }) := by
  change execXset xn a b s = _
  exact issue_setXreg s _ _ xn _ h rfl rfl rfl (by rw [reg_begun, reg_begun])

theorem xmov_next (s : State) (xn xm : XIdx) (h : s.Clear [] [] [xn, xm]) :
    exec (.xmov xn xm) s = .next (s.after 4 1 id fun c => { c with x := c.x.set xn (s.xreg xm) }) := by
  change execXmov xn xm s = _
  exact issue_setXreg s _ _ xn _ h rfl rfl rfl (by rw [xreg_begun])

theorem xmovDRead_next (s : State) (rd : Reg) (xn : XIdx) (h : BitVec 1) (hs : s.Clear [] [rd] [xn]) :
    exec (.xmovDRead rd xn h) s = .next (s.wrote rd ((s.xreg xn).extractLsb' (64 * h.toNat) 64)) := by
  change execXmovDRead rd xn h s = _
  exact compute_next s _ rd _ _ hs rfl (fun h => by cases h) (fun _ h => by cases h) (by rw [xreg_begun])

/-- An x register with one half replaced (R26). -/
def withHalf (x : XWord) (h : BitVec 1) (v : Word) : XWord :=
  if h = 0 then x.extractLsb' 64 64 ++ v else v ++ x.extractLsb' 0 64

/-- An x register with one word replaced (R26). -/
def withWord (x : XWord) (w : BitVec 2) (v : Word) : XWord :=
  (x &&& ~~~(0xFFFFFFFF#128 <<< (32 * w.toNat))) ||| ((v.setWidth 32).setWidth 128 <<< (32 * w.toNat))

theorem xmovDWrite_next (s : State) (xn : XIdx) (a : Reg) (h : BitVec 1) (hs : s.Clear [a] [] [xn]) :
    exec (.xmovDWrite xn a h) s =
      .next (s.after 4 1 id fun c => { c with x := c.x.set xn (withHalf (s.xreg xn) h (s.reg a)) }) := by
  change execXmovDWrite xn a h s = _
  exact issue_setXreg s _ _ xn _ hs rfl rfl rfl (by rw [reg_begun, xreg_begun]; rfl)

theorem xmovW_next (s : State) (xn : XIdx) (a : Reg) (w : BitVec 2) (hs : s.Clear [a] [] [xn]) :
    exec (.xmovW xn a w) s =
      .next (s.after 4 1 id fun c => { c with x := c.x.set xn (withWord (s.xreg xn) w (s.reg a)) }) := by
  change execXmovW xn a w s = _
  exact issue_setXreg s _ _ xn _ hs rfl rfl rfl (by rw [reg_begun, xreg_begun]; rfl)

theorem withHalf_same (x : XWord) (h : BitVec 1) (v : Word) : (withHalf x h v).extractLsb' (64 * h.toNat) 64 = v := by
  obtain rfl | rfl : h = 0 ∨ h = 1 := by revert h; decide
  · exact BitVec.extractLsb'_append_eq_right (a := x.extractLsb' 64 64) (b := v)
  · exact BitVec.extractLsb'_append_eq_left (a := v) (b := x.extractLsb' 0 64)

theorem withHalf_other (x : XWord) (h : BitVec 1) (v : Word) :
    (withHalf x h v).extractLsb' (64 - 64 * h.toNat) 64 = x.extractLsb' (64 - 64 * h.toNat) 64 := by
  obtain rfl | rfl : h = 0 ∨ h = 1 := by revert h; decide
  · exact BitVec.extractLsb'_append_eq_left (a := x.extractLsb' 64 64) (b := v)
  · exact BitVec.extractLsb'_append_eq_right (a := v) (b := x.extractLsb' 0 64)

/-- The bits of an x register with one word replaced: the word's 32 are those of the g register, the others are kept. -/
theorem withWord_getLsbD (x : XWord) (w : BitVec 2) (v : Word) (n : Nat) (hn : n < 128) :
    (withWord x w v).getLsbD n =
      if 32 * w.toNat ≤ n ∧ n < 32 * w.toNat + 32 then v.getLsbD (n - 32 * w.toNat) else x.getLsbD n := by
  have hmask : ∀ k : Fin 128, (0xFFFFFFFF#128).getLsbD k = decide (k.val < 32) := by decide
  unfold withWord
  simp only [BitVec.getLsbD_or, BitVec.getLsbD_and, BitVec.getLsbD_not, BitVec.getLsbD_shiftLeft, BitVec.getLsbD_setWidth,
    hmask ⟨n - 32 * w.toNat, by omega⟩, hn]
  by_cases hlow : n < 32 * w.toNat
  · rw [if_neg (by omega)]
    simp [hlow]
  · by_cases hin : n - 32 * w.toNat < 32
    · rw [if_pos (by omega)]
      simp [hlow, hin]
      omega
    · rw [if_neg (by omega)]
      simp [hin]

theorem withWord_same (x : XWord) (w : BitVec 2) (v : Word) :
    (withWord x w v).extractLsb' (32 * w.toNat) 32 = v.setWidth 32 := by
  apply BitVec.eq_of_getLsbD_eq
  intro k hk
  simp only [BitVec.getLsbD_extractLsb', BitVec.getLsbD_setWidth, hk]
  rw [withWord_getLsbD _ _ _ _ (by omega), if_pos (by omega)]
  simp

theorem withWord_other (x : XWord) (w : BitVec 2) (v : Word) (i : Nat) (hi : i < 4) (hne : i ≠ w.toNat) :
    (withWord x w v).extractLsb' (32 * i) 32 = x.extractLsb' (32 * i) 32 := by
  apply BitVec.eq_of_getLsbD_eq
  intro k hk
  simp only [BitVec.getLsbD_extractLsb']
  rw [withWord_getLsbD _ _ _ _ (by omega), if_neg (by omega)]

theorem xRegisterMoves : Piece.XRegisterMoves := by
  intro s xn xm rd a b h w put
  refine ⟨fun hs => ?_, fun hs => xmov_next s xn xm hs, fun hs => xmovDRead_next s rd xn h hs, fun hs => ⟨?_, ?_⟩⟩
  · have hv : BitVec.ofNat 128 ((s.reg b).toNat * 2 ^ 64 + (s.reg a).toNat) = s.reg b ++ s.reg a := by
      apply BitVec.eq_of_toNat_eq
      rw [BitVec.toNat_append, BitVec.toNat_ofNat, ← Nat.shiftLeft_add_eq_or_of_lt (s.reg a).isLt, Nat.shiftLeft_eq]
      omega
    rw [hv]
    exact xset_next s xn a b hs
  · exact ⟨_, xmovDWrite_next s xn a h hs, withHalf_same .., withHalf_other ..⟩
  · exact ⟨_, xmovW_next s xn a w hs, withWord_same .., withWord_other _ _ _⟩

/-! ### Pending and refused operands -/

/-- A bit of the mask of pending registers: the register stands in the list and is pending. -/
theorem Slot.pendingMask_getLsbD (f : Slot) (rs : List Reg) (r : Reg) (hr : r ∈ rs) :
    (f.pendingMask rs).getLsbD r.val = f.pending r := by
  have hbit : ∀ q r : Reg, (1#8 <<< q.val).getLsbD r.val = decide (r = q) := by decide
  have key : ∀ (l : List Reg) (m : BitVec 8),
      (l.foldl (fun m r => if f.pending r then m ||| (1#8 <<< r.val) else m) m).getLsbD r.val =
        (m.getLsbD r.val || (decide (r ∈ l) && f.pending r)) := by
    intro l
    induction l with
    | nil => simp
    | cons q l ih =>
      intro m
      rw [List.foldl_cons, ih]
      have hstep : (if f.pending q then m ||| (1#8 <<< q.val) else m).getLsbD r.val =
          (m.getLsbD r.val || (decide (r = q) && f.pending q)) := by
        split
        · next hp => rw [BitVec.getLsbD_or, hbit, hp, Bool.and_true]
        · next hp => rw [Bool.not_eq_true] at hp; rw [hp, Bool.and_false, Bool.or_false]
      rw [hstep]
      by_cases hrq : r = q
      · subst hrq
        cases f.pending r <;> simp
      · simp [hrq]
  rw [Slot.pendingMask, key]
  simp [hr]

namespace State

/-- A check that fails stops the instruction. -/
theorem issue_stop (s : State) (nd : Need) (body : State → Except Stop State) (st : Stop) (hl : s.me.live = true)
    (hf : s.me.frozen = false) (h : s.ready nd = .error st) : s.issue nd body = .next (s.stopped st) := by
  unfold issue
  rw [hl, hf, h]
  rfl

/-- An instruction that its word makes legal, unprivileged and of no engine comes to its registers. -/
theorem ready_of_plain (s : State) (nd : Need) (hu : s.me.unc = false) (hl : nd.legal = true) (hp : nd.priv = false)
    (he : nd.engine = none) : s.ready nd = (do
      s.gatherCheck nd
      s.pendingCheck nd
      s.xregCheck nd
      s.refusedCheck nd) := by
  rw [ready_eq_checks, hu, hl, hp, engineCheck, he]
  rfl

/-- The mask of an instruction with a register pending is not 0. -/
theorem pendingMask_ne_zero {f : Slot} {rs : List Reg} {r : Reg} (hr : r ∈ rs) (hp : f.pending r = true) :
    f.pendingMask rs ≠ 0#8 := fun h => by
  have hb := f.pendingMask_getLsbD rs r hr
  rw [h, hp] at hb
  simp at hb

theorem gatherCheck_ok (s : State) (nd : Need) (h : s.gatherTrap nd.reads = none) : s.gatherCheck nd = .ok () := by
  rw [gatherCheck, h]

/-- Without a faulted gather unit an instruction with a register pending is held at its registers. -/
theorem ready_pending (s : State) (nd : Need) (hu : s.me.unc = false) (hl : nd.legal = true) (hp : nd.priv = false)
    (he : nd.engine = none) (hg : s.myCore.gk.mode ≠ .faulted) (hm : s.me.pendingMask (nd.reads ++ nd.writes) ≠ 0#8) :
    s.ready nd = .error (.hold (.regs (s.me.pendingMask (nd.reads ++ nd.writes)))) := by
  have hgt : s.gatherTrap nd.reads = none := by
    unfold gatherTrap
    simp [hg]
  rw [ready_of_plain s nd hu hl hp he, gatherCheck_ok s nd hgt, pendingCheck, waitUnless, beq_eq_false_iff_ne.mpr hm]
  rfl

/-- An instruction without a pending register traps for the first of its sources that is refused. -/
theorem ready_refused (s : State) (nd : Need) (r : Reg) (c : Refused) (hu : s.me.unc = false) (hl : nd.legal = true)
    (hp : nd.priv = false) (he : nd.engine = none) (hx : nd.xs = []) (hm : ∀ q ∈ nd.reads ++ nd.writes, s.me.mark[q] = none)
    (hr : (nd.reads.find? fun q => s.me.refused[q].isSome) = some r) (hc : s.me.refused[r] = some c) :
    s.ready nd = .error (.trap (trapOf c.code c.kind (s.reg r))) := by
  rw [ready_of_plain s nd hu hl hp he, gatherCheck_ok s nd (gatherTrap_none s _ fun q hq => hm q (by simp [hq])), pendingCheck,
    Slot.pendingMask_eq_zero _ _ hm, xregCheck, hx, refusedCheck, hr]
  simp only [hc]
  rfl

end State

/-- A scalar form of two sources is the issue of an instruction that reads them, and rd in SEL and FMA, and writes rd. -/
theorem exec_twoSource {i : Instr} {rd a b : Reg} (h : twoSourceForm i = some (rd, a, b)) (s : State) :
    ∃ reads passes body, exec i s = s.issue { Need.plain reads [rd] with passes := passes } body ∧
      (reads = [a, b] ∨ reads = [a, b, rd]) ∧ ((∃ m, i = .fma rd a b m) ∨ i = .sel rd a b → reads = [a, b, rd]) := by
  cases i with
  | add | sub | and | or | xor | andn | orn | xnor | mul | mulh | mulhu | min | max | minu | maxu | sll | srl | sra | rol
  | ror | lea =>
    cases h
    unfold exec
    dsimp only [execAdd, execSub, execAnd, execOr, execXor, execAndn, execOrn, execXnor, execMul, execMulh, execMulhu, execMin,
      execMax, execMinu, execMaxu, execSll, execSrl, execSra, execRol, execRor, execLea, binary, compute]
    exact ⟨_, _, _, rfl, .inl rfl, by rintro (⟨m, h⟩ | h) <;> cases h⟩
  | seq | sne | slt | sltu | sle | sleu =>
    cases h
    unfold exec
    dsimp only [execSeq, execSne, execSlt, execSltu, execSle, execSleu, compare, binary, compute]
    exact ⟨_, _, _, rfl, .inl rfl, by rintro (⟨m, h⟩ | h) <;> cases h⟩
  | div | divu | rem | remu =>
    cases h
    unfold exec
    dsimp only [execDiv, execDivu, execRem, execRemu, divide, compute]
    exact ⟨_, _, _, rfl, .inl rfl, by rintro (⟨m, h⟩ | h) <;> cases h⟩
  | fadd | fsub | fmul | fdiv | fmin | fmax =>
    cases h
    unfold exec
    dsimp only [execFadd, execFsub, execFmul, execFdiv, execFmin, execFmax, floatForm]
    exact ⟨_, _, _, rfl, .inl rfl, by rintro (⟨m, h⟩ | h) <;> cases h⟩
  | feq | flt | fle =>
    cases h
    unfold exec
    dsimp only [execFeq, execFlt, execFle, floatCompare, floatForm]
    exact ⟨_, _, _, rfl, .inl rfl, by rintro (⟨m, h⟩ | h) <;> cases h⟩
  | sel | fma =>
    cases h
    unfold exec
    dsimp only [execSel, execFma, floatForm, compute]
    exact ⟨_, _, _, rfl, .inr rfl, fun _ => rfl⟩
  | _ => cases h

theorem pendingOperands : Piece.PendingOperands := by
  intro s i rd a b hi hlive hfr hunc hg hpend
  obtain ⟨reads, passes, body, he, hreads, -⟩ := exec_twoSource hi s
  let nd : Need := { Need.plain reads [rd] with passes := passes }
  have hmem : ∀ r ∈ [a, b, rd], r ∈ nd.reads ++ nd.writes := by
    rcases hreads with rfl | rfl <;> simp [nd, Need.plain]
  obtain ⟨r, hr, hp⟩ : ∃ r ∈ [a, b, rd], s.me.pending r = true := by simpa using hpend
  have hready := ready_pending s nd hunc rfl rfl rfl hg (pendingMask_ne_zero (hmem r hr) hp)
  have hexec := he.trans (issue_stop s nd body _ hlive hfr hready)
  rw [stopped_regs] at hexec
  refine ⟨_, _, hexec, ?_, ?_, ?_, ?_, ?_, rfl, rfl, fun q hq => s.me.pendingMask_getLsbD _ q (hmem q hq)⟩ <;>
    rw [me_onMe]

theorem refusedOperands : Piece.RefusedOperands := by
  intro s i rd a b c hi hlive hfr hunc hm
  obtain ⟨reads, passes, body, he, hreads, hrd⟩ := exec_twoSource hi s
  let nd : Need := { Need.plain reads [rd] with passes := passes }
  have hmarks : ∀ q ∈ nd.reads ++ nd.writes, s.me.mark[q] = none := by
    rcases hreads with rfl | rfl <;> simpa [nd, Need.plain] using hm
  have trapFor (r : Reg) (hr : (reads.find? fun q => s.me.refused[q].isSome) = some r) (hc : s.me.refused[r] = some c) :
      exec i s = .next (s.trapped (trapOf c.code c.kind (s.reg r))) :=
    he.trans (issue_stop s nd body _ hlive hfr (ready_refused s nd r c hunc rfl rfl rfl rfl hmarks hr hc))
  refine ⟨fun ha => trapFor a ?_ ha, fun ha hb => trapFor b ?_ hb, fun hi ha hb hd => trapFor rd ?_ hd⟩
  · rcases hreads with rfl | rfl <;> simp only [List.find?_cons, ha, Option.isSome_some]
  · rcases hreads with rfl | rfl <;> simp only [List.find?_cons, ha, hb, Option.isSome_some, Option.isSome_none]
  · simp only [hrd hi, List.find?_cons, ha, hb, hd, Option.isSome_some, Option.isSome_none]

/-- Settles O8: the moves write what `withHalf` and `withWord` give; a pending or a refused operand stops the issue at its check
of R29. -/
theorem xRegistersAndPendingOperands : Obligations.XRegistersAndPendingOperands := by
  unfold Obligations.XRegistersAndPendingOperands
  exact ⟨xRegisterMoves, pendingOperands, refusedOperands⟩

end Sys2Proof.Machine
end

section
/-!
PROOF. The checks of a load, a store and an atomic before it is performed (O12).
-/

namespace Sys2Proof.Machine

open State

/-! ### What the forms of O12 execute -/

theorem exec_loadForm {i : Instr} {n len : Nat} {sg : Bool} {rd base : Reg} {ea : MemMode}
    (h : loadForm i = some (n, len, sg, rd, base, ea)) (s : State) : exec i s = load s len sg n rd base ea := by
  cases i with
  | ldB | ldH | ldW | ldD | ldBu | ldHu | ldWu | ldS | ldpS =>
    cases h
    rfl
  | _ => cases h

theorem exec_storeForm {i : Instr} {n len : Nat} {rd base : Reg} {ea : MemMode}
    (h : storeForm i = some (n, len, rd, base, ea)) (s : State) : exec i s = store s len n rd base ea := by
  cases i with
  | stB | stH | stW | stD | stS | stpS =>
    cases h
    rfl
  | _ => cases h

theorem exec_atomForm {i : Instr} {o : AtomOp} {n : Nat} {rd base idx : Reg} {ea : AtomMode}
    (h : atomForm i = some (o, n, rd, base, idx, ea)) (s : State) : exec i s = atomicOp s o n rd base idx ea := by
  cases i with
  | aaddW | aaddD | aswapW | aswapD | aminW | aminD | amaxW | amaxD | aandW | aandD | aorW | aorD | axorW | axorD | acasW
  | acasD =>
    cases h
    rfl
  | _ => cases h

/-! ### The checks -/

/-- An effective address at the effect is that at issue. -/
theorem memEA_begun (s : State) (len : Nat) (base : Reg) (n : Nat) (ea : MemMode) :
    memEA (s.onMe (slotBegun len)) base n ea = memEA s base n ea := by
  cases ea <;> simp [memEA]

/-- The check of mode 10 (R24): it fails where the base is written as rd. -/
theorem postCheck_eq (ea : MemMode) (rd base : Reg) :
    (!(memIsPost ea && rd == base)) = decide (¬(ea = .postInc ∧ rd = base)) := by
  cases ea <;> simp [memIsPost, Bool.beq_eq_decide_eq]

theorem atomMem_eq_postInc (am : AtomMode) : atomMem am = .postInc ↔ am = .postInc := by cases am <;> simp [atomMem]

theorem require_of_true {c : Bool} (h : c = true) (code : FaultCode) (kind : FaultKind) (va : Word) :
    require c code kind va = .ok () := by
  rw [h]
  rfl

theorem require_of_false {c : Bool} (h : c = false) (code : FaultCode) (kind : FaultKind) (va : Word) :
    require c code kind va = .error (.trap (trapOf code kind va)) := by
  rw [h]
  rfl

namespace State

/-- A user instruction without an engine, whose registers are clear and whose effect traps. -/
theorem issue_trapped (s : State) (nd : Need) (body : State → Except Stop State) (t : Trap)
    (h : s.Clear nd.reads nd.writes nd.xs) (hl : nd.legal = true) (hp : nd.priv = false) (he : nd.engine = none)
    (hb : body (s.onMe (slotBegun nd.len)) = .error (.trap t)) : s.issue nd body = .next (s.trapped t) :=
  issue_trap s nd body t h hl (fun h => by rw [hp] at h; cases h) (fun _ h => by rw [he] at h; cases h) hb

end State

section

variable {s : State} {len n : Nat} {sg : Bool} {o : AtomOp} {rd base idx : Reg} {ea : MemMode} {am : AtomMode}

theorem load_illegal (hs : s.Clear (base :: memReads ea) (rd :: memWrites base ea) [])
    (hpost : ea = .postInc ∧ rd = base) : load s len sg n rd base ea = .next (s.trapped (trapOf .illegal .load 0)) := by
  unfold load
  refine issue_trapped s _ _ _ hs rfl rfl rfl ?_
  rw [postCheck_eq, require_of_false (decide_eq_false (not_not_intro hpost))]
  rfl

theorem load_page (hs : s.Clear (base :: memReads ea) (rd :: memWrites base ea) []) (hok : ¬(ea = .postInc ∧ rd = base))
    (hc : canonical (memEA s base n ea) = false) :
    load s len sg n rd base ea = .next (s.trapped (trapOf .page .load (memEA s base n ea))) := by
  unfold load
  refine issue_trapped s _ _ _ hs rfl rfl rfl ?_
  rw [postCheck_eq, require_of_true (decide_eq_true hok)]
  simp only [memEA_begun, require_of_false hc]
  rfl

theorem load_align (hs : s.Clear (base :: memReads ea) (rd :: memWrites base ea) []) (hok : ¬(ea = .postInc ∧ rd = base))
    (hc : canonical (memEA s base n ea) = true) (ha : (memEA s base n ea).toNat % n ≠ 0) :
    load s len sg n rd base ea = .next (s.trapped (trapOf .align .load (memEA s base n ea))) := by
  unfold load
  refine issue_trapped s _ _ _ hs rfl rfl rfl ?_
  rw [postCheck_eq, require_of_true (decide_eq_true hok)]
  simp only [memEA_begun, require_of_true hc, require_of_false (beq_eq_false_iff_ne.mpr ha)]
  rfl

theorem store_page (hs : s.Clear (rd :: base :: memReads ea) (memWrites base ea) [])
    (hc : canonical (memEA s base n ea) = false) :
    store s len n rd base ea = .next (s.trapped (trapOf .page .store (memEA s base n ea))) := by
  unfold store
  refine issue_trapped s _ _ _ hs rfl rfl rfl ?_
  simp only [memEA_begun, require_of_false hc]
  rfl

theorem store_align (hs : s.Clear (rd :: base :: memReads ea) (memWrites base ea) [])
    (hc : canonical (memEA s base n ea) = true) (ha : (memEA s base n ea).toNat % n ≠ 0) :
    store s len n rd base ea = .next (s.trapped (trapOf .align .store (memEA s base n ea))) := by
  unfold store
  refine issue_trapped s _ _ _ hs rfl rfl rfl ?_
  simp only [memEA_begun, require_of_true hc, require_of_false (beq_eq_false_iff_ne.mpr ha)]
  rfl

theorem atomic_illegal (hs : s.Clear (base :: idx :: (if o = .cas then [rd] else [])) (rd :: memWrites base (atomMem am)) [])
    (hpost : atomMem am = .postInc ∧ rd = base) : atomicOp s o n rd base idx am = .next (s.trapped (trapOf .illegal .atomic 0)) := by
  unfold atomicOp
  refine issue_trapped s _ _ _ hs rfl rfl rfl ?_
  rw [postCheck_eq, require_of_false (decide_eq_false (not_not_intro hpost))]
  rfl

theorem atomic_page (hs : s.Clear (base :: idx :: (if o = .cas then [rd] else [])) (rd :: memWrites base (atomMem am)) []) (hok : ¬(atomMem am = .postInc ∧ rd = base))
    (hc : canonical (memEA s base n (atomMem am)) = false) :
    atomicOp s o n rd base idx am = .next (s.trapped (trapOf .page .atomic (memEA s base n (atomMem am)))) := by
  unfold atomicOp
  refine issue_trapped s _ _ _ hs rfl rfl rfl ?_
  rw [postCheck_eq, require_of_true (decide_eq_true hok)]
  simp only [memEA_begun, require_of_false hc]
  rfl

theorem atomic_align (hs : s.Clear (base :: idx :: (if o = .cas then [rd] else [])) (rd :: memWrites base (atomMem am)) []) (hok : ¬(atomMem am = .postInc ∧ rd = base))
    (hc : canonical (memEA s base n (atomMem am)) = true) (ha : (memEA s base n (atomMem am)).toNat % n ≠ 0) :
    atomicOp s o n rd base idx am = .next (s.trapped (trapOf .align .atomic (memEA s base n (atomMem am)))) := by
  unfold atomicOp
  refine issue_trapped s _ _ _ hs rfl rfl rfl ?_
  rw [postCheck_eq, require_of_true (decide_eq_true hok)]
  simp only [memEA_begun, require_of_true hc, require_of_false (beq_eq_false_iff_ne.mpr ha)]
  rfl

end

/-- Settles O12: the checks stand first in the effect of the three forms, in this order. -/
theorem accessChecks : Obligations.AccessChecks := by
  unfold Obligations.AccessChecks
  intro s i o n len sg rd base idx ea am
  refine ⟨fun hi hs => ?_, fun hi hs => ?_, fun hi hs => ?_⟩
  · rw [exec_loadForm hi]
    exact ⟨fun hea hrd => load_illegal hs ⟨hea, hrd⟩, fun hok => ⟨load_page hs hok, load_align hs hok⟩⟩
  · rw [exec_storeForm hi]
    exact ⟨store_page hs, store_align hs⟩
  · rw [exec_atomForm hi, ← atomMem_eq_postInc]
    exact ⟨fun hea hrd => atomic_illegal hs ⟨hea, hrd⟩, fun hok => ⟨atomic_page hs hok, atomic_align hs hok⟩⟩

end Sys2Proof.Machine
end

section
/-!
PROOF. The fields of a message, and the taking of an exception (O24): what is kept, the FAULT record, and where it goes.
-/

namespace Sys2Proof.Machine

/-! ### The fields of a routing word (R77) -/

theorem MsgKind.num_lt (k : MsgKind) : k.num < 16 := by cases k <;> decide

namespace Routing

/-- The fields of a routing word stand in their widths. -/
structure Fits (r : Routing) : Prop where
  tc : r.tc < 4
  prio : r.prio < 4
  dest : r.dest < 2 ^ 16
  task : r.task < 2 ^ 12
  src : r.src < 2 ^ 16

variable {r : Routing}

theorem word_toNat (h : r.Fits) :
    r.word.toNat = r.kind.num * 2 ^ 60 + r.tc * 2 ^ 58 + r.ecls.toNat * 2 ^ 55 + r.prio * 2 ^ 53 + (if r.size then 2 ^ 52 else 0) +
      r.dest * 2 ^ 32 + r.task * 2 ^ 20 + r.src * 2 ^ 4 := by
  obtain ⟨h1, h2, h3, h4, h5⟩ := h
  have hk := r.kind.num_lt
  have he := r.ecls.isLt
  rw [word, Word.ofNat, BitVec.toNat_ofNat]
  apply Nat.mod_eq_of_lt
  split <;> omega

/-- Every field of a routing word is read back. -/
theorem fld_word (h : r.Fits) :
    fld r.word 60 4 = r.kind.num ∧ fld r.word 58 2 = r.tc ∧ fld r.word 55 3 = r.ecls.toNat ∧ fld r.word 53 2 = r.prio ∧
      fld r.word 52 1 = r.size.toNat ∧ fld r.word 32 16 = r.dest ∧ fld r.word 20 12 = r.task ∧ fld r.word 4 16 = r.src := by
  have hw := word_toNat h
  obtain ⟨h1, h2, h3, h4, h5⟩ := h
  have hk := r.kind.num_lt
  have he := r.ecls.isLt
  have hb : (if r.size then 2 ^ 52 else 0) = r.size.toNat * 2 ^ 52 := by cases r.size <;> rfl
  have hs : r.size.toNat < 2 := r.size.toNat_lt
  rw [hb] at hw
  simp only [fld, hw]
  refine ⟨?_, ?_, ?_, ?_, ?_, ?_, ?_, ?_⟩ <;> omega

end Routing

theorem toNat_extractLsb'_eq_fld (w : Word) (lo n : Nat) : (w.extractLsb' lo n).toNat = fld w lo n := by
  rw [BitVec.extractLsb'_toNat, Nat.shiftRight_eq_div_pow, fld]

theorem flag_eq_fld (w : Word) (i : Nat) : flag w i = decide (fld w i 1 = 1) := by
  rw [flag, BitVec.getLsbD, Nat.testBit_eq_decide_div_mod_eq, fld, pow_one]

theorem Msg.prio_val (m : Msg) : m.prio.val = fld m.rw 53 2 := by
  rw [← toNat_extractLsb'_eq_fld]
  rfl

/-- The fields of a message are those of the routing that it was made with. -/
theorem Msg.fields_of_routing {r : Routing} (h : r.Fits) (sel : Word) (data : List Word) :
    let m : Msg := { rw := r.word, sel := sel, data := data }
    m.kind = r.kind.num ∧ m.tc = r.tc ∧ m.ecls = r.ecls ∧ m.prio.val = r.prio ∧ m.isRecord = r.size ∧ m.dest = r.dest ∧
      m.task = r.task ∧ m.src = r.src := by
  obtain ⟨hkind, htc, hecls, hprio, hsize, hdest, htask, hsrc⟩ := Routing.fld_word h
  generalize r.word = w at *
  refine ⟨hkind, htc, ?_, ?_, ?_, hdest, htask, hsrc⟩
  · exact BitVec.eq_of_toNat_eq ((toNat_extractLsb'_eq_fld _ _ _).trans hecls)
  · exact (Msg.prio_val _).trans hprio
  · rw [Msg.isRecord, flag_eq_fld, hsize]
    cases r.size <;> rfl

/-! ### Sending -/

namespace State

/-- Coming into the mesh leaves a packet's ends, class and load. -/
theorem markHeld_ends (s : State) (p : Packet) :
    (s.markHeld p).src = p.src ∧ (s.markHeld p).dst = p.dst ∧ (s.markHeld p).tc = p.tc ∧ (s.markHeld p).load = p.load := by
  unfold markHeld
  split <;> exact ⟨rfl, rfl, rfl, rfl⟩

/-- A message sent is one packet more in flight. -/
theorem send_eq_net (s : State) (src dst : Port) (r : Routing) (sel : Word) (data : List Word) :
    ∃ p : Packet, s.send src dst r sel data = { s with net := s.net ++ [p] } ∧ p.src = src ∧ p.dst = dst ∧ p.tc = r.tc ∧
      p.load = .msg { rw := r.word, sel := sel, data := data } false :=
  ⟨s.markHeld _, rfl, s.markHeld_ends _⟩

end State

/-! ### Fault records -/

theorem FaultCode.num_lt (c : FaultCode) : c.num < 16 := by cases c <;> decide

theorem FaultKind.num_lt (k : FaultKind) : k.num < 16 := by cases k <;> decide

theorem mkHandle_toNat {rank slot : Nat} (gen : BitVec 8) (hr : rank < 2 ^ 16) (hs : slot < 2 ^ 8) :
    (mkHandle rank slot gen 0).toNat = gen.toNat * 2 ^ 24 + slot * 2 ^ 16 + rank := by
  have hg := gen.isLt
  rw [mkHandle, Word.ofNat, BitVec.toNat_ofNat]
  omega

/-- Word 1 of a fault record (R328). -/
theorem faultWord_toNat (f : Slot) (t : Trap) (hu : t.under < 2 ^ 8) (hc : ∀ o, t.owed = some o → o.count < 2 ^ 8) :
    (Word.ofNat (t.code.num + underOf t * 2 ^ 8 + (if t.owed.isSome then 2 ^ 16 else 0) + (if f.epcv then 2 ^ 18 else 0) +
      t.kind.num * 2 ^ 19 + countOf t * 2 ^ 24)).toNat =
      t.code.num + underOf t * 2 ^ 8 + (if t.owed.isSome then 2 ^ 16 else 0) + (if f.epcv then 2 ^ 18 else 0) +
        t.kind.num * 2 ^ 19 + countOf t * 2 ^ 24 := by
  have hcode := t.code.num_lt
  have hkind := t.kind.num_lt
  have hunder : underOf t < 2 ^ 8 := by
    unfold underOf
    split
    · next o _ => exact lt_trans o.code.num_lt (by decide)
    · exact hu
  have hcount : countOf t < 2 ^ 8 := by
    unfold countOf
    split
    · next o h => exact hc o h
    · decide
  rw [Word.ofNat, BitVec.toNat_ofNat]
  apply Nat.mod_eq_of_lt
  split <;> split <;> omega

namespace State

/-- The eight words of a fault record (R328). -/
theorem faultRecord_eq (s : State) (pid n : Nat) (f : Slot) (t : Trap) :
    s.faultRecord pid n f t =
      [mkHandle (s.rankOf pid) n f.gen 0,
        Word.ofNat (t.code.num + underOf t * 2 ^ 8 + (if t.owed.isSome then 2 ^ 16 else 0) + (if f.epcv then 2 ^ 18 else 0) +
          t.kind.num * 2 ^ 19 + countOf t * 2 ^ 24),
        f.pcWord, t.va, infoOf t, if t.kind = .fetch then 0 else Word.ofNat (s.rawBits pid f), coord pid, s.time (pid / 512)] := by
  unfold faultRecord underOf countOf infoOf
  cases t.owed <;> rfl

/-- The routing of a fault record (R327, R328). -/
def faultRouting (s : State) (pid : Nat) (f : Slot) (dest : Nat) : Routing :=
  { kind := .fault, tc := 1, ecls := f.ecls, prio := f.prio.val, size := true, dest := dest, task := s.taskOf pid f,
    src := s.rankOf pid }

/-- A fault record whose destination has an entry is one message more in flight. -/
theorem sendFault_eq_send (s : State) (pid n : Nat) (f : Slot) (t : Trap) (port : Port)
    (h : s.rankPort pid (s.faultDest pid f t).1 = some port) :
    s.sendFault pid n f t =
      s.send (.core pid) port (s.faultRouting pid f (s.faultDest pid f t).1)
        (Word.ofNat ((s.faultDest pid f t).2 + t.code.num * 2 ^ 8)) (s.faultRecord pid n f t) := by
  unfold sendFault sendToRank
  dsimp only
  rw [h]
  rfl

/-- Taking an exception changes the fibre's slot and what is in flight. -/
theorem raiseFault_of_net {s : State} {pid n : Nat} {t : Trap} {net : List Packet}
    (h : s.sendFault pid n (s.slot pid n) t = { s with net := net }) :
    let u := s.raiseFault pid n t
    let f := s.slot pid n
    u.slot pid n =
        { f with frozen := true, hold := none, settle := none, walked := [], owed := if t.owed.isSome then none else f.owed } ∧
      (∀ q, q ≠ pid → u.core q = s.core q) ∧ (∀ m, m ≠ n → u.slot pid m = s.slot pid m) ∧ u.mem = s.mem ∧ u.net = net := by
  have he : s.raiseFault pid n t = State.setSlot { s with net := net } pid n
      { s.slot pid n with
        frozen := true, hold := none, settle := none, walked := [], owed := if t.owed.isSome then none else (s.slot pid n).owed } := by
    rw [← h]
    rfl
  dsimp only
  rw [he]
  exact ⟨slot_setSlot _ _ _ _, fun q hq => core_onCore_other _ _ _ _ hq, fun m hm => slot_setSlot_other _ _ _ _ _ _ (.inr hm),
    rfl, rfl⟩

end State

open State

theorem faultTaken : Piece.FaultTaken := by
  intro s pid n t port f d hport hd1 hd2 hunder hrank htask hn hcount u
  obtain ⟨p, hp, hsrc, hdst, htc, hload⟩ := s.send_eq_net (.core pid) port (s.faultRouting pid f d.1)
    (Word.ofNat (d.2 + t.code.num * 2 ^ 8)) (s.faultRecord pid n f t)
  obtain ⟨hslot, hcores, hslots, hmem, hnet⟩ := raiseFault_of_net ((s.sendFault_eq_send pid n f t port hport).trans hp)
  have hfits : (s.faultRouting pid f d.1).Fits := ⟨by change 1 < 4; decide, f.prio.isLt, hd1, htask, hrank⟩
  obtain ⟨mkind, mtc, mecls, mprio, mrec, mdest, mtask, msrc⟩ := Msg.fields_of_routing hfits
    (Word.ofNat (d.2 + t.code.num * 2 ^ 8)) (s.faultRecord pid n f t)
  have hsel : (Word.ofNat (d.2 + t.code.num * 2 ^ 8)).toNat = d.2 + t.code.num * 2 ^ 8 := by
    have hcode := t.code.num_lt
    rw [Word.ofNat, BitVec.toNat_ofNat]
    omega
  refine ⟨hslot, hcores, hslots, hmem, p, _, hnet, hsrc, hdst, htc, hload, mkind, mtc, mrec, mecls, Fin.ext mprio, mtask, mdest,
    msrc, hsel, ?_⟩
  simp only [Msg.word, faultRecord_eq, List.getD_cons_zero, List.getD_cons_succ, List.length_cons, List.length_nil]
  exact ⟨trivial, mkHandle_toNat _ hrank hn, faultWord_toNat f t hunder hcount, rfl, trivial, trivial, fun h => if_pos h, trivial, trivial⟩

/-- The destination that a fault record has, where it does not go to Flatar at once: an open one gets it, another does not. -/
theorem faultDest_user {s : State} {pid : Nat} {f : Slot} {t : Trap} (ht : ofFlatar pid f = false) (he : f.epcv = false)
    {d : Nat × Nat}
    (hd : (if (if t.code = .entryFetch then t.under else t.code.num) = 5 then
        (s.pagerEntry pid t.va).getD (fld (s.entryWord pid 2) 0 16, fld (s.entryWord pid 2) 16 8)
      else (fld (s.entryWord pid 2) 0 16, fld (s.entryWord pid 2) 16 8)) = d) :
    ((s.rankPort pid d.1).isSome = true ∧ s.handlerEmpty pid d.2 = false → s.faultDest pid f t = d) ∧
      (¬((s.rankPort pid d.1).isSome = true ∧ s.handlerEmpty pid d.2 = false) →
        s.faultDest pid f t = (serviceRank (pid / 512), 0)) := by
  unfold faultDest
  simp only [ht, he, hd, Bool.or_self, Bool.false_eq_true, if_false]
  constructor
  · rintro ⟨hp, hh⟩
    simp [hh, Option.isSome_iff_ne_none.mp hp]
  · intro hn
    rw [if_pos]
    cases hp : s.rankPort pid d.1 <;> simp_all

/-- A PAGE, also one that a gather kernel met, is code 5 (R328). -/
theorem pageCode_iff (t : Trap) :
    (if t.code = .entryFetch then t.under else t.code.num) = 5 ↔ t.code = .page ∨ (t.code = .entryFetch ∧ t.under = 5) := by
  cases t.code <;> simp [FaultCode.num]

theorem faultDestinations : Piece.FaultDestinations := by
  intro s pid f t r h flatar named open_ page
  have hnamed : named = (fld (s.entryWord pid 2) 0 16, fld (s.entryWord pid 2) 16 8) := by
    simp only [named, fld, pow_zero, Nat.div_one]
  have hflatar : flatar = (serviceRank (pid / 512), 0) := rfl
  rw [hflatar, hnamed]
  refine ⟨fun hf => ?_, fun ht he => ⟨fun hp hr => ?_, fun hn => ?_⟩⟩
  · unfold faultDest
    exact if_pos (by simpa using hf)
  · exact faultDest_user ht he (by rw [if_pos ((pageCode_iff t).mpr hp), hr]; rfl)
  · refine faultDest_user ht he ?_
    rcases hn with hn | hn
    · rw [if_neg (fun hc => hn ((pageCode_iff t).mp hc))]
    · rw [hn, Option.getD_none, ite_self]

/-- Settles O24: the record is the eight words sent to the destination, whose fields are read back; the destination is by cases. -/
theorem exceptionsTaken : Obligations.ExceptionsTaken := by
  unfold Obligations.ExceptionsTaken
  exact ⟨faultTaken, faultDestinations⟩

end Sys2Proof.Machine
end

section
/-!
PROOF. The control registers: what a read depends on, and what CRR reads (O20).
-/

namespace Sys2Proof.Machine

open State

/-! ### What a read depends on -/

/-- cr.class of a fibre, from its core and its slot. -/
def classWord (pid n : Nat) (c : Core) (f : Slot) : Word :=
  let task := if ofFlatar pid f then 0 else if isService pid then 0 else fld c.entry[0] 8 12
  Word.ofNat (f.gen.toNat * 2 ^ 40 + n * 2 ^ 32 + task * 2 ^ 16 + f.prio.val * 2 ^ 4 + f.ecls.toNat)

/-- cr.mbox, from its core and its ring's count. -/
def mboxWord (ring : Nat) (c : Core) : Word :=
  Word.ofNat (min 65535 ring * 2 ^ 32 + (c.reserve.filter fun h => h.msg.kind == MsgKind.migrate.num).length * 2 ^ 16 +
    c.part.length)

/-- cr.barx, from its core. -/
def barxWord (c : Core) : Word :=
  Word.ofNat (c.grant.toNat * 2 ^ 28 + c.cnt0 * 2 ^ 16 + c.arv.toNat * 2 ^ 9 + c.exc.toNat * 2)

/-- A read of a control register, from what it depends on: the core's rank, the region's time and the ring's count, and the core, the
fibre and the cluster alone. -/
def crReadOf (rank : Nat) (time : Word) (ring pid n : Nat) (c : Core) (f : Slot) (k : Cluster) (crn : Nat) : Option Word :=
  if 0x020 ≤ crn ∧ crn < 0x030 then some (Tab.read c.skey 0 (crn - 0x020))
  else if 0x030 ≤ crn ∧ crn < 0x040 then some (Tab.read c.sdst 0 (crn - 0x030))
  else
    match crn with
    | 0x000 => some (Word.ofNat rank)
    | 0x001 => some (coord pid)
    | 0x002 => some time
    | 0x003 => some (classWord pid n c f)
    | 0x004 => some c.fpmode
    | 0x005 => some (c.seed.setWidth 64)
    | 0x010 => some (Word.ofBool c.admitting)
    | 0x011 => some (mboxWord ring c)
    | 0x012 => some (Word.ofNat (c.lost * 2 ^ 32 + c.dead))
    | 0x013 => some (Word.ofBool f.amig)
    | 0x014 => some (barxWord c)
    | 0x015 => some k.tknote
    | 0x016 => some c.kvreq
    | 0x100 => some c.tvec
    | 0x102 => some (f.epc.setWidth 64 ||| (if f.epcv then 0x100000000000000#64 else 0))
    | 0x103 => some (f.tcause.setWidth 64)
    | 0x120 => some c.mbcfg
    | 0x121 => some c.muweight
    | 0x123 => some k.tscfg
    | 0x124 => some c.wdog
    | 0x130 => some k.trcfg
    | _ => none

theorem crRead_eq (s : State) (pid n crn : Nat) :
    s.crRead pid n crn =
      crReadOf (s.rankOf pid) (s.time (pid / 512)) (s.ringCount pid) pid n (s.core pid) (s.slot pid n) (s.cluster (pid / 8)) crn :=
  rfl

theorem mem_assignedCr (crn : Nat) :
    crn ∈ assignedCr ↔
      crn ∈ [0x000, 0x001, 0x002, 0x003, 0x004, 0x005, 0x010, 0x011, 0x012, 0x013, 0x014, 0x015, 0x016] ∨
        (0x020 ≤ crn ∧ crn < 0x040) ∨ crn ∈ [0x100, 0x102, 0x103, 0x120, 0x121, 0x123, 0x124, 0x130] := by
  simp only [assignedCr, List.mem_append, List.mem_range'_1, or_assoc]

/-- A read has a value where a page assigns the number, and nowhere else (R22). -/
theorem crRead_isSome (s : State) (pid n crn : Nat) : (s.crRead pid n crn).isSome = decide (crn ∈ assignedCr) := by
  rw [crRead_eq]
  unfold crReadOf
  by_cases h1 : 0x020 ≤ crn ∧ crn < 0x030
  · rw [if_pos h1, decide_eq_true ((mem_assignedCr crn).mpr (.inr (.inl (by omega))))]
    rfl
  by_cases h2 : 0x030 ≤ crn ∧ crn < 0x040
  · rw [if_neg h1, if_pos h2, decide_eq_true ((mem_assignedCr crn).mpr (.inr (.inl (by omega))))]
    rfl
  rw [if_neg h1, if_neg h2]
  split
  iterate 21 rfl
  · have hn : crn ∉ assignedCr := by
      simp only [mem_assignedCr, List.mem_cons, List.not_mem_nil, or_false]
      grind
    rw [decide_eq_false hn]
    rfl

theorem lt_of_mem_assignedCr {crn : Nat} (h : crn ∈ assignedCr) : crn < 0x800 := by
  simp only [mem_assignedCr, List.mem_cons, List.not_mem_nil, or_false] at h
  omega

theorem crNeed_legal (s : State) (crn : Nat) (write : Bool) (reads writes : List Reg) :
    (s.crNeed crn write reads writes).legal = decide (crn ∈ assignedCr) := by
  change (decide (crn < 0x800) && (s.crRead s.cur.core s.cur.slot crn).isSome) = _
  rw [crRead_isSome]
  by_cases h : crn ∈ assignedCr
  · simp [h, lt_of_mem_assignedCr h]
  · simp [h]

/-! ### What is kept around a control register -/

namespace State

/-- What a control-register instruction keeps of a state, whatever registers it changes: memory and the mesh, other cores and other
fibres, the fibre's own registers, and what the ring's count depends on. -/
structure CrKept (s t : State) : Prop where
  base : t = { s with cores := t.cores, clusters := t.clusters, trseq := t.trseq, bars := t.bars, seq := t.seq }
  cores : ∀ q, q ≠ s.cur.core → t.core q = s.core q
  slots : ∀ k, k ≠ s.cur.slot → t.slot s.cur.core k = s.slot s.cur.core k
  entry : (t.core s.cur.core).entry = s.myCore.entry
  ringLen : (t.core s.cur.core).ringLen = s.myCore.ringLen
  clearing : (t.core s.cur.core).clearing = s.myCore.clearing
  tlb : ∀ c, (t.cluster c).tlb = (s.cluster c).tlb
  fwd : ∀ c, (t.cluster c).fwd = (s.cluster c).fwd
  g : t.me.g = s.me.g
  live : t.me.live = s.me.live
  gen : t.me.gen = s.me.gen

namespace CrKept

variable {s t : State}

theorem cur (h : CrKept s t) : t.cur = s.cur := by rw [h.base]
theorem mem (h : CrKept s t) : t.mem = s.mem := by rw [h.base]
theorem net (h : CrKept s t) : t.net = s.net := by rw [h.base]

theorem rankOf (h : CrKept s t) (pid : Nat) : t.rankOf pid = s.rankOf pid := by
  rw [h.base]
  rfl

theorem time (h : CrKept s t) (r : Nat) : t.time r = s.time r := by
  rw [h.base]
  rfl

theorem structReady (h : CrKept s t) (pa : Nat) : t.structReady pa = s.structReady pa := by
  have hclear : ∀ p, (t.core p).clearing = (s.core p).clearing := fun p => by
    by_cases hp : p = s.cur.core
    · rw [hp]
      exact h.clearing
    · rw [h.cores p hp]
  have hruns : ∀ c, t.clusterRuns c = s.clusterRuns c := fun c => by
    unfold clusterRuns
    rw [h.fwd]
    rw [h.base]
    rfl
  have hrouted : ∀ x, t.routed x = s.routed x := fun x => by
    rw [h.base]
    rfl
  have hhost : t.host = s.host := by rw [h.base]
  have hbusy : t.rimBusy pa = s.rimBusy pa := by
    rw [h.base]
    rfl
  unfold State.structReady homeRuns portRuns
  simp only [hclear, hruns, hrouted, hhost, hbusy]

theorem ringCount (h : CrKept s t) : t.ringCount s.cur.core = s.ringCount s.cur.core := by
  have hword : ∀ pa, t.word pa = s.word pa := fun pa => by
    rw [h.base]
    rfl
  have hecc : ∀ pa n, t.eccBad pa n = s.eccBad pa n := fun pa n => by
    rw [h.base]
    rfl
  have haddr : ∀ pasid va, t.ringAddr s.cur.core pasid va = s.ringAddr s.cur.core pasid va := fun pasid va => by
    unfold ringAddr tlbLookup
    rw [h.tlb]
  have hentry : ∀ i, t.entryWord s.cur.core i = s.entryWord s.cur.core i := fun i => by
    unfold entryWord
    rw [h.entry]
    rfl
  unfold State.ringCount ringAt entryAddr entryPasid
  simp only [hword, hecc, haddr, hentry, h.structReady, h.ringLen]
  rfl

/-- A read after it, from what the core, the fibre and the cluster then are. -/
theorem crRead (h : CrKept s t) (k : Nat) :
    t.crRead s.cur.core s.cur.slot k =
      crReadOf (s.rankOf s.cur.core) (s.time (s.cur.core / 512)) (s.ringCount s.cur.core) s.cur.core s.cur.slot
        (t.core s.cur.core) (t.slot s.cur.core s.cur.slot) (t.cluster (s.cur.core / 8)) k := by
  rw [crRead_eq, h.rankOf, h.time, h.ringCount]

theorem trans {u : State} (h : CrKept s t) (k : CrKept t u) : CrKept s u := by
  obtain ⟨hb, hc, hs, he, hl, hcl, ht, hf, hg, hlive, hgen⟩ := h
  have hcur : t.cur = s.cur := by rw [hb]
  obtain ⟨kb, kc, ks, ke, kl, kcl, kt, kf, kg, klive, kgen⟩ := k
  rw [myCore, hcur] at ke kl kcl
  rw [hcur] at kc ks
  refine ⟨?_, fun q hq => (kc q hq).trans (hc q hq), fun n hn => (ks n hn).trans (hs n hn), ke.trans he, kl.trans hl, kcl.trans hcl,
    fun c => (kt c).trans (ht c), fun c => (kf c).trans (hf c), kg.trans hg, klive.trans hlive, kgen.trans hgen⟩
  rw [kb, hb]

/-- A change of the issuing core's other registers. -/
theorem onMyCore (s : State) {f : Core → Core} (hs : (f s.myCore).slots = s.myCore.slots) (he : (f s.myCore).entry = s.myCore.entry)
    (hl : (f s.myCore).ringLen = s.myCore.ringLen) (hc : (f s.myCore).clearing = s.myCore.clearing) :
    CrKept s (s.onMyCore f) := by
  have hcore : (s.onMyCore f).core s.cur.core = f s.myCore := myCore_onMyCore s f
  have hslot : ∀ n, (s.onMyCore f).slot s.cur.core n = s.slot s.cur.core n := fun n => by
    rw [slot, hcore, Core.slot, hs]
    rfl
  have hme : (s.onMyCore f).me = s.me := hslot _
  exact ⟨rfl, fun q hq => core_onCore_other s _ q f hq, fun n _ => hslot n, by rw [hcore, he], by rw [hcore, hl], by rw [hcore, hc],
    fun _ => rfl, fun _ => rfl, by rw [hme], by rw [hme], by rw [hme]⟩

/-- A change of the issuing fibre that is no change of its g registers. -/
theorem onMe (s : State) {f : Slot → Slot} (hg : (f s.me).g = s.me.g) (hl : (f s.me).live = s.me.live)
    (hn : (f s.me).gen = s.me.gen) : CrKept s (s.onMe f) := by
  have hcore : (s.onMe f).core s.cur.core = s.myCore.setSlot s.cur.slot (f s.me) := by rw [onMe_eq, core_setCore]
  exact ⟨rfl, fun q hq => core_onCore_other s _ q _ hq, fun n hn => slot_setSlot_other s _ _ _ n _ (.inr hn), by rw [hcore]; rfl,
    by rw [hcore]; rfl, by rw [hcore]; rfl, fun _ => rfl, fun _ => rfl, by rw [me_onMe, hg],
    by rw [me_onMe, hl], by rw [me_onMe, hn]⟩

/-- A change of the issuing core's cluster in its registers. -/
theorem onCluster (s : State) {f : Cluster → Cluster} {c : Nat} (ht : (f (s.cluster c)).tlb = (s.cluster c).tlb)
    (hf : (f (s.cluster c)).fwd = (s.cluster c).fwd) : CrKept s (s.onCluster c f) := by
  have hcl : ∀ d, ((s.onCluster c f).cluster d).tlb = (s.cluster d).tlb ∧ ((s.onCluster c f).cluster d).fwd = (s.cluster d).fwd := by
    intro d
    by_cases hd : d = c
    · subst hd
      rw [cluster_onCluster]
      exact ⟨ht, hf⟩
    · rw [cluster_onCluster_other s c d f hd]
      exact ⟨rfl, rfl⟩
  exact ⟨rfl, fun _ _ => rfl, fun _ _ => rfl, rfl, rfl, rfl, fun d => (hcl d).1, fun d => (hcl d).2, rfl, rfl, rfl⟩

end CrKept

/-! ### The issue around a control register -/

/-- The begin of an instruction is seen by no control register. -/
theorem crRead_begun (s : State) (len k : Nat) :
    (s.onMe (slotBegun len)).crRead s.cur.core s.cur.slot k = s.crRead s.cur.core s.cur.slot k := by
  have h := CrKept.onMe s (f := slotBegun len) rfl rfl rfl
  have hc : (s.onMe (slotBegun len)).core s.cur.core = s.myCore.setSlot s.cur.slot (slotBegun len s.me) := by
    rw [onMe_eq, core_setCore]
  have hf : (s.onMe (slotBegun len)).slot s.cur.core s.cur.slot = slotBegun len s.me := me_onMe s _
  rw [h.crRead, hc, hf, crRead_eq]
  rfl

/-- The retirement of an instruction whose fibre still stands in its slot. -/
theorem retired_eq {s u : State} (passes : Nat) (hl : s.me.live = true) (h : CrKept s u) :
    retired s passes u =
      (u.onMyCore (coreIssued (s.coreAc s.cur.core) s.rc)).onMe (slotBusy (s.coreAc s.cur.core + 8 * passes)) := by
  have hc := h.cur
  have hslot : ((u.onCore u.cur.core (coreIssued (s.coreAc u.cur.core) s.rc)).slot u.cur.core u.cur.slot) = u.me := by
    rw [slot, core_onCore, slot_coreIssued]
    rfl
  have hgen : u.me.gen = (s.slot u.cur.core u.cur.slot).gen := by rw [h.gen, hc]; rfl
  unfold retired
  rw [← hc]
  dsimp only
  rw [hslot, h.live, hl, hgen]
  simp
  rfl

end State

/-! ### Where a control-register instruction traps -/

namespace State

/-- An instruction that its word makes illegal. -/
theorem issue_illegal {s : State} {nd : Need} {body : State → Except Stop State} (hl : s.me.live = true) (hf : s.me.frozen = false)
    (hu : s.me.unc = false) (hn : nd.legal = false) : s.issue nd body = .next (s.trapped (trapOf .illegal .instruction 0)) := by
  refine issue_stop s nd body (.trap (trapOf .illegal .instruction 0)) hl hf ?_
  rw [ready_eq_checks, hu, hn]
  rfl

/-- A privileged instruction in user mode. -/
theorem issue_privilege {s : State} {nd : Need} {body : State → Except Stop State} (hl : s.me.live = true)
    (hf : s.me.frozen = false) (hu : s.me.unc = false) (hn : nd.legal = true) (hp : nd.priv = true) (hs : s.me.sup = false) :
    s.issue nd body = .next (s.trapped (trapOf .privilege .instruction 0)) := by
  refine issue_stop s nd body (.trap (trapOf .privilege .instruction 0)) hl hf ?_
  rw [ready_eq_checks, hu, hn, hp, hs]
  rfl

end State

/-- The control-register instructions of a register, each the issue of an effect with the need of its kind. -/
theorem exec_cr (s : State) (crn : BitVec 12) (r : Reg) (i : Instr)
    (hi : i ∈ [Instr.crr r crn, .crw crn r, .crset crn r, .crclr crn r]) :
    ∃ write reads writes body, exec i s = s.issue (s.crNeed crn.toNat write reads writes) body := by
  simp only [List.mem_cons, List.not_mem_nil, or_false] at hi
  rcases hi with rfl | rfl | rfl | rfl <;> unfold exec <;> dsimp only [execCrr, execCrw, execCrset, execCrclr]
  · exact ⟨false, [], [r], _, rfl⟩
  · exact ⟨true, [r], [], _, rfl⟩
  · exact ⟨true, [r], [], _, rfl⟩
  · exact ⟨true, [r], [], _, rfl⟩

/-- CRR of a register that a page assigns to the fibre's mode. -/
theorem crr_next (s : State) (rd : Reg) (crn : BitVec 12) (hs : s.Clear [] [rd] []) (hn : crn.toNat ∈ assignedCr)
    (hp : 0x100 ≤ crn.toNat → s.me.sup = true) :
    exec (.crr rd crn) s = .next (s.wrote rd ((s.crRead s.cur.core s.cur.slot crn.toNat).getD 0)) := by
  have hpriv : (s.crNeed crn.toNat false [] [rd]).priv = true → s.me.sup = true := fun h =>
    hp (by simpa [crNeed] using h)
  exact compute_next s (s.crNeed crn.toNat false [] [rd]) rd
    (fun t => (t.crRead t.cur.core t.cur.slot crn.toNat).getD 0) _ hs ((crNeed_legal s _ _ _ _).trans (decide_eq_true hn)) hpriv
    (fun _ h => by cases h) (by rw [← crRead_begun s 4]; rfl)

theorem controlRegisterReads_traps : Piece.ControlRegisterReads := by
  intro s rd crn n
  refine ⟨fun hs hn hp => ?_, fun hl hf hu => ⟨fun hn i hi => ?_, fun hn h100 hs i hi => ?_⟩⟩
  · have hsome : (s.crRead s.cur.core s.cur.slot n).isSome = true := by rw [crRead_isSome, decide_eq_true hn]
    obtain ⟨v, hv⟩ := Option.isSome_iff_exists.mp hsome
    refine ⟨v, hv, ?_⟩
    rw [crr_next s rd crn hs hn hp]
    change Host.Outcome.next (s.wrote rd ((s.crRead s.cur.core s.cur.slot n).getD 0)) = _
    rw [hv, Option.getD_some]
  · obtain ⟨write, reads, writes, body, he⟩ := exec_cr s crn rd i hi
    rw [he, issue_illegal hl hf hu ((crNeed_legal s _ _ _ _).trans (decide_eq_false hn))]
  · obtain ⟨write, reads, writes, body, he⟩ := exec_cr s crn rd i hi
    have hpriv : (s.crNeed crn.toNat write reads writes).priv = true := by
      change (decide (0x100 ≤ n) || _) = true
      rw [decide_eq_true h100, Bool.true_or]
    rw [he, issue_privilege hl hf hu ((crNeed_legal s _ _ _ _).trans (decide_eq_true hn)) hpriv hs]

/-! ### What the user registers read as -/

theorem extractLsb'_eq_ofNat {w : Word} {lo n x : Nat} (h : fld w lo n = x % 2 ^ n) : w.extractLsb' lo n = BitVec.ofNat n x :=
  BitVec.eq_of_toNat_eq ((toNat_extractLsb'_eq_fld w lo n).trans (h.trans (BitVec.toNat_ofNat ..).symm))

theorem Kind.num_lt (k : Kind) : k.num < 4 := by cases k <;> decide

/-- The fields of a word laid out as cr.coord (R66). -/
theorem coordLayout {w : Word} {r x y k a b c : Nat}
    (hw : w.toNat = r * 2 ^ 32 + x * 2 ^ 20 + y * 2 ^ 16 + k * 2 ^ 24 + a * 2 ^ 8 + b * 2 ^ 4 + c) (hx : x < 16) (hy : y < 16)
    (hk : k < 4) (ha : a < 16) (hb : b < 16) (hc : c < 16) :
    fld w 0 4 = c ∧ fld w 4 4 = b ∧ fld w 8 4 = a ∧ fld w 16 4 = y ∧ fld w 20 4 = x ∧ fld w 24 2 = k ∧ fld w 32 6 = r % 64 := by
  simp only [fld, hw]
  refine ⟨?_, ?_, ?_, ?_, ?_, ?_, ?_⟩ <;> omega

/-- The fields of cr.coord of a core of a cluster (R66). -/
theorem coord_fields {pid : Nat} (hs : isService pid = false) (hr : pid / 512 < 63) :
    (coord pid).extractLsb' 0 4 = BitVec.ofNat 4 (pid % 8) ∧ (coord pid).extractLsb' 4 4 = BitVec.ofNat 4 (pid / 8 % 64 % 6) ∧
      (coord pid).extractLsb' 8 4 = BitVec.ofNat 4 (pid / 8 % 64 / 6) ∧ (coord pid).extractLsb' 16 4 = BitVec.ofNat 4 (pid / 512 / 9) ∧
      (coord pid).extractLsb' 20 4 = BitVec.ofNat 4 (pid / 512 % 9) ∧
      (coord pid).extractLsb' 24 2 = BitVec.ofNat 2 (kindOf (pid / 8 % 64)).num ∧
      (coord pid).extractLsb' 32 6 = BitVec.ofNat 6 (pid / 512) := by
  have hk := (kindOf (pid / 8 % 64)).num_lt
  have hw : (coord pid).toNat = pid / 512 * 2 ^ 32 + pid / 512 % 9 * 2 ^ 20 + pid / 512 / 9 * 2 ^ 16 +
      (kindOf (pid / 8 % 64)).num * 2 ^ 24 + pid / 8 % 64 / 6 * 2 ^ 8 + pid / 8 % 64 % 6 * 2 ^ 4 + pid % 8 := by
    simp only [coord, hs, Word.ofNat, BitVec.toNat_ofNat, Bool.false_eq_true, if_false]
    omega
  obtain ⟨h1, h2, h3, h4, h5, h6, h7⟩ :=
    coordLayout hw (by omega) (by omega) hk (by omega) (by omega) (by omega)
  refine ⟨extractLsb'_eq_ofNat ?_, extractLsb'_eq_ofNat ?_, extractLsb'_eq_ofNat ?_, extractLsb'_eq_ofNat ?_,
    extractLsb'_eq_ofNat ?_, extractLsb'_eq_ofNat ?_, extractLsb'_eq_ofNat ?_⟩ <;> omega

/-- The fields of cr.class (R68). -/
theorem classWord_fields {n : Nat} {f : Slot} {task : Nat} {w : Word}
    (hw : w = Word.ofNat (f.gen.toNat * 2 ^ 40 + n * 2 ^ 32 + task * 2 ^ 16 + f.prio.val * 2 ^ 4 + f.ecls.toNat)) (hn : n < 256)
    (ht : task < 2 ^ 12) :
    w.extractLsb' 0 3 = f.ecls ∧ w.extractLsb' 4 2 = BitVec.ofFin f.prio ∧ w.extractLsb' 16 12 = BitVec.ofNat 12 task ∧
      w.extractLsb' 32 8 = BitVec.ofNat 8 n ∧ w.extractLsb' 40 8 = f.gen := by
  have hg := f.gen.isLt
  have hp := f.prio.isLt
  have he := f.ecls.isLt
  have hv : w.toNat = f.gen.toNat * 2 ^ 40 + n * 2 ^ 32 + task * 2 ^ 16 + f.prio.val * 2 ^ 4 + f.ecls.toNat := by
    rw [hw, Word.ofNat, BitVec.toNat_ofNat]
    omega
  refine ⟨BitVec.eq_of_toNat_eq ?_, BitVec.eq_of_toNat_eq ?_, extractLsb'_eq_ofNat ?_, extractLsb'_eq_ofNat ?_,
    BitVec.eq_of_toNat_eq ?_⟩
  · rw [toNat_extractLsb'_eq_fld, fld, hv]
    omega
  · rw [toNat_extractLsb'_eq_fld, fld, hv]
    change _ = f.prio.val
    omega
  · rw [fld, hv]
    omega
  · rw [fld, hv]
    omega
  · rw [toNat_extractLsb'_eq_fld, fld, hv]
    omega

/-- The fields of cr.barx (R126). -/
theorem barxWord_fields {c : Core} (hc : c.cnt0 < 2 ^ 9) :
    (barxWord c).extractLsb' 1 4 = c.exc ∧ (barxWord c).extractLsb' 9 4 = c.arv ∧
      (barxWord c).extractLsb' 16 9 = BitVec.ofNat 9 c.cnt0 ∧ (barxWord c).extractLsb' 28 4 = c.grant := by
  have hg := c.grant.isLt
  have ha := c.arv.isLt
  have he := c.exc.isLt
  have hv : (barxWord c).toNat = c.grant.toNat * 2 ^ 28 + c.cnt0 * 2 ^ 16 + c.arv.toNat * 2 ^ 9 + c.exc.toNat * 2 := by
    rw [barxWord, Word.ofNat, BitVec.toNat_ofNat]
    omega
  refine ⟨BitVec.eq_of_toNat_eq ?_, BitVec.eq_of_toNat_eq ?_, extractLsb'_eq_ofNat ?_, BitVec.eq_of_toNat_eq ?_⟩
  · rw [toNat_extractLsb'_eq_fld, fld, hv]
    omega
  · rw [toNat_extractLsb'_eq_fld, fld, hv]
    omega
  · rw [fld, hv]
    omega
  · rw [toNat_extractLsb'_eq_fld, fld, hv]
    omega

/-- The fields of cr.dlcnt (R118). -/
theorem dlcnt_fields {lost dead : Nat} (hd : dead < 2 ^ 32) (hl : lost < 2 ^ 32) :
    (Word.ofNat (lost * 2 ^ 32 + dead)).toNat % 2 ^ 32 = dead ∧ (Word.ofNat (lost * 2 ^ 32 + dead)).toNat / 2 ^ 32 = lost := by
  rw [Word.ofNat, BitVec.toNat_ofNat]
  omega

theorem controlRegisterValues : Piece.ControlRegisterValues := by
  intro s pid n c f read
  exact ⟨rfl, fun hs hr => ⟨_, rfl, coord_fields hs hr⟩, rfl, fun hn ht => ⟨_, rfl, classWord_fields rfl hn ht⟩, rfl, rfl, rfl,
    fun hd hl => ⟨_, rfl, dlcnt_fields hd hl⟩, rfl, fun hc => ⟨_, rfl, barxWord_fields hc⟩, rfl⟩

/-- Settles O20: a read has a value where a page assigns the number; each value is laid out as its page says. -/
theorem controlRegisterReads : Obligations.ControlRegisterReads := by
  unfold Obligations.ControlRegisterReads
  exact ⟨controlRegisterReads_traps, controlRegisterValues⟩

end Sys2Proof.Machine
end

section
/-!
PROOF. The writes of control registers (O21): what each register reads after a write, and that no other reads otherwise.
-/

namespace Sys2Proof.Machine

open State

/-! ### One register changed -/

/-- Two reads agree at a number whose own cell agrees. -/
theorem crReadOf_congr {rank : Nat} {time : Word} {ring pid n : Nat} {c c' : Core} {f f' : Slot} {k k' : Cluster} {crn : Nat}
    (hskey : 0x020 ≤ crn → crn < 0x030 → Tab.read c'.skey 0 (crn - 0x020) = Tab.read c.skey 0 (crn - 0x020) := by intro _ _; rfl)
    (hsdst : 0x030 ≤ crn → crn < 0x040 → Tab.read c'.sdst 0 (crn - 0x030) = Tab.read c.sdst 0 (crn - 0x030) := by intro _ _; rfl)
    (hclass : classWord pid n c' f' = classWord pid n c f := by rfl)
    (hfpmode : crn = 0x004 → c'.fpmode = c.fpmode := by intro _; rfl)
    (hseed : crn = 0x005 → c'.seed = c.seed := by intro _; rfl)
    (hadmit : crn = 0x010 → c'.admitting = c.admitting := by intro _; rfl)
    (hmbox : mboxWord ring c' = mboxWord ring c := by rfl)
    (hlost : c'.lost = c.lost := by rfl) (hdead : c'.dead = c.dead := by rfl)
    (hamig : crn = 0x013 → f'.amig = f.amig := by intro _; rfl)
    (hbarx : crn = 0x014 → barxWord c' = barxWord c := by intro _; rfl)
    (htknote : crn = 0x015 → k'.tknote = k.tknote := by intro _; rfl)
    (hkvreq : crn = 0x016 → c'.kvreq = c.kvreq := by intro _; rfl)
    (htvec : crn = 0x100 → c'.tvec = c.tvec := by intro _; rfl)
    (hepc : crn = 0x102 → f'.epc = f.epc := by intro _; rfl) (hepcv : f'.epcv = f.epcv := by rfl)
    (htcause : crn = 0x103 → f'.tcause = f.tcause := by intro _; rfl)
    (hmbcfg : crn = 0x120 → c'.mbcfg = c.mbcfg := by intro _; rfl)
    (hmuweight : crn = 0x121 → c'.muweight = c.muweight := by intro _; rfl)
    (htscfg : crn = 0x123 → k'.tscfg = k.tscfg := by intro _; rfl)
    (hwdog : crn = 0x124 → c'.wdog = c.wdog := by intro _; rfl)
    (htrcfg : crn = 0x130 → k'.trcfg = k.trcfg := by intro _; rfl) :
    crReadOf rank time ring pid n c' f' k' crn = crReadOf rank time ring pid n c f k crn := by
  unfold crReadOf
  by_cases h1 : 0x020 ≤ crn ∧ crn < 0x030
  · rw [if_pos h1, if_pos h1, hskey h1.1 h1.2]
  by_cases h2 : 0x030 ≤ crn ∧ crn < 0x040
  · rw [if_neg h1, if_neg h1, if_pos h2, if_pos h2, hsdst h2.1 h2.2]
  rw [if_neg h1, if_neg h1, if_neg h2, if_neg h2]
  split <;> simp_all

/-- The read of a state's own fibre, from what a read depends on. -/
def crReadMine (s : State) (c : Core) (f : Slot) (k : Cluster) (crn : Nat) : Option Word :=
  crReadOf (s.rankOf s.cur.core) (s.time (s.cur.core / 512)) (s.ringCount s.cur.core) s.cur.core s.cur.slot c f k crn

namespace State

/-- One control register written: it reads a value, no other reads otherwise, and the rest is kept. -/
structure CrWritten (s t : State) (crn : Nat) (w : Word) : Prop where
  kept : CrKept s t
  pc : t.me.pc = s.me.pc
  value : t.crRead s.cur.core s.cur.slot crn = some w
  others : ∀ k, k ≠ crn → t.crRead s.cur.core s.cur.slot k = s.crRead s.cur.core s.cur.slot k

/-- The cluster of the issuing core. -/
def myCluster (s : State) : Cluster := s.cluster (s.cur.core / 8)

variable {s t : State} {crn : Nat} {w : Word}

/-- A register of the core written. -/
theorem written_onMyCore (f : Core → Core) (hs : (f s.myCore).slots = s.myCore.slots) (he : (f s.myCore).entry = s.myCore.entry)
    (hl : (f s.myCore).ringLen = s.myCore.ringLen) (hc : (f s.myCore).clearing = s.myCore.clearing)
    (hv : crReadMine s (f s.myCore) s.me s.myCluster crn = some w)
    (ho : ∀ k, k ≠ crn → crReadMine s (f s.myCore) s.me s.myCluster k = crReadMine s s.myCore s.me s.myCluster k) :
    CrWritten s (s.onMyCore f) crn w := by
  have h := CrKept.onMyCore s hs he hl hc
  have hcore : (s.onMyCore f).core s.cur.core = f s.myCore := myCore_onMyCore s f
  have hme : (s.onMyCore f).slot s.cur.core s.cur.slot = s.me := by
    rw [slot, hcore, Core.slot, hs]
    rfl
  have hr : ∀ k, (s.onMyCore f).crRead s.cur.core s.cur.slot k = crReadMine s (f s.myCore) s.me s.myCluster k := fun k => by
    rw [h.crRead, hcore, hme]
    rfl
  exact ⟨h, congrArg Slot.pc hme, (hr crn).trans hv, fun k hk => (hr k).trans (ho k hk)⟩

/-- A register of the fibre written. -/
theorem written_onMe (f : Slot → Slot) (hg : (f s.me).g = s.me.g) (hp : (f s.me).pc = s.me.pc) (hl : (f s.me).live = s.me.live)
    (hn : (f s.me).gen = s.me.gen) (hv : crReadMine s s.myCore (f s.me) s.myCluster crn = some w)
    (ho : ∀ k, k ≠ crn → crReadMine s s.myCore (f s.me) s.myCluster k = crReadMine s s.myCore s.me s.myCluster k) :
    CrWritten s (s.onMe f) crn w := by
  have h := CrKept.onMe s hg hl hn
  have hcore : (s.onMe f).core s.cur.core = s.myCore.setSlot s.cur.slot (f s.me) := by rw [onMe_eq, core_setCore]
  have hme : (s.onMe f).slot s.cur.core s.cur.slot = f s.me := me_onMe s f
  have hr : ∀ k, (s.onMe f).crRead s.cur.core s.cur.slot k = crReadMine s s.myCore (f s.me) s.myCluster k := fun k => by
    rw [h.crRead, hcore, hme]
    rfl
  exact ⟨h, (congrArg Slot.pc hme).trans hp, (hr crn).trans hv, fun k hk => (hr k).trans (ho k hk)⟩

/-- A register of the cluster written. -/
theorem written_onMyCluster (f : Cluster → Cluster) (ht : (f s.myCluster).tlb = s.myCluster.tlb)
    (hf : (f s.myCluster).fwd = s.myCluster.fwd) (hv : crReadMine s s.myCore s.me (f s.myCluster) crn = some w)
    (ho : ∀ k, k ≠ crn → crReadMine s s.myCore s.me (f s.myCluster) k = crReadMine s s.myCore s.me s.myCluster k) :
    CrWritten s (s.onCluster (s.cur.core / 8) f) crn w := by
  have h := CrKept.onCluster s (f := f) (c := s.cur.core / 8) ht hf
  have hr : ∀ k, (s.onCluster (s.cur.core / 8) f).crRead s.cur.core s.cur.slot k =
      crReadMine s s.myCore s.me (f s.myCluster) k := fun k => by
    rw [h.crRead, cluster_onCluster]
    rfl
  exact ⟨h, rfl, (hr crn).trans hv, fun k hk => (hr k).trans (ho k hk)⟩

end State

/-! ### Fields -/

theorem and_mask_and (v m : Word) : v &&& m &&& m = v &&& m := by rw [BitVec.and_assoc, BitVec.and_self]

theorem fields_and (m old v : Word) : fields m old v &&& m = v &&& m := by
  unfold fields
  ext i hi
  simp
  cases m[i] <;> simp

/-! ### The registers, one by one -/

section

variable (s : State) (v : Word)

theorem written_fpmode : CrWritten s (s.crWrite s.cur.core s.cur.slot 0x004 v) 0x004 (v &&& 0x1F07#64) :=
  written_onMyCore (fun c => { c with fpmode := v &&& 0x1F07#64 }) rfl rfl rfl rfl rfl
    fun _ hk => crReadOf_congr (hfpmode := fun h => absurd h hk)

theorem written_seed : CrWritten s (s.crWrite s.cur.core s.cur.slot 0x005 v) 0x005 ((v.setWidth 32).setWidth 64) :=
  written_onMyCore (fun c => { c with seed := v.setWidth 32 }) rfl rfl rfl rfl rfl
    fun _ hk => crReadOf_congr (hseed := fun h => absurd h hk)

theorem written_amig : CrWritten s (s.crWrite s.cur.core s.cur.slot 0x013 v) 0x013 (Word.ofBool (flag v 0)) :=
  written_onMe (fun f => { f with amig := flag v 0 }) rfl rfl rfl rfl rfl
    fun _ hk => crReadOf_congr (hamig := fun h => absurd h hk)

theorem written_kvreq : CrWritten s (s.crWrite s.cur.core s.cur.slot 0x016 v) 0x016 (v &&& 0x800000FF#64) :=
  written_onMyCore (fun c => { c with kvreq := v &&& 0x800000FF#64 }) rfl rfl rfl rfl rfl
    fun _ hk => crReadOf_congr (hkvreq := fun h => absurd h hk)

theorem written_tvec : CrWritten s (s.crWrite s.cur.core s.cur.slot 0x100 v) 0x100 (v &&& 0x00FFFFFFFFFFFFFE#64) :=
  written_onMyCore (fun c => { c with tvec := v &&& 0x00FFFFFFFFFFFFFE#64 }) rfl rfl rfl rfl rfl
    fun _ hk => crReadOf_congr (htvec := fun h => absurd h hk)

theorem written_epc : CrWritten s (s.crWrite s.cur.core s.cur.slot 0x102 v) 0x102 (((v &&& 0x00FFFFFFFFFFFFFE#64).setWidth 56).setWidth 64 ||| (if s.me.epcv then 0x100000000000000#64 else 0)) :=
  written_onMe (fun f => { f with epc := (v &&& 0x00FFFFFFFFFFFFFE#64).setWidth 56 }) rfl rfl rfl rfl rfl
    fun _ hk => crReadOf_congr (hepc := fun h => absurd h hk)

theorem written_tcause : CrWritten s (s.crWrite s.cur.core s.cur.slot 0x103 v) 0x103 ((v.setWidth 16).setWidth 64) :=
  written_onMe (fun f => { f with tcause := v.setWidth 16 }) rfl rfl rfl rfl rfl
    fun _ hk => crReadOf_congr (htcause := fun h => absurd h hk)

theorem written_mbcfg : CrWritten s (s.crWrite s.cur.core s.cur.slot 0x120 v) 0x120 (v &&& 0x0000003F0FFF07FF#64) :=
  written_onMyCore (fun c => { c with mbcfg := v &&& 0x0000003F0FFF07FF#64 }) rfl rfl rfl rfl rfl
    fun _ hk => crReadOf_congr (hmbcfg := fun h => absurd h hk)

theorem written_wdog : CrWritten s (s.crWrite s.cur.core s.cur.slot 0x124 v) 0x124 (fields 0x800FFFFF#64 s.myCore.wdog v) :=
  written_onMyCore (fun c => { c with wdog := fields 0x800FFFFF#64 c.wdog v }) rfl rfl rfl rfl rfl
    fun _ hk => crReadOf_congr (hwdog := fun h => absurd h hk)

theorem written_tscfg : CrWritten s (s.crWrite s.cur.core s.cur.slot 0x123 v) 0x123 (v &&& 0x87FFFFFFFFFFFFFE#64) :=
  written_onMyCluster (fun k => { k with tscfg := v &&& 0x87FFFFFFFFFFFFFE#64 }) rfl rfl rfl
    fun _ hk => crReadOf_congr (htscfg := fun h => absurd h hk)

theorem written_tknote : CrWritten s (s.crWrite s.cur.core s.cur.slot 0x015 v) 0x015 ((v &&& 0x803FFFFF#64) ||| Word.ofNat (s.rankOf s.cur.core * 2 ^ 44 + s.taskOf s.cur.core s.me * 2 ^ 32)) :=
  written_onMyCluster (fun k => { k with tknote := (v &&& 0x803FFFFF#64) ||| Word.ofNat (s.rankOf s.cur.core * 2 ^ 44 + s.taskOf s.cur.core s.me * 2 ^ 32) }) rfl rfl rfl
    fun _ hk => crReadOf_congr (htknote := fun h => absurd h hk)

theorem written_muweight (h : 1 ≤ fld v 0 4 ∧ fld v 0 4 ≤ 8) :
    CrWritten s (s.crWrite s.cur.core s.cur.slot 0x121 v) 0x121 (v &&& 0xF#64) := by
  have he : s.crWrite s.cur.core s.cur.slot 0x121 v = s.onMyCore fun c => { c with muweight := v &&& 0xF#64 } := if_pos h
  rw [he]
  exact written_onMyCore (fun c => { c with muweight := v &&& 0xF#64 }) rfl rfl rfl rfl rfl
    fun _ hk => crReadOf_congr (hmuweight := fun h => absurd h hk)

/-- A stub's key (R292). -/
theorem written_skey (crn : Nat) (h1 : 0x020 ≤ crn) (h2 : crn < 0x030) :
    CrWritten s (s.crWrite s.cur.core s.cur.slot crn v) crn v := by
  have he : s.crWrite s.cur.core s.cur.slot crn v = s.onMyCore fun c => { c with skey := Tab.put c.skey (crn - 0x020) v } := by
    unfold crWrite writeStub
    rw [if_pos ⟨h1, by omega⟩, if_pos h2]
    rfl
  rw [he]
  refine written_onMyCore (fun c => { c with skey := Tab.put c.skey (crn - 0x020) v }) rfl rfl rfl rfl ?_ fun k hk =>
    crReadOf_congr (hskey := fun _ _ => Tab.read_put_other _ _ _ _ _ (by omega))
  unfold crReadMine crReadOf
  rw [if_pos ⟨h1, h2⟩, Tab.read_put_same]

/-- A stub's destination (R292). -/
theorem written_sdst (crn : Nat) (h1 : 0x030 ≤ crn) (h2 : crn < 0x040) :
    ∃ w, CrWritten s (s.crWrite s.cur.core s.cur.slot crn v) crn w ∧ w &&& 0x1FFFF#64 = v &&& 0x1FFFF#64 := by
  let new (old : Word) : Word :=
    if flag v 16 && !flag old 16 then fields 0x1FFFF#64 old v &&& 0x1FFFF#64 else fields 0x1FFFF#64 old v
  have he : s.crWrite s.cur.core s.cur.slot crn v =
      s.onMyCore fun c => { c with sdst := Tab.put c.sdst (crn - 0x030) (new (Tab.read c.sdst 0 (crn - 0x030))) } := by
    unfold crWrite writeStub
    rw [if_pos ⟨by omega, h2⟩, if_neg (by omega)]
    rfl
  refine ⟨new (Tab.read s.myCore.sdst 0 (crn - 0x030)), ?_, ?_⟩
  · rw [he]
    refine written_onMyCore (fun c => { c with sdst := Tab.put c.sdst (crn - 0x030) (new (Tab.read c.sdst 0 (crn - 0x030))) })
      rfl rfl rfl rfl ?_ fun k hk => crReadOf_congr (hsdst := fun _ _ => Tab.read_put_other _ _ _ _ _ (by omega))
    unfold crReadMine crReadOf
    rw [if_neg (by omega), if_pos ⟨h1, h2⟩, Tab.read_put_same]
  · simp only [new]
    split
    · rw [and_mask_and, fields_and]
    · rw [fields_and]

end

namespace State

/-- What no register shows: trace sequence numbers, barrier signals and order numbers. -/
theorem CrWritten.ambient {s t : State} {crn : Nat} {w : Word} (h : CrWritten s t crn w) (trseq : Tab Nat) (bars : List BarSignal)
    (seq : Nat) : CrWritten s { t with trseq := trseq, bars := bars, seq := seq } crn w := by
  obtain ⟨hb, hc, hs, he, hl, hcl, ht, hf, hg, hlive, hgen⟩ := h.kept
  have hk : CrKept s { t with trseq := trseq, bars := bars, seq := seq } :=
    ⟨by rw [hb], hc, hs, he, hl, hcl, ht, hf, hg, hlive, hgen⟩
  have hr : ∀ k, State.crRead { t with trseq := trseq, bars := bars, seq := seq } s.cur.core s.cur.slot k =
      t.crRead s.cur.core s.cur.slot k := fun k => by
    rw [hk.crRead, h.kept.crRead]
    rfl
  exact ⟨hk, h.pc, (hr crn).trans h.value, fun k hk => (hr k).trans (h.others k hk)⟩

end State

/-! ### cr.trcfg -/

theorem written_trcfg (s : State) (v : Word) :
    ∃ w, CrWritten s (s.crWrite s.cur.core s.cur.slot 0x130 v) 0x130 w ∧
      w &&& 0x0000FFFFFFFFFF87#64 = v &&& 0x0000FFFFFFFFFF87#64 := by
  have hw : ∀ x : Word, CrWritten s (s.onCluster (s.cur.core / 8) fun k => { k with trcfg := x }) 0x130 x := fun x =>
    written_onMyCluster (fun k => { k with trcfg := x }) rfl rfl rfl
      fun _ hk => crReadOf_congr (htrcfg := fun h => absurd h hk)
  change ∃ w, CrWritten s (s.writeTrcfg (s.cur.core / 8) v) 0x130 w ∧ _
  unfold writeTrcfg traceWritten
  dsimp only
  split
  · refine ⟨_, (hw _).ambient _ s.bars s.seq, ?_⟩
    rw [BitVec.and_assoc]
    exact fields_and _ _ _
  · exact ⟨_, hw _, fields_and _ _ _⟩

/-! ### The admission mask and the records it holds back -/

theorem map_msg_renumber (n : Nat) (l : List Held) : (renumber n l).map (·.msg) = l.map (·.msg) := by
  induction l generalizing n with
  | nil => rfl
  | cons h l ih => simp [renumber, ih]

theorem insertHeld_perm (h : Held) (l : List Held) : (insertHeld h l).Perm (h :: l) := by
  induction l with
  | nil => exact .refl _
  | cons g l ih =>
    unfold insertHeld
    split
    · exact .refl _
    · exact (ih.cons g).trans (.swap h g l)

theorem byOrder_perm (l : List Held) : (byOrder l).Perm l := by
  induction l with
  | nil => exact .refl _
  | cons h l ih => exact (insertHeld_perm h _).trans (ih.cons h)

/-- Renumbered entries are as many as before, and as many of each kind. -/
theorem countP_renumber (p : Msg → Bool) (n : Nat) (l : List Held) :
    ((renumber n (byOrder l)).filter fun h => p h.msg).length = (l.filter fun h => p h.msg).length := by
  have key : ∀ x : List Held, (x.filter fun h => p h.msg).length = (x.map (·.msg)).countP p := fun x => by
    rw [List.countP_map, List.countP_eq_length_filter]
    rfl
  rw [key, key, map_msg_renumber]
  exact ((byOrder_perm l).map _).countP_eq p

theorem length_renumber (n : Nat) (l : List Held) : (renumber n (byOrder l)).length = l.length := by
  have h := congrArg List.length (map_msg_renumber n (byOrder l))
  rw [List.length_map, List.length_map] at h
  exact h.trans (byOrder_perm l).length_eq

theorem written_admit (s : State) (v : Word) :
    CrWritten s (s.crWrite s.cur.core s.cur.slot 0x010 v) 0x010 (Word.ofBool (flag v 0)) := by
  change CrWritten s (s.writeAdmit s.cur.core (flag v 0)) 0x010 _
  unfold writeAdmit
  dsimp only
  split
  · next h =>
    refine CrWritten.ambient (written_onMyCore (fun c =>
        { c with
          admitting := true
          reserve := renumber s.seq (byOrder c.reserve)
          part := renumber (s.seq + c.reserve.length + s.ringCount s.cur.core) (byOrder c.part)
          resuming := if s.ringCount s.cur.core = 0 then none else some (s.seq + c.reserve.length, s.ringCount s.cur.core) })
      rfl rfl rfl rfl ?_ fun _ hk => crReadOf_congr (hadmit := fun h => absurd h hk) (hmbox := ?_)) s.trseq s.bars _
    · have hv : flag v 0 = true := by simp_all
      rw [hv]
      rfl
    · unfold mboxWord
      rw [countP_renumber (fun m => m.kind == MsgKind.migrate.num), length_renumber]
  · exact written_onMyCore (fun c => { c with admitting := flag v 0, resuming := if flag v 0 then c.resuming else none })
      rfl rfl rfl rfl rfl fun _ hk => crReadOf_congr (hadmit := fun h => absurd h hk)

/-! ### cr.barx -/

/-- A state with GRANT and EXC of the issuing core and the signals under way replaced. -/
def barxSet (s : State) (grant exc : BitVec 4) (bars : List BarSignal) : State :=
  { s.onMyCore fun c => { c with grant := grant, exc := exc } with bars := bars }

/-- EXC of the issuing core at a level brought to a value, with the signal that tells the root where it changes (R127). -/
def excuseTo (pid : Nat) (e : BitVec 4) (u : State) (l : Nat) : State :=
  if levelBit (u.core pid).exc l = levelBit e l then u else u.excuse pid l (levelBit e l)

theorem core_barxSet (s : State) (g x : BitVec 4) (b : List BarSignal) :
    (barxSet s g x b).core s.cur.core = { s.myCore with grant := g, exc := x } :=
  core_onCore s s.cur.core fun c => { c with grant := g, exc := x }

theorem excuseTo_barxSet (s : State) (g x e : BitVec 4) (b : List BarSignal) (l : Nat) :
    ∃ b', excuseTo s.cur.core e (barxSet s g x b) l =
      barxSet s g (if levelBit x l = levelBit e l then x else setLevelBit x l (levelBit e l)) b' := by
  unfold excuseTo
  rw [core_barxSet]
  dsimp only
  split
  · exact ⟨b, rfl⟩
  · have hcore : (barxSet s g x b).onCore s.cur.core (fun c => { c with exc := setLevelBit c.exc l (levelBit e l) }) =
        barxSet s g (setLevelBit x l (levelBit e l)) b := by
      unfold onCore
      rw [core_barxSet]
      change { (s.setCore s.cur.core _).setCore s.cur.core _ with bars := b } = _
      rw [setCore_setCore]
      rfl
    unfold excuse
    rw [hcore]
    exact ⟨_, rfl⟩

/-- The four levels, each brought to its value, give the value (R126). -/
theorem excuse_levels : ∀ x e : BitVec 4,
    [1, 2, 3, 4].foldl (fun x l => if levelBit x l = levelBit e l then x else setLevelBit x l (levelBit e l)) x = e := by
  decide

theorem writeBarx_eq (s : State) (v : Word) :
    ∃ b, s.writeBarx s.cur.core v = barxSet s (v.extractLsb' 28 4) (v.extractLsb' 1 4) b := by
  have key : ∀ (ls : List Nat) (e g x : BitVec 4) (b : List BarSignal), ∃ b',
      ls.foldl (excuseTo s.cur.core e) (barxSet s g x b) =
        barxSet s g (ls.foldl (fun x l => if levelBit x l = levelBit e l then x else setLevelBit x l (levelBit e l)) x) b' := by
    intro ls e g
    induction ls with
    | nil => exact fun x b => ⟨b, rfl⟩
    | cons l ls ih =>
      intro x b
      obtain ⟨b', hb'⟩ := excuseTo_barxSet s g x e b l
      simp only [List.foldl_cons]
      rw [hb']
      exact ih _ b'
  obtain ⟨b, hb⟩ := key [1, 2, 3, 4] (v.extractLsb' 1 4) (v.extractLsb' 28 4) s.myCore.exc s.bars
  rw [excuse_levels] at hb
  exact ⟨b, hb⟩

/-- Words with the same bits [4:1] and [31:28] agree under the mask of EXC and GRANT. -/
theorem and_barxMask {w v : Word} (h1 : w.extractLsb' 1 4 = v.extractLsb' 1 4) (h2 : w.extractLsb' 28 4 = v.extractLsb' 28 4) :
    w &&& 0xF000001E#64 = v &&& 0xF000001E#64 := by
  have hmask : ∀ i : Fin 64, (0xF000001E#64).getLsbD i = true → (∃ j, j < 4 ∧ i.val = 1 + j) ∨ ∃ j, j < 4 ∧ i.val = 28 + j := by
    decide
  apply BitVec.eq_of_getLsbD_eq
  intro i hi
  rw [BitVec.getLsbD_and, BitVec.getLsbD_and]
  cases hm : (0xF000001E#64).getLsbD i with
  | false => rw [Bool.and_false, Bool.and_false]
  | true =>
    rcases hmask ⟨i, hi⟩ hm with ⟨j, hj, rfl⟩ | ⟨j, hj, rfl⟩
    · simpa [hj] using congrArg (fun x => x.getLsbD j) h1
    · simpa [hj] using congrArg (fun x => x.getLsbD j) h2

theorem barxWord_and {c : Core} {v : Word} (hc : c.cnt0 < 2 ^ 9) :
    barxWord { c with grant := v.extractLsb' 28 4, exc := v.extractLsb' 1 4 } &&& 0xF000001E#64 = v &&& 0xF000001E#64 := by
  obtain ⟨hexc, -, -, hgrant⟩ :=
    barxWord_fields (c := { c with grant := v.extractLsb' 28 4, exc := v.extractLsb' 1 4 }) hc
  exact and_barxMask hexc hgrant

theorem written_barx (s : State) (v : Word) (hc : s.myCore.cnt0 < 2 ^ 9) :
    ∃ w, CrWritten s (s.crWrite s.cur.core s.cur.slot 0x014 v) 0x014 w ∧ w &&& 0xF000001E#64 = v &&& 0xF000001E#64 := by
  obtain ⟨b, hb⟩ := writeBarx_eq s v
  refine ⟨_, ?_, barxWord_and hc⟩
  change CrWritten s (s.writeBarx s.cur.core v) 0x014 _
  rw [hb]
  exact (written_onMyCore (fun c => { c with grant := v.extractLsb' 28 4, exc := v.extractLsb' 1 4 }) rfl rfl rfl rfl rfl
    fun _ hk => crReadOf_congr (hbarx := fun h => absurd h hk)).ambient s.trseq b s.seq

/-! ### Every write -/

theorem wdogField_exp (old v : Word) : (fields 0x800FFFFF#64 old v).getLsbD 32 = old.getLsbD 32 := by
  unfold fields
  simp

theorem bit0_and_one (v : Word) : Word.ofBool (flag v 0) &&& 1#64 = v &&& 1#64 := by
  unfold flag Word.ofBool
  apply BitVec.eq_of_getLsbD_eq
  intro i hi
  by_cases h0 : i = 0
  · subst h0
    rw [BitVec.getLsbD_and, BitVec.getLsbD_and]
    cases v.getLsbD 0 <;> rfl
  · simp [h0]

/-- A truncation is not seen under a mask of the bits kept. -/
theorem truncated_and (v m : Word) (k : Nat) (hm : ∀ i : Fin 64, k ≤ i.val → m.getLsbD i = false) :
    (v.setWidth k).setWidth 64 &&& m = v &&& m := by
  apply BitVec.eq_of_getLsbD_eq
  intro i hi
  by_cases hk : i < k
  · simp [hk, hi]
  · have hmi : m.getLsbD i = false := hm ⟨i, hi⟩ (Nat.le_of_not_lt hk)
    rw [BitVec.getLsbD_and, BitVec.getLsbD_and, hmi, Bool.and_false, Bool.and_false]

theorem epcField_and (v : Word) (b : Bool) :
    (((v &&& 0x00FFFFFFFFFFFFFE#64).setWidth 56).setWidth 64 ||| (if b then 0x100000000000000#64 else 0)) &&&
      0x00FFFFFFFFFFFFFE#64 = v &&& 0x00FFFFFFFFFFFFFE#64 := by
  have hb : (if b then 0x100000000000000#64 else 0) &&& 0x00FFFFFFFFFFFFFE#64 = 0#64 := by cases b <;> decide
  rw [BitVec.and_or_distrib_right, hb, BitVec.or_zero, truncated_and _ _ _ (by decide), and_mask_and]

theorem tknoteField_and (v : Word) (rank task : Nat) :
    ((v &&& 0x803FFFFF#64) ||| Word.ofNat (rank * 2 ^ 44 + task * 2 ^ 32)) &&& 0x803FFFFF#64 = v &&& 0x803FFFFF#64 := by
  have hhigh : Word.ofNat (rank * 2 ^ 44 + task * 2 ^ 32) &&& 0x803FFFFF#64 = 0#64 := by
    have hn : rank * 2 ^ 44 + task * 2 ^ 32 = (rank * 2 ^ 12 + task) * 2 ^ 32 := by ring
    apply BitVec.eq_of_getLsbD_eq
    intro i hi
    rw [hn, BitVec.getLsbD_and, Word.ofNat, BitVec.getLsbD_ofNat, Nat.testBit_mul_two_pow]
    have hmask : ∀ i : Fin 64, 32 ≤ i.val → (0x803FFFFF#64).getLsbD i = false := by decide
    by_cases h32 : 32 ≤ i
    · rw [hmask ⟨i, hi⟩ h32]
      simp
    · simp [h32]
  rw [BitVec.and_or_distrib_right, and_mask_and, hhigh, BitVec.or_zero]

/-- A write of a register with writable fields brings them to the value given and leaves the other registers (R22). -/
theorem crWrite_written (s : State) (crn : Nat) (v : Word) (hm : writableFields s.me.sup crn ≠ 0)
    (hmu : crn = 0x121 → 1 ≤ fld v 0 4 ∧ fld v 0 4 ≤ 8) (hbar : crn = 0x014 → s.myCore.cnt0 < 2 ^ 9) :
    ∃ w, CrWritten s (s.crWrite s.cur.core s.cur.slot crn v) crn w ∧
      w &&& writableFields s.me.sup crn = v &&& writableFields s.me.sup crn ∧
      (crn = 0x124 → w.getLsbD 32 = s.myCore.wdog.getLsbD 32) := by
  by_cases h1 : 0x020 ≤ crn ∧ crn < 0x030
  · exact ⟨v, written_skey s v crn h1.1 h1.2, rfl, fun h => by omega⟩
  by_cases h2 : 0x030 ≤ crn ∧ crn < 0x040
  · obtain ⟨w, hw, hv⟩ := written_sdst s v crn h2.1 h2.2
    refine ⟨w, hw, ?_, fun h => by omega⟩
    unfold writableFields
    rw [if_neg h1, if_pos h2]
    exact hv
  unfold writableFields at hm ⊢
  rw [if_neg h1, if_neg h2] at hm ⊢
  split at hm
  · exact ⟨_, written_fpmode s v, and_mask_and _ _, fun h => by omega⟩
  · exact ⟨_, written_seed s v, truncated_and _ _ _ (by decide), fun h => by omega⟩
  · exact ⟨_, written_admit s v, bit0_and_one v, fun h => by omega⟩
  · exact ⟨_, written_amig s v, bit0_and_one v, fun h => by omega⟩
  · obtain ⟨w, hw, hv⟩ := written_barx s v (hbar rfl)
    split at hm
    · next hs =>
      rw [if_pos hs]
      exact ⟨w, hw, hv, fun h => by omega⟩
    · exact absurd rfl hm
  · exact ⟨_, written_tknote s v, tknoteField_and v _ _, fun h => by omega⟩
  · exact ⟨_, written_kvreq s v, and_mask_and _ _, fun h => by omega⟩
  · exact ⟨_, written_tvec s v, and_mask_and _ _, fun h => by omega⟩
  · exact ⟨_, written_epc s v, epcField_and v _, fun h => by omega⟩
  · exact ⟨_, written_tcause s v, truncated_and _ _ _ (by decide), fun h => by omega⟩
  · exact ⟨_, written_mbcfg s v, and_mask_and _ _, fun h => by omega⟩
  · exact ⟨_, written_muweight s v (hmu rfl), and_mask_and _ _, fun h => by omega⟩
  · exact ⟨_, written_tscfg s v, and_mask_and _ _, fun h => by omega⟩
  · exact ⟨_, written_wdog s v, fields_and _ _ _, fun _ => wdogField_exp _ _⟩
  · obtain ⟨w, hw, hv⟩ := written_trcfg s v
    exact ⟨w, hw, hv, fun h => by omega⟩
  · exact absurd rfl hm

/-! ### The instructions -/

namespace State

/-- Two writes of one register in turn. -/
theorem CrWritten.trans {s t u : State} {crn : Nat} {w w' : Word} (h : CrWritten s t crn w) (k : CrWritten t u crn w') :
    CrWritten s u crn w' := by
  have hc := h.kept.cur
  have hv := k.value
  have ho := k.others
  rw [hc] at hv ho
  exact ⟨h.kept.trans k.kept, k.pc.trans h.pc, hv, fun n hn => (ho n hn).trans (h.others n hn)⟩

/-- The issuing core after the retirement of an instruction. -/
theorem core_issuedBusy (u : State) (ac rc busy : Nat) :
    ((u.onMyCore (coreIssued ac rc)).onMe (slotBusy busy)).core u.cur.core =
      (coreIssued ac rc u.myCore).setSlot u.cur.slot (slotBusy busy u.me) := by
  have hm : (u.onMyCore (coreIssued ac rc)).myCore = coreIssued ac rc u.myCore := myCore_onMyCore u _
  have hme : (u.onMyCore (coreIssued ac rc)).me = u.me := congrArg (·.slot u.cur.slot) hm
  rw [onMe_eq, onMyCore_cur, core_setCore, hm, hme]

/-- The retirement of an instruction is seen by no control register. -/
theorem crRead_retired {s u : State} (passes : Nat) (hl : s.me.live = true) (h : CrKept s u) :
    CrKept s (retired s passes u) ∧ (retired s passes u).me.pc = u.me.pc ∧
      ∀ k, (retired s passes u).crRead s.cur.core s.cur.slot k = u.crRead s.cur.core s.cur.slot k := by
  have hc := h.cur
  have ht : CrKept s (retired s passes u) := by
    rw [retired_eq passes hl h]
    exact (h.trans (CrKept.onMyCore u rfl rfl rfl rfl)).trans (CrKept.onMe _ rfl rfl rfl)
  have hcore := core_issuedBusy u (s.coreAc s.cur.core) s.rc (s.coreAc s.cur.core + 8 * passes)
  rw [← retired_eq passes hl h] at hcore
  have hslot : (retired s passes u).slot u.cur.core u.cur.slot = slotBusy (s.coreAc s.cur.core + 8 * passes) u.me := by
    rw [slot, hcore, Core.slot_setSlot]
  have hcl : (retired s passes u).cluster (s.cur.core / 8) = u.cluster (s.cur.core / 8) := by
    rw [retired_eq passes hl h]
    rfl
  refine ⟨ht, ?_, fun k => ?_⟩
  · rw [me, ht.cur, ← hc, hslot]
    rfl
  · rw [ht.crRead, h.crRead, hcl, ← hc, hslot, hcore]
    rfl

/-- An instruction that has written one control register and retired. -/
theorem CrWritten.issued {s u : State} {crn : Nat} {w : Word} (h : CrWritten (s.onMe (slotBegun 4)) u crn w)
    (hl : s.me.live = true) :
    CrKept s (retired s 1 u) ∧ (retired s 1 u).me.pc = s.me.pc + 4 ∧
      (retired s 1 u).crRead s.cur.core s.cur.slot crn = some w ∧
      ∀ k, k ≠ crn → (retired s 1 u).crRead s.cur.core s.cur.slot k = s.crRead s.cur.core s.cur.slot k := by
  obtain ⟨hk, hpc, hr⟩ := crRead_retired 1 hl ((CrKept.onMe s rfl rfl rfl).trans h.kept)
  have hb : (s.onMe (slotBegun 4)).me.pc = s.me.pc + 4 := by
    rw [me_onMe]
    rfl
  refine ⟨hk, hpc.trans (h.pc.trans hb), (hr crn).trans h.value, fun k hne => ?_⟩
  rw [hr, ← crRead_begun s 4]
  exact h.others k hne

end State

theorem crWritable_eq (sup : Bool) (n : Nat) : crWritable sup n = writableFields sup n := rfl

/-- The w1c field of cr.wdog after a write (R339). -/
theorem crClear_written {s t : State} {crn : Nat} {w src : Word} (h : CrWritten s t crn w) :
    ∃ w', CrWritten s (t.crClear s.cur.core crn src) crn w' ∧
      w' &&& writableFields s.me.sup crn = w &&& writableFields s.me.sup crn ∧
      (crn = 0x124 → w'.getLsbD 32 = (w.getLsbD 32 && !src.getLsbD 32)) := by
  unfold crClear
  split
  · next hc =>
    obtain ⟨rfl, hsrc⟩ := hc
    have hw : t.myCore.wdog = w := by
      have := h.value
      rw [← h.kept.cur] at this
      exact Option.some.inj this
    have hclear : CrWritten t (t.onMyCore fun c => { c with wdog := c.wdog &&& ~~~0x100000000#64 }) 0x124
        (t.myCore.wdog &&& ~~~0x100000000#64) :=
      written_onMyCore (fun c => { c with wdog := c.wdog &&& ~~~0x100000000#64 }) rfl rfl rfl rfl rfl
        fun _ hk => crReadOf_congr (hwdog := fun h => absurd h hk)
    rw [← h.kept.cur]
    refine ⟨_, h.trans hclear, ?_, fun _ => ?_⟩
    · have hm : ~~~0x100000000#64 &&& writableFields s.me.sup 0x124 = writableFields s.me.sup 0x124 := by
        change ~~~0x100000000#64 &&& 0x800FFFFF#64 = 0x800FFFFF#64
        decide
      rw [hw, BitVec.and_assoc, hm]
    · rw [hw, show src.getLsbD 32 = true from hsrc]
      simp
  · next hc =>
    refine ⟨w, h, rfl, fun he => ?_⟩
    have hsrc : src.getLsbD 32 = false := by simpa [he, flag] using hc
    rw [hsrc, Bool.not_false, Bool.and_true]

/-- CRW, CRSET and CRCLR are the issue of one update with their own value. -/
theorem exec_crUpdate {crn : BitVec 12} {a : Reg} {old v : Word} {i : Instr} (s : State)
    (hi : (i = .crw crn a ∧ v = s.reg a) ∨ (i = .crset crn a ∧ v = old ||| s.reg a) ∨ (i = .crclr crn a ∧ v = old &&& ~~~s.reg a)) :
    ∃ new : Word → Word → Word, v = new old (s.reg a) ∧
      exec i s = s.issue (s.crNeed crn.toNat true [a] []) fun t =>
        .ok (t.crUpdate crn.toNat (t.reg a) fun x => new x (t.reg a)) := by
  rcases hi with ⟨rfl, rfl⟩ | ⟨rfl, rfl⟩ | ⟨rfl, rfl⟩
  · exact ⟨fun _ x => x, rfl, rfl⟩
  · exact ⟨fun old x => old ||| x, rfl, rfl⟩
  · exact ⟨fun old x => old &&& ~~~x, rfl, rfl⟩

/-- An update of a control register: its writable fields, then its w1c field. -/
theorem crUpdate_eq {t : State} {crn : Nat} {old : Word} (src : Word) (new : Word → Word)
    (h : t.crRead t.cur.core t.cur.slot crn = some old) :
    t.crUpdate crn src new =
      (if writableFields t.me.sup crn = 0 then t
        else t.crWrite t.cur.core t.cur.slot crn (fields (writableFields t.me.sup crn) old (new old))).crClear t.cur.core crn src := by
  unfold crUpdate
  rw [h]
  rfl

/-- Without a writable field an update leaves the state. -/
theorem crUpdate_readOnly {t : State} {crn : Nat} {old : Word} (src : Word) (new : Word → Word)
    (h : t.crRead t.cur.core t.cur.slot crn = some old) (hm : writableFields t.me.sup crn = 0) : t.crUpdate crn src new = t := by
  have hcrn : crn ≠ 0x124 := by
    rintro rfl
    exact absurd hm (by change ¬(0x800FFFFF#64 = 0); decide)
  rw [crUpdate_eq src new h, if_pos hm]
  unfold crClear
  rw [if_neg fun h => hcrn h.1]

theorem fld_low4 (m v : Word) : fld (fields 0xF#64 m v) 0 4 = v.toNat % 16 := by
  have h := congrArg BitVec.toNat (fields_and 0xF#64 m v)
  rw [BitVec.toNat_and, BitVec.toNat_and] at h
  have hmod : ∀ n : Nat, n &&& 15 = n % 16 := fun n => Nat.and_two_pow_sub_one_eq_mod n 4
  change _ &&& 15 = _ &&& 15 at h
  rw [hmod, hmod] at h
  rw [fld, pow_zero, Nat.div_one]
  exact h

/-- An update of a register with writable fields writes them and no other register. -/
theorem crUpdate_written {t : State} {crn : Nat} {old : Word} (src : Word) (new : Word → Word)
    (h : t.crRead t.cur.core t.cur.slot crn = some old) (hm : writableFields t.me.sup crn ≠ 0)
    (hmu : crn = 0x121 → 1 ≤ (new old).toNat % 16 ∧ (new old).toNat % 16 ≤ 8) (hbar : crn = 0x014 → t.myCore.cnt0 < 2 ^ 9) :
    ∃ w, CrWritten t (t.crUpdate crn src new) crn w ∧
      w &&& writableFields t.me.sup crn = new old &&& writableFields t.me.sup crn ∧
      (crn = 0x124 → w.getLsbD 32 = (old.getLsbD 32 && !src.getLsbD 32)) := by
  have hmu' : crn = 0x121 → 1 ≤ fld (fields (writableFields t.me.sup crn) old (new old)) 0 4 ∧
      fld (fields (writableFields t.me.sup crn) old (new old)) 0 4 ≤ 8 := by
    rintro rfl
    change 1 ≤ fld (fields 0xF#64 _ _) 0 4 ∧ fld (fields 0xF#64 _ _) 0 4 ≤ 8
    rw [fld_low4]
    exact hmu rfl
  obtain ⟨w, hw, hv, hexp⟩ := crWrite_written t crn (fields (writableFields t.me.sup crn) old (new old)) hm hmu' hbar
  obtain ⟨w', hw', hv', hexp'⟩ := crClear_written (src := src) hw
  rw [crUpdate_eq src new h, if_neg hm]
  refine ⟨w', hw', by rw [hv', hv, fields_and], fun hcrn => ?_⟩
  subst hcrn
  have hold : t.myCore.wdog = old := Option.some.inj h
  rw [hexp' rfl, hexp rfl, hold]

/-- Whether a write is privileged: a supervisor register, or one without a field that user mode may write. -/
theorem crNeed_priv (s : State) (crn : Nat) (a : Reg) :
    (s.crNeed crn true [a] []).priv = true ↔ 0x100 ≤ crn ∨ writableFields false crn = 0 := by
  change (decide (0x100 ≤ crn) || (true && crWritable false crn == 0)) = true ↔ _
  simp [crWritable_eq]

/-- Settles O21: the need of a write gives the trap of user mode, and its effect writes the one register's fields. -/
theorem controlRegisterWrites : Obligations.ControlRegisterWrites := by
  unfold Obligations.ControlRegisterWrites
  intro s crn a old n m read hs hn hp hold v i hi
  obtain ⟨new, rfl, he⟩ := exec_crUpdate s hi
  obtain ⟨hlive, hfrozen, hunc, -⟩ := id hs
  have hsup : (s.onMe (slotBegun 4)).me.sup = s.me.sup := by
    rw [me_onMe]
    rfl
  have hread : (s.onMe (slotBegun 4)).crRead s.cur.core s.cur.slot n = some old := (crRead_begun s 4 n).trans hold
  have hlegal : (s.crNeed n true [a] []).legal = true := (crNeed_legal s _ _ _ _).trans (decide_eq_true hn)
  refine ⟨fun hm hu => ?_, fun hm hu => ?_, fun hm hmu hbar => ?_⟩
  · have hm' : writableFields false n = 0 := by rw [← hu]; exact hm
    rw [he, issue_privilege hlive hfrozen hunc hlegal ((crNeed_priv s n a).mpr (.inr hm')) hu]
  · rw [he]
    refine issue_me s (s.crNeed n true [a] []) _ id hs hlegal (fun _ => hu) (fun _ h => by cases h) (fun _ => ⟨rfl, rfl⟩) ?_
    change Except.ok (State.crUpdate (s.onMe (slotBegun 4)) n _ _) = _
    rw [crUpdate_readOnly _ _ hread (by rw [hsup]; exact hm), onMe_onMe]
    rfl
  · have hpriv : (s.crNeed n true [a] []).priv = true → s.me.sup = true := fun h => by
      rcases (crNeed_priv s n a).mp h with h | h
      · exact hp h
      · by_contra hu
        rw [Bool.not_eq_true] at hu
        exact hm (by change writableFields s.me.sup n = 0; rw [hu, h])
    have hcnt : n = 0x014 → (s.onMe (slotBegun 4)).myCore.cnt0 < 2 ^ 9 := fun h => by
      rw [onMe_eq, myCore_setCore]
      exact hbar h
    obtain ⟨w, hw, hv, hexp⟩ := crUpdate_written (t := s.onMe (slotBegun 4)) ((s.onMe (slotBegun 4)).reg a)
      (fun x => new x ((s.onMe (slotBegun 4)).reg a)) hread (by rw [hsup]; exact hm) (by rw [reg_begun]; exact hmu) hcnt
    obtain ⟨hkept, hpc, hval, hothers⟩ := hw.issued hlive
    rw [hsup, reg_begun] at hv
    rw [reg_begun] at hexp
    refine ⟨_, w, he.trans (issue_next s (s.crNeed n true [a] []) _ _ hs hlegal hpriv (fun _ h => by cases h) rfl), hval, hv, hexp,
      hkept.mem, hkept.net, hkept.g, hpc, hothers, hkept.cores, hkept.slots⟩

end Sys2Proof.Machine
end

section
/-!
PROOF. A core's turn (O58): what `park` changes, what `fetch` gives, and the attempt of what is fetched.
-/

namespace Sys2Proof.Machine

open State

namespace State

/-! ### Parking -/

/-- A state that differs from another in the holds of some slots of one core, and in the order numbers drawn. -/
structure Parked (pid : Nat) (ready : List Nat) (s t : State) : Prop where
  rest : ({ t with cores := [], seq := 0 } : State) = { s with cores := [], seq := 0 }
  cores : ∀ q, q ≠ pid → t.core q = s.core q
  core : ({ t.core pid with slots := [] } : Core) = { s.core pid with slots := [] }
  hold : ∀ m, ({ t.slot pid m with hold := none } : Slot) = { s.slot pid m with hold := none }
  slots : ∀ m, m ∉ ready → t.slot pid m = s.slot pid m

namespace Parked

variable {pid : Nat} {ready : List Nat} {s t u : State}

theorem refl (s : State) : Parked pid ready s s := ⟨rfl, fun _ _ => rfl, rfl, fun _ => rfl, fun _ _ => rfl⟩

theorem trans (h : Parked pid ready s t) (k : Parked pid ready t u) : Parked pid ready s u :=
  ⟨k.rest.trans h.rest, fun q hq => (k.cores q hq).trans (h.cores q hq), k.core.trans h.core,
    fun m => (k.hold m).trans (h.hold m), fun m hm => (k.slots m hm).trans (h.slots m hm)⟩

/-- One slot's hold set. -/
theorem setHold {n : Nat} (hn : n ∈ ready) (s : State) (h : Hold) (q : Nat) :
    Parked pid ready s { s.onSlot pid n fun f => { f with hold := some h } with seq := q } where
  rest := rfl
  cores p hp := core_onCore_other s pid p (fun c => c.setSlot n { c.slot n with hold := some h }) hp
  core := by
    change ({ (s.onSlot pid n fun f => { f with hold := some h }).core pid with slots := [] } : Core) = _
    rw [onSlot, setSlot, core_onCore]
    rfl
  hold m := by
    change ({ (s.onSlot pid n fun f => { f with hold := some h }).slot pid m with hold := none } : Slot) = _
    by_cases hm : m = n
    · rw [hm, slot_onSlot]
    · rw [onSlot, slot_setSlot_other _ _ _ _ _ _ (.inr hm)]
  slots m hm := slot_setSlot_other _ _ _ _ _ _ (.inr fun e => hm (e ▸ hn))

end Parked

/-- Parking sets holds of ready fibres alone (R104). -/
theorem parked_park (s : State) (pid : Nat) : Parked pid (s.readySlots pid) s (s.park pid) := by
  have key : ∀ (ready l : List Nat) (u : State), (∀ n ∈ l, n ∈ ready) → Parked pid ready u
      (l.foldl
        (fun u n =>
          match u.blockedBy pid n with
          | some (h, q) => { u.onSlot pid n fun f => { f with hold := some h } with seq := q }
          | none => u) u) := by
    intro ready l
    induction l with
    | nil => exact fun u _ => .refl u
    | cons n l ih =>
      intro u hl
      rw [List.foldl_cons]
      refine Parked.trans ?_ (ih _ fun m hm => hl m (by simp [hm]))
      split
      · exact .setHold (hl n (by simp)) u _ _
      · exact .refl u
  unfold park
  dsimp only
  split
  · exact .refl s
  · exact key _ _ s fun _ h => h

theorem park_of_le_one {s : State} {pid : Nat} (h : (s.readySlots pid).length ≤ 1) : s.park pid = s := if_pos h

/-! ### A turn of the plan -/

variable {s : State} {pid n lvl : Nat} {rest : List Turn}

theorem step_issue (h : s.plan = .issue pid :: rest) : step s = State.issueTurn { s with plan := rest } pid := by
  unfold step nextTurn
  rw [h]
  rfl

theorem issueTurn_idle (h : s.mayIssue pid = false) : s.issueTurn pid = .next s := by
  unfold issueTurn
  rw [h]
  rfl

theorem issueTurn_none (h : s.mayIssue pid = true) (hp : (s.park pid).pick pid = none) :
    s.issueTurn pid = .next (s.park pid) := by
  unfold issueTurn issuePick
  rw [h, hp]
  rfl

/-- The picked fibre's instruction, fetched, is attempted. -/
theorem issueTurn_fetched {i : Instr} {t : State} (h : s.mayIssue pid = true) (hp : (s.park pid).pick pid = some (n, lvl))
    (hf : (s.park pid).fetch pid n = .ok (i, t)) : s.issueTurn pid = t.attempt pid n lvl (exec i) := by
  unfold issueTurn issuePick
  rw [h, hp]
  simp only [hf]
  rfl

/-! ### The fetch -/

/-- A PC that is not canonical traps PAGE (R57). -/
theorem fetch_far (h : (s.slot pid n).far = true) :
    s.fetch pid n = .error (.trap (trapOf .page .fetch (s.slot pid n).pcWord)) := by
  unfold fetch
  dsimp only
  rw [h]
  rfl

/-- A parcel that stands in the cluster's instruction cache is fetched (R104, R150). -/
theorem fetchParcel_cached {f : Slot} {va : Word} {pa : Nat} {p : Parcel} {t : State} (hs : isService pid = false)
    (ht : s.translate pid f .fetch .fetch va = .ok (pa, t)) (hp : Tab.look (s.cluster (pid / 8)).icache pa = some p) :
    s.fetchParcel pid f va = .ok (p, t) := by
  unfold fetchParcel
  rw [ht, hs]
  change (match Tab.look (s.cluster (pid / 8)).icache pa with | some p => _ | none => _) = _
  rw [hp]

section

variable {p q : Parcel} {t t2 : State} {i : Instr}

theorem fetch_short (hf : (s.slot pid n).far = false)
    (hp : s.fetchParcel pid (s.slot pid n) (s.slot pid n).pcWord = .ok (p, t)) (h15 : p.getLsbD 15 = false)
    (hd : decodeParcels [p] = .ok (i, [])) : s.fetch pid n = .ok (i, t) := by
  unfold fetch
  dsimp only
  rw [hf, hp]
  change (if p.getLsbD 15 then _ else _) = _
  rw [h15]
  change (match decodeParcels [p] with | .ok (i, _) => _ | .error _ => _) = _
  rw [hd]

/-- A long instruction's two parcels, fetched, are decoded. -/
theorem fetch_long (hf : (s.slot pid n).far = false)
    (hp : s.fetchParcel pid (s.slot pid n) (s.slot pid n).pcWord = .ok (p, t)) (h15 : p.getLsbD 15 = true)
    (hq : t.fetchParcel pid (s.slot pid n) ((s.slot pid n).pcWord + 2) = .ok (q, t2)) :
    s.fetch pid n =
      match decodeParcels [p, q] with
      | .ok (i, _) => .ok (i, t2)
      | .error _ => .error (.trap (trapOf .illegal .instruction 0)) := by
  unfold fetch
  dsimp only
  rw [hf, hp]
  change (if p.getLsbD 15 then _ else _) = _
  rw [h15, if_pos rfl, hq]
  rfl

end

/-! ### The attempt -/

/-- What an attempt of an instruction comes to (R105): held, it leaves what its step leaves; issued, the picker's effects come
with it. -/
theorem attempt_runs {t : State} {pid n lvl : Nat} {i : Instr} {o : Host.Outcome State Fault Refusal}
    (ho : o = t.attempt pid n lvl (exec i)) :
    let v : State := { t with cur := { core := pid, slot := n } }
    (∀ w, exec i v = .next w → (w.core pid).last = (v.core pid).last → o = .next w) ∧
      (∀ w, exec i v = .next w → (w.core pid).last ≠ (v.core pid).last → o = exec i (v.picked pid n lvl)) ∧
      (∀ f, exec i v = .fault f → o = .fault f) ∧ ∀ r, exec i v = .refused r → o = .refused r := by
  subst ho
  unfold attempt
  dsimp only
  refine ⟨fun w hw hl => ?_, fun w hw hl => ?_, fun f hf => ?_, fun r hr => ?_⟩
  · rw [hw]
    exact if_pos hl
  · rw [hw]
    exact if_neg hl
  · rw [hf]
  · rw [hr]

end State

/-- Settles O58: a turn is `issueTurn`, which parks, picks, fetches and attempts. -/
theorem stepRunsDecoded : Obligations.StepRunsDecoded := by
  unfold Obligations.StepRunsDecoded
  intro s pid n lvl rest u k hplan
  have hstep : step s = u.issueTurn pid := step_issue hplan
  obtain ⟨hrest, hcores, hcore, hhold, hslots⟩ := parked_park u pid
  refine ⟨fun h => hstep.trans (issueTurn_idle h), park_of_le_one, ⟨hrest, hcores, hcore, hhold, hslots⟩,
    fun h hp => hstep.trans (issueTurn_none h hp), fun h hp => ⟨fetch_far, fun hs hfar pa p t1 ht hpa => ?_⟩⟩
  intro runs
  have hfetched : k.fetchParcel pid (k.slot pid n) (k.slot pid n).pcWord = .ok (p, t1) := fetchParcel_cached hs ht hpa
  have hruns (i : Instr) (t : State) (hf : k.fetch pid n = .ok (i, t)) : runs i t :=
    attempt_runs (hstep.trans (issueTurn_fetched h hp hf))
  refine ⟨fun h15 i hd => hruns i t1 (fetch_short hfar hfetched h15 hd), fun h15 pb q t2 ht2 hpb => ?_⟩
  have hlong := fetch_long hfar hfetched h15 (fetchParcel_cached hs ht2 hpb)
  refine ⟨fun i hd => hruns i t2 ?_, fun ⟨e, he⟩ => ?_⟩
  · rw [hlong, hd]
  · rw [hlong, he]

end Sys2Proof.Machine
end

section
/-!
PROOF. Privileged instructions in user mode, TRAP and TRET (O23).
-/

namespace Sys2Proof.Machine

open State

/-- A field that reaches to the top of its word. -/
theorem fld_top (w : Word) (lo n : Nat) (h : 64 ≤ lo + n) : fld w lo n = w.toNat / 2 ^ lo := by
  refine Nat.mod_eq_of_lt (Nat.div_lt_of_lt_mul ?_)
  rw [← pow_add]
  exact w.isLt.trans_le (Nat.pow_le_pow_right (by decide) h)

/-! ### Privileged instructions -/

/-- A privileged form is the issue of an effect with a privileged need (R44). -/
theorem exec_privileged (s : State) (rd a b : Reg) (i : Instr)
    (hi : i ∈ [Instr.tret, .tlbW rd a b, .tlbInv a, .tlbInva a, .ctxSave rd a b, .ctxLoad rd a b, .wipe rd a, .icflush rd a]) :
    ∃ reads writes body, exec i s = s.issue (.system reads writes) body := by
  simp only [List.mem_cons, List.not_mem_nil, or_false] at hi
  rcases hi with rfl | rfl | rfl | rfl | rfl | rfl | rfl | rfl <;> unfold exec <;>
    dsimp only [execTret, execTlbW, execTlbInv, execTlbInva, execCtxSave, execCtxLoad, execWipe, execIcflush] <;>
    exact ⟨_, _, _, rfl⟩

theorem privilegedInstructions : Piece.PrivilegedInstructions := by
  intro s rd a b hl hf hu hs i hi
  obtain ⟨reads, writes, body, he⟩ := exec_privileged s rd a b i hi
  rw [he, issue_privilege hl hf hu rfl rfl hs]

/-! ### TRAP and TRET -/

@[simp] theorem slotBegun_epcv (len : Nat) (f : Slot) : (slotBegun len f).epcv = f.epcv := rfl
@[simp] theorem slotBegun_sup (len : Nat) (f : Slot) : (slotBegun len f).sup = f.sup := rfl

namespace State

/-- What TRAP requires (R306): a cause of 16 bits, no trap held, user mode, and a vector. -/
def TrapAllowed (s : State) (a : Reg) : Prop :=
  (s.reg a).toNat < 2 ^ 16 ∧ s.me.epcv = false ∧ s.me.sup = false ∧ s.myCore.tvec ≠ 0

/-- The fibre in its trap handler (R306). -/
def trapEntered (s : State) (a : Reg) (f : Slot) : Slot :=
  { f with
    epc := s.me.pc + 4, epcv := true, tcause := BitVec.ofNat 16 (s.reg a).toNat, sup := true, pc := s.myCore.tvec.setWidth 56 }

/-- The fibre back from its trap handler (R307). -/
def trapLeft (s : State) (f : Slot) : Slot := { f with pc := s.me.epc, sup := false, epcv := false }

theorem tvec_begun (s : State) (len : Nat) : (s.onMe (slotBegun len)).myCore.tvec = s.myCore.tvec := by
  rw [onMe_eq, myCore_setCore]
  rfl

variable {s : State} {a : Reg}

/-- A change of the issuing fibre is what it makes of that fibre. -/
theorem onMe_congr {f g : Slot → Slot} (h : f s.me = g s.me) : s.onMe f = s.onMe g := by
  rw [onMe_eq, onMe_eq, h]

/-- The two checks of TRAP are what it requires. -/
theorem trapAllowed_iff : s.TrapAllowed a ↔
    (fld (s.reg a) 16 48 == 0 && !s.me.epcv && !s.me.sup) = true ∧ (s.myCore.tvec != 0) = true := by
  simp [TrapAllowed, fld_top, and_assoc]

theorem trap_next (hs : s.Clear [a] [] []) (h : s.TrapAllowed a) :
    exec (.trap a) s = .next (s.after 4 1 (s.trapEntered a) id) := by
  change execTrap a s = _
  obtain ⟨hfibre, hvec⟩ := trapAllowed_iff.mp h
  refine issue_me s (.plain [a] []) _ (s.trapEntered a) hs rfl (fun h => by cases h) (fun _ h => by cases h)
    (fun _ => ⟨rfl, rfl⟩) ?_
  simp only [reg_begun, me_onMe, slotBegun_epcv, slotBegun_sup, tvec_begun, require_of_true hfibre, require_of_true hvec]
  refine congrArg Except.ok (onMe_congr ?_)
  rw [me_onMe, trapEntered, BitVec.ofNat_toNat]
  rfl

theorem trap_illegal (hs : s.Clear [a] [] []) (h : ¬s.TrapAllowed a) :
    exec (.trap a) s = .next (s.trapped (trapOf .illegal .instruction 0)) := by
  change execTrap a s = _
  refine issue_trapped s (.plain [a] []) _ _ hs rfl rfl rfl ?_
  simp only [reg_begun, me_onMe, slotBegun_epcv, slotBegun_sup, tvec_begun]
  rw [trapAllowed_iff, not_and] at h
  cases hfibre : (fld (s.reg a) 16 48 == 0 && !s.me.epcv && !s.me.sup) with
  | false =>
    rw [require_of_false rfl]
    rfl
  | true =>
    rw [require_of_true rfl, require_of_false (Bool.not_eq_true _ ▸ h hfibre)]
    rfl

theorem tret_next (hs : s.Clear [] [] []) (hsup : s.me.sup = true) (h : s.me.epcv = true) :
    exec .tret s = .next (s.after 4 1 s.trapLeft id) := by
  change execTret s = _
  refine issue_me s (.system [] []) _ s.trapLeft hs rfl (fun _ => hsup) (fun _ h => by cases h) (fun _ => ⟨rfl, rfl⟩) ?_
  rw [me_onMe, slotBegun_epcv, require_of_true h]
  exact congrArg Except.ok (onMe_congr (by rw [me_onMe]; rfl))

theorem tret_illegal (hs : s.Clear [] [] []) (hsup : s.me.sup = true) (h : s.me.epcv = false) :
    exec .tret s = .next (s.trapped (trapOf .illegal .instruction 0)) := by
  change execTret s = _
  refine issue_trap s (.system [] []) _ _ hs rfl (fun _ => hsup) (fun _ h => by cases h) ?_
  rw [me_onMe, slotBegun_epcv, require_of_false h]
  rfl

end State

theorem trapAndReturn : Piece.TrapAndReturn := by
  intro s a
  exact ⟨fun hs => ⟨trap_next hs, trap_illegal hs⟩, fun hs hsup => ⟨tret_next hs hsup, tret_illegal hs hsup⟩⟩

/-- Settles O23: the privilege check comes before operands are read; TRAP and TRET by the checks of their effects. -/
theorem privilegeAndTraps : Obligations.PrivilegeAndTraps := by
  unfold Obligations.PrivilegeAndTraps
  exact ⟨privilegedInstructions, trapAndReturn⟩

end Sys2Proof.Machine
end

section
/-!
PROOF. FRES, FKILL and cores that do not issue (O26): what an instruction that ends, resumes or moves another fibre of its core leaves.
-/

namespace Sys2Proof.Machine

open State

/-! ### Slots written in two orders -/

theorem Tab.put_comm {α : Type} (t : Tab α) {n m : Nat} (x y : α) (h : m ≠ n) :
    Tab.put (Tab.put t n x) m y = Tab.put (Tab.put t m y) n x := by
  induction t with
  | nil =>
    rcases Nat.lt_or_gt_of_ne h with h | h <;> simp [Tab.put, h, h.ne', h.not_gt]
  | cons e t ih =>
    obtain ⟨k, v⟩ := e
    simp only [Tab.put]
    grind [Tab.put]

theorem Core.setSlot_comm (c : Core) {n m : Nat} (x y : Slot) (h : m ≠ n) :
    (c.setSlot n x).setSlot m y = (c.setSlot m y).setSlot n x := by
  simp [Core.setSlot, Tab.put_comm _ _ _ h]

namespace State

/-! ### What a core sends, whatever its slots hold -/

/-- A state that differs from another in its cores, but not in a task entry, and in what is in flight. -/
structure SendsAlike (s u : State) : Prop where
  base : u = { s with cores := u.cores, net := u.net }
  entry : ∀ p, (u.core p).entry = (s.core p).entry

namespace SendsAlike

variable {s u : State}

theorem refl (s : State) : SendsAlike s s := ⟨rfl, fun _ => rfl⟩

theorem symm (h : SendsAlike s u) : SendsAlike u s := ⟨by rw [h.base], fun p => (h.entry p).symm⟩

theorem trans {t : State} (h : SendsAlike s t) (k : SendsAlike t u) : SendsAlike s u :=
  ⟨by rw [k.base, h.base], fun p => (k.entry p).trans (h.entry p)⟩

/-- A core replaced, its task entry not. -/
theorem setCore (s : State) (pid : Nat) {c : Core} (hc : c.entry = (s.core pid).entry) : SendsAlike s (s.setCore pid c) := by
  refine ⟨rfl, fun p => ?_⟩
  by_cases hp : p = pid
  · rw [hp, core_setCore, hc]
  · rw [core_setCore_other _ _ _ _ hp]

theorem entryWord (h : SendsAlike s u) (pid : Nat) (i : Fin 8) : u.entryWord pid i = s.entryWord pid i := by
  rw [State.entryWord, h.entry]
  rfl

theorem entryTask (h : SendsAlike s u) (pid : Nat) : u.entryTask pid = s.entryTask pid := by
  rw [State.entryTask, h.entryWord]
  rfl

theorem rankPort (h : SendsAlike s u) (pid rank : Nat) : u.rankPort pid rank = s.rankPort pid rank := by
  rw [h.base]
  rfl

theorem rankOf (h : SendsAlike s u) (pid : Nat) : u.rankOf pid = s.rankOf pid := by
  rw [h.base]
  rfl

theorem time (h : SendsAlike s u) (r : Nat) : u.time r = s.time r := by
  rw [h.base]
  rfl

theorem stand (h : SendsAlike s u) (p : Port) : u.stand p = s.stand p := by
  rw [h.base]
  rfl

theorem markHeld (h : SendsAlike s u) (p : Packet) : u.markHeld p = s.markHeld p := by
  rw [h.base]
  rfl

theorem handlerEmpty (h : SendsAlike s u) (pid index : Nat) : u.handlerEmpty pid index = s.handlerEmpty pid index := by
  have haddr : ∀ va, u.structAddr pid va = s.structAddr pid va := fun va => by
    unfold structAddr entryPasid
    rw [h.entryWord]
    rw [h.base]
    rfl
  have hva : u.handlerVa pid index = s.handlerVa pid index := by
    rw [handlerVa, h.entryWord]
    rfl
  unfold State.handlerEmpty handlerAddr structWord
  rw [hva, haddr]
  rw [h.base]
  rfl

end SendsAlike

variable {s u : State}

/-- A message is the same packet, whatever else the cores hold. -/
theorem send_alike (h : SendsAlike s u) (src dst : Port) (r : Routing) (sel : Word) (data : List Word) :
    ∃ p, s.send src dst r sel data = { s with net := s.net ++ [p] } ∧
      u.send src dst r sel data = { u with net := u.net ++ [p] } := by
  refine ⟨_, rfl, ?_⟩
  unfold send inject injectFor enter
  simp only [h.entry, h.stand, h.markHeld]

/-- What is sent to a rank is one packet, or nothing where the rank has no entry. -/
theorem sendToRank_alike (h : SendsAlike s u) (pid rank : Nat) (r : Routing) (sel : Word) (data : List Word) :
    ∃ ps, s.sendToRank pid rank r sel data = { s with net := s.net ++ ps } ∧
      u.sendToRank pid rank r sel data = { u with net := u.net ++ ps } := by
  unfold sendToRank
  rw [h.rankPort]
  cases s.rankPort pid rank with
  | none => exact ⟨[], by simp⟩
  | some port =>
    obtain ⟨p, hp⟩ := send_alike h (.core pid) port r sel data
    exact ⟨[p], hp⟩

/-- A FAULT record without a fibre is the same packets, whatever else the cores hold. -/
theorem sendUnheld_alike (h : SendsAlike s u) (pid : Nat) (t : Trap) :
    ∃ ps, s.sendUnheld pid t = { s with net := s.net ++ ps } ∧ u.sendUnheld pid t = { u with net := u.net ++ ps } := by
  unfold sendUnheld
  simp only [h.entryWord, h.entryTask, h.rankPort, h.rankOf, h.time, h.handlerEmpty]
  exact sendToRank_alike h _ _ _ _ _

/-! ### Another fibre of the core -/

/-- A state with one core changed and more in flight. -/
def beside (s : State) (pid : Nat) (ps : List Packet) (h : Core → Core) : State :=
  State.onCore { s with net := s.net ++ ps } pid h

/-- A slot whose fibre, of some generation, has ended (R103). -/
def freed (gen : BitVec 8) : Slot := { Slot.free with gen := gen + 1 }

/-- The end of a fibre frees its slot; a gather unit of its core that has faulted may send a record, the same whatever else the
cores hold. -/
theorem endFibre_alike (h : SendsAlike s u) {pid n : Nat} (hgk : (u.core pid).gk = (s.core pid).gk)
    (hgen : (u.slot pid n).gen = (s.slot pid n).gen) :
    ∃ ps, ((s.core pid).gk.mode ≠ .faulted → ps = []) ∧
      s.endFibre pid n = s.beside pid ps (fun c => c.setSlot n (freed (s.slot pid n).gen)) ∧
      u.endFibre pid n = u.beside pid ps (fun c => c.setSlot n (freed (s.slot pid n).gen)) := by
  unfold endFibre beside
  dsimp only
  rw [hgk, hgen]
  cases hfault : (s.core pid).gk.faultOf n (s.slot pid n).gen with
  | none => exact ⟨[], fun _ => rfl, by rw [List.append_nil]; rfl, by rw [List.append_nil]; rfl⟩
  | some t =>
    obtain ⟨ps, hs, hu⟩ := sendUnheld_alike h pid t
    refine ⟨ps, fun hmode => ?_, by dsimp only; rw [hs]; rfl, by dsimp only; rw [hu]; rfl⟩
    rw [Gather.faultOf, if_neg fun hc => hmode hc.1] at hfault
    cases hfault

/-- A change of a core that touches, of its fibres, at most the one of slot n, and not what an issue books. -/
structure OfSlot (n : Nat) (h : Core → Core) : Prop where
  slot : ∀ c m, m ≠ n → (h c).slot m = c.slot m
  setSlot : ∀ c m x, m ≠ n → h (c.setSlot m x) = (h c).setSlot m x
  issued : ∀ ac rc c, h (coreIssued ac rc c) = coreIssued ac rc (h c)

theorem ofSlot_setSlot (n : Nat) (x : Slot) : OfSlot n fun c => c.setSlot n x where
  slot c _ hm := c.slot_setSlot_other n _ x hm
  setSlot c _ y hm := (c.setSlot_comm x y hm).symm
  issued _ _ _ := rfl

theorem setCore_beside (s : State) (p : Nat) (c : Core) (ps : List Packet) (h : Core → Core) :
    (s.setCore p c).beside p ps h = State.setCore { s with net := s.net ++ ps } p (h c) := by
  change State.setCore (State.setCore { s with net := s.net ++ ps } p c) p
    (h (State.core (State.setCore { s with net := s.net ++ ps } p c) p)) = _
  rw [setCore_setCore, core_setCore]

theorem setCore_setReg (s : State) (c : Core) (r : Reg) (v : Word) :
    (s.setCore s.cur.core c).setReg r v = s.setCore s.cur.core (c.setSlot s.cur.slot ((c.slot s.cur.slot).write r v)) := by
  simp [setReg, onMe_eq]

/-- The retirement of an instruction whose fibre still stands in its slot. -/
theorem retired_setCore (s t : State) (passes : Nat) {c : Core} (hl : (c.slot s.cur.slot).live = true)
    (hg : (c.slot s.cur.slot).gen = s.me.gen) :
    retired s passes (t.setCore s.cur.core c) = t.setCore s.cur.core (coreIssued (s.coreAc s.cur.core) s.rc
      (c.setSlot s.cur.slot (slotBusy (s.coreAc s.cur.core + 8 * passes) (c.slot s.cur.slot)))) := by
  simp only [retired, onCore, onSlot, setSlot, slot, core_setCore, setCore_setCore, slot_coreIssued, setSlot_coreIssued, hl, hg]
  exact if_pos (beq_self_eq_true _)

/-- The retirement of an instruction that has ended its fibre. -/
theorem retired_setCore_ended (s t : State) (passes : Nat) {c : Core} (hl : (c.slot s.cur.slot).live = false) :
    retired s passes (t.setCore s.cur.core c) = t.setCore s.cur.core (coreIssued (s.coreAc s.cur.core) s.rc c) := by
  simp only [retired, onCore, slot, core_setCore, setCore_setCore, slot_coreIssued, hl]
  rfl

/-- An instruction that changes another slot of its core and writes a register leaves what the write of the register leaves, with
that change. -/
theorem retired_beside (s : State) {n : Nat} {h : Core → Core} (hh : OfSlot n h) (hn : n ≠ s.cur.slot) (hl : s.me.live = true)
    (ps : List Packet) (rd : Reg) (v : Word) :
    retired s 1 (((s.onMe (slotBegun 4)).beside s.cur.core ps h).setReg rd v) = (s.wrote rd v).beside s.cur.core ps h := by
  rw [onMe_eq, setCore_beside, hh.setSlot _ _ _ hn.symm]
  refine (congrArg (retired s 1) (setCore_setReg { s with net := s.net ++ ps } _ rd v)).trans ?_
  rw [retired_setCore]
  · rw [wrote, after, setCore_beside, hh.issued, id, hh.setSlot _ _ _ hn.symm]
    simp
  · simp only [Core.slot_setSlot]
    exact hl
  · simp only [Core.slot_setSlot]
    rfl

section

variable {n : Nat} {h : Core → Core} {ps : List Packet} {rd : Reg} {v : Word}

theorem core_wrote_beside : ((s.wrote rd v).beside s.cur.core ps h).core s.cur.core = h ((s.wrote rd v).core s.cur.core) :=
  core_onCore _ _ _

theorem outsideKept_beside : s.OutsideKept ((s.wrote rd v).beside s.cur.core ps h) := by
  refine ⟨fun _ => rfl, rfl, rfl, fun p hp => ?_, rfl, rfl, rfl, rfl, rfl, rfl, rfl, rfl, rfl⟩
  exact (core_onCore_other _ _ _ _ hp).trans (core_setCore_other _ _ _ _ hp)

theorem slot_beside (hh : OfSlot n h) {m : Nat} (hm : m ≠ n) :
    ((s.wrote rd v).beside s.cur.core ps h).slot s.cur.core m = (s.wrote rd v).slot s.cur.core m := by
  rw [slot, core_wrote_beside, hh.slot _ _ hm]
  rfl

theorem slot_wrote {m : Nat} (hm : m ≠ s.cur.slot) : (s.wrote rd v).slot s.cur.core m = s.slot s.cur.core m := by
  rw [slot, wrote, after, core_setCore, slot_coreIssued, Core.slot_setSlot_other _ _ _ _ hm]
  rfl

end

/-! ### The fibre that begins, and the fibres beside it -/

theorem slot_begun_other (s : State) (len : Nat) {n : Nat} (hn : n ≠ s.cur.slot) :
    (s.onMe (slotBegun len)).slot s.cur.core n = s.slot s.cur.core n :=
  slot_setSlot_other _ _ _ _ _ _ (.inr hn)

theorem slot_begun_me (s : State) (len : Nat) : (s.onMe (slotBegun len)).slot s.cur.core s.cur.slot = slotBegun len s.me :=
  slot_onSlot _ _ _ _

theorem retired_setReg (s : State) (hl : s.me.live = true) (rd : Reg) (v : Word) :
    retired s 1 ((s.onMe (slotBegun 4)).setReg rd v) = s.wrote rd v :=
  retired_me s 4 1 (fun f => f.write rd v) hl fun _ => ⟨rfl, rfl⟩

/-! ### Ending a fibre -/

theorem gk_wrote (s : State) (rd : Reg) (v : Word) : ((s.wrote rd v).core s.cur.core).gk = s.myCore.gk := by
  rw [wrote, after, core_setCore]
  rfl

theorem sendsAlike_begun (s : State) (len : Nat) : SendsAlike s (s.onMe (slotBegun len)) := .setCore s _ rfl

theorem sendsAlike_wrote (s : State) (rd : Reg) (v : Word) : SendsAlike s (s.wrote rd v) := .setCore s _ rfl

theorem gk_begun (s : State) (len : Nat) : ((s.onMe (slotBegun len)).core s.cur.core).gk = s.myCore.gk := by
  rw [onMe_eq, core_setCore]
  rfl

/-- An instruction that ends another fibre of its core, and writes a register. -/
theorem retired_endFibre (s : State) {n : Nat} (hn : n ≠ s.cur.slot) (hl : s.me.live = true) (rd : Reg) (v : Word) :
    retired s 1 (((s.onMe (slotBegun 4)).endFibre s.cur.core n).setReg rd v) = (s.wrote rd v).endFibre s.cur.core n := by
  obtain ⟨ps, -, hbegun, hwrote⟩ := endFibre_alike ((sendsAlike_begun s 4).symm.trans (sendsAlike_wrote s rd v)) (n := n)
    ((gk_wrote s rd v).trans (gk_begun s 4).symm) (by rw [slot_wrote hn, slot_begun_other s 4 hn])
  rw [hbegun, hwrote]
  exact retired_beside s (ofSlot_setSlot n _) hn hl ps rd v

/-- An instruction that ends its own fibre. -/
theorem retired_endFibre_me (s : State) :
    retired s 1 ((s.onMe (slotBegun 4)).endFibre s.cur.core s.cur.slot) = s.ended := by
  obtain ⟨ps, -, hbegun, hissued⟩ := endFibre_alike (pid := s.cur.core) (n := s.cur.slot)
    ((sendsAlike_begun s 4).symm.trans (.setCore s s.cur.core (c := coreIssued (s.coreAc s.cur.core) s.rc s.myCore) rfl))
    (by rw [gk_begun, core_setCore]; rfl) (by rw [slot_begun_me]; exact (congrArg Slot.gen (me_setCore s _)).trans rfl)
  rw [ended, onMyCore_eq, hissued, hbegun, onMe_eq, setCore_beside, setCore_beside, Core.setSlot_setSlot, retired_setCore_ended]
  · rfl
  · rw [Core.slot_setSlot]
    rfl

/-- A fibre ended leaves its slot free, with the next generation. -/
theorem slot_endFibre (s : State) (pid n : Nat) : (s.endFibre pid n).slot pid n = { Slot.free with gen := (s.slot pid n).gen + 1 } :=
  slot_setSlot _ _ _ _

/-! ### Resuming a fibre -/

/-- The gather unit of a core whose arming fibre resumes (R279, R318). -/
def rearmed (n : Nat) (gen : BitVec 8) (c : Core) : Core :=
  if c.gk.mode = .faulted ∧ c.gk.slot = n ∧ c.gk.gen = gen then
    { c with gk := { c.gk with mode := .armed, fault := none, line := none, waits := c.gk.line.toList ++ c.gk.waits } }
  else c

/-- A core whose frozen fibre f of slot n resumes in an ac (R315). -/
def coreResumed (n : Nat) (f : Slot) (ac : Nat) (c : Core) : Core :=
  rearmed n f.gen (c.setSlot n (({ f with frozen := false, age := 0, hold := none } : Slot).wake ac))

theorem slot_rearmed (n : Nat) (gen : BitVec 8) (c : Core) (m : Nat) : (rearmed n gen c).slot m = c.slot m := by
  unfold rearmed
  split <;> rfl

theorem ofSlot_rearmed (n : Nat) (gen : BitVec 8) : OfSlot n (rearmed n gen) where
  slot c m _ := slot_rearmed n gen c m
  setSlot c _ x _ := by
    unfold rearmed Core.setSlot
    split <;> rfl
  issued ac rc c := by
    unfold rearmed coreIssued
    split <;> rfl

theorem OfSlot.comp {n : Nat} {g h : Core → Core} (hg : OfSlot n g) (hh : OfSlot n h) : OfSlot n fun c => g (h c) where
  slot c m hm := (hg.slot _ m hm).trans (hh.slot c m hm)
  setSlot c m x hm := by rw [hh.setSlot c m x hm, hg.setSlot _ m x hm]
  issued ac rc c := by rw [hh.issued, hg.issued]

theorem ofSlot_coreResumed (n : Nat) (f : Slot) (ac : Nat) : OfSlot n (coreResumed n f ac) :=
  (ofSlot_rearmed n f.gen).comp (ofSlot_setSlot n _)

theorem resumeFrozen_eq (s : State) (pid n : Nat) :
    s.resumeFrozen pid n = s.beside pid [] (coreResumed n (s.slot pid n) (s.coreAc pid)) := by
  unfold resumeFrozen beside
  rw [List.append_nil]
  simp only [onSlot, setSlot, onCore, core_setCore, setCore_setCore]
  rfl

/-! ### Moving a fibre -/

/-- A fibre that moves is a MIGRATE record to its rank's port (R87), with what its end sends. -/
theorem migrate_eq (s : State) (pid n rank : Nat) (pc : BitVec 56) {port : Port} (h : s.rankPort pid rank = some port) :
    ∃ (p : Packet) (m : Msg) (ps : List Packet),
      s.migrate pid n rank pc = s.beside pid (p :: ps) (fun c => c.setSlot n (freed (s.slot pid n).gen)) ∧
        ((s.core pid).gk.mode ≠ .faulted → ps = []) ∧ p.dst = port ∧ p.tc = 1 ∧ p.load = .msg m false ∧
        m.sel.setWidth 56 = pc ∧ m.data = (s.slot pid n).g.toList := by
  obtain ⟨p, hsend, -, hdst, htc, hload⟩ := s.send_eq_net (.core pid) port
    { kind := .migrate, tc := 1, ecls := (s.slot pid n).ecls, prio := (s.slot pid n).prio.val, size := true, dest := rank,
      task := s.taskOf pid (s.slot pid n), src := s.rankOf pid } (pc.setWidth 64) (s.slot pid n).g.toList
  obtain ⟨ps, hps, hend, -⟩ := endFibre_alike (.refl { s with net := s.net ++ [p] }) (pid := pid) (n := n) rfl rfl
  refine ⟨p, _, ps, ?_, hps, hdst, htc, hload, ?_, rfl⟩
  · unfold migrate sendToRank
    rw [h]
    dsimp only
    rw [hsend, hend]
    unfold beside
    rw [List.append_assoc]
    rfl
  · exact BitVec.setWidth_setWidth_of_le _ (by decide) |>.trans (BitVec.setWidth_eq pc)

/-! ### The operands of FRES and FKILL -/

theorem Clear.live {s : State} {reads writes : List Reg} {xs : List XIdx} (h : s.Clear reads writes xs) : s.me.live = true := h.1

theorem Clear.notFrozen {s : State} {reads writes : List Reg} {xs : List XIdx} (h : s.Clear reads writes xs) :
    s.me.frozen = false := h.2.1

/-- A handle of the issuing core (R315, R316). -/
def OwnHandle (s : State) (h : Word) : Prop := h.toNat / 2 ^ 32 = 0 ∧ h.toNat % 2 ^ 16 = s.rankOf s.cur.core

/-- A fibre of the issuing task that a handle names (R44, R101). -/
def Handles (s : State) (h : Word) (f : Slot) : Prop :=
  f.live = true ∧ f.gen.toNat = fld h 24 8 ∧ f.fw = s.me.fw

/-- FRES is asked to move its fibre (R315). -/
def Moves (w : Word) : Prop := w.toNat / 2 ^ 16 % 2 = 1

/-- The second operand of FRES has no reserved bit (R315). -/
def MoveWord (w : Word) : Prop := w.toNat / 2 ^ 17 = 0 ∧ (¬Moves w → w.toNat % 2 ^ 16 = 0)

theorem ownHandle_iff (s : State) (h : Word) :
    s.OwnHandle h ↔ (fld h 32 32 == 0 && fld h 0 16 == s.rankOf s.cur.core) = true := by
  rw [fld_top h 32 32 (by decide)]
  simp [OwnHandle, fld]

theorem flag_iff_moves (w : Word) : flag w 16 = true ↔ Moves w := by
  rw [flag_eq_fld, decide_eq_true_iff]
  rfl

theorem moveWord_iff (w : Word) : MoveWord w ↔ (fld w 17 47 == 0 && (flag w 16 || fld w 0 16 == 0)) = true := by
  rw [fld_top w 17 47 (by decide), MoveWord, ← flag_iff_moves]
  simp [fld, or_iff_not_imp_left]

theorem checkHandle_begun (s : State) (len : Nat) (h : Word) :
    (s.onMe (slotBegun len)).checkHandle h =
      require (fld h 32 32 == 0 && fld h 0 16 == s.rankOf s.cur.core) .illegal .instruction 0 := rfl

/-- What the begin of an instruction leaves of its fibre and of those beside it. -/
theorem slot_begun_kept (s : State) (len n : Nat) :
    let f := (s.onMe (slotBegun len)).slot s.cur.core n
    f.live = (s.slot s.cur.core n).live ∧ f.gen = (s.slot s.cur.core n).gen ∧ f.fw = (s.slot s.cur.core n).fw ∧
      f.frozen = (s.slot s.cur.core n).frozen := by
  by_cases hn : n = s.cur.slot
  · subst hn
    rw [slot_begun_me]
    exact ⟨rfl, rfl, rfl, rfl⟩
  · rw [slot_begun_other s len hn]
    exact ⟨rfl, rfl, rfl, rfl⟩

theorem handled_some {s : State} {len : Nat} {h : Word} (hf : s.Handles h (s.slot s.cur.core (fld h 16 8))) :
    (s.onMe (slotBegun len)).handled h = some ((s.onMe (slotBegun len)).slot s.cur.core (fld h 16 8)) := by
  obtain ⟨hlive, hgen, hfw⟩ := hf
  obtain ⟨klive, kgen, kfw, -⟩ := s.slot_begun_kept len (fld h 16 8)
  have kme : (s.onMe (slotBegun len)).me.fw = s.me.fw := by rw [me_onMe]; rfl
  refine if_pos ?_
  simp only [klive, kgen, kfw, kme, hlive, hgen, hfw, onMe_cur, beq_self_eq_true, Bool.and_true]

theorem handled_none {s : State} {len : Nat} {h : Word} (hf : ¬s.Handles h (s.slot s.cur.core (fld h 16 8))) :
    (s.onMe (slotBegun len)).handled h = none := by
  obtain ⟨klive, kgen, kfw, -⟩ := s.slot_begun_kept len (fld h 16 8)
  have kme : (s.onMe (slotBegun len)).me.fw = s.me.fw := by rw [me_onMe]; rfl
  refine if_neg fun hc => hf ?_
  simp only [onMe_cur, klive, kgen, kfw, kme, Bool.and_eq_true, beq_iff_eq] at hc
  exact ⟨hc.1.1, hc.1.2, hc.2⟩

/-! ### FKILL -/

theorem fkill_illegal {s : State} {rd a : Reg} (hs : s.Clear [a] [rd] []) (h : ¬s.OwnHandle (s.reg a)) :
    exec (.fkill rd a) s = .next (s.trapped (trapOf .illegal .instruction 0)) := by
  change execFkill rd a s = _
  refine issue_trapped s (.plain [a] [rd]) _ _ hs rfl rfl rfl ?_
  rw [ownHandle_iff, Bool.not_eq_true] at h
  simp only [reg_begun, checkHandle_begun, require_of_false h]
  rfl

/-- What FKILL does with a handle of its core (R316). -/
def fkillEffect (rd : Reg) (h : Word) (t : State) : State :=
  match t.handled h with
  | none => t.setReg rd 1
  | some _ =>
    if fld h 16 8 = t.cur.slot then t.endFibre t.cur.core t.cur.slot
    else (t.endFibre t.cur.core (fld h 16 8)).setReg rd 0

theorem fkill_next {s : State} {rd a : Reg} (hs : s.Clear [a] [rd] []) (h : s.OwnHandle (s.reg a)) :
    exec (.fkill rd a) s = .next (retired s 1 (fkillEffect rd (s.reg a) (s.onMe (slotBegun 4)))) := by
  change execFkill rd a s = _
  refine issue_next s (.plain [a] [rd]) _ _ hs rfl (fun h => by cases h) (fun _ h => by cases h) ?_
  simp only [reg_begun, checkHandle_begun, require_of_true ((s.ownHandle_iff _).mp h)]
  rw [show (Need.plain [a] [rd]).len = 4 from rfl]
  unfold fkillEffect
  cases (s.onMe (slotBegun 4)).handled (s.reg a) with
  | none => rfl
  | some f => exact (apply_ite Except.ok _ _ _).symm

section

variable {s : State} {rd a : Reg}

theorem fkill_none (hs : s.Clear [a] [rd] []) (h : s.OwnHandle (s.reg a))
    (hf : ¬s.Handles (s.reg a) (s.slot s.cur.core (fld (s.reg a) 16 8))) : exec (.fkill rd a) s = .next (s.wrote rd 1) := by
  rw [fkill_next hs h, fkillEffect, handled_none hf, retired_setReg s hs.live]

theorem fkill_me (hs : s.Clear [a] [rd] []) (h : s.OwnHandle (s.reg a))
    (hf : s.Handles (s.reg a) (s.slot s.cur.core (fld (s.reg a) 16 8))) (hn : fld (s.reg a) 16 8 = s.cur.slot) :
    exec (.fkill rd a) s = .next s.ended := by
  rw [fkill_next hs h, fkillEffect, handled_some hf]
  dsimp only
  rw [onMe_cur, if_pos hn, retired_endFibre_me]

theorem fkill_other (hs : s.Clear [a] [rd] []) (h : s.OwnHandle (s.reg a))
    (hf : s.Handles (s.reg a) (s.slot s.cur.core (fld (s.reg a) 16 8))) (hn : fld (s.reg a) 16 8 ≠ s.cur.slot) :
    exec (.fkill rd a) s = .next ((s.wrote rd 0).endFibre s.cur.core (fld (s.reg a) 16 8)) := by
  rw [fkill_next hs h, fkillEffect, handled_some hf]
  dsimp only
  rw [onMe_cur, if_neg hn, retired_endFibre s hn hs.live]

end

/-! ### FRES -/

/-- What FRES does with operands that pass its checks (R315). -/
def fresEffect (rd : Reg) (h w : Word) (t : State) : State :=
  match t.handled h with
  | none => t.setReg rd 1
  | some f =>
    if !f.frozen then t.setReg rd 1
    else if !flag w 16 then (t.resumeFrozen t.cur.core (fld h 16 8)).setReg rd 0
    else if !t.movable t.cur.core (fld h 16 8) then t.setReg rd 2
    else (t.migrate t.cur.core (fld h 16 8) (fld w 0 16) f.pc).setReg rd 0

theorem namedPort_begun {s : State} {len rank : Nat} {port : Port} (h : s.Names rank port) :
    (s.onMe (slotBegun len)).namedPort rank = .ok port := by
  obtain ⟨hport, hsup⟩ := h
  have kport : (s.onMe (slotBegun len)).rankPort s.cur.core rank = some port := hport
  have ksup : (!isServiceRank rank || (s.onMe (slotBegun len)).me.sup) = true := by
    rw [me_onMe, slotBegun_sup]
    cases hr : isServiceRank rank with
    | false => rfl
    | true => rw [hsup hr]; rfl
  unfold namedPort
  rw [require_of_true ksup, onMe_cur, kport]
  rfl

section

variable {s : State} {rd a b : Reg}

theorem fres_illegal (hs : s.Clear [a, b] [rd] []) (h : ¬(s.OwnHandle (s.reg a) ∧ MoveWord (s.reg b))) :
    exec (.fres rd a b) s = .next (s.trapped (trapOf .illegal .instruction 0)) := by
  change execFres rd a b s = _
  refine issue_trapped s (.plain [a, b] [rd]) _ _ hs rfl rfl rfl ?_
  rw [ownHandle_iff, moveWord_iff, not_and, Bool.not_eq_true] at h
  simp only [reg_begun, checkHandle_begun]
  cases hh : (fld (s.reg a) 32 32 == 0 && fld (s.reg a) 0 16 == s.rankOf s.cur.core) with
  | false =>
    rw [require_of_false rfl]
    rfl
  | true =>
    rw [require_of_true rfl, require_of_false (h hh)]
    rfl

theorem fres_next {port : Port} (hs : s.Clear [a, b] [rd] []) (h : s.OwnHandle (s.reg a)) (hw : MoveWord (s.reg b))
    (hp : Moves (s.reg b) → s.Names (fld (s.reg b) 0 16) port) :
    exec (.fres rd a b) s = .next (retired s 1 (fresEffect rd (s.reg a) (s.reg b) (s.onMe (slotBegun 4)))) := by
  change execFres rd a b s = _
  refine issue_next s (.plain [a, b] [rd]) _ _ hs rfl (fun h => by cases h) (fun _ h => by cases h) ?_
  simp only [reg_begun, checkHandle_begun, require_of_true ((s.ownHandle_iff _).mp h), require_of_true ((moveWord_iff _).mp hw)]
  rw [show (Need.plain [a, b] [rd]).len = 4 from rfl]
  unfold fresEffect
  cases hflag : flag (s.reg b) 16 with
  | false =>
    cases (s.onMe (slotBegun 4)).handled (s.reg a) with
    | none => rfl
    | some f =>
      simp only [apply_ite Except.ok]
      rfl
  | true =>
    rw [namedPort_begun (hp ((flag_iff_moves _).mp hflag))]
    cases (s.onMe (slotBegun 4)).handled (s.reg a) with
    | none => rfl
    | some f =>
      simp only [apply_ite Except.ok]
      rfl

/-- FRES where no frozen fibre of the task stands. -/
theorem fresEffect_none (h w : Word)
    (hf : ¬(s.Handles h (s.slot s.cur.core (fld h 16 8)) ∧ (s.slot s.cur.core (fld h 16 8)).frozen = true)) :
    fresEffect rd h w (s.onMe (slotBegun 4)) = (s.onMe (slotBegun 4)).setReg rd 1 := by
  unfold fresEffect
  by_cases hh : s.Handles h (s.slot s.cur.core (fld h 16 8))
  · rw [handled_some hh]
    have hfrozen : ((s.onMe (slotBegun 4)).slot s.cur.core (fld h 16 8)).frozen = false := by
      obtain ⟨-, -, -, hk⟩ := s.slot_begun_kept 4 (fld h 16 8)
      rw [hk, ← Bool.not_eq_true]
      exact fun hz => hf ⟨hh, hz⟩
    simp only [hfrozen]
    rfl
  · rw [handled_none hh]

/-- A frozen fibre that a handle names is not the one that issues. -/
theorem ne_cur_of_frozen {n : Nat} (hs : s.me.frozen = false) (hf : (s.slot s.cur.core n).frozen = true) : n ≠ s.cur.slot := by
  rintro rfl
  exact Bool.false_ne_true (hs.symm.trans hf)

theorem movable_begun {n : Nat} (hn : n ≠ s.cur.slot) :
    (s.onMe (slotBegun 4)).movable s.cur.core n = s.movable s.cur.core n := by
  have htags : ((s.onMe (slotBegun 4)).core s.cur.core).tags = (s.core s.cur.core).tags := by
    rw [onMe_eq, core_setCore]
    rfl
  have hops : ((s.onMe (slotBegun 4)).core s.cur.core).ops = (s.core s.cur.core).ops := by
    rw [onMe_eq, core_setCore]
    rfl
  unfold movable drainedTo
  rw [slot_begun_other s 4 hn, htags, hops]

/-- FRES of a frozen fibre of the task. -/
theorem fresEffect_some {h : Word} (w : Word) (hme : s.me.frozen = false) (hh : s.Handles h (s.slot s.cur.core (fld h 16 8)))
    (hf : (s.slot s.cur.core (fld h 16 8)).frozen = true) :
    fresEffect rd h w (s.onMe (slotBegun 4)) =
      if flag w 16 = true then
        if s.movable s.cur.core (fld h 16 8) = true then
          ((s.onMe (slotBegun 4)).migrate s.cur.core (fld h 16 8) (fld w 0 16) (s.slot s.cur.core (fld h 16 8)).pc).setReg rd 0
        else (s.onMe (slotBegun 4)).setReg rd 2
      else ((s.onMe (slotBegun 4)).resumeFrozen s.cur.core (fld h 16 8)).setReg rd 0 := by
  have hn := ne_cur_of_frozen hme hf
  unfold fresEffect
  rw [handled_some hh, slot_begun_other s 4 hn]
  dsimp only
  rw [hf, onMe_cur, movable_begun hn]
  cases flag w 16 with
  | false => rfl
  | true => cases s.movable s.cur.core (fld h 16 8) <;> rfl

theorem fres_none {port : Port} (hs : s.Clear [a, b] [rd] []) (h : s.OwnHandle (s.reg a)) (hw : MoveWord (s.reg b))
    (hp : Moves (s.reg b) → s.Names (fld (s.reg b) 0 16) port)
    (hf : ¬(s.Handles (s.reg a) (s.slot s.cur.core (fld (s.reg a) 16 8)) ∧
      (s.slot s.cur.core (fld (s.reg a) 16 8)).frozen = true)) : exec (.fres rd a b) s = .next (s.wrote rd 1) := by
  rw [fres_next hs h hw hp, fresEffect_none _ _ hf, retired_setReg s hs.live]

variable {n : Nat}

/-- FRES of a frozen fibre that is not to move. -/
theorem fres_resume (hs : s.Clear [a, b] [rd] []) (h : s.OwnHandle (s.reg a)) (hw : MoveWord (s.reg b))
    (hm : ¬Moves (s.reg b)) (hn : fld (s.reg a) 16 8 = n) (hh : s.Handles (s.reg a) (s.slot s.cur.core n))
    (hf : (s.slot s.cur.core n).frozen = true) :
    exec (.fres rd a b) s = .next ((s.wrote rd 0).beside s.cur.core []
      (coreResumed n (s.slot s.cur.core n) (s.coreAc s.cur.core))) := by
  subst hn
  have hne := ne_cur_of_frozen hs.notFrozen hf
  rw [fres_next (port := .core 0) hs h hw fun hc => absurd hc hm, fresEffect_some _ hs.notFrozen hh hf,
    if_neg (mt (flag_iff_moves _).mp hm), resumeFrozen_eq, slot_begun_other s 4 hne]
  exact congrArg Host.Outcome.next (retired_beside s (ofSlot_coreResumed _ _ _) hne hs.live [] rd 0)

/-- FRES of a frozen fibre that is to move, and holds something. -/
theorem fres_unmovable {port : Port} (hs : s.Clear [a, b] [rd] []) (h : s.OwnHandle (s.reg a)) (hw : MoveWord (s.reg b))
    (hm : Moves (s.reg b)) (hp : s.Names (fld (s.reg b) 0 16) port) (hn : fld (s.reg a) 16 8 = n)
    (hh : s.Handles (s.reg a) (s.slot s.cur.core n)) (hf : (s.slot s.cur.core n).frozen = true)
    (hmov : s.movable s.cur.core n = false) : exec (.fres rd a b) s = .next (s.wrote rd 2) := by
  subst hn
  rw [fres_next hs h hw fun _ => hp, fresEffect_some _ hs.notFrozen hh hf, if_pos ((flag_iff_moves _).mpr hm), if_neg (by simp [hmov]),
    retired_setReg s hs.live]

/-- FRES of a frozen fibre that moves. -/
theorem fres_move {port : Port} (hs : s.Clear [a, b] [rd] []) (h : s.OwnHandle (s.reg a)) (hw : MoveWord (s.reg b))
    (hm : Moves (s.reg b)) (hp : s.Names (fld (s.reg b) 0 16) port) (hn : fld (s.reg a) 16 8 = n)
    (hh : s.Handles (s.reg a) (s.slot s.cur.core n)) (hf : (s.slot s.cur.core n).frozen = true)
    (hmov : s.movable s.cur.core n = true) :
    ∃ (p : Packet) (m : Msg) (ps : List Packet),
      exec (.fres rd a b) s =
          .next ((s.wrote rd 0).beside s.cur.core (p :: ps) fun c => c.setSlot n (freed (s.slot s.cur.core n).gen)) ∧
        (s.myCore.gk.mode ≠ .faulted → ps = []) ∧ p.dst = port ∧ p.tc = 1 ∧ p.load = .msg m false ∧
        m.sel.setWidth 56 = (s.slot s.cur.core n).pc ∧ m.data = (s.slot s.cur.core n).g.toList := by
  subst hn
  have hne := ne_cur_of_frozen hs.notFrozen hf
  obtain ⟨p, m, ps, hmig, hps, hdst, htc, hload, hsel, hdata⟩ := migrate_eq (s.onMe (slotBegun 4)) s.cur.core
    (fld (s.reg a) 16 8) (fld (s.reg b) 0 16) (s.slot s.cur.core (fld (s.reg a) 16 8)).pc (port := port) hp.1
  rw [gk_begun] at hps
  rw [slot_begun_other s 4 hne] at hmig hdata
  refine ⟨p, m, ps, ?_, hps, hdst, htc, hload, hsel, hdata⟩
  rw [fres_next hs h hw fun _ => hp, fresEffect_some _ hs.notFrozen hh hf, if_pos ((flag_iff_moves _).mpr hm), if_pos hmov, hmig]
  exact congrArg Host.Outcome.next (retired_beside s (ofSlot_setSlot _ _) hne hs.live (p :: ps) rd 0)

end

theorem slot_coreResumed (n : Nat) (f : Slot) (ac : Nat) (c : Core) :
    (coreResumed n f ac c).slot n = ({ f with frozen := false, age := 0, hold := none } : Slot).wake ac := by
  rw [coreResumed, slot_rearmed, Core.slot_setSlot]

end State

theorem frozenFibres : Piece.FrozenFibres := by
  intro s rd a b port pid h w n f there handle illegal
  refine ⟨fun hs => ?_, fun hs => ⟨fkill_illegal hs, fun hh hf => fkill_none hs hh hf, fun hh hf hn => fkill_me hs hh hf hn,
    fun hh hf hn => ⟨fkill_other hs hh hf hn, ?_⟩⟩⟩
  · intro move
    refine ⟨fun hc => fres_illegal hs hc, fun hh h17 hlow hp => ?_⟩
    have hw : MoveWord (s.reg b) := ⟨h17, hlow⟩
    have hp : Moves (s.reg b) → s.Names (fld (s.reg b) 0 16) port := by
      rw [fld, pow_zero, Nat.div_one]
      exact hp
    refine ⟨fun hf => fres_none hs hh hw hp hf, fun hf hfrozen => ?_⟩
    have hne : n ≠ s.cur.slot := ne_cur_of_frozen hs.notFrozen hfrozen
    refine ⟨fun hm => ?_, fun hm hmov => fres_unmovable hs hh hw hm (hp hm) rfl hf hfrozen hmov, fun hm hmov => ?_⟩
    · have hof := ofSlot_coreResumed n f (s.coreAc s.cur.core)
      have hslot := (congrArg (Core.slot · n) (core_wrote_beside (rd := rd) (v := 0) (ps := []))).trans
        (slot_coreResumed n f (s.coreAc s.cur.core) ((s.wrote rd 0).core s.cur.core))
      refine ⟨_, fres_resume hs hh hw hm rfl hf hfrozen, outsideKept_beside, List.append_nil _, slot_beside hof hne.symm,
        fun m hmn hms => (slot_beside hof hmn).trans (slot_wrote hms), ?_⟩
      intro f'
      rw [show f' = _ from hslot]
      exact ⟨rfl, rfl, rfl, hf.1, rfl, rfl, rfl, rfl, rfl, rfl, rfl⟩
    · obtain ⟨p, m, ps, he, hps, hdst, htc, hload, hsel, hdata⟩ := fres_move hs hh hw hm (hp hm) rfl hf hfrozen hmov
      refine ⟨_, p, m, ps, he, outsideKept_beside, slot_beside (ofSlot_setSlot _ _) hne.symm, ?_, rfl, hps, hdst, htc, hload, hsel,
        hdata⟩
      exact (congrArg (Core.slot · n) core_wrote_beside).trans (Core.slot_setSlot _ _ _)
  · rw [slot_endFibre, slot_wrote hn]

/-! ### Cores that do not issue -/

/-- What a core needs to issue, a service core apart (R4, R99, R104, R340). -/
theorem mayIssue_needs {s : State} {pid : Nat} (hs : isService pid = false) (h : s.mayIssue pid = true) :
    s.entryState pid = 2 ∧ (s.core pid).saving = none ∧ (s.core pid).fenced = false ∧ s.coreDead pid = false ∧
      s.clusterRuns (pid / 8) = true ∧ (s.core pid).last ≠ some (s.coreAc pid) := by
  unfold mayIssue acts running at h
  simp only [hs, Bool.false_eq_true, if_false, Bool.and_eq_true, Bool.not_eq_true', beq_iff_eq, bne_iff_ne,
    Option.isNone_iff_eq_none] at h
  obtain ⟨⟨⟨⟨⟨⟨hstate, hsaving⟩, hruns⟩, hfenced⟩, hdead⟩, hlast⟩, -⟩ := h
  exact ⟨hstate, hsaving, hfenced, hdead, hruns, hlast⟩

theorem issueNeedsRunning : Piece.IssueNeedsRunning := by
  intro s pid hservice hidle rest
  refine (step_issue rfl).trans (issueTurn_idle ?_)
  change State.mayIssue s pid = false
  rw [← Bool.not_eq_true]
  intro hmay
  obtain ⟨hstate, hsaving, hfenced, hdead, hruns, hlast⟩ := mayIssue_needs hservice hmay
  simp [hstate, hsaving, hfenced, hdead, hruns, hlast] at hidle

/-- Settles O26: another fibre's end, move or resumption is a change of its slot beside the write of rd; an idle core fails
`mayIssue`. -/
theorem frozenFibresAndIdleCores : Obligations.FrozenFibresAndIdleCores := by
  unfold Obligations.FrozenFibresAndIdleCores
  exact ⟨frozenFibres, issueNeedsRunning⟩

end Sys2Proof.Machine
end

section
/-!
PROOF. The integer forms: what the forms of majors 0x00 and 0x01, the immediate forms and the arithmetic parcels write
(O1 to O4; R46, R48 to R52, R41, R42).
-/

namespace Sys2Proof.Machine

open State

/-! ### The shapes of the integer forms -/

section
variable {s : State} {reads : List Reg} {rd a b : Reg} {len passes : Nat} {v : Word}

/-- A user instruction whose effect stands on its fibre alone. -/
theorem issue_plain {writes : List Reg} {body : State → Except Stop State} {f : Slot → Slot} (hs : s.Clear reads writes [])
    (hf : ∀ x : Slot, (f x).live = x.live ∧ (f x).gen = x.gen)
    (hb : body (s.onMe (slotBegun len)) = .ok ((s.onMe (slotBegun len)).onMe f)) :
    s.issue { Need.plain reads writes with len := len, passes := passes } body = .next (s.after len passes f id) :=
  issue_me s { Need.plain reads writes with len := len, passes := passes } body f hs rfl (fun h => by cases h)
    (fun _ h => by cases h) hf hb

/-- A user instruction that computes one register. -/
theorem compute_plain {f : State → Word} (hs : s.Clear reads [rd] []) (hv : f (s.onMe (slotBegun len)) = v) :
    s.compute { Need.plain reads [rd] with len := len, passes := passes } rd f =
      .next (s.after len passes (fun x => x.write rd v) id) :=
  issue_plain hs (fun _ => ⟨rfl, rfl⟩) (by rw [hv, setReg])

/-- A form of two sources writes what its operation makes of them. -/
theorem binary_next {f : Word → Word → Word} (hs : s.Clear [a, b] [rd] []) (hv : f (s.reg a) (s.reg b) = v) :
    binary s rd a b f = .next (s.wrote rd v) :=
  compute_plain hs (by rw [reg_begun, reg_begun, hv])

theorem compare_next {f : Word → Word → Bool} (hs : s.Clear [a, b] [rd] [])
    (hv : Word.ofBool (f (s.reg a) (s.reg b)) = v) : compare s rd a b f = .next (s.wrote rd v) :=
  binary_next hs hv

theorem unary_next {f : Word → Word} (hs : s.Clear [a] [rd] []) (hv : f (s.reg a) = v) :
    unary s rd a f = .next (s.wrote rd v) :=
  compute_plain hs (by rw [reg_begun, hv])

/-- A divide takes five passes (R46). -/
theorem divide_next {f : Word → Word → Word} (hs : s.Clear [a, b] [rd] []) (hv : f (s.reg a) (s.reg b) = v) :
    divide s rd a b f = .next (s.after 4 5 (fun x => x.write rd v) id) :=
  compute_plain hs (by rw [reg_begun, reg_begun, hv])

/-- A parcel of one source. -/
theorem compactUnary_next {f : Word → Word} (hs : s.Clear [a] [rd] []) (hv : f (s.reg a) = v) :
    compactUnary s rd a f = .next (s.after 2 1 (fun x => x.write rd v) id) :=
  compute_plain hs (by rw [reg_begun, hv])

end

/-! ### Results of major 0x00 -/

theorem mulHigh_eq (x y : Word) : mulHigh x y = (x.signExtend 128 * y.signExtend 128).extractLsb' 64 64 := by
  rw [BitVec.signExtend, BitVec.signExtend, ← BitVec.ofInt_mul]
  generalize hz : x.toInt * y.toInt = z
  rw [mulHigh, hz]
  apply BitVec.eq_of_toNat_eq
  simp only [Word.ofInt, BitVec.toNat_ofInt, BitVec.extractLsb'_toNat, Nat.shiftRight_eq_div_pow]
  omega

theorem mulHighU_eq (x y : Word) : mulHighU x y = (x.setWidth 128 * y.setWidth 128).extractLsb' 64 64 := by
  have hlt : x.toNat * y.toNat < 2 ^ 64 * 2 ^ 64 := Nat.mul_lt_mul'' x.isLt y.isLt
  apply BitVec.eq_of_toNat_eq
  simp only [mulHighU, Word.ofNat, BitVec.toNat_ofNat, BitVec.extractLsb'_toNat, Nat.shiftRight_eq_div_pow, BitVec.toNat_mul,
    BitVec.toNat_setWidth]
  rw [Nat.mod_eq_of_lt (by omega : x.toNat < 2 ^ 128), Nat.mod_eq_of_lt (by omega : y.toNat < 2 ^ 128),
    Nat.mod_eq_of_lt (by omega : x.toNat * y.toNat < 2 ^ 128)]

theorem mul_eq_ofNat (x y : Word) : x * y = BitVec.ofNat 64 (x.toNat * y.toNat) := by
  apply BitVec.eq_of_toNat_eq
  rw [BitVec.toNat_mul, BitVec.toNat_ofNat]

theorem ite_toInt_le (x y u v : Word) : (if x.toInt ≤ y.toInt then u else v) = if y.slt x then v else u := by
  simp only [BitVec.slt_eq_decide, decide_eq_true_eq, ← not_le, ite_not]

theorem ite_toNat_le (x y u v : Word) : (if x.toNat ≤ y.toNat then u else v) = if y.ult x then v else u := by
  simp only [BitVec.ult_eq_decide, decide_eq_true_eq, ← not_le, ite_not]

/-- The greater of two: for equal ones either reading of the choice picks the same word. -/
theorem max_by_slt (x y : Word) : (if x.toInt ≤ y.toInt then y else x) = if x.slt y then y else x := by
  rw [BitVec.slt_eq_decide]
  by_cases h : x = y
  · rw [h, ite_self, ite_self]
  · simp only [decide_eq_true_eq, lt_iff_le_and_ne, BitVec.toInt_inj, ne_eq, h, not_false_eq_true, and_true]

theorem max_by_ult (x y : Word) : (if x.toNat ≤ y.toNat then y else x) = if x.ult y then y else x := by
  rw [BitVec.ult_eq_decide]
  by_cases h : x = y
  · rw [h, ite_self, ite_self]
  · simp only [decide_eq_true_eq, lt_iff_le_and_ne, BitVec.toNat_inj, ne_eq, h, not_false_eq_true, and_true]

/-- Settles O1: each form is one of the shapes above, with its value; the high halves by 128-bit arithmetic. -/
theorem integerResults : Obligations.IntegerResults := by
  unfold Obligations.IntegerResults
  intro s rd a b
  refine ⟨fun hs => ⟨?_, ?_, ?_, ?_, ?_, ?_, ?_, ?_, ?_, ?_, ?_, ?_, ?_, ?_, ?_⟩, fun hs => ?_⟩ <;> unfold exec
  exacts [binary_next hs rfl, binary_next hs rfl, binary_next hs rfl, binary_next hs rfl, binary_next hs rfl,
    binary_next hs rfl, binary_next hs rfl, binary_next hs rfl, binary_next hs (mul_eq_ofNat _ _),
    binary_next hs (mulHigh_eq _ _), binary_next hs (mulHighU_eq _ _), binary_next hs (ite_toInt_le _ _ _ _),
    binary_next hs (max_by_slt _ _), binary_next hs (ite_toNat_le _ _ _ _), binary_next hs (max_by_ult _ _), unary_next hs rfl]

/-! ### Division (R49) -/

/-- The signed quotient (R49): the overflow of −2^63 by −1 reads as −2^63. -/
def signedQuotient (x y : Int) : Int := if y = 0 then -1 else if x = -(2 ^ 63) ∧ y = -1 then -(2 ^ 63) else x.tdiv y

/-- The signed remainder (R49). -/
def signedRemainder (x y : Int) : Int := if y = 0 then x else if x = -(2 ^ 63) ∧ y = -1 then 0 else x - signedQuotient x y * y

/-- The unsigned quotient (R49). -/
def unsignedQuotient (x y : Nat) : Nat := if y = 0 then 2 ^ 64 - 1 else x / y

theorem divSigned_eq (x y : Word) :
    divSigned x y = (BitVec.ofInt 64 (signedQuotient x.toInt y.toInt), BitVec.ofInt 64 (signedRemainder x.toInt y.toInt)) := by
  unfold divSigned signedRemainder signedQuotient
  by_cases h0 : y = 0
  · subst h0
    exact Prod.ext rfl (BitVec.ofInt_toInt).symm
  · have h1 : y.toInt ≠ 0 := fun h => h0 (BitVec.toInt_inj.mp h)
    rw [if_neg h0, if_neg h1, if_neg h1]
    by_cases hov : x.toInt = -(2 ^ 63) ∧ y.toInt = -1
    · rw [if_pos hov, if_pos hov, hov.1, hov.2]
      rfl
    · rw [if_neg hov, if_neg hov, mul_comm, ← Int.tmod_def]
      rfl

theorem divUnsigned_eq (x y : Word) :
    divUnsigned x y = (BitVec.ofNat 64 (unsignedQuotient x.toNat y.toNat),
      BitVec.ofNat 64 (if y.toNat = 0 then x.toNat else x.toNat - unsignedQuotient x.toNat y.toNat * y.toNat)) := by
  unfold divUnsigned unsignedQuotient
  by_cases h0 : y = 0
  · subst h0
    exact Prod.ext rfl ((BitVec.ofNat_toNat _ _).trans (BitVec.setWidth_eq _)).symm
  · have h1 : y.toNat ≠ 0 := fun h => h0 (BitVec.toNat_inj.mp h)
    rw [if_neg h0, if_neg h1, if_neg h1, mul_comm, ← Nat.mod_eq_sub_mul_div]
    rfl

/-- Settles O2: a divide writes the quotient or the remainder that `divSigned_eq` and `divUnsigned_eq` give. -/
theorem divisionTruncates : Obligations.DivisionTruncates := by
  unfold Obligations.DivisionTruncates
  intro s rd a b hs sa sb q m ua ub uq um
  refine ⟨?_, ?_, ?_, ?_⟩ <;> unfold exec
  · exact divide_next hs (congrArg Prod.fst (divSigned_eq _ _))
  · exact divide_next hs (congrArg Prod.snd (divSigned_eq _ _))
  · exact divide_next hs (congrArg Prod.fst (divUnsigned_eq _ _))
  · exact divide_next hs (congrArg Prod.snd (divUnsigned_eq _ _))

/-! ### Shifts, rotates and compares (R50) -/

theorem sel_next {s : State} {rd a b : Reg} (hs : s.Clear [a, b, rd] [rd] []) :
    execSel rd a b s = .next (s.wrote rd (if s.reg rd = 0 then s.reg b else s.reg a)) :=
  compute_plain hs (by rw [reg_begun, reg_begun, reg_begun])

theorem rotateLeft_shiftCount (x y : Word) :
    x.rotateLeft (shiftCount y) = x <<< (y.toNat % 64) ||| x >>> (64 - y.toNat % 64) := by
  rw [BitVec.rotateLeft_def, shiftCount, Nat.mod_mod]

theorem rotateRight_shiftCount (x y : Word) :
    x.rotateRight (shiftCount y) = x >>> (y.toNat % 64) ||| x <<< (64 - y.toNat % 64) := by
  rw [BitVec.rotateRight_def, shiftCount, Nat.mod_mod]

theorem ofBool_decide (p : Prop) [Decidable p] : Word.ofBool (decide p) = if p then 1 else 0 := by
  by_cases h : p <;> simp [Word.ofBool, h]

theorem ofBool_beq (x y : Word) : Word.ofBool (x == y) = if x = y then 1 else 0 := ofBool_decide (x = y)

theorem ofBool_bne (x y : Word) : Word.ofBool (x != y) = if x = y then 0 else 1 := by
  by_cases h : x = y <;> simp [Word.ofBool, h]

theorem ofBool_toInt_le (x y : Word) : Word.ofBool (decide (x.toInt ≤ y.toInt)) = if y.toInt < x.toInt then 0 else 1 := by
  simp only [ofBool_decide, ← not_le, ite_not]

theorem ofBool_toNat_le (x y : Word) : Word.ofBool (decide (x.toNat ≤ y.toNat)) = if y.toNat < x.toNat then 0 else 1 := by
  simp only [ofBool_decide, ← not_le, ite_not]

theorem shiftAndCompareResults : Piece.ShiftAndCompareResults := by
  intro s rd a b sh
  refine ⟨fun hs => ⟨?_, ?_, ?_, ?_, ?_, ?_, ?_, ?_, ?_, ?_, ?_, ?_⟩, fun hs => ?_⟩ <;> unfold exec
  exacts [binary_next hs rfl, binary_next hs rfl, binary_next hs rfl, binary_next hs (rotateLeft_shiftCount _ _),
    binary_next hs (rotateRight_shiftCount _ _), compare_next hs (ofBool_beq _ _), compare_next hs (ofBool_bne _ _),
    compare_next hs (ofBool_decide _), compare_next hs (ofBool_decide _), compare_next hs (ofBool_toInt_le _ _),
    compare_next hs (ofBool_toNat_le _ _), binary_next hs rfl, sel_next hs]

/-! ### The bit counts (R50) -/

theorem countLeading_le (x : Word) : countLeading x ≤ 64 := by
  unfold countLeading
  split <;> omega

/-- CLZ by bits: those above the count are 0, and the bit below them, where there is one, is 1. -/
theorem countLeading_spec (x : Word) :
    (∀ i, 64 - countLeading x ≤ i → x.getLsbD i = false) ∧ (countLeading x < 64 → x.getLsbD (63 - countLeading x) = true) := by
  unfold countLeading
  by_cases h0 : x = 0
  · subst h0
    simp
  · have hne : x.toNat ≠ 0 := fun h => h0 (BitVec.toNat_inj.mp h)
    have hlog : Nat.log2 x.toNat < 64 := (Nat.log2_lt hne).mpr x.isLt
    rw [if_neg h0]
    refine ⟨fun i hi => Nat.testBit_lt_two_pow ?_, fun _ => ?_⟩
    · exact (Nat.log2_lt hne).mp (by omega)
    · rw [show 63 - (63 - Nat.log2 x.toNat) = Nat.log2 x.toNat by omega]
      exact Nat.testBit_log2 hne

/-- CTZ by bits: those below the count are 0, and the bit at it, where there is one, is 1. -/
theorem trailingZeros_spec (n v : Nat) : trailingZeros n v ≤ n ∧ (∀ i < trailingZeros n v, v.testBit i = false) ∧
    (trailingZeros n v < n → v.testBit (trailingZeros n v) = true) := by
  induction n generalizing v with
  | zero => simp [trailingZeros]
  | succ n ih =>
    obtain ⟨hle, hlow, hbit⟩ := ih (v / 2)
    unfold trailingZeros
    split
    · next hodd => exact ⟨by omega, by simp, fun _ => by simp [Nat.testBit_zero, hodd]⟩
    · next heven =>
      refine ⟨by omega, fun i hi => ?_, fun h => ?_⟩
      · cases i with
        | zero => simpa [Nat.testBit_zero] using heven
        | succ i =>
          rw [Nat.testBit_succ]
          exact hlow i (by omega)
      · rw [add_comm, Nat.testBit_succ]
        exact hbit (by omega)

theorem onesCount_eq (n v : Nat) : onesCount n v = (List.range n).countP v.testBit := by
  induction n generalizing v with
  | zero => rfl
  | succ n ih =>
    have hsucc : v.testBit ∘ Nat.succ = (v / 2).testBit := funext fun i => Nat.testBit_succ v i
    rw [onesCount, ih, List.range_succ_eq_map, List.countP_cons, List.countP_map, hsucc, Nat.testBit_zero, add_comm]
    rcases Nat.mod_two_eq_zero_or_one v with h | h <;> simp [h]

/-- The bytes of a reversal: those of the number from its last, then those of what stood before. -/
theorem reverseBytes_byte (n v acc i : Nat) : reverseBytes n v acc / 256 ^ i % 256 =
    if i < n then v / 256 ^ (n - 1 - i) % 256 else acc / 256 ^ (i - n) % 256 := by
  induction n generalizing v acc with
  | zero => rfl
  | succ n ih =>
    rw [reverseBytes, ih]
    rcases Nat.lt_trichotomy i n with h | rfl | h
    · rw [if_pos h, if_pos (by omega), Nat.div_div_eq_div_mul, ← pow_succ', show n - 1 - i + 1 = n + 1 - 1 - i by omega]
    · simp
    · rw [if_neg (by omega), if_neg (by omega), show i - n = i - (n + 1) + 1 by omega, pow_succ', ← Nat.div_div_eq_div_mul]
      congr 2
      omega

/-- BSWAP by bytes. -/
theorem bswap_byte (x : Word) (i : Nat) (hi : i < 8) :
    (Word.ofNat (reverseBytes 8 x.toNat 0)).extractLsb' (8 * i) 8 = x.extractLsb' (8 * (7 - i)) 8 := by
  have hb := reverseBytes_byte 8 x.toNat 0 i
  rw [if_pos hi] at hb
  apply BitVec.eq_of_toNat_eq
  simp only [Word.ofNat, BitVec.extractLsb'_toNat, BitVec.toNat_ofNat, Nat.shiftRight_eq_div_pow, Nat.pow_mul]
  have hsplit : 2 ^ 64 = (2 ^ 8) ^ i * (2 ^ 8) ^ (8 - i) := by
    rw [← pow_add, show i + (8 - i) = 8 by omega]
    rfl
  rw [hsplit, Nat.mod_mul_right_div_self, Nat.mod_mod_of_dvd _ (dvd_pow_self _ (by omega))]
  exact hb

theorem bitCountResults : Piece.BitCountResults := by
  intro s rd a hs
  obtain ⟨hle, hlow, hbit⟩ := trailingZeros_spec 64 (s.reg a).toNat
  refine ⟨⟨_, countLeading_le (s.reg a), ?_, countLeading_spec (s.reg a)⟩, ⟨_, hle, ?_, hlow, hbit⟩, ?_,
    ⟨_, ?_, bswap_byte (s.reg a)⟩⟩ <;> unfold exec
  exacts [unary_next hs rfl, unary_next hs rfl, unary_next hs (congrArg _ (onesCount_eq _ _)), unary_next hs rfl]

/-- Settles O3: the values of the shifts and compares, and the bits and bytes of the counts. -/
theorem shiftsComparesAndCounts : Obligations.ShiftsComparesAndCounts :=
  ⟨shiftAndCompareResults, bitCountResults⟩

/-! ### Immediate forms (R51, R52) -/

theorem ofBool_toInt_lt_signExtend (x : Word) (imm : BitVec 16) :
    Word.ofBool (decide (x.toInt < (imm.signExtend 64).toInt)) = if x.toInt < imm.toInt then 1 else 0 := by
  rw [BitVec.toInt_signExtend_of_le (by omega), ofBool_decide]

theorem mul_signExtend (x : Word) (imm : BitVec 16) : x * imm.signExtend 64 = BitVec.ofInt 64 (x.toInt * imm.toInt) := by
  rw [BitVec.ofInt_mul, BitVec.ofInt_toInt, BitVec.signExtend]

theorem shiftLeft_eq_ofNat (x : Word) (n : Nat) : x <<< n = BitVec.ofNat 64 (x.toNat * 2 ^ n) := by
  apply BitVec.eq_of_toNat_eq
  rw [BitVec.toNat_shiftLeft, BitVec.toNat_ofNat, Nat.shiftLeft_eq]

section
variable {s : State} {rd : Reg} {imm : BitVec 22}

theorem li_next (hs : s.Clear [] [rd] []) : execLi rd imm s = .next (s.wrote rd (imm.signExtend 64)) :=
  compute_plain hs rfl

theorem addpc_next (hs : s.Clear [] [rd] []) : execAddpc rd imm s = .next (s.wrote rd (s.me.pcWord + imm.signExtend 64 * 2)) :=
  compute_plain hs (relTarget_begun s 4 _)

theorem lis_next (hs : s.Clear [rd] [rd] []) :
    execLis rd imm s = .next (s.wrote rd (BitVec.ofNat 64 ((s.reg rd).toNat * 2 ^ 22) + imm.signExtend 64)) :=
  compute_plain hs (by rw [reg_begun, shiftLeft_eq_ofNat])

end

theorem immediateResults : Piece.ImmediateResults := by
  intro s rd a imm sh wide
  refine ⟨fun hs => ⟨?_, ?_, ?_, ?_, ?_, ?_, ?_, ?_, ?_, ?_, ?_, ?_⟩, fun hs => ⟨?_, ?_⟩, fun hs => ?_⟩ <;> unfold exec
  exacts [unary_next hs rfl, unary_next hs rfl, unary_next hs rfl, unary_next hs rfl,
    unary_next hs (ofBool_toInt_lt_signExtend _ _), unary_next hs rfl, unary_next hs (mul_signExtend _ _), unary_next hs rfl,
    unary_next hs rfl, unary_next hs rfl, unary_next hs (ofBool_beq _ _), unary_next hs (ofBool_bne _ _), li_next hs,
    addpc_next hs, lis_next hs]

/-! ### Arithmetic parcels (R41, R42) -/

section
variable {s : State} {rd a : Reg} {v : Word}

theorem liS_next {imm : BitVec 8} (hs : s.Clear [] [rd] []) :
    execLiS rd imm s = .next (s.after 2 1 (fun x => x.write rd (imm.signExtend 64)) id) :=
  compute_plain hs rfl

theorem aluS_mov_next (hs : s.Clear [a] [rd] []) :
    execAluS rd a .mov s = .next (s.after 2 1 (fun x => x.write rd (s.reg a)) id) :=
  compute_plain hs (by rw [reg_begun, reg_begun]; rfl)

theorem accS_mov_next (hs : s.Clear [rd] [0] []) :
    execAccS rd a .mov s = .next (s.after 2 1 (fun x => x.write 0 (s.reg rd)) id) :=
  compute_plain hs (by rw [if_pos rfl, reg_begun])

theorem aluS_next {fn : CompactOp} (hs : s.Clear [rd, a] [rd] []) (hf : fn ≠ .mov)
    (hv : compactApply fn (s.reg rd) (s.reg a) = v) :
    execAluS rd a fn s = .next (s.after 2 1 (fun x => x.write rd v) id) := by
  rw [execAluS, if_neg hf]
  exact compute_plain hs (by rw [reg_begun, reg_begun, hv])

theorem accS_next {fn : CompactOp} (hs : s.Clear [rd, a] [0] []) (hf : fn ≠ .mov)
    (hv : compactApply fn (s.reg rd) (s.reg a) = v) :
    execAccS rd a fn s = .next (s.after 2 1 (fun x => x.write 0 v) id) := by
  rw [execAccS, if_neg hf]
  exact compute_plain hs (by rw [if_neg hf, reg_begun, reg_begun, hv])

end

theorem compactResults : Piece.CompactResults := by
  intro s rd a imm wide short op
  have hop : ∀ fn x y, compactApply fn x y = op fn x y := by
    intro fn x y
    cases fn with
    | mul => exact mul_eq_ofNat x y
    | slt | sltu => exact ofBool_decide _
    | _ => rfl
  refine ⟨fun hs => ⟨?_, ?_, ?_, ?_, ?_⟩, fun hs => ?_, fun hs fn hf => ?_, fun hs fn hf => ?_, fun hs => ?_⟩ <;> unfold exec
  exacts [compactUnary_next hs rfl, compactUnary_next hs rfl, compactUnary_next hs rfl, compactUnary_next hs rfl,
    aluS_mov_next hs, liS_next hs, aluS_next hs hf (hop _ _ _), accS_next hs hf (hop _ _ _), accS_mov_next hs]

/-- Settles O4: the immediate forms are of the shapes of major 0x00, the parcels of the same shapes at 2 bytes. -/
theorem immediatesAndParcels : Obligations.ImmediatesAndParcels := ⟨immediateResults, compactResults⟩

end Sys2Proof.Machine
end

section
/-!
PROOF. Branches, jumps, links and LOOP, and the trap of an odd target (O5; R15, R41, R53 to R56).
-/

namespace Sys2Proof.Machine

open State

section
variable {s : State} {rd a b : Reg} {len : Nat} {off : Word}

/-- A branch (R53): its target stands at twice the offset from its own PC. -/
theorem branch_next {p : Prop} [Decidable p] {taken : Word → Word → Bool} (hs : s.Clear [a, b] [] [])
    (hp : taken (s.reg a) (s.reg b) = true ↔ p) : branch s len a b off taken =
      .next (s.after len 1 (fun f => if p then slotJump (s.me.pcWord + off * 2) f else f) id) := by
  refine issue_plain hs (fun f => ?_) ?_
  · split <;> exact ⟨rfl, rfl⟩
  · simp only [reg_begun, relTarget_begun, hp]
    split
    · rfl
    · rw [onMe_onMe]

theorem jumpRel_next (hs : s.Clear [] [] []) : jumpRel s len off =
    .next (s.after len 1 (slotJump (s.me.pcWord + off * 2)) id) :=
  issue_plain hs (fun _ => ⟨rfl, rfl⟩) (by rw [relTarget_begun, jump])

/-- A register written, and NextPC set after it. -/
theorem jump_setReg (u : State) (r : Reg) (v t : Word) : (u.setReg r v).jump t = u.onMe fun f => slotJump t (f.write r v) := by
  rw [jump, setReg, onMe_onMe]

theorem jal_next {imm : BitVec 22} (hs : s.Clear [] [rd] []) : execJal rd imm s =
    .next (s.after 4 1 (fun f => slotJump (s.me.pcWord + imm.signExtend 64 * 2) (f.write rd (slotBegun 4 s.me).pcWord)) id) :=
  issue_plain hs (fun _ => ⟨rfl, rfl⟩) (by rw [relTarget_begun, jump_setReg, me_onMe])

/-- A fibre whose g registers of a list are written with one value. -/
def linked (link : List Reg) (v : Word) (f : Slot) : Slot := link.foldl (fun x r => x.write r v) f

theorem linked_kept (link : List Reg) (v : Word) (f : Slot) :
    (linked link v f).live = f.live ∧ (linked link v f).gen = f.gen := by
  induction link generalizing f with
  | nil => exact ⟨rfl, rfl⟩
  | cons r link ih => exact ih (f.write r v)

theorem jump_links (u : State) (link : List Reg) (v t : Word) :
    (link.foldl (fun x r => x.setReg r v) u).jump t = u.onMe fun f => slotJump t (linked link v f) := by
  induction link generalizing u with
  | nil => rfl
  | cons r link ih =>
    rw [List.foldl_cons, ih, setReg, onMe_onMe]
    rfl

/-- A register jump to an even target (R55). -/
theorem jumpReg_even {link : List Reg} (hs : s.Clear [a] link []) (ht : (s.reg a + off).getLsbD 0 = false) :
    jumpReg s len a off link =
      .next (s.after len 1 (fun f => slotJump (s.reg a + off) (linked link (slotBegun len s.me).pcWord f)) id) := by
  refine issue_plain hs (fun f => linked_kept link _ f) ?_
  simp only [reg_begun, ht, me_onMe, jump_links]
  rfl

theorem jumpReg_odd {link : List Reg} (hs : s.Clear [a] link []) (ht : (s.reg a + off).getLsbD 0 = true) :
    jumpReg s len a off link = .next (s.trapped (trapOf .align .instruction (s.reg a + off))) := by
  refine issue_trap s { Need.plain [a] link with len := len } _ _ hs rfl (fun h => by cases h) (fun _ h => by cases h) ?_
  simp only [reg_begun, ht]
  rfl

theorem loop_next {imm : BitVec 16} (hs : s.Clear [rd] [rd] []) : execLoop rd imm s =
    if 1 < (s.reg rd).toNat then
      .next (s.after 4 1 (fun f => slotJump (s.me.pcWord + imm.signExtend 64 * 2) (f.write rd (s.reg rd - 1))) id)
    else .next (s.wrote rd 0) := by
  split
  · refine issue_plain hs (fun _ => ⟨rfl, rfl⟩) ?_
    rw [reg_begun, if_pos ‹_›, relTarget_begun, jump_setReg]
  · refine issue_plain hs (fun _ => ⟨rfl, rfl⟩) ?_
    rw [reg_begun, if_neg ‹_›, setReg]

end

theorem branchTargets : Piece.BranchTargets := by
  intro s rd a b off wide o5 o11 go
  have hj : ∀ len d, s.after len 1 (slotJump (s.me.pcWord + d * 2)) id = go len True d := fun _ _ => by simp only [go, if_true]
  refine ⟨fun hs => ⟨?_, ?_, ?_, ?_, ?_, ?_, ?_, ?_⟩, fun hs => ⟨?_, ?_⟩, fun hs => ?_⟩ <;> unfold exec
  exacts [branch_next hs beq_iff_eq, branch_next hs bne_iff_ne, branch_next hs decide_eq_true_iff,
    branch_next hs decide_eq_true_iff, branch_next hs decide_eq_true_iff, branch_next hs decide_eq_true_iff,
    branch_next hs beq_iff_eq, branch_next hs bne_iff_ne, hj _ _ ▸ jumpRel_next hs, hj _ _ ▸ jumpRel_next hs, jal_next hs]

theorem registerJumpsAndLoop : Piece.RegisterJumpsAndLoop := by
  intro s rd a imm t
  refine ⟨fun hs ht => ?_, fun hs ht => ?_, fun hs ht => ?_, fun hs => ?_⟩ <;> unfold exec
  · exact jumpReg_even hs ht
  · exact jumpReg_even hs ht
  · rw [← BitVec.add_zero (s.reg a)] at ht ⊢
    exact jumpReg_even hs ht
  · exact loop_next hs

theorem oddTargetTraps : Piece.OddTargetTraps := by
  intro s rd a imm t trap
  refine ⟨fun hs ht => ?_, fun hs ht => ?_, fun hs ht => ?_⟩ <;> unfold exec
  · exact jumpReg_odd hs ht
  · exact jumpReg_odd hs ht
  · rw [← BitVec.add_zero (s.reg a)] at ht ⊢
    exact jumpReg_odd hs ht

/-- Settles O5: a branch, a jump and LOOP set NextPC in their effect; an odd target stops it before the link. -/
theorem controlTransfers : Obligations.ControlTransfers := ⟨branchTargets, registerJumpsAndLoop, oddTargetTraps⟩

end Sys2Proof.Machine
end

section
/-!
PROOF. The scalar float forms (O7): what they write, and operands that are no ordinary numbers (R58, R60 to R63).
-/

namespace Sys2Proof.Machine

open State

/-! ### The shape of the float forms (R58, R60) -/

section
variable {s : State} {rd a b : Reg} {passes : Nat}

@[simp] theorem mode_begun (s : State) (len : Nat) (m : RoundSel) :
    (s.onMe (slotBegun len)).mode m = RMode.select m s.myCore.fpmode := by
  simp [mode, onMe_eq, Core.setSlot]

/-- A float form writes its register and ORs its exceptions into cr.fpmode. -/
theorem floatForm_next {reads : List Reg} {f : State → Word × FpFlags} {v : Word} {x : FpFlags} (hs : s.Clear reads [rd] [])
    (hv : f (s.onMe (slotBegun 4)) = (v, x)) : floatForm s passes reads rd f = .next (s.floated passes rd v x) :=
  issue_core s { Need.plain reads [rd] with passes := passes } _ (fun f => f.write rd v)
    (fun c => { c with fpmode := raiseFlags c.fpmode x }) hs rfl (fun h => by cases h) (fun _ h => by cases h)
    (fun _ => ⟨rfl, rfl⟩) (fun _ _ _ => rfl) (by
      change Except.ok (((s.onMe (slotBegun 4)).setReg rd (f (s.onMe (slotBegun 4))).1).onMyCore
        fun c => { c with fpmode := raiseFlags c.fpmode (f (s.onMe (slotBegun 4))).2 }) = _
      rw [hv]
      rfl)

theorem floatCompare_next {quiet : Bool} {f : FVal → FVal → Bool} {p : Prop} [Decidable p] (hs : s.Clear [a, b] [rd] [])
    (hp : (!((f32 (s.reg a)).isNaN || (f32 (s.reg b)).isNaN) && f (f32 (s.reg a)) (f32 (s.reg b))) = true ↔ p) :
    floatCompare s rd a b quiet f = .next (s.floated 1 rd (if p then 1 else 0)
      { nv := if quiet then (f32 (s.reg a)).isSNaN || (f32 (s.reg b)).isSNaN
          else (f32 (s.reg a)).isNaN || (f32 (s.reg b)).isNaN }) := by
  refine floatForm_next hs ?_
  simp only [reg_begun, Word.ofBool, hp]
  rfl

theorem floatConvert_next {m : RoundSel} {src dst : Fmt} (hs : s.Clear [a] [rd] []) :
    floatConvert s rd a m src dst =
      .next (s.floated 1 rd
        (BitVec.ofNat 64 (fconv src dst (RMode.select m s.myCore.fpmode) false ((s.reg a).toNat % 2 ^ (src.body + 1))).bits)
        (fconv src dst (RMode.select m s.myCore.fpmode) false ((s.reg a).toNat % 2 ^ (src.body + 1))).flags) :=
  floatForm_next hs (by rw [reg_begun, mode_begun]; rfl)

end

theorem and_lowBits (x : Word) {k : Nat} (hk : k ≤ 64) : x &&& BitVec.ofNat 64 (2 ^ k - 1) = (x.setWidth k).setWidth 64 := by
  have hle : 2 ^ k ≤ 2 ^ 64 := Nat.pow_le_pow_right (by omega) hk
  have hlt : x.toNat % 2 ^ k < 2 ^ 64 := (Nat.mod_le _ _).trans_lt x.isLt
  apply BitVec.eq_of_toNat_eq
  rw [BitVec.toNat_and, BitVec.toNat_ofNat, Nat.mod_eq_of_lt (a := 2 ^ k - 1) (by omega), Nat.and_two_pow_sub_one_eq_mod,
    BitVec.toNat_setWidth, BitVec.toNat_setWidth, Nat.mod_eq_of_lt hlt]

/-- FABS clears bit 31 (R62). -/
theorem fabs_word (x : Word) : x &&& 0x7FFFFFFF#64 = (x.setWidth 31).setWidth 64 := and_lowBits x (k := 31) (by omega)

/-- FNEG inverts bit 31 (R62). -/
theorem fneg_word (x : Word) : (x &&& 0xFFFFFFFF#64) ^^^ 0x80000000#64 = (x.setWidth 32 ^^^ 0x80000000#32).setWidth 64 := by
  rw [show x &&& 0xFFFFFFFF#64 = (x.setWidth 32).setWidth 64 from and_lowBits x (k := 32) (by omega), BitVec.setWidth_xor]
  rfl

theorem floatResults : Piece.FloatResults := by
  unfold Piece.FloatResults exec
  intro s rd a b m mode x y res isF
  refine ⟨fun hs => ⟨?_, ?_, ?_, ?_, ?_, ?_, floatCompare_next hs ?_, floatCompare_next hs ?_, floatCompare_next hs ?_⟩,
    fun hs => ?_, fun hs => ⟨?_, ?_, ?_, ?_, ?_, ?_, ?_, ?_, floatConvert_next hs, floatConvert_next hs, floatConvert_next hs,
      floatConvert_next hs⟩⟩
  case refine_7 | refine_8 | refine_9 => simp [x, y, and_assoc]
  all_goals
    refine floatForm_next hs ?_
    simp only [reg_begun, mode_begun, fabs_word, fneg_word]
    rfl

/-! ### Products (R61) -/

/-- An infinity times a number that is no zero, or times an infinity. -/
def InfiniteProduct (x y : FVal) : Prop :=
  (∃ b, x = .inf b ∨ y = .inf b) ∧ x.isNaN = false ∧ y.isNaN = false ∧ x.isZero = false ∧ y.isZero = false

/-- Zero times an infinity. -/
def ZeroByInf (x y : FVal) : Prop := ∃ b, (x.isZero = true ∧ y = .inf b) ∨ (x = .inf b ∧ y.isZero = true)

theorem exactMul_none_iff (x y : FVal) : exactMul x y = none ↔ ZeroByInf x y := by
  cases x <;> cases y <;> simp [exactMul, ZeroByInf, FVal.isZero]

theorem exactMul_snan_iff (x y : FVal) : exactMul x y = some (.nan true) ↔ x.isSNaN = true ∨ y.isSNaN = true := by
  cases x <;> cases y <;> simp [exactMul, FVal.isSNaN]

theorem exactMul_inf_iff (x y : FVal) (b : Bool) :
    exactMul x y = some (.inf b) ↔ InfiniteProduct x y ∧ (x.isNeg != y.isNeg) = b := by
  cases x <;> cases y <;> simp [exactMul, InfiniteProduct, FVal.isNaN, FVal.isZero, FVal.isNeg]

theorem exactMul_nan (x y : FVal) (h : x.isNaN = true ∨ y.isNaN = true) :
    exactMul x y = some (.nan ([x, y].any FVal.isSNaN)) := by
  cases x <;> cases y <;> simp_all [exactMul, FVal.isSNaN, FVal.isNaN]

/-! ### What raises NV -/

theorem roundMag_nv (F : Fmt) (m : RMode) (sat neg : Bool) (num : Nat) (exp : Int) (rest : Bool) :
    (roundMag F m sat neg num exp rest).flags.nv = false := by
  unfold roundMag
  dsimp only
  rw [apply_ite Rounded.flags, apply_ite FpFlags.nv, ite_self]

theorem roundDyadic_nv (F : Fmt) (m : RMode) (d : Dyadic) : (roundDyadic F m d).flags.nv = false := by
  unfold roundDyadic roundVal
  simp only
  split
  · rfl
  · exact roundMag_nv ..

/-- A sum raises NV for a signalling NaN and for infinities of opposite sign, and nowhere else. -/
theorem fadd_nv_iff (F : Fmt) (m : RMode) (v z : FVal) : (fadd F m v z).flags.nv = true ↔
    v = .nan true ∨ z.isSNaN = true ∨ ∃ b, v = .inf b ∧ z = .inf (!b) := by
  cases v with
  | nan s => cases z <;> simp [fadd, nanResult, FVal.isSNaN]
  | inf a =>
    cases z with
    | nan s => simp [fadd, nanResult, FVal.isSNaN]
    | inf b => cases a <;> cases b <;> simp [fadd, FVal.isSNaN, FpFlags.invalid]
    | fin e => simp [fadd, FVal.isSNaN]
  | fin d =>
    cases z with
    | nan s => simp [fadd, nanResult, FVal.isSNaN]
    | inf b => simp [fadd, FVal.isSNaN]
    | fin e =>
      simp only [fadd, FVal.isSNaN]
      split <;> simp [roundDyadic_nv]

theorem ffma_of_none {F : Fmt} {m : RMode} {x y z : FVal} (h : exactMul x y = none) :
    ffma F m x y z = ⟨F.canonNaN, .invalid⟩ := by
  simp only [ffma, h]

theorem ffma_of_some {F : Fmt} {m : RMode} {x y z v : FVal} (h : exactMul x y = some v) : ffma F m x y z = fadd F m v z := by
  simp only [ffma, h]

theorem ffma_nv_iff (F : Fmt) (m : RMode) (x y z : FVal) : (ffma F m x y z).flags.nv = true ↔
    (x.isSNaN = true ∨ y.isSNaN = true ∨ z.isSNaN = true) ∨ ZeroByInf x y ∨
      (InfiniteProduct x y ∧ z = .inf (!(x.isNeg != y.isNeg))) := by
  have hinf : (∃ b, exactMul x y = some (.inf b) ∧ z = .inf (!b)) ↔
      InfiniteProduct x y ∧ z = .inf (!(x.isNeg != y.isNeg)) := by
    simp only [exactMul_inf_iff, and_assoc, exists_and_left, exists_eq_left']
  rw [← exactMul_none_iff, ← hinf, ← or_assoc (a := x.isSNaN = true), ← exactMul_snan_iff]
  cases h : exactMul x y with
  | none => simp [ffma_of_none h, FpFlags.invalid]
  | some v => simp [ffma_of_some h, fadd_nv_iff, or_assoc]

/-! ### Operands that are no ordinary numbers (R61) -/

section
variable {F : Fmt} {m : RMode} {x y z : FVal}

theorem fadd_nan (h : x.isNaN = true ∨ y.isNaN = true) : fadd F m x y = nanResult F [x, y] := by
  cases x <;> cases y <;> simp_all [FVal.isNaN, fadd]

theorem fdiv_nan (h : x.isNaN = true ∨ y.isNaN = true) : fdiv F m x y = nanResult F [x, y] := by
  cases x <;> cases y <;> simp_all [FVal.isNaN, fdiv]

theorem fmul_nan (h : x.isNaN = true ∨ y.isNaN = true) : fmul F m x y = nanResult F [x, y] := by
  simp only [fmul, exactMul_nan x y h, roundVal, nanResult]

theorem fsqrt_nan (h : x.isNaN = true) : fsqrt F m x = nanResult F [x] := by
  cases x <;> simp_all [FVal.isNaN, fsqrt]

theorem ffma_nan_bits (h : x.isNaN = true ∨ y.isNaN = true ∨ z.isNaN = true) : (ffma F m x y z).bits = F.canonNaN := by
  cases hv : exactMul x y with
  | none => rw [ffma_of_none hv]
  | some v =>
    have hn : v.isNaN = true ∨ z.isNaN = true := by
      rcases or_assoc.mpr h with h | h
      · rw [exactMul_nan x y h] at hv
        cases hv
        exact .inl rfl
      · exact .inr h
    rw [ffma_of_some hv, fadd_nan hn, nanResult]

/-- An infinite product and an addend that is no NaN: the opposite infinity is invalid, any other passes the product. -/
theorem ffma_infinite (h : InfiniteProduct x y) : let p := x.isNeg != y.isNeg
    (z = .inf (!p) → ffma F m x y z = ⟨F.canonNaN, .invalid⟩) ∧
      (z.isNaN = false → z ≠ .inf (!p) → ffma F m x y z = ⟨F.withSign p F.infBits, {}⟩) := by
  intro p
  have hv : ffma F m x y z = fadd F m (.inf p) z := ffma_of_some ((exactMul_inf_iff x y p).mpr ⟨h, rfl⟩)
  rw [hv]
  cases z with
  | nan s => simp [FVal.isNaN]
  | inf b => cases p <;> cases b <;> simp [fadd]
  | fin d => simp [fadd]

end

/-! ### Infinities and zeros, operation by operation (R61) -/

section
variable {F : Fmt} {m : RMode} {n k : Bool} {d e : Dyadic} {z : FVal}

theorem fadd_inf_opposite : fadd F m (.inf n) (.inf (!n)) = ⟨F.canonNaN, .invalid⟩ := by cases n <;> rfl

theorem fadd_inf_same : fadd F m (.inf n) (.inf n) = ⟨F.withSign n F.infBits, {}⟩ := if_pos rfl

/-- A number less itself is an exact zero. -/
theorem add_negate_num (d : Dyadic) : (d.add d.negate).num = 0 := by
  by_cases h : d.num = 0
  · simp [Dyadic.add, Dyadic.negate, h]
  · cases hn : d.neg <;> simp [Dyadic.add, Dyadic.negate, h, hn, Dyadic.ofInt, Dyadic.inUnits]

theorem fadd_negate (hd : d.num ≠ 0) : fadd F m (.fin d) (.fin d.negate) = ⟨F.withSign (m == .rdn) 0, {}⟩ := by
  simp only [fadd, add_negate_num, hd, false_and, if_true, if_false]

theorem exactMul_zero_inf (hd : d.num = 0) : exactMul (.fin d) (.inf n) = none := if_pos hd

theorem exactMul_inf_zero (hd : d.num = 0) : exactMul (.inf n) (.fin d) = none := if_pos hd

theorem exactMul_inf_fin (hd : d.num ≠ 0) : exactMul (.inf n) (.fin d) = some (.inf (n != d.neg)) := if_neg hd

theorem exactMul_fin_inf (hd : d.num ≠ 0) : exactMul (.fin d) (.inf n) = some (.inf (d.neg != n)) := if_neg hd

theorem fmul_of_none {x y : FVal} (h : exactMul x y = none) : fmul F m x y = ⟨F.canonNaN, .invalid⟩ := by simp only [fmul, h]

theorem fmul_of_inf {x y : FVal} (hF : F.special = .ieee) (h : exactMul x y = some (.inf n)) :
    fmul F m x y = ⟨F.withSign n F.infBits, {}⟩ := by
  simp only [fmul, h, roundVal, roundInf, hF]

theorem fmul_zero (h : d.num = 0 ∨ e.num = 0) : fmul F m (.fin d) (.fin e) = ⟨F.withSign (d.neg != e.neg) 0, {}⟩ :=
  if_pos (Nat.mul_eq_zero.mpr h)

theorem fdiv_zero_zero (hd : d.num = 0) (he : e.num = 0) : fdiv F m (.fin d) (.fin e) = ⟨F.canonNaN, .invalid⟩ := by
  simp only [fdiv, hd, he, if_true]

theorem fdiv_zero_fin (hd : d.num = 0) (he : e.num ≠ 0) :
    fdiv F m (.fin d) (.fin e) = ⟨F.withSign (d.neg != e.neg) 0, {}⟩ := by
  simp only [fdiv, hd, he, if_true, if_false]

theorem fdiv_fin_zero (hd : d.num ≠ 0) (he : e.num = 0) :
    fdiv F m (.fin d) (.fin e) = ⟨F.withSign (d.neg != e.neg) F.infBits, { dz := true }⟩ := by
  simp only [fdiv, hd, he, if_true, if_false]

theorem fsqrt_negative (hd : d.num ≠ 0) (hn : d.neg = true) : fsqrt F m (.fin d) = ⟨F.canonNaN, .invalid⟩ := by
  simp only [fsqrt, hd, hn, if_true, if_false]

theorem fsqrt_zero (hd : d.num = 0) : fsqrt F m (.fin d) = ⟨F.withSign d.neg 0, {}⟩ := if_pos hd

end

/-! ### The same in FP32 -/

theorem infinity_fp32 (n : Bool) : Fmt.fp32.withSign n Fmt.fp32.infBits = if n then 0xFF800000 else 0x7F800000 := by
  cases n <;> rfl

theorem zero_fp32 (n : Bool) : Fmt.fp32.withSign n 0 = if n then 0x80000000 else 0 := by cases n <;> rfl

/-- The infinity of a quotient by zero, negative where its operands' signs differ. -/
theorem quotient_infinity_fp32 (a b : Bool) :
    Fmt.fp32.withSign (a != b) Fmt.fp32.infBits = if a = b then 0x7F800000 else 0xFF800000 := by
  cases a <;> cases b <;> rfl

theorem product_zero_fp32 (a b : Bool) : Fmt.fp32.withSign (a != b) 0 = if a = b then 0 else 0x80000000 := by
  cases a <;> cases b <;> rfl

theorem floatSpecialCases : Piece.FloatSpecialCases := by
  intro m x y z n k d e infinity nan invalid
  have hinf : ∀ b, (⟨Fmt.fp32.withSign b Fmt.fp32.infBits, {}⟩ : Rounded) = infinity b := fun b => by rw [infinity_fp32]
  refine ⟨fun h => ⟨fadd_nan h, fmul_nan h, fdiv_nan h⟩, fsqrt_nan, ffma_nan_bits, fadd_inf_opposite,
    fun hd => ⟨fmul_of_none (exactMul_zero_inf hd), fmul_of_none (exactMul_inf_zero hd),
      fun _ => ffma_of_none (exactMul_zero_inf hd)⟩,
    fdiv_zero_zero, rfl, rfl, rfl, fadd_inf_same.trans (hinf n), hinf n, hinf n, hinf (n != k),
    fun hd => ⟨(fmul_of_inf rfl (exactMul_inf_fin hd)).trans (hinf _), (fmul_of_inf rfl (exactMul_fin_inf hd)).trans (hinf _)⟩,
    hinf (n != d.neg), ?_, fun hd he => ?_, fun h => ?_,
    ⟨fun h => (ffma_infinite h).1, fun h hz hne => ((ffma_infinite h).2 hz hne).trans (hinf _), ffma_nv_iff _ _ _ _ _⟩,
    fun hd he => ?_, fsqrt_negative, fun hd => ?_, fun hd => ?_⟩
  · rw [← product_zero_fp32]
    rfl
  · rw [fdiv_zero_fin hd he, product_zero_fp32]
  · rw [fmul_zero h, product_zero_fp32]
  · rw [fdiv_fin_zero hd he, quotient_infinity_fp32]
  · rw [fsqrt_zero hd, zero_fp32]
  · rw [fadd_negate hd, zero_fp32]
    simp only [beq_iff_eq]

end Sys2Proof.Machine
end

section
/-!
PROOF. The scalar float operations round the exact value once (O7; R58, R61, R63, R193 to R195). A magnitude is a real number v
that is known truncated to num * 2^exp; `Lies` says how it stands between two multiples of a quantum, from which the modes round.
-/

namespace Sys2Proof.Machine

/-! ### A number between two neighbours of a lattice (R193) -/

/-- A real number is num * 2^exp, with something left below 2^exp where rest is set. -/
structure Truncated (v : ℝ) (num : ℕ) (exp : ℤ) (rest : Bool) : Prop where
  le : num * 2 ^ exp ≤ v
  lt : v < (num + 1) * 2 ^ exp
  exact_iff : rest = false ↔ v = num * 2 ^ exp

theorem truncated_exact (num : ℕ) (exp : ℤ) : Truncated (num * 2 ^ exp) num exp false where
  le := le_rfl
  lt := by
    have : (0 : ℝ) < 2 ^ exp := by positivity
    linarith
  exact_iff := by simp

/-- Where a real number lies between the multiples of q. -/
structure Lies (b : Between) (v q : ℝ) : Prop where
  le : b.lo * q ≤ v
  lt : v < (b.lo + 1) * q
  exact_iff : b.exact = true ↔ v = b.lo * q
  half : match b.half with
    | .lt => v < (b.lo + 1 / 2) * q
    | .eq => v = (b.lo + 1 / 2) * q
    | .gt => (b.lo + 1 / 2) * q < v

/-- Scaling keeps where a number lies. -/
theorem Lies.scale {b : Between} {v q u : ℝ} (hu : 0 < u) (h : Lies b v q) : Lies b (v * u) (q * u) where
  le := by
    rw [← mul_assoc]
    exact mul_le_mul_of_nonneg_right h.le hu.le
  lt := by
    rw [← mul_assoc]
    exact mul_lt_mul_of_pos_right h.lt hu
  exact_iff := by rw [← mul_assoc, mul_left_inj' hu.ne', h.exact_iff]
  half := by
    have hh := h.half
    cases hb : b.half <;> simp only [hb] at hh ⊢
    · rw [← mul_assoc]
      exact mul_lt_mul_of_pos_right hh hu
    · rw [hh, mul_assoc]
    · rw [← mul_assoc]
      exact mul_lt_mul_of_pos_right hh hu

/-- A unit that divides the number's own: nothing may be left. -/
theorem lies_finer {v : ℝ} {num : ℕ} {exp q : ℤ} (h : Truncated v num exp false) (hq : q ≤ exp) :
    Lies (between num exp false q) v (2 ^ q) := by
  have hv : v = (num * 2 ^ (exp - q).toNat : ℕ) * (2 : ℝ) ^ q := by
    rw [h.exact_iff.mp rfl]
    push_cast
    rw [mul_assoc, ← zpow_natCast, ← zpow_add₀ two_ne_zero, show ((exp - q).toNat : ℤ) + q = exp by omega]
  have hpos : (0 : ℝ) < 2 ^ q := by positivity
  rw [between, if_pos hq]
  refine ⟨hv.ge, ?_, by simpa using hv, ?_⟩ <;> rw [hv] <;> exact mul_lt_mul_of_pos_right (by linarith) hpos

/-- In units of 2^exp: the quotient by 2^sh is the lower neighbour, the remainder says how far above it. -/
theorem lies_coarser {w : ℝ} {num : ℕ} {exp q : ℤ} {rest : Bool} (hle : num ≤ w) (hlt : w < num + 1)
    (hex : rest = false ↔ w = num) (hq : exp < q) : Lies (between num exp rest q) w ((2 ^ (q - exp).toNat : ℕ) : ℝ) := by
  obtain ⟨k, hk⟩ : ∃ k, (q - exp).toNat = k + 1 := ⟨(q - exp).toNat - 1, by omega⟩
  rw [between, if_neg (by omega), hk]
  simp only [Nat.add_sub_cancel]
  have hS : 2 ^ (k + 1) = 2 * 2 ^ k := pow_succ' 2 k
  have hdiv := Nat.div_add_mod num (2 ^ (k + 1))
  have hr : num % 2 ^ (k + 1) < 2 ^ (k + 1) := Nat.mod_lt _ (by positivity)
  generalize num / 2 ^ (k + 1) = lo at *
  generalize num % 2 ^ (k + 1) = r at *
  generalize 2 ^ k = h at *
  rw [hS] at hdiv hr ⊢
  have hnum : (num : ℝ) = 2 * h * lo + r := by exact_mod_cast hdiv.symm
  have hr' : (r : ℝ) + 1 ≤ 2 * h := by exact_mod_cast hr
  have hr0 : (0 : ℝ) ≤ r := by positivity
  push_cast
  refine ⟨by linarith, by linarith, ?_, ?_⟩
  · rw [Bool.and_eq_true, beq_iff_eq, Bool.not_eq_true']
    change r = 0 ∧ rest = false ↔ w = lo * (2 * h)
    rw [hex]
    constructor
    · rintro ⟨rfl, hw⟩
      rw [hw, hnum]
      push_cast
      ring
    · intro hw
      have h0 : (r : ℝ) = 0 := by linarith
      exact ⟨by exact_mod_cast h0, by linarith⟩
  · by_cases hrh : r < h
    · have : (r : ℝ) + 1 ≤ h := by exact_mod_cast hrh
      simp only [if_pos hrh]
      linarith
    · have hrh' : (h : ℝ) ≤ r := by exact_mod_cast not_lt.mp hrh
      by_cases he : r = h ∧ rest = false
      · have : w = num := hex.mp he.2
        have : (r : ℝ) = h := by exact_mod_cast he.1
        simp only [if_neg hrh, if_pos he]
        linarith
      · simp only [if_neg hrh, if_neg he]
        rcases lt_or_eq_of_le hrh' with hlt' | heq
        · linarith
        · have hne : w ≠ num := fun hw => he ⟨by exact_mod_cast heq.symm, hex.mpr hw⟩
          have := lt_of_le_of_ne hle hne.symm
          linarith

/-- What `between` says of a number, for a unit above the number's own where something is left. -/
theorem lies_between {v : ℝ} {num : ℕ} {exp q : ℤ} {rest : Bool} (h : Truncated v num exp rest)
    (hq : rest = true → exp < q) : Lies (between num exp rest q) v (2 ^ q) := by
  by_cases hlt : exp < q
  · have hpos : (0 : ℝ) < 2 ^ exp := by positivity
    have hq : (2 : ℝ) ^ q = ((2 ^ (q - exp).toNat : ℕ) : ℝ) * 2 ^ exp := by
      push_cast
      rw [← zpow_natCast, ← zpow_add₀ two_ne_zero, show ((q - exp).toNat : ℤ) + exp = q by omega]
    have hv : v = v / 2 ^ exp * 2 ^ exp := (div_mul_cancel₀ v hpos.ne').symm
    rw [hv, hq]
    refine (lies_coarser ((le_div_iff₀ hpos).mpr h.le) ((div_lt_iff₀ hpos).mpr h.lt) ?_ hlt).scale hpos
    rw [h.exact_iff, div_eq_iff hpos.ne']
  · have hr : rest = false := by
      cases rest
      · rfl
      · exact absurd (hq rfl) hlt
    subst hr
    exact lies_finer h (by omega)

/-! ### Rounding to a multiple (R193) -/

/-- The multiple that a mode makes of a number between two. -/
def Between.rounded (b : Between) (m : RMode) (neg : Bool) : ℕ := b.lo + if roundsUp m neg b then 1 else 0

theorem Between.rounded_eq (b : Between) (m : RMode) (neg : Bool) :
    b.rounded m neg = b.lo ∨ b.rounded m neg = b.lo + 1 ∧ b.exact = false := by
  unfold Between.rounded roundsUp
  cases b.exact <;> simp

section
variable {b : Between} {v q : ℝ} {m : RMode} {neg : Bool}

theorem Lies.rounded_exact (h : Lies b v q) (hv : v = b.lo * q) : b.rounded m neg = b.lo := by
  rcases b.rounded_eq m neg with hr | ⟨_, hx⟩
  · exact hr
  · rw [h.exact_iff.mpr hv] at hx
    cases hx

theorem Lies.roundsTo (h : Lies b v q) : RoundsTo m neg v q (b.rounded m neg) := by
  refine ⟨b.lo, h.le, h.lt, h.rounded_exact, fun hv => ?_⟩
  have hx : b.exact = false := by
    rw [← Bool.not_eq_true, h.exact_iff]
    exact hv
  have hh := h.half
  unfold Between.rounded roundsUp
  simp only [hx, Bool.not_false, Bool.true_and]
  cases m with
  | rtz => rfl
  | rup => cases neg <;> rfl
  | rdn => cases neg <;> rfl
  | rne =>
    cases hb : b.half <;> simp only [hb] at hh ⊢
    · exact ⟨fun _ => by simp, fun hl => absurd hl hh.not_gt, fun he => absurd he hh.ne⟩
    · refine ⟨fun hl => absurd hh hl.ne, fun hl => absurd hh hl.ne', fun _ => ?_⟩
      rcases Nat.mod_two_eq_zero_or_one b.lo with h2 | h2
      · simp [h2]
      · simp [h2]
        omega
    · exact ⟨fun hl => absurd hl hh.not_gt, fun _ => by simp, fun he => absurd he hh.ne'⟩

/-- A mode makes one multiple of a number. -/
theorem roundsTo_unique {n j : ℕ} (hq : 0 < q) (hn : RoundsTo m neg v q n) (hj : RoundsTo m neg v q j) : n = j := by
  obtain ⟨k, hk, hk', hke, hkn⟩ := hn
  obtain ⟨l, hl, hl', hle, hln⟩ := hj
  have hkl : k = l := by
    have h1 : (k : ℝ) < l + 1 := lt_of_mul_lt_mul_right (hk.trans_lt hl') hq.le
    have h2 : (l : ℝ) < k + 1 := lt_of_mul_lt_mul_right (hl.trans_lt hk') hq.le
    norm_cast at h1 h2
    omega
  subst hkl
  by_cases hv : v = k * q
  · rw [hke hv, hle hv]
  · have h1 := hkn hv
    have h2 := hln hv
    cases m with
    | rtz | rup | rdn => exact h1.trans h2.symm
    | rne =>
      obtain ⟨n1, n2, n3⟩ := h1
      obtain ⟨j1, j2, j3⟩ := h2
      rcases lt_trichotomy v ((k + 1 / 2) * q) with hm | hm | hm
      · rw [n1 hm, j1 hm]
      · have := n3 hm
        have := j3 hm
        omega
      · rw [n2 hm, j2 hm]

theorem Lies.rounded_eq_iff (h : Lies b v q) : b.rounded m neg * q = v ↔ b.exact = true := by
  rw [h.exact_iff]
  constructor
  · intro hr
    rcases b.rounded_eq m neg with hlo | ⟨hup, _⟩
    · rw [← hr, hlo]
    · rw [hup] at hr
      push_cast at hr
      exact absurd hr h.lt.ne'
  · intro hv
    rw [h.rounded_exact hv, ← hv]

end

/-! ### Patterns of the IEEE formats (R186, R187) -/

/-- A format with infinities and NaNs at its greatest exponent, whose bias is the middle of its exponents. -/
structure Fmt.Ieee (F : Fmt) : Prop where
  special : F.special = .ieee
  bias : 2 ^ F.ebits = 2 * F.bias + 2
  pos : 0 < F.bias

theorem ieee_of_mem {F : Fmt} (h : F ∈ [Fmt.fp32, .bf16, .fp16]) : F.Ieee := by
  simp only [List.mem_cons, List.not_mem_nil, or_false] at h
  rcases h with rfl | rfl | rfl <;> exact ⟨rfl, rfl, by decide⟩

section
variable {F : Fmt} {neg : Bool}

theorem two_pow_body (F : Fmt) : 2 ^ F.body = 2 ^ F.ebits * 2 ^ F.mbits := pow_add 2 F.ebits F.mbits

theorem withSign_eq (F : Fmt) (neg : Bool) (b : ℕ) : F.withSign neg b = b + neg.toNat * 2 ^ F.body := by
  cases neg <;> simp [Fmt.withSign]

/-- The pattern of exponent field x and fraction t. -/
theorem value_fields (hF : F.Ieee) {x t : ℕ} (hx : x < 2 ^ F.ebits) (ht : t < 2 ^ F.mbits) :
    F.value (F.withSign neg (x * 2 ^ F.mbits + t)) =
      if x = 2 ^ F.ebits - 1 then (if t = 0 then .inf neg else .nan (t < 2 ^ (F.mbits - 1)))
      else if x = 0 then .fin ⟨neg, t, F.emin - F.mbits⟩
      else .fin ⟨neg, 2 ^ F.mbits + t, (x : Int) - F.bias - F.mbits⟩ := by
  have hlt : x * 2 ^ F.mbits + t < 2 ^ F.body := by
    rw [two_pow_body]
    nlinarith
  have hM : 0 < 2 ^ F.mbits := by positivity
  have hsign : (F.withSign neg (x * 2 ^ F.mbits + t) / 2 ^ F.body % 2 == 1) = neg := by
    rw [withSign_eq, Nat.add_mul_div_right _ _ (by positivity), Nat.div_eq_of_lt hlt]
    cases neg <;> rfl
  have hsplit : F.withSign neg (x * 2 ^ F.mbits + t) = t + (x + neg.toNat * 2 ^ F.ebits) * 2 ^ F.mbits := by
    rw [withSign_eq, two_pow_body]
    ring
  have hexp : F.withSign neg (x * 2 ^ F.mbits + t) / 2 ^ F.mbits % 2 ^ F.ebits = x := by
    rw [hsplit, Nat.add_mul_div_right _ _ hM, Nat.div_eq_of_lt ht, zero_add, Nat.add_mul_mod_self_right, Nat.mod_eq_of_lt hx]
  have hfrac : F.withSign neg (x * 2 ^ F.mbits + t) % 2 ^ F.mbits = t := by
    rw [hsplit, Nat.add_mul_mod_self_right, Nat.mod_eq_of_lt ht]
  unfold Fmt.value
  simp only [hF.special, hsign, hexp, hfrac]

/-- A pattern names a finite number of a sign and a magnitude. -/
def NamesFinite (F : Fmt) (bits : ℕ) (neg : Bool) (v : ℝ) : Prop :=
  ∃ d : Dyadic, F.value bits = .fin d ∧ d.neg = neg ∧ (d.num : ℝ) * 2 ^ d.exp = v

theorem names_subnormal (hF : F.Ieee) {t : ℕ} (ht : t < 2 ^ F.mbits) :
    NamesFinite F (F.withSign neg t) neg (t * 2 ^ (F.emin - F.mbits)) := by
  have h := value_fields (neg := neg) hF (x := 0) (by positivity) ht
  rw [if_neg (by have := hF.bias; omega), if_pos rfl, zero_mul, zero_add] at h
  exact ⟨_, h, rfl, rfl⟩

theorem names_normal (hF : F.Ieee) {k t : ℕ} (hk : k < 2 * F.bias) (ht : t < 2 ^ F.mbits) :
    NamesFinite F (F.withSign neg ((k + 1) * 2 ^ F.mbits + t)) neg ((2 ^ F.mbits + t) * 2 ^ (F.emin + k - F.mbits)) := by
  have hb := hF.bias
  have h := value_fields (neg := neg) hF (x := k + 1) (by omega) ht
  rw [if_neg (by omega), if_neg (by omega)] at h
  refine ⟨_, h, rfl, ?_⟩
  rw [Fmt.emin]
  push_cast
  congr 2
  ring

theorem maxBits_eq (hF : F.Ieee) : F.maxBits = 2 * F.bias * 2 ^ F.mbits + (2 ^ F.mbits - 1) := by
  have hM : 0 < 2 ^ F.mbits := by positivity
  unfold Fmt.maxBits
  simp only [hF.special]
  rw [hF.bias, show 2 * F.bias + 2 - 1 = 2 * F.bias + 1 by omega, add_mul]
  omega

/-- The pattern that stands r quanta up in binade k: rounding up to the next power of two carries into the exponent. -/
theorem names_pattern (hF : F.Ieee) {k r : ℕ} (hr : r ≤ 2 * 2 ^ F.mbits) (hk : k = 0 ∨ 2 ^ F.mbits ≤ r)
    (hmax : k * 2 ^ F.mbits + r ≤ F.maxBits) :
    NamesFinite F (F.withSign neg (k * 2 ^ F.mbits + r)) neg (r * 2 ^ (F.emin + k - F.mbits)) := by
  have hM : 0 < 2 ^ F.mbits := by positivity
  rw [maxBits_eq hF] at hmax
  rcases lt_or_ge r (2 ^ F.mbits) with hlow | hhigh
  · obtain rfl : k = 0 := hk.resolve_right (by omega)
    simpa using names_subnormal (neg := neg) hF hlow
  · obtain ⟨t, rfl⟩ := Nat.exists_eq_add_of_le hhigh
    have hk2 : k < 2 * F.bias := by
      refine lt_of_mul_lt_mul_right (a := 2 ^ F.mbits) ?_ hM.le
      omega
    rcases lt_or_eq_of_le (show t ≤ 2 ^ F.mbits by omega) with ht | rfl
    · have h := names_normal (neg := neg) hF hk2 ht
      rw [add_mul, one_mul, add_assoc] at h
      exact_mod_cast h
    · have hk3 : k + 1 < 2 * F.bias := by
        refine lt_of_mul_lt_mul_right (a := 2 ^ F.mbits) ?_ hM.le
        rw [add_mul]
        omega
      have h := names_normal (neg := neg) hF hk3 hM
      rw [show (k + 1 + 1) * 2 ^ F.mbits + 0 = k * 2 ^ F.mbits + (2 ^ F.mbits + 2 ^ F.mbits) by ring] at h
      convert h using 1
      rw [show F.emin + (k + 1 : ℕ) - F.mbits = F.emin + k - F.mbits + 1 by push_cast; ring, zpow_add_one₀ two_ne_zero]
      push_cast
      ring

theorem names_maxBits (hF : F.Ieee) :
    NamesFinite F (F.withSign neg F.maxBits) neg ((2 - (2 : ℝ) ^ (-(F.mbits : ℤ))) * 2 ^ F.bias) := by
  have hM : 0 < 2 ^ F.mbits := by positivity
  have hpos := hF.pos
  have h := names_normal (neg := neg) hF (k := 2 * F.bias - 1) (t := 2 ^ F.mbits - 1) (by omega) (by omega)
  rw [show 2 * F.bias - 1 + 1 = 2 * F.bias by omega, ← maxBits_eq hF] at h
  convert h using 1
  rw [show F.emin + (2 * F.bias - 1 : ℕ) - F.mbits = F.bias + -(F.mbits : ℤ) by rw [Fmt.emin]; omega, zpow_add₀ two_ne_zero,
    Nat.cast_sub hM, zpow_neg, zpow_natCast, zpow_natCast]
  push_cast
  field_simp
  ring

theorem value_infBits (hF : F.Ieee) : F.value (F.withSign neg F.infBits) = .inf neg := by
  have hb := hF.bias
  have h := value_fields (neg := neg) hF (x := 2 ^ F.ebits - 1) (t := 0) (by omega) (by positivity)
  rwa [if_pos rfl, if_pos rfl] at h

theorem withSign_lt {b : ℕ} (hb : b < 2 ^ F.body) : F.withSign neg b < 2 ^ (F.body + 1) := by
  rw [withSign_eq, pow_succ]
  cases neg <;> simp <;> omega

theorem infBits_lt (F : Fmt) : F.infBits < 2 ^ F.body := by
  rw [two_pow_body, Fmt.infBits]
  exact Nat.mul_lt_mul_of_pos_right (Nat.sub_lt (by positivity) one_pos) (by positivity)

theorem maxBits_lt (hF : F.Ieee) : F.maxBits < 2 ^ F.body := by
  refine lt_of_le_of_lt ?_ (infBits_lt F)
  unfold Fmt.maxBits Fmt.infBits
  simp only [hF.special]
  omega

/-! ### Overflow (R194) -/

/-- A pattern lies above the greatest finite one exactly where its number, without a limit of the exponent, reaches 2^(bias + 1). -/
theorem maxBits_lt_iff (hF : F.Ieee) {k r : ℕ} (hr : r ≤ 2 * 2 ^ F.mbits) (hk : k = 0 ∨ 2 ^ F.mbits ≤ r) :
    F.maxBits < k * 2 ^ F.mbits + r ↔ (2 : ℝ) ^ (F.bias + 1) ≤ r * 2 ^ (F.emin + k - F.mbits) := by
  have hM : 0 < 2 ^ F.mbits := by positivity
  have hpos := hF.pos
  have hreal : (2 : ℝ) ^ (F.bias + 1) ≤ r * 2 ^ (F.emin + k - F.mbits) ↔ 2 ^ F.mbits * 2 ^ (2 * F.bias) ≤ r * 2 ^ k := by
    have hscale : (0 : ℝ) < 2 ^ (F.emin - F.mbits) := by positivity
    rw [show F.emin + k - F.mbits = k + (F.emin - F.mbits) by ring, zpow_add₀ two_ne_zero, zpow_natCast, ← mul_assoc,
      show (2 : ℝ) ^ (F.bias + 1) = 2 ^ F.mbits * 2 ^ (2 * F.bias) * 2 ^ (F.emin - F.mbits) by
        rw [← zpow_natCast, ← zpow_natCast, ← zpow_natCast, ← zpow_add₀ two_ne_zero, ← zpow_add₀ two_ne_zero, Fmt.emin]
        congr 1
        push_cast
        ring,
      mul_le_mul_iff_left₀ hscale]
    exact_mod_cast Iff.rfl
  rw [hreal, maxBits_eq hF]
  rcases lt_trichotomy (k + 1) (2 * F.bias) with hlt | heq | hgt
  · obtain ⟨j, hj⟩ := Nat.exists_eq_add_of_lt hlt
    have hle : k * 2 ^ F.mbits + 2 * 2 ^ F.mbits ≤ 2 * F.bias * 2 ^ F.mbits := by
      rw [← add_mul]
      exact Nat.mul_le_mul_right _ (by omega)
    refine iff_of_false (by omega) (not_le.mpr ?_)
    calc r * 2 ^ k ≤ 2 * 2 ^ F.mbits * 2 ^ k := Nat.mul_le_mul_right _ hr
      _ = 2 ^ F.mbits * 2 ^ (k + 1) := by ring
      _ < 2 ^ F.mbits * 2 ^ (2 * F.bias) := Nat.mul_lt_mul_of_pos_left (Nat.pow_lt_pow_right (by omega) hlt) hM
  · rw [← heq, pow_succ', ← mul_assoc, mul_le_mul_iff_left₀ (by positivity : 0 < 2 ^ k), add_mul]
    omega
  · have hr' : 2 ^ F.mbits ≤ r := hk.resolve_left (by omega)
    have hle : 2 * F.bias * 2 ^ F.mbits ≤ k * 2 ^ F.mbits := Nat.mul_le_mul_right _ (by omega)
    exact iff_of_true (by omega) (Nat.mul_le_mul hr' (Nat.pow_le_pow_right (by omega) (by omega)))

theorem overflowBits_eq (hF : F.Ieee) (sat isAway : Bool) :
    overflowBits F sat neg isAway = F.withSign neg (if isAway then F.infBits else F.maxBits) := by
  unfold overflowBits
  simp only [hF.special]

end

/-! ### One rounding to a format (R193 to R195) -/

section
variable {F : Fmt} {m : RMode} {neg rest : Bool} {v : ℝ} {num : ℕ} {exp : ℤ}

theorem two_zpow_succ (e : ℤ) : (2 : ℝ) ^ (e + 1) = 2 * 2 ^ e := by rw [zpow_add_one₀ two_ne_zero, mul_comm]

/-- A power of two in quanta of a precision of M bits below it. -/
theorem two_zpow_eq_quanta (F : Fmt) (e : ℤ) : (2 : ℝ) ^ e = (2 ^ F.mbits : ℕ) * 2 ^ (e - F.mbits) := by
  push_cast
  rw [← zpow_natCast, ← zpow_add₀ two_ne_zero]
  congr 1
  ring

theorem Truncated.expOf_le (h : Truncated v num exp rest) (hn : num ≠ 0) : (2 : ℝ) ^ expOf num exp ≤ v := by
  refine le_trans ?_ h.le
  rw [expOf, zpow_add₀ two_ne_zero, zpow_natCast]
  gcongr
  exact_mod_cast Nat.log2_self_le hn

theorem Truncated.lt_expOf (h : Truncated v num exp rest) : v < (2 : ℝ) ^ (expOf num exp + 1) := by
  refine h.lt.trans_le ?_
  rw [expOf, show (Nat.log2 num : ℤ) + exp + 1 = (Nat.log2 num + 1 : ℕ) + exp by push_cast; ring, zpow_add₀ two_ne_zero,
    zpow_natCast]
  gcongr
  exact_mod_cast Nat.lt_log2_self

/-- A number below the next power of two rounds to at most that power. -/
theorem Lies.rounded_le {b : Between} {e : ℤ} (h : Lies b v (2 ^ (e - F.mbits))) (hv : v < 2 ^ (e + 1)) :
    b.rounded m neg ≤ 2 * 2 ^ F.mbits := by
  have hq : (0 : ℝ) < 2 ^ (e - F.mbits) := by positivity
  have hlo : (b.lo : ℝ) < (2 * 2 ^ F.mbits : ℕ) := by
    refine lt_of_mul_lt_mul_right (h.le.trans_lt (hv.trans_eq ?_)) hq.le
    rw [two_zpow_succ, two_zpow_eq_quanta F]
    push_cast
    ring
  have hlo' : b.lo < 2 * 2 ^ F.mbits := by exact_mod_cast hlo
  rcases b.rounded_eq m neg with hr | ⟨hr, _⟩ <;> omega

/-- A number of binade e rounds to at least its power of two. -/
theorem Lies.le_rounded {b : Between} {e : ℤ} (h : Lies b v (2 ^ (e - F.mbits))) (hv : 2 ^ e ≤ v) :
    2 ^ F.mbits ≤ b.rounded m neg := by
  have hq : (0 : ℝ) < 2 ^ (e - F.mbits) := by positivity
  have hlo : ((2 ^ F.mbits : ℕ) : ℝ) < b.lo + 1 := by
    refine lt_of_mul_lt_mul_right ?_ hq.le
    rw [← two_zpow_eq_quanta]
    exact hv.trans_lt h.lt
  have hlo' : 2 ^ F.mbits < b.lo + 1 := by exact_mod_cast hlo
  rcases b.rounded_eq m neg with hr | ⟨hr, _⟩ <;> omega

/-- Underflow (R195): rounded to the format's precision without a limit of the exponent, the number lies below 2^EMIN. -/
theorem isTiny_iff (hg : Truncated v num exp rest) (hn : num ≠ 0) (hrest : rest = true → F.mbits < Nat.log2 num) :
    isTiny F m neg num exp rest = true ↔
      ∃ j : ℕ, RoundsTo m neg v ((2 : ℝ) ^ (expOf num exp - F.mbits)) j ∧
        j * (2 : ℝ) ^ (expOf num exp - F.mbits) < (2 : ℝ) ^ F.emin := by
  have hlow := hg.expOf_le hn
  have hhigh := hg.lt_expOf
  have hl : Lies (between num exp rest (expOf num exp - F.mbits)) v (2 ^ (expOf num exp - F.mbits)) :=
    lies_between hg fun hr => by
      have := hrest hr
      rw [expOf]
      omega
  have hq : (0 : ℝ) < 2 ^ (expOf num exp - F.mbits) := by positivity
  have huniq : (∃ j : ℕ, RoundsTo m neg v ((2 : ℝ) ^ (expOf num exp - F.mbits)) j ∧
      j * (2 : ℝ) ^ (expOf num exp - F.mbits) < (2 : ℝ) ^ F.emin) ↔
      ((between num exp rest (expOf num exp - F.mbits)).rounded m neg : ℝ) * 2 ^ (expOf num exp - F.mbits) < 2 ^ F.emin :=
    ⟨fun ⟨j, hj, hlt⟩ => roundsTo_unique hq hj hl.roundsTo ▸ hlt, fun hlt => ⟨_, hl.roundsTo, hlt⟩⟩
  have hle := hl.rounded_le (m := m) (neg := neg) hhigh
  have hge := hl.le_rounded (m := m) (neg := neg) hlow
  rw [huniq]
  unfold isTiny
  change (if expOf num exp ≥ F.emin then false else !(expOf num exp == F.emin - 1 &&
    (between num exp rest (expOf num exp - F.mbits)).rounded m neg == 2 ^ (F.mbits + 1))) = true ↔ _
  generalize (between num exp rest (expOf num exp - F.mbits)).rounded m neg = r at *
  generalize expOf num exp = e at *
  have hpow : (r : ℝ) * 2 ^ (e - F.mbits) ≤ 2 ^ (e + 1) := by
    rw [two_zpow_succ, two_zpow_eq_quanta F e, ← mul_assoc]
    gcongr
    exact_mod_cast hle
  rcases lt_trichotomy e (F.emin - 1) with hlt | heq | hgt
  · rw [if_neg (by omega)]
    refine iff_of_true (by simp [hlt.ne]) (hpow.trans_lt ?_)
    exact zpow_lt_zpow_right₀ one_lt_two (by omega)
  · rw [if_neg (by omega)]
    rw [show F.emin = e + 1 by omega, two_zpow_succ, two_zpow_eq_quanta F e, ← mul_assoc, mul_lt_mul_iff_left₀ hq]
    have hr : (r : ℝ) < 2 * (2 ^ F.mbits : ℕ) ↔ r < 2 * 2 ^ F.mbits := by exact_mod_cast Iff.rfl
    rw [hr, lt_iff_le_and_ne, pow_succ']
    simp [hle]
  · rw [if_pos (by omega)]
    refine iff_of_false (by simp) (not_lt.mpr ?_)
    calc (2 : ℝ) ^ F.emin ≤ 2 ^ e := zpow_le_zpow_right₀ one_le_two (by omega)
      _ = (2 ^ F.mbits : ℕ) * 2 ^ (e - F.mbits) := two_zpow_eq_quanta F e
      _ ≤ r * 2 ^ (e - F.mbits) := by gcongr

/-- `roundMag` in binade k above the least normal one: the pattern stands so many quanta up in it, unless that overflows. -/
theorem roundMag_eq {k : ℕ} (hk : max (expOf num exp) F.emin = F.emin + k) :
    let b := between num exp rest (F.emin + k - F.mbits)
    roundMag F m false neg num exp rest =
      if F.maxBits < k * 2 ^ F.mbits + b.rounded m neg then
        ⟨overflowBits F false neg (away m neg), { ovf := true, nx := true }⟩
      else ⟨F.withSign neg (k * 2 ^ F.mbits + b.rounded m neg),
        { nx := !b.exact, unf := !b.exact && isTiny F m neg num exp rest }⟩ := by
  unfold roundMag
  simp only [hk, show (F.emin + k - F.emin).toNat = k by omega]
  rfl

/-- The rounding of R193, of a number that is known to more than the format's precision. -/
theorem roundedOnce_roundMag (hF : F.Ieee) (hg : Truncated v num exp rest) (hn : num ≠ 0)
    (hrest : rest = true → F.mbits < Nat.log2 num) : RoundedOnce F m neg v (roundMag F m false neg num exp rest) := by
  have hlow := hg.expOf_le hn
  have hhigh := hg.lt_expOf
  have htiny := isTiny_iff (m := m) (neg := neg) hg hn hrest
  obtain ⟨k, hk⟩ : ∃ k : ℕ, max (expOf num exp) F.emin = F.emin + k :=
    ⟨(max (expOf num exp) F.emin - F.emin).toNat, by omega⟩
  have hl : Lies (between num exp rest (F.emin + k - F.mbits)) v (2 ^ (F.emin + k - F.mbits)) :=
    lies_between hg fun hr => by
      have := hrest hr
      have : expOf num exp ≤ F.emin + k := hk ▸ le_max_left _ _
      rw [expOf] at this
      omega
  have hle := hl.rounded_le (m := m) (neg := neg)
    (hhigh.trans_le (zpow_le_zpow_right₀ one_le_two (by omega : expOf num exp + 1 ≤ F.emin + k + 1)))
  have hge : k = 0 ∨ 2 ^ F.mbits ≤ (between num exp rest (F.emin + k - F.mbits)).rounded m neg := by
    by_cases h0 : k = 0
    · exact .inl h0
    · exact .inr (hl.le_rounded (by rwa [show F.emin + k = expOf num exp by omega]))
  have hround := hl.roundsTo (m := m) (neg := neg)
  have hexact := hl.rounded_eq_iff (m := m) (neg := neg)
  unfold RoundedOnce
  refine ⟨expOf num exp, (between num exp rest (F.emin + k - F.mbits)).rounded m neg, ?_⟩
  rw [hk, roundMag_eq hk]
  generalize between num exp rest (F.emin + k - F.mbits) = b at *
  have hover := maxBits_lt_iff hF hle hge
  refine ⟨hlow, hhigh, hround, ?_⟩
  by_cases hmax : F.maxBits < k * 2 ^ F.mbits + b.rounded m neg
  · rw [if_pos hmax, overflowBits_eq hF]
    refine ⟨?_, rfl, rfl, fun hlt => absurd (hover.mp hmax) hlt.not_ge, fun _ => ⟨rfl, rfl, rfl, ?_, ?_⟩⟩
    · apply withSign_lt
      split
      · exact infBits_lt F
      · exact maxBits_lt hF
    · intro h
      rw [if_pos (by rcases h with rfl | ⟨rfl, rfl⟩ | ⟨rfl, rfl⟩ <;> rfl)]
      exact value_infBits hF
    · intro h
      rw [if_neg (by rcases h with rfl | ⟨rfl, rfl⟩ | ⟨rfl, rfl⟩ <;> exact Bool.false_ne_true)]
      exact names_maxBits hF
  · rw [if_neg hmax]
    refine ⟨withSign_lt ((not_lt.mp hmax).trans_lt (maxBits_lt hF)), rfl, rfl, fun _ => ⟨?_, rfl, ?_, ?_⟩,
      fun hge => absurd (hover.mpr hge) hmax⟩
    · exact names_pattern hF hle hge (not_lt.mp hmax)
    · rw [ne_eq, hexact]
      cases b.exact <;> simp
    · rw [ne_eq, hexact, ← htiny]
      cases b.exact <;> simp

end

/-! ### Exact numbers as real numbers -/

namespace Dyadic

/-- The magnitude of an exact number. -/
noncomputable def magnitude (d : Dyadic) : ℝ := d.num * 2 ^ d.exp

/-- An exact number as a real number. -/
noncomputable def real (d : Dyadic) : ℝ := if d.neg then -d.magnitude else d.magnitude

theorem magnitude_nonneg (d : Dyadic) : 0 ≤ d.magnitude := by unfold magnitude; positivity

theorem magnitude_pos {d : Dyadic} (h : d.num ≠ 0) : 0 < d.magnitude := by unfold magnitude; positivity

theorem real_eq_zero_iff (d : Dyadic) : d.real = 0 ↔ d.num = 0 := by
  have h2 : (2 : ℝ) ^ d.exp ≠ 0 := by positivity
  unfold real magnitude
  split <;> simp [h2]

theorem abs_real (d : Dyadic) : |d.real| = d.magnitude := by
  unfold real
  split
  · rw [abs_neg, abs_of_nonneg d.magnitude_nonneg]
  · exact abs_of_nonneg d.magnitude_nonneg

theorem real_neg_iff {d : Dyadic} (h : d.num ≠ 0) : d.real < 0 ↔ d.neg = true := by
  have hpos := magnitude_pos h
  unfold real
  cases d.neg
  · simpa using hpos.le
  · simpa using hpos

theorem real_mul (a b : Dyadic) : (a.mul b).real = a.real * b.real := by
  have hm : (a.mul b).magnitude = a.magnitude * b.magnitude := by
    simp only [magnitude, mul, zpow_add₀ (two_ne_zero (α := ℝ))]
    push_cast
    ring
  unfold real
  rw [hm]
  cases ha : a.neg <;> cases hb : b.neg <;> simp [mul, ha, hb]

theorem real_ofInt (i e : ℤ) : (ofInt i e).real = i * 2 ^ e := by
  unfold real magnitude ofInt
  rcases lt_or_ge i 0 with h | h
  · have : ((i.natAbs : ℤ) : ℝ) = -i := by rw [Int.ofNat_natAbs_of_nonpos h.le]; push_cast; rfl
    rw [Int.cast_natCast] at this
    simp [h, this]
  · have : ((i.natAbs : ℤ) : ℝ) = i := by rw [Int.natAbs_of_nonneg h]
    rw [Int.cast_natCast] at this
    simp [h.not_gt, this]

theorem real_inUnits {d : Dyadic} {e : ℤ} (h : e ≤ d.exp) : (d.inUnits e : ℝ) * 2 ^ e = d.real := by
  have hm : ((d.num * 2 ^ (d.exp - e).toNat : ℕ) : ℝ) * 2 ^ e = d.magnitude := by
    push_cast
    rw [magnitude, mul_assoc, ← zpow_natCast, ← zpow_add₀ two_ne_zero, show ((d.exp - e).toNat : ℤ) + e = d.exp by omega]
  unfold inUnits real
  rw [← hm]
  cases d.neg <;> push_cast <;> simp

theorem real_add (a b : Dyadic) : (a.add b).real = a.real + b.real := by
  unfold add
  split
  · next h =>
    rw [(real_eq_zero_iff a).mpr h.1, (real_eq_zero_iff b).mpr h.2, (real_eq_zero_iff _).mpr rfl, add_zero]
  · rw [real_ofInt, Int.cast_add, add_mul, real_inUnits (min_le_left _ _), real_inUnits (min_le_right _ _)]

end Dyadic

/-! ### The operations round once (R58, R61, R63) -/

/-- A result is a real number that is not 0, whose sign is given, rounded once. -/
def RoundsValue (F : Fmt) (m : RMode) (neg : Bool) (v : ℝ) (r : Rounded) : Prop :=
  v ≠ 0 → (neg = true ↔ v < 0) → RoundedOnce F m neg |v| r

section
variable {F : Fmt} {m : RMode} {neg : Bool} {x y z : Dyadic}

theorem roundsValue_dyadic (hF : F.Ieee) (d : Dyadic) : RoundsValue F m neg d.real (roundDyadic F m d) := by
  intro hv hneg
  have hn : d.num ≠ 0 := fun h => hv ((Dyadic.real_eq_zero_iff d).mpr h)
  have hsign : d.neg = neg := by rw [Bool.eq_iff_iff, hneg, Dyadic.real_neg_iff hn]
  rw [roundDyadic, roundVal, if_neg hn, Dyadic.abs_real, hsign]
  exact roundedOnce_roundMag hF (truncated_exact d.num d.exp) hn (fun h => by cases h)

theorem roundsValue_fadd (hF : F.Ieee) (x y : Dyadic) : RoundsValue F m neg (x.real + y.real) (fadd F m (.fin x) (.fin y)) := by
  intro hv
  rw [← Dyadic.real_add] at hv ⊢
  have hn : (x.add y).num ≠ 0 := fun h => hv ((Dyadic.real_eq_zero_iff _).mpr h)
  simp only [fadd, if_neg hn]
  exact roundsValue_dyadic hF _ hv

theorem roundsValue_fmul (hF : F.Ieee) (x y : Dyadic) : RoundsValue F m neg (x.real * y.real) (fmul F m (.fin x) (.fin y)) := by
  rw [← Dyadic.real_mul]
  exact roundsValue_dyadic hF _

theorem roundsValue_ffma (hF : F.Ieee) (x y z : Dyadic) :
    RoundsValue F m neg (x.real * y.real + z.real) (ffma F m (.fin x) (.fin y) (.fin z)) := by
  rw [← Dyadic.real_mul]
  exact roundsValue_fadd hF _ _

theorem ffma_exact_zero (hx : x.num ≠ 0) (hy : y.num ≠ 0) (h : x.real * y.real + z.real = 0) :
    ffma F m (.fin x) (.fin y) (.fin z) = ⟨F.withSign (m == .rdn) 0, {}⟩ := by
  rw [← Dyadic.real_mul, ← Dyadic.real_add, Dyadic.real_eq_zero_iff] at h
  have hxy : (x.mul y).num ≠ 0 := Nat.mul_ne_zero hx hy
  rw [ffma_of_some (v := .fin (x.mul y)) rfl]
  simp only [fadd, if_pos h, hxy, false_and, if_false]

theorem roundsValue_intToF (hF : F.Ieee) (i : ℤ) : RoundsValue F m neg i (intToF F m i) := by
  have h := roundsValue_dyadic (m := m) (neg := neg) hF (.ofInt i 0)
  rwa [Dyadic.real_ofInt, zpow_zero, mul_one] at h

theorem roundsValue_fconv (hF : F.Ieee) {src : Fmt} {bits : ℕ} (h : src.value bits = .fin x) :
    RoundsValue F m neg x.real (fconv src F m false bits) := by
  rw [fconv, h]
  exact roundsValue_dyadic hF x

/-! ### Quotients -/

/-- The quotient of naturals as its floor and whether a remainder is left. -/
theorem truncated_quotient (n d : ℕ) (hd : d ≠ 0) (e : ℤ) : Truncated ((n : ℝ) / d * 2 ^ e) (n / d) e (n % d != 0) := by
  have he : (0 : ℝ) < 2 ^ e := by positivity
  have hd' : (0 : ℝ) < d := by positivity
  have hdiv : (n : ℝ) = d * (n / d : ℕ) + (n % d : ℕ) := by exact_mod_cast (Nat.div_add_mod n d).symm
  have hmod : ((n % d : ℕ) : ℝ) < d := by exact_mod_cast Nat.mod_lt n (Nat.pos_of_ne_zero hd)
  have hmod0 : (0 : ℝ) ≤ (n % d : ℕ) := by positivity
  refine ⟨?_, ?_, ?_⟩
  · gcongr
    rw [le_div_iff₀ hd']
    linarith
  · gcongr
    rw [div_lt_iff₀ hd']
    linarith
  · rw [mul_left_inj' he.ne', div_eq_iff hd'.ne', bne_eq_false_iff_eq]
    constructor
    · intro h
      rw [h] at hdiv
      push_cast at hdiv
      linarith
    · intro h
      have : ((n % d : ℕ) : ℝ) = 0 := by linarith
      exact_mod_cast this

theorem roundsValue_fdiv (hF : F.Ieee) (x : Dyadic) (hy : y.num ≠ 0) :
    RoundsValue F m neg (x.real / y.real) (fdiv F m (.fin x) (.fin y)) := by
  intro hv hneg
  have hx : x.num ≠ 0 := fun h => hv (by rw [(Dyadic.real_eq_zero_iff x).mpr h, zero_div])
  have hsign : (x.neg != y.neg) = neg := by
    have hxr := Dyadic.real_neg_iff hx
    have hyr := Dyadic.real_neg_iff hy
    have hx0 := mt (Dyadic.real_eq_zero_iff x).mp hx
    have hy0 := mt (Dyadic.real_eq_zero_iff y).mp hy
    rw [div_neg_iff] at hneg
    rcases lt_or_gt_of_ne hx0 with hx1 | hx1 <;> rcases lt_or_gt_of_ne hy0 with hy1 | hy1 <;>
      simp_all [hx1.not_gt, hy1.not_gt]
  generalize hup : F.mbits + 4 + Nat.log2 y.num = up
  have habs : |x.real / y.real| = ((x.num * 2 ^ up : ℕ) : ℝ) / y.num * 2 ^ (x.exp - y.exp - up) := by
    have hy' : (y.num : ℝ) ≠ 0 := by exact_mod_cast hy
    rw [abs_div, Dyadic.abs_real, Dyadic.abs_real, Dyadic.magnitude, Dyadic.magnitude, zpow_sub₀ two_ne_zero,
      zpow_sub₀ two_ne_zero, zpow_natCast]
    push_cast
    field_simp
  have hlarge : 2 ^ (F.mbits + 1) ≤ x.num * 2 ^ up / y.num := by
    rw [Nat.le_div_iff_mul_le (Nat.pos_of_ne_zero hy)]
    calc 2 ^ (F.mbits + 1) * y.num ≤ 2 ^ (F.mbits + 1) * 2 ^ (Nat.log2 y.num + 1) :=
          Nat.mul_le_mul_left _ Nat.lt_log2_self.le
      _ = 2 ^ (F.mbits + 1 + (Nat.log2 y.num + 1)) := (pow_add _ _ _).symm
      _ ≤ 2 ^ up := Nat.pow_le_pow_right (by omega) (by omega)
      _ ≤ x.num * 2 ^ up := Nat.le_mul_of_pos_left _ (Nat.pos_of_ne_zero hx)
  have hq0 : x.num * 2 ^ up / y.num ≠ 0 := (lt_of_lt_of_le (by positivity) hlarge).ne'
  simp only [fdiv, if_neg hy, if_neg hx, hup, hsign, habs]
  exact roundedOnce_roundMag hF (truncated_quotient _ _ hy _) hq0 fun _ =>
    (Nat.le_log2 hq0).mpr hlarge

/-! ### Roots -/

theorem isqrtFrom_spec (k n r : ℕ) (hlow : r * r ≤ n) (hhigh : n < (r + 2 ^ k) * (r + 2 ^ k)) :
    isqrtFrom k n r * isqrtFrom k n r ≤ n ∧ n < (isqrtFrom k n r + 1) * (isqrtFrom k n r + 1) := by
  induction k generalizing r with
  | zero => exact ⟨hlow, by simpa [isqrtFrom] using hhigh⟩
  | succ k ih =>
    unfold isqrtFrom
    simp only
    split
    · next h =>
      refine ih _ h ?_
      rwa [add_assoc, ← two_mul, ← pow_succ']
    · next h => exact ih _ hlow (not_le.mp h)

theorem isqrt_eq_sqrt (n : ℕ) : isqrt n = Nat.sqrt n := by
  have hhigh : n < 2 ^ (Nat.log2 n / 2 + 1) * 2 ^ (Nat.log2 n / 2 + 1) := by
    rw [← pow_add]
    exact Nat.lt_log2_self.trans_le (Nat.pow_le_pow_right (by omega) (by omega))
  obtain ⟨h1, h2⟩ := isqrtFrom_spec (Nat.log2 n / 2 + 1) n 0 (Nat.zero_le n) (by simpa using hhigh)
  exact Nat.eq_sqrt.mpr ⟨h1, h2⟩

/-- The root of a natural as its floor and whether it is no square. -/
theorem truncated_sqrt (n : ℕ) (e : ℤ) : Truncated (Real.sqrt n * 2 ^ e) (Nat.sqrt n) e (Nat.sqrt n * Nat.sqrt n != n) := by
  have he : (0 : ℝ) < 2 ^ e := by positivity
  refine ⟨?_, ?_, ?_⟩
  · gcongr
    exact Real.nat_sqrt_le_real_sqrt
  · gcongr
    exact Real.real_sqrt_lt_nat_sqrt_succ
  · rw [mul_left_inj' he.ne', bne_eq_false_iff_eq, Real.sqrt_eq_iff_mul_self_eq (by positivity) (by positivity)]
    constructor
    · intro h
      exact_mod_cast h.symm
    · intro h
      exact_mod_cast h.symm

theorem roundsValue_fsqrt (hF : F.Ieee) (hx : x.neg = false) :
    RoundsValue F m neg (Real.sqrt x.real) (fsqrt F m (.fin x)) := by
  intro hv hneg
  have hxn : x.num ≠ 0 := fun h => hv (by rw [(Dyadic.real_eq_zero_iff x).mpr h, Real.sqrt_zero])
  have hsign : neg = false := by
    rw [← Bool.not_eq_true, hneg]
    exact (Real.sqrt_nonneg _).not_gt
  subst hsign
  generalize hk : 2 * (F.mbits + 4) + (x.exp % 2).toNat = k
  have heven : (x.exp - k) / 2 + (x.exp - k) / 2 = x.exp - k := by omega
  have hroot : |Real.sqrt x.real| = Real.sqrt ((x.num * 2 ^ k : ℕ) : ℝ) * 2 ^ ((x.exp - k) / 2) := by
    rw [abs_of_nonneg (Real.sqrt_nonneg _), ← Real.sqrt_mul_self (by positivity : (0 : ℝ) ≤ 2 ^ ((x.exp - k) / 2)),
      ← Real.sqrt_mul (by positivity), ← zpow_add₀ two_ne_zero, heven]
    congr 1
    rw [Dyadic.real, hx, if_neg (by simp), Dyadic.magnitude, zpow_sub₀ two_ne_zero, zpow_natCast]
    push_cast
    field_simp
  have hlarge : 2 ^ (F.mbits + 1) ≤ Nat.sqrt (x.num * 2 ^ k) := by
    rw [Nat.le_sqrt, ← pow_add]
    calc 2 ^ (F.mbits + 1 + (F.mbits + 1)) ≤ 2 ^ k := Nat.pow_le_pow_right (by omega) (by omega)
      _ ≤ x.num * 2 ^ k := Nat.le_mul_of_pos_left _ (Nat.pos_of_ne_zero hxn)
  have hr0 : Nat.sqrt (x.num * 2 ^ k) ≠ 0 := (lt_of_lt_of_le (by positivity) hlarge).ne'
  simp only [fsqrt, if_neg hxn, hx, hk, isqrt_eq_sqrt, hroot, Bool.false_eq_true, if_false]
  exact roundedOnce_roundMag hF (truncated_sqrt _ _) hr0 fun _ => (Nat.le_log2 hr0).mpr hlarge

/-! ### Integers -/

theorem ftoInt_fin (lo hi : ℤ) (x : Dyadic) : ∃ n : ℕ, RoundsTo m x.neg x.magnitude 1 n ∧
    let i : ℤ := if x.neg then -n else n
    (hi < i → ftoInt lo hi m (.fin x) = (hi, { nv := true })) ∧
      (i < lo → i ≤ hi → ftoInt lo hi m (.fin x) = (lo, { nv := true })) ∧
      (lo ≤ i → i ≤ hi → (ftoInt lo hi m (.fin x)).1 = i ∧
        (ftoInt lo hi m (.fin x)).2 = { nx := (ftoInt lo hi m (.fin x)).2.nx } ∧
        ((ftoInt lo hi m (.fin x)).2.nx = true ↔ (n : ℝ) ≠ x.magnitude)) := by
  have hl := lies_between (q := 0) (truncated_exact x.num x.exp) (fun h => by cases h)
  rw [zpow_zero] at hl
  refine ⟨(between x.num x.exp false 0).rounded m x.neg, hl.roundsTo, ?_⟩
  intro i
  have hexact := hl.rounded_eq_iff (m := m) (neg := x.neg)
  rw [mul_one] at hexact
  have hr : roundToInt m x = (i, (between x.num x.exp false 0).exact) := rfl
  simp only [ftoInt, hr]
  refine ⟨fun h => if_pos h, fun h1 h2 => ?_, fun h1 h2 => ?_⟩
  · rw [if_neg (not_lt.mpr h2), if_pos h1]
    rfl
  · rw [if_neg (not_lt.mpr h2), if_neg (not_lt.mpr h1)]
    refine ⟨rfl, rfl, ?_⟩
    rw [Dyadic.magnitude, ne_eq, hexact]
    simp

end

theorem floatRounding : Piece.FloatRounding := by
  intro F m x y z neg hmem mag val rounds
  have hF := ieee_of_mem hmem
  exact ⟨roundsValue_fadd hF x y, roundsValue_fmul hF x y, fun hy => roundsValue_fdiv hF x hy, fun hx => roundsValue_fsqrt hF hx,
    roundsValue_ffma hF x y z, fun hx hy h => ffma_exact_zero hx hy h, fun i => roundsValue_intToF hF i,
    fun src bits h => roundsValue_fconv hF h, fun lo hi => ftoInt_fin lo hi x⟩

/-- Settles O7: the forms' results by their shapes, the special operands by cases, the rounding by `roundedOnce_roundMag`. -/
theorem scalarFloat : Obligations.ScalarFloat := ⟨floatResults, floatSpecialCases, floatRounding⟩

end Sys2Proof.Machine
end

section
/-!
PROOF. What an instruction leaves whose effect stands on its fibre and core, the translation of its address, and the loads,
stores, atomics and XLDs of local memory (O10, O11).
-/

namespace Sys2Proof.Machine

open State

namespace State

/-! ### The issuing fibre and core, changed -/

/-- A state in which an instruction of len bytes has begun, and has changed its fibre by f and the rest of its core by g. -/
def changed (s : State) (len : Nat) (f : Slot → Slot) (g : Core → Core) : State :=
  s.setCore s.cur.core ((g s.myCore).setSlot s.cur.slot (f (slotBegun len s.me)))

section
variable (s : State) (len : Nat) (f : Slot → Slot) (g : Core → Core)

theorem begun_eq_changed : s.onMe (slotBegun len) = s.changed len id id := rfl

@[simp] theorem changed_cur : (s.changed len f g).cur = s.cur := rfl

@[simp] theorem me_changed : (s.changed len f g).me = f (slotBegun len s.me) := by
  unfold changed me slot
  rw [setCore_cur, core_setCore, Core.slot_setSlot]

@[simp] theorem myCore_changed : (s.changed len f g).myCore = (g s.myCore).setSlot s.cur.slot (f (slotBegun len s.me)) := by
  unfold changed myCore
  rw [setCore_cur, core_setCore]

theorem changed_onMe (h : Slot → Slot) : (s.changed len f g).onMe h = s.changed len (fun x => h (f x)) g := by
  rw [onMe_eq, me_changed, myCore_changed]
  simp [changed]

/-- A change of the core that touches no slot. -/
theorem changed_onMyCore (h : Core → Core) (hh : ∀ c n x, h (Core.setSlot c n x) = (h c).setSlot n x) :
    (s.changed len f g).onMyCore h = s.changed len f fun c => h (g c) := by
  rw [onMyCore_eq, myCore_changed, hh]
  simp [changed]

theorem changed_setReg (r : Reg) (v : Word) : (s.changed len f g).setReg r v = s.changed len (fun x => (f x).write r v) g :=
  changed_onMe s len f g _

theorem changed_setPending (r : Reg) (p : PSrc) :
    (s.changed len f g).setPending r p = s.changed len (fun x => (f x).markPending r p) g :=
  changed_onMe s len f g _

/-- The retirement of an instruction whose effect stands on its fibre and core. -/
theorem retired_changed (passes : Nat) (hl : s.me.live = true) (hf : ∀ x : Slot, (f x).live = x.live ∧ (f x).gen = x.gen) :
    retired s passes (s.changed len f g) = s.after len passes f g := by
  obtain ⟨hlive, hgen⟩ := hf (slotBegun len s.me)
  unfold changed
  rw [retired_setCore s s passes (by rw [Core.slot_setSlot, hlive]; exact hl) (by rw [Core.slot_setSlot, hgen]; rfl),
    Core.slot_setSlot, Core.setSlot_setSlot]
  rfl

/-- The issue of a user instruction without an engine, whose effect is told. -/
theorem issue_retired {s t : State} {nd : Need} {body : State → Except Stop State} (h : s.Clear nd.reads nd.writes nd.xs)
    (hl : nd.legal = true) (hp : nd.priv = false) (he : nd.engine = none) (hb : body (s.changed nd.len id id) = .ok t) :
    s.issue nd body = .next (retired s nd.passes t) :=
  issue_next s nd body t h hl (fun h => by rw [hp] at h; cases h) (fun _ h => by rw [he] at h; cases h) hb

end

/-! ### What an instruction leaves -/

section
variable (s : State) (len passes : Nat) (f : Slot → Slot) (g : Core → Core)

@[simp] theorem after_cur : (s.after len passes f g).cur = s.cur := rfl

theorem myCore_after : (s.after len passes f g).myCore = coreIssued (s.coreAc s.cur.core) s.rc
    ((g s.myCore).setSlot s.cur.slot (slotBusy (s.coreAc s.cur.core + 8 * passes) (f (slotBegun len s.me)))) := by
  unfold after myCore
  rw [setCore_cur, core_setCore]

theorem me_after : (s.after len passes f g).me = slotBusy (s.coreAc s.cur.core + 8 * passes) (f (slotBegun len s.me)) := by
  change (s.after len passes f g).myCore.slot s.cur.slot = _
  rw [myCore_after, slot_coreIssued, Core.slot_setSlot]

theorem core_after_other {p : Nat} (hp : p ≠ s.cur.core) : (s.after len passes f g).core p = s.core p :=
  core_setCore_other _ _ _ _ hp

/-- A fibre beside the issuing one, of which the core's change keeps the slots. -/
theorem slot_after_other (hg : (g s.myCore).slots = s.myCore.slots) {m : Nat} (hm : m ≠ s.cur.slot) :
    (s.after len passes f g).slot s.cur.core m = s.slot s.cur.core m := by
  change (s.after len passes f g).myCore.slot m = _
  rw [myCore_after, slot_coreIssued, Core.slot_setSlot_other _ _ _ _ hm, Core.slot, hg]
  rfl

end

/-! ### The translation of an address -/

/-- The micro-TLB's order is all that an access touches of its core. -/
theorem touchedOrder_eq (s : State) (va : Word) (c : Core) : ∃ l, touchedOrder s va c = { c with utlb := l } := by
  unfold touchedOrder
  split
  · exact ⟨c.utlb, rfl⟩
  · split
    · exact ⟨_, rfl⟩
    · exact ⟨c.utlb, rfl⟩

theorem useEntry_ok {t : State} {f : Slot} {a : Access} {kind : FaultKind} {va : Word} {e : TlbEntry}
    (he : e.permits f.sup a = none) (hp : physFault f.sup a (e.phys va) = none) :
    t.useEntry f a kind va e = .ok (e.phys va, t) := by
  unfold useEntry
  rw [he, hp]

/-- An address that is reached translates, as its instruction begins, with the entry used become the last used one. -/
theorem translatePage_changed {s : State} {a : Access} {va : Word} {pa : Nat} (len : Nat) (kind : FaultKind)
    (h : s.Maps a va pa) :
    (s.changed len id id).translatePage s.cur.core (slotBegun len s.me) a kind va =
      .ok (pa, s.changed len id (touchedOrder s va)) := by
  obtain ⟨hcan, hphys, hway⟩ := h
  unfold translatePage
  rw [hcan]
  rcases hway with ⟨hf, hlt, rfl⟩ | ⟨hf, m, hm, hperm, rfl⟩
  · have hf' : ofFlatar s.cur.core (slotBegun len s.me) = true := hf
    have hp : physFault (slotBegun len s.me).sup a va.toNat = none := hphys
    have hid : s.changed len id (touchedOrder s va) = s.changed len id id := by
      unfold changed touchedOrder
      rw [hf, if_pos rfl]
      rfl
    rw [hid, hf', decide_eq_true hlt]
    simp only [if_true, hp]
    rfl
  · have hf' : ofFlatar s.cur.core (slotBegun len s.me) = false := hf
    have hcore : (s.changed len id id).core s.cur.core = (id s.myCore).setSlot s.cur.slot (id (slotBegun len s.me)) :=
      myCore_changed s len id id
    have hpasid : (s.changed len id id).entryPasid s.cur.core = s.entryPasid s.cur.core := by
      unfold entryPasid entryWord
      rw [hcore]
      rfl
    have hm' : (((s.changed len id id).core s.cur.core).utlb.find? fun e => e.copy.hits (s.entryPasid s.cur.core) va) = some m := by
      rw [hcore]
      exact hm
    have htouch : (s.changed len id id).onMyCore (fun c => { c with utlb := m :: c.utlb.erase m }) =
        s.changed len id (touchedOrder s va) := by
      rw [changed_onMyCore _ _ _ _ _ fun _ _ _ => rfl]
      unfold changed touchedOrder
      simp only [hf, Bool.false_eq_true, if_false, show (s.myCore.utlb.find? _) = some m from hm]
      rfl
    rw [hf', hpasid]
    simp only [Bool.false_eq_true, if_false, hm']
    refine (useEntry_ok hperm hphys).trans ?_
    exact congrArg (fun u => Except.ok (m.copy.phys va, u)) htouch

theorem translate_changed {s : State} {a : Access} {va : Word} {pa : Nat} (len : Nat) (kind : FaultKind)
    (h : s.Maps a va pa) (hp : podFault a pa = false) :
    (s.changed len id id).translate s.cur.core (slotBegun len s.me) a kind va =
      .ok (pa, s.changed len id (touchedOrder s va)) := by
  unfold translate
  rw [translatePage_changed len kind h]
  change (do require (!podFault a pa) .illegal kind va; _) = _
  rw [hp]
  rfl

end State

theorem podFault_memory {a : Access} {pa : Nat} {h : Home} (hp : place pa = some (h, .memory)) : podFault a pa = false := by
  unfold podFault
  rw [hp]

end Sys2Proof.Machine
end

section
/-!
PROOF. The values that loads and atomics give (R72, R74), and the address and the load of local memory (O10).
-/

namespace Sys2Proof.Machine

open State

theorem ok_bind {ε α β : Type} (a : α) (f : α → Except ε β) : (Except.ok a >>= f) = f a := rfl

/-! ### Values of n bytes (R72, R74) -/

theorem two_pow_bytes (n : Nat) : 2 ^ (8 * n) = 256 ^ n := by rw [pow_mul]; rfl

theorem signedBytes_eq_toInt {n : Nat} (hn : 0 < n) (v : Nat) : signedBytes n v = (BitVec.ofNat (8 * n) v).toInt := by
  rw [signedBytes, BitVec.toInt_eq_toNat_cond, BitVec.toNat_ofNat, two_pow_bytes]
  have heven : 2 ∣ 256 ^ n := dvd_pow (by decide) hn.ne'
  have hiff : v % 256 ^ n < 256 ^ n / 2 ↔ 2 * (v % 256 ^ n) < 256 ^ n := by omega
  simp only [hiff]
  push_cast
  rfl

theorem extendBytes_eq_extended {n : Nat} (hn : 0 < n) (sg : Bool) (v : Nat) : extendBytes n sg v = extended n sg v := by
  cases sg with
  | true =>
    simp only [extendBytes, extended, if_true, signedBytes_eq_toInt hn]
    rfl
  | false =>
    apply BitVec.eq_of_toNat_eq
    simp [extendBytes, extended, Word.ofNat, two_pow_bytes]

/-- What an atomic leaves, of operands of which it uses the low bytes (R74). -/
theorem apply_eq_atomNew {o : AtomOp} {n old : Nat} (hn : 0 < n) (ho : old < 256 ^ n) (b e : Nat) :
    o.apply n old b e = atomNew o n old (b % 2 ^ (8 * n)) (e % 2 ^ (8 * n)) := by
  have hlow : ∀ v, (BitVec.ofNat (8 * n) (v % 256 ^ n)).toInt = signedBytes n v := fun v => by
    rw [signedBytes_eq_toInt hn, ← two_pow_bytes]
    exact congrArg _ (BitVec.eq_of_toNat_eq (by simp))
  have hold : old % 2 ^ (8 * n) = old := Nat.mod_eq_of_lt (by rwa [two_pow_bytes])
  cases o with
  | add => simp [AtomOp.apply, atomNew, two_pow_bytes]
  | swap => simp [AtomOp.apply, atomNew, two_pow_bytes]
  | min => simp only [AtomOp.apply, atomNew, two_pow_bytes, hlow, signedBytes_eq_toInt hn old]
  | max => simp only [AtomOp.apply, atomNew, two_pow_bytes, hlow, signedBytes_eq_toInt hn old]
  | and => simp only [AtomOp.apply, atomNew, ← two_pow_bytes, Nat.and_mod_two_pow, hold]
  | or => simp only [AtomOp.apply, atomNew, ← two_pow_bytes, Nat.or_mod_two_pow, hold]
  | xor => simp only [AtomOp.apply, atomNew, ← two_pow_bytes, Nat.xor_mod_two_pow, hold]
  | cas => simp [AtomOp.apply, atomNew, two_pow_bytes]

theorem loadForm_pos {i : Instr} {n len : Nat} {sg : Bool} {rd base : Reg} {ea : MemMode}
    (h : loadForm i = some (n, len, sg, rd, base, ea)) : 0 < n := by
  cases i with
  | ldB | ldH | ldW | ldD | ldBu | ldHu | ldWu | ldS =>
    cases h
    decide
  | ldpS =>
    cases h
    exact Nat.two_pow_pos _
  | _ => cases h

theorem atomForm_pos {i : Instr} {o : AtomOp} {n : Nat} {rd base idx : Reg} {ea : AtomMode}
    (h : atomForm i = some (o, n, rd, base, idx, ea)) : 0 < n := by
  cases i with
  | aaddW | aaddD | aswapW | aswapD | aminW | aminD | amaxW | amaxD | aandW | aandD | aorW | aorD | axorW | axorD | acasW
  | acasD =>
    cases h
    decide
  | _ => cases h

/-! ### Local loads (R69, R72, R73) -/

theorem memEA_changed (s : State) (len : Nat) (base : Reg) (n : Nat) (ea : MemMode) :
    memEA (s.changed len id id) base n ea = memEA s base n ea := memEA_begun s len base n ea

@[simp] theorem reg_changed (s : State) (len : Nat) (r : Reg) : (s.changed len id id).reg r = s.reg r := reg_begun s len r

namespace State

/-- The post-increment, on a state whose instruction has changed its fibre and core. -/
theorem memUpdate_changed (s : State) (len : Nat) (f : Slot → Slot) (g : Core → Core) (base : Reg) (n : Nat) (ea : MemMode) :
    memUpdate (s.changed len f g) base n (s.reg base) ea = s.changed len (fun x => postIncremented s base n ea (f x)) g := by
  cases ea with
  | postInc => exact changed_setReg s len f g _ _
  | disp => rfl
  | index => rfl

end State

theorem postIncremented_kept (s : State) (base : Reg) (n : Nat) (ea : MemMode) (x : Slot) :
    (postIncremented s base n ea x).live = x.live ∧ (postIncremented s base n ea x).gen = x.gen := by
  cases ea <;> exact ⟨rfl, rfl⟩

section

variable {s : State} {len n pa : Nat} {sg : Bool} {rd base idx : Reg} {ea : MemMode} {h : Home}

theorem load_local (hs : s.Clear (base :: memReads ea) (rd :: memWrites base ea) []) (hok : ¬(ea = .postInc ∧ rd = base))
    (hal : (memEA s base n ea).toNat % n = 0) (hm : s.Maps .load (memEA s base n ea) pa)
    (hp : place pa = some (h, .memory)) (hloc : h.isLocal s.cur.core = true) (hf : s.localFault h .load pa n = none) :
    load s len sg n rd base ea =
      .next (s.after len 1
        (fun f => postIncremented s base n ea (f.write rd (extendBytes n sg (Memory.value s.mem pa n))))
        (touchedOrder s (memEA s base n ea))) := by
  unfold load
  rw [issue_retired (t := s.changed len
    (fun f => postIncremented s base n ea (f.write rd (extendBytes n sg (Memory.value s.mem pa n))))
    (touchedOrder s (memEA s base n ea))) hs rfl rfl rfl]
  · exact congrArg _ (retired_changed _ _ _ _ _ hs.live fun x => postIncremented_kept ..)
  · have hf' : (s.changed len id (touchedOrder s (memEA s base n ea))).localFault h .load pa n = none := hf
    rw [postCheck_eq, require_of_true (decide_eq_true hok), ok_bind]
    dsimp only
    rw [memEA_changed, require_of_true hm.1, ok_bind, require_of_true (beq_iff_eq.mpr hal), ok_bind, changed_cur, me_changed]
    dsimp only [id]
    rw [translate_changed len .load hm (podFault_memory hp), ok_bind]
    dsimp only
    rw [hp]
    dsimp only
    rw [if_pos hloc, hf']
    dsimp only
    rw [changed_setReg, reg_changed, memUpdate_changed]
    rfl

end

end Sys2Proof.Machine
end

section
/-!
PROOF. Stores and atomics at a local home, with their frames (O10, O11).
-/

namespace Sys2Proof.Machine

open State

/-! ### Writes at a local home (R69, R73, R278) -/

theorem Home.readsWell_of_isLocal {s : State} {h : Home} {pid : Nat} (hl : h.isLocal pid = true) : s.readsWell h = true := by
  cases h with
  | tcm | scratchpad => rfl
  | _ => cases hl

theorem Home.writesWell_of_isLocal {s : State} {h : Home} {pid : Nat} (hl : h.isLocal pid = true) : s.writesWell h = true := by
  cases h with
  | tcm | scratchpad => rfl
  | _ => cases hl

namespace State

/-- The trace that covers a home is off (R165). -/
def TraceOff (s : State) (h : Home) : Prop := ∀ w, s.traceControl h = some w → flag w 0 = false

theorem trace_of_off {s : State} {h : Home} (ht : s.TraceOff h) (own : Bool) (src op size pa : Nat) (data : Word) :
    s.trace h own src op size pa data = s := by
  unfold trace
  split
  · rfl
  · next w hw => rw [ht w hw]; rfl

theorem traceCount_of_off {s : State} {h : Home} (ht : s.TraceOff h) : s.traceCount h = s := by
  unfold traceCount
  split
  · next w hw => rw [ht w hw]; rfl
  · rfl

/-- A write at a home whose lanes are right and whose trace is off: the bytes, and the lines that they trigger. -/
theorem performWrite_of_off {s : State} {h : Home} (hw : s.writesWell h = true) (ht : s.TraceOff h) (own : Bool)
    (src op pa n : Nat) (data : Word) (v : Nat) :
    s.performWrite h own src op pa n data v = (s.writeValue pa n v).triggerGather h pa n := by
  have ht' : (s.writeValue pa n v).TraceOff h := ht
  unfold performWrite passed
  rw [hw, if_pos rfl]
  dsimp only
  rw [trace_of_off ht']

/-- A core with a gather unit as given. -/
def withGather (k : Gather) (c : Core) : Core := { c with gk := k }

/-- What a write at a local home triggers changes the core's gather unit alone. -/
theorem triggerGather_changed {s : State} {h : Home} (hl : h.isLocal s.cur.core = true) (len pa n : Nat) (f : Slot → Slot)
    (g : Core → Core) :
    ∃ k, (s.changed len f g).triggerGather h pa n = s.changed len f fun c => withGather k (g c) := by
  have hsame : s.changed len f g = s.changed len f fun c => withGather (g s.myCore).gk (g c) := rfl
  cases h with
  | tcm p =>
    have hp : p = s.cur.core := beq_iff_eq.mp hl
    subst hp
    unfold triggerGather
    dsimp only
    split
    · exact ⟨_, hsame⟩
    · refine ⟨(g s.myCore).gk.wrote pa n, ?_⟩
      change (s.changed len f g).onMyCore (fun c => { c with gk := c.gk.wrote pa n }) = _
      rw [changed_onMyCore _ _ _ _ _ fun _ _ _ => rfl]
      rfl
  | scratchpad => exact ⟨_, hsame⟩
  | _ => cases hl

end State

/-! ### Local stores and atomics (R69, R73 to R75) -/

section

variable {s : State} {len n pa : Nat} {rd base idx : Reg} {ea : MemMode} {h : Home}

theorem store_local (hs : s.Clear (rd :: base :: memReads ea) (memWrites base ea) [])
    (hal : (memEA s base n ea).toNat % n = 0) (hm : s.Maps .store (memEA s base n ea) pa)
    (hp : place pa = some (h, .memory)) (hloc : h.isLocal s.cur.core = true) (hf : s.localFault h .store pa n = none)
    (ht : s.TraceOff h) :
    ∃ k, store s len n rd base ea =
      .next ((s.writeValue pa n (s.reg rd).toNat).after len 1 (postIncremented s base n ea)
        fun c => withGather k (touchedOrder s (memEA s base n ea) c)) := by
  obtain ⟨k, hk⟩ := triggerGather_changed (s := s.writeValue pa n (s.reg rd).toNat) hloc len pa n id
    (touchedOrder s (memEA s base n ea))
  refine ⟨k, ?_⟩
  unfold store
  rw [issue_retired (t := (s.writeValue pa n (s.reg rd).toNat).changed len (postIncremented s base n ea)
    fun c => withGather k (touchedOrder s (memEA s base n ea) c)) hs rfl rfl rfl]
  · exact congrArg _ (retired_changed (s.writeValue pa n (s.reg rd).toNat) _ _ _ _ hs.live fun x => postIncremented_kept ..)
  · have hf' : (s.changed len id (touchedOrder s (memEA s base n ea))).localFault h .store pa n = none := hf
    have ht' : (s.changed len id (touchedOrder s (memEA s base n ea))).TraceOff h := ht
    dsimp only
    rw [memEA_changed, require_of_true hm.1, ok_bind, require_of_true (beq_iff_eq.mpr hal), ok_bind, changed_cur, me_changed]
    dsimp only [id]
    rw [translate_changed len .store hm (podFault_memory hp), ok_bind]
    dsimp only
    rw [hp]
    dsimp only
    rw [if_pos hloc, hf']
    dsimp only
    rw [performWrite_of_off (Home.writesWell_of_isLocal hloc) ht', reg_changed, reg_changed]
    refine congrArg Except.ok ?_
    exact (congrArg (memUpdate · base n (s.reg base) ea) hk).trans
      (memUpdate_changed (s.writeValue pa n (s.reg rd).toNat) len id _ base n ea)

end

/-- The state with an atomic's new value written at its location, where it leaves one. -/
def State.replaced (s : State) (pa n : Nat) : Option Nat → State
  | some v => s.writeValue pa n v
  | none => s

/-- An atomic at a home whose lanes are right and whose trace is off. -/
theorem performAtomic_of_off {s : State} {h : Home} (hr : s.readsWell h = true) (hw : s.writesWell h = true) (ht : s.TraceOff h)
    {n : Nat} (hn : 0 < n) (own : Bool) (src : Nat) (o : AtomOp) (pa : Nat) (b e : Word) :
    let old := Memory.value s.mem pa n
    let new := atomNew o n old (b.toNat % 2 ^ (8 * n)) (e.toNat % 2 ^ (8 * n))
    s.performAtomic h own src o pa n b e =
      (old, if new.isSome then (s.replaced pa n new).triggerGather h pa n else s) := by
  intro old new
  unfold performAtomic passed
  rw [hr, if_pos rfl]
  dsimp only
  rw [apply_eq_atomNew hn (Memory.value_lt _ _ _)]
  change (match new with | some v => _ | none => _) = _
  cases new with
  | none => exact congrArg _ (traceCount_of_off ht)
  | some v => exact congrArg _ (performWrite_of_off hw ht ..)

/-- What an atomic at a local home leaves of memory and of the core's gather unit. -/
theorem performAtomic_changed {s : State} {len n pa : Nat} {h : Home} (hl : h.isLocal s.cur.core = true) (ht : s.TraceOff h)
    (hn : 0 < n) (g : Core → Core) (src : Nat) (o : AtomOp) (b e : Word) :
    let old := Memory.value s.mem pa n
    let new := atomNew o n old (b.toNat % 2 ^ (8 * n)) (e.toNat % 2 ^ (8 * n))
    ∃ k, (s.changed len id g).performAtomic h true src o pa n b e =
      (old, (s.replaced pa n new).changed len id fun c => withGather k (g c)) := by
  intro old new
  have hper := performAtomic_of_off (s := s.changed len id g) (Home.readsWell_of_isLocal hl) (Home.writesWell_of_isLocal hl) ht hn
    true src o pa b e
  rw [hper]
  change ∃ k, (old, if new.isSome then (State.replaced (s.changed len id g) pa n new).triggerGather h pa n else _) = _
  cases new with
  | none => exact ⟨(g s.myCore).gk, rfl⟩
  | some v =>
    obtain ⟨k, hk⟩ := triggerGather_changed (s := s.writeValue pa n v) hl len pa n id g
    exact ⟨k, congrArg _ hk⟩

theorem replaced_eq (s : State) (pa n : Nat) (v : Option Nat) :
    s.replaced pa n v = { s with mem := (s.replaced pa n v).mem, bad := (s.replaced pa n v).bad } := by
  cases v <;> rfl

section

variable {s : State} {n pa : Nat} {rd base idx : Reg} {am : AtomMode} {h : Home} {o : AtomOp}

theorem atomic_local (hs : s.Clear (base :: idx :: (if o = .cas then [rd] else [])) (rd :: memWrites base (atomMem am)) [])
    (hn : 0 < n) (hok : ¬(am = .postInc ∧ rd = base)) (hal : (memEA s base n (atomMem am)).toNat % n = 0)
    (hm : s.Maps .atomic (memEA s base n (atomMem am)) pa) (hp : place pa = some (h, .memory))
    (hloc : h.isLocal s.cur.core = true) (hf : s.localFault h .atomic pa n = none) (ht : s.TraceOff h) :
    let old := Memory.value s.mem pa n
    let new := atomNew o n old ((s.reg idx).toNat % 2 ^ (8 * n)) ((s.reg rd).toNat % 2 ^ (8 * n))
    ∃ k, atomicOp s o n rd base idx am =
      .next ((s.replaced pa n new).after 4 1
        (fun f => postIncremented s base n (atomMem am) (f.write rd (extended n true old)))
        fun c => withGather k (touchedOrder s (memEA s base n (atomMem am)) c)) := by
  intro old new
  rw [← atomMem_eq_postInc] at hok
  obtain ⟨k, hk⟩ := performAtomic_changed (len := 4) (pa := pa) hloc ht hn (touchedOrder s (memEA s base n (atomMem am)))
    (s.rankOf s.cur.core) o (s.reg idx) (s.reg rd)
  have hu := replaced_eq s pa n new
  generalize hnew : s.replaced pa n new = u at hu hk
  refine ⟨k, ?_⟩
  unfold atomicOp
  rw [issue_retired (t := u.changed 4
    (fun f => postIncremented s base n (atomMem am) (f.write rd (extended n true old)))
    fun c => withGather k (touchedOrder s (memEA s base n (atomMem am)) c)) hs rfl rfl rfl]
  · rw [hu]
    exact congrArg _ (retired_changed { s with mem := u.mem, bad := u.bad } _ _ _ _ hs.live fun x => postIncremented_kept ..)
  · have hf' : (s.changed 4 id (touchedOrder s (memEA s base n (atomMem am)))).localFault h .atomic pa n = none := hf
    rw [postCheck_eq, require_of_true (decide_eq_true hok), ok_bind]
    dsimp only
    rw [show (Need.plain (base :: idx :: (if o = .cas then [rd] else [])) (rd :: memWrites base (atomMem am))).len = 4 from rfl,
      memEA_changed, require_of_true hm.1, ok_bind, require_of_true (beq_iff_eq.mpr hal), ok_bind, changed_cur, me_changed]
    dsimp only [id]
    rw [translate_changed 4 .atomic hm (podFault_memory hp), ok_bind]
    dsimp only
    rw [hp]
    dsimp only
    rw [if_pos hloc, hf']
    dsimp only
    rw [reg_changed, reg_changed, reg_changed]
    refine congrArg Except.ok ?_
    refine (congrArg (fun r : Nat × State =>
      memUpdate (r.2.setReg rd (extendBytes n true r.1)) base n (s.reg base) (atomMem am)) hk).trans ?_
    dsimp only
    rw [changed_setReg, extendBytes_eq_extended hn, hu]
    exact memUpdate_changed { s with mem := u.mem, bad := u.bad } 4 _ _ base n (atomMem am)

end

/-! ### What a local access leaves -/

theorem postIncremented_reg (s : State) {base r : Reg} (n : Nat) (ea : MemMode) (x : Slot) (hr : r ≠ base) :
    (postIncremented s base n ea x).g[r] = x.g[r] := by
  cases ea with
  | postInc => exact ((SlotKept.write (List.mem_singleton_self base) _ x).regs r (by simpa using hr)).1
  | disp | index => rfl

/-- What an access leaves of its core beside the micro-TLB's order and the gather unit. -/
theorem accessed_rest (s : State) (va : Word) (k : Gather) (c : Core) :
    (withGather k (touchedOrder s va c)).slots = c.slots ∧
      coreRest { withGather k (touchedOrder s va c) with utlb := [], gk := Gather.initial } =
        coreRest { c with utlb := [], gk := Gather.initial } := by
  obtain ⟨l, hl⟩ := touchedOrder_eq s va c
  rw [hl]
  exact ⟨rfl, rfl⟩

theorem localAccess_frame (s u : State) (len : Nat) (f : Slot → Slot) (va : Word) (k : Gather) :
    let t := u.after len 1 f fun c => withGather k (touchedOrder s va c)
    t.me = (u.after len 1 f id).me ∧ (∀ p, p ≠ u.cur.core → t.core p = u.core p) ∧
      (∀ m, m ≠ u.cur.slot → t.slot u.cur.core m = u.slot u.cur.core m) ∧
      coreRest { t.myCore with utlb := [], gk := Gather.initial } = coreRest { u.myCore with utlb := [], gk := Gather.initial } := by
  obtain ⟨hslots, hrest⟩ := accessed_rest s va k u.myCore
  refine ⟨by rw [me_after, me_after], fun p hp => core_after_other u len 1 f _ hp,
    fun m hm => slot_after_other u len 1 f (fun c => withGather k (touchedOrder s va c)) hslots hm, ?_⟩
  rw [myCore_after]
  exact hrest

theorem localLoads : Piece.LocalLoads := by
  intro s i n len pa sg rd base ea h hi hs hok hal hm hp hloc hf
  rw [exec_loadForm hi, ← extendBytes_eq_extended (loadForm_pos hi)]
  exact load_local hs hok hal hm hp hloc hf

theorem localStores : Piece.LocalStores := by
  intro s i n len pa rd base ea h hi hwf hs hal hm hp hloc hf ht
  obtain ⟨k, he⟩ := store_local (len := len) hs hal hm hp hloc hf ht
  obtain ⟨hme, hcores, hslots, hrest⟩ := localAccess_frame s (s.writeValue pa n (s.reg rd).toNat) len
    (postIncremented s base n ea) (memEA s base n ea) k
  refine ⟨_, (exec_storeForm hi s).trans he, fun x hlo hhi => ?_, fun x hx => ?_, fun w => ?_, hme, fun r hr => ?_, rfl, rfl, rfl, rfl,
    rfl, rfl, hcores, hslots, hrest⟩
  · exact (Memory.byte_store hwf ..).trans (if_pos ⟨hlo, hhi⟩)
  · exact (Memory.byte_store hwf ..).trans (if_neg (by omega))
  · change w ∈ s.bad.filter _ ↔ _
    rw [List.mem_filter, Bool.not_eq_true', ← Bool.not_eq_true, Bool.and_eq_true, decide_eq_true_iff, decide_eq_true_iff]
  · rw [show Slot.g _ = _ from congrArg Slot.g (hme.trans (me_after s len 1 (postIncremented s base n ea) id))]
    exact postIncremented_reg s n ea (slotBegun len s.me) hr

/-- Settles O10: a local access is the issue of a change of its fibre, of the micro-TLB's order and, for a store, of memory and the
gather unit. -/
theorem localLoadsAndStores : Obligations.LocalLoadsAndStores := ⟨localLoads, localStores⟩

theorem localAtomics : Piece.LocalAtomics := by
  intro s i o n pa rd base idx ea h hi hwf hs hok hal hm hp hloc hf ht old new
  obtain ⟨k, he⟩ := atomic_local hs (atomForm_pos hi) hok hal hm hp hloc hf ht
  have hu := replaced_eq s pa n new
  generalize hnew : s.replaced pa n new = u at hu
  rw [show s.replaced pa n _ = u from hnew, hu] at he
  obtain ⟨hme, hcores, hslots, hrest⟩ := localAccess_frame s { s with mem := u.mem, bad := u.bad } 4
    (fun f => postIncremented s base n (atomMem ea) (f.write rd (extended n true old))) (memEA s base n (atomMem ea)) k
  refine ⟨_, (exec_atomForm hi s).trans he, hme, fun v hv x hlo hhi => ?_, fun hv => ?_, fun x hx => ?_, rfl, rfl, rfl, rfl, rfl,
    hcores, hslots, hrest⟩
  · change Memory.byte u.mem x = _
    rw [← hnew, hv]
    exact (Memory.byte_store hwf ..).trans (if_pos ⟨hlo, hhi⟩)
  · change u.mem = _
    rw [← hnew, hv]
    rfl
  · change Memory.byte u.mem x = _
    rw [← hnew]
    cases new with
    | none => rfl
    | some v => exact (Memory.byte_store hwf ..).trans (if_neg (by omega))

end Sys2Proof.Machine
end

section
/-!
PROOF. XLD of the core's own memory (O11).
-/

namespace Sys2Proof.Machine

open State

/-! ### XLD (R21, R25) -/

theorem placeInCluster_last {cid o : Nat} {h : Home} (hp : placeInCluster cid o = some (h, .memory)) (ho : o % 16 = 0) :
    (placeInCluster cid (o + 15)).isSome = true := by
  unfold placeInCluster at hp ⊢
  split at hp
  · rw [if_pos (by omega)]
    rfl
  · split at hp
    · rw [if_neg (by omega), if_pos (by omega)]
      rfl
    · split_ifs at hp <;> cases hp

theorem placeInRegion_last {r o pid : Nat} {h : Home} (hp : placeInRegion r o = some (h, .memory)) (hl : h.isLocal pid = true)
    (ho : o % 16 = 0) : (placeInRegion r (o + 15)).isSome = true := by
  unfold placeInRegion at hp ⊢
  split at hp
  · rw [if_pos (by omega), show (o + 15) / 0x2000000 = o / 0x2000000 by omega,
      show (o + 15) % 0x2000000 = o % 0x2000000 + 15 by omega]
    exact placeInCluster_last hp (by omega)
  · split_ifs at hp with h1 h2 h3 h4 h5 h6
    · cases hp
      cases hl
    · rw [if_neg (by omega), if_neg (by omega), if_neg (by omega), if_neg (by omega), if_pos (by omega)]
      rfl
    · cases hp

/-- Above the regions' windows no home is local to a core (R143). -/
theorem place_isLocal_lt {pa pid : Nat} {h : Home} {a : Area} (hp : place pa = some (h, a)) (hl : h.isLocal pid = true) :
    pa < 0x003F00000000 := by
  have hite : ∀ (c : Prop) [Decidable c] (x y : Option (Home × Area)), (∀ h a, x = some (h, a) → h.isLocal pid = false) →
      (∀ h a, y = some (h, a) → h.isLocal pid = false) → ∀ h a, (if c then x else y) = some (h, a) → h.isLocal pid = false := by
    intro c _ x y hx hy
    split
    · exact hx
    · exact hy
  have hnone : ∀ h a, (none : Option (Home × Area)) = some (h, a) → h.isLocal pid = false := fun _ _ hn => by cases hn
  by_contra hge
  refine Bool.false_ne_true ((?_ : ∀ h a, place pa = some (h, a) → h.isLocal pid = false) h a hp ▸ hl)
  unfold place
  rw [if_neg hge]
  refine hite _ _ _ hnone (hite _ _ _ (hite _ _ _ ?_ hnone) (hite _ _ _ hnone (hite _ _ _ ?_ (hite _ _ _ hnone (hite _ _ _ ?_
    (hite _ _ _ ?_ (hite _ _ _ hnone (hite _ _ _ ?_ (hite _ _ _ hnone (hite _ _ _ ?_ hnone)))))))))) <;>
    (rintro _ _ ⟨⟩; rfl)

/-- The 16 bytes of an XLD of local memory end in it (R143 to R145). -/
theorem place_last {pa pid : Nat} {h : Home} (hp : place pa = some (h, .memory)) (hl : h.isLocal pid = true)
    (ha : pa % 16 = 0) : (place (pa + 15)).isSome = true := by
  have hlt := place_isLocal_lt hp hl
  unfold place at hp ⊢
  rw [if_pos hlt] at hp
  rw [if_pos (by omega), show (pa + 15) / 0x100000000 = pa / 0x100000000 by omega,
    show (pa + 15) % 0x100000000 = pa % 0x100000000 + 15 by omega]
  exact placeInRegion_last hp hl (by omega)

/-- Bytes of a page that has been translated. -/
theorem Pages.phys_add {va : Word} {pa k : Nat} (hk : va.toNat % 2 ^ 16 + k < 2 ^ 16) (hoff : pa % 2 ^ 16 = va.toNat % 2 ^ 16) :
    Pages.phys [(va.toNat / 2 ^ 16, pa / 2 ^ 16)] (va + BitVec.ofNat 64 k) = pa + k := by
  have hsum : (va + BitVec.ofNat 64 k).toNat = va.toNat + k := by
    have hlt := va.isLt
    rw [BitVec.toNat_add, BitVec.toNat_ofNat]
    omega
  have hpage : (va.toNat / 2 ^ 16 == (va.toNat + k) / 2 ^ 16) = true := beq_iff_eq.mpr (by omega)
  unfold Pages.phys
  rw [hsum, List.find?_cons, hpage]
  change pa / 2 ^ 16 * 2 ^ 16 + (va.toNat + k) % 2 ^ 16 = _
  omega

/-- The value of bytes of one page is that of the bytes at its frame. -/
theorem Pages.value_one {va : Word} {pa : Nat} (m : List Host.Cell) (hoff : pa % 2 ^ 16 = va.toNat % 2 ^ 16) (n k : Nat)
    (hk : va.toNat % 2 ^ 16 + k + n ≤ 2 ^ 16) :
    Pages.value [(va.toNat / 2 ^ 16, pa / 2 ^ 16)] m (va + BitVec.ofNat 64 k) n = Memory.value m (pa + k) n := by
  induction n generalizing k with
  | zero => rfl
  | succ n ih =>
    have hnext : va + BitVec.ofNat 64 k + 1 = va + BitVec.ofNat 64 (k + 1) := by
      rw [BitVec.ofNat_add, ← BitVec.add_assoc]
      rfl
    rw [Pages.value, Memory.value, hnext, ih (k + 1) (by omega), Pages.phys_add (by omega) hoff]
    rfl

section

variable {s : State} {va : Word} {pa : Nat} {h : Home} (hm : s.Maps .load va pa) (hal : va.toNat % 16 = 0)
  (hoff : pa % 2 ^ 16 = va.toNat % 2 ^ 16) (hp : place pa = some (h, .memory))
  (hpage : place (pa / 2 ^ 16 * 2 ^ 16) = some (h, .memory)) (hloc : h.isLocal s.cur.core = true)

include hal hoff in
theorem pieces_xld (n : Nat) : Pages.pieces [(va.toNat / 2 ^ 16, pa / 2 ^ 16)] (n + 1) va 16 = [(pa, 16)] := by
  have hphys : Pages.phys [(va.toNat / 2 ^ 16, pa / 2 ^ 16)] va = pa := by
    simpa using Pages.phys_add (va := va) (k := 0) (by omega) hoff
  have hmin : min 16 (2 ^ 16 - va.toNat % 2 ^ 16) = 16 := by omega
  unfold Pages.pieces
  rw [if_neg (by decide)]
  dsimp only
  rw [hmin, hphys]
  cases n <;> rfl

include hm hal hoff hp hpage hloc

/-- The 16 bytes of an XLD lie in one page of local memory. -/
theorem checkLocal_xld (len : Nat) :
    (s.changed len id id).checkLocal .load .load va 16 16 =
      .ok ([(va.toNat / 2 ^ 16, pa / 2 ^ 16)], h, s.changed len id (touchedOrder s va)) := by
  have hone : (va.toNat % 2 ^ 16 + 16 - 1) / 2 ^ 16 + 1 = 0 + 1 := by omega
  have hpages : (s.changed len id id).translatePages s.cur.core (slotBegun len s.me) .load .load 1 va =
      .ok ([(va.toNat / 2 ^ 16, pa / 2 ^ 16)], s.changed len id (touchedOrder s va)) := by
    unfold translatePages
    rw [translatePage_changed len .load hm]
    rfl
  have hrange : (s.changed len id id).translateRange s.cur.core (slotBegun len s.me) .load .load va 16 =
      .ok ([(va.toNat / 2 ^ 16, pa / 2 ^ 16)], s.changed len id (touchedOrder s va)) := by
    unfold translateRange
    rw [if_neg (by decide), hone, hpages, ok_bind]
    dsimp only
    rw [pieces_xld hal hoff, require_of_true (by simpa using place_last hp hloc (by omega)), ok_bind,
      require_of_true (by rw [List.any_cons, podFault_memory hpage]; rfl)]
    rfl
  unfold checkLocal
  rw [require_of_true hm.1, ok_bind, require_of_true (beq_iff_eq.mpr hal), ok_bind, changed_cur, me_changed]
  dsimp only [id]
  rw [hrange, ok_bind]
  rw [Pages.places, List.map_singleton, hpage]
  dsimp only
  rw [hloc]
  rfl

end

theorem xldEA_changed (s : State) (len : Nat) (base : Reg) (ea : XldMode) :
    xldEA (s.changed len id id) base ea = xldEA s base ea := by
  cases ea <;> simp [xldEA]

/-- The fibre after an XLD: mode 10 advances the base (R23). -/
def xldFibre (s : State) (base : Reg) (ea : XldMode) (f : Slot) : Slot :=
  match ea with
  | .postInc => f.write base (s.reg base + 16)
  | _ => f

theorem xldUpdate_changed (s : State) (len : Nat) (g : Core → Core) (base : Reg) (ea : XldMode) :
    xldUpdate (s.changed len id g) base ea = s.changed len (xldFibre s base ea) g := by
  have hreg : (s.changed len id g).reg base = s.reg base := by
    rw [State.reg, me_changed]
    rfl
  cases ea with
  | postInc =>
    unfold xldUpdate
    dsimp only
    rw [hreg]
    exact changed_setReg ..
  | disp | index => rfl

/-- An XLD of local memory: its data is in flight to xn (R25). -/
def withXld (xn : XIdx) (v : XWord) (ac : Nat) (c : Core) : Core := { c with xld := Tab.put c.xld xn.val (v, ac) }

theorem xld_local {s : State} {xn : XIdx} {base : Reg} {ea : XldMode} {pa : Nat} {h : Home}
    (hs : s.Clear (xldReads base ea) (xldWrites base ea) [xn]) (hal : (xldEA s base ea).toNat % 16 = 0)
    (hm : s.Maps .load (xldEA s base ea) pa) (hp : place pa = some (h, .memory))
    (hpage : place (pa / 2 ^ 16 * 2 ^ 16) = some (h, .memory)) (hloc : h.isLocal s.cur.core = true)
    (hf : s.localFault h .load pa 16 = none) (hoff : pa % 2 ^ 16 = (xldEA s base ea).toNat % 2 ^ 16) :
    exec (.xld xn base ea) s = .next (s.after 4 1 (xldFibre s base ea) fun c =>
      withXld xn (BitVec.ofNat 128 (Memory.value s.mem pa 16)) (s.coreAc s.cur.core + 1) (touchedOrder s (xldEA s base ea) c)) := by
  change execXld xn base ea s = _
  unfold execXld
  rw [issue_retired (t := s.changed 4 (xldFibre s base ea) fun c =>
    withXld xn (BitVec.ofNat 128 (Memory.value s.mem pa 16)) (s.coreAc s.cur.core + 1) (touchedOrder s (xldEA s base ea) c))
    hs rfl rfl rfl]
  · exact congrArg _ (retired_changed _ _ _ _ _ hs.live fun x => by cases ea <;> exact ⟨rfl, rfl⟩)
  · have hf' : (s.changed 4 id (touchedOrder s (xldEA s base ea))).localFault h .load pa 16 = none := hf
    have hvalue : Pages.value [((xldEA s base ea).toNat / 2 ^ 16, pa / 2 ^ 16)] s.mem (xldEA s base ea) 16 =
        Memory.value s.mem pa 16 := by
      simpa using Pages.value_one (va := xldEA s base ea) s.mem hoff 16 0 (by omega)
    have hread : (s.changed 4 id (touchedOrder s (xldEA s base ea))).localRead .load
        [((xldEA s base ea).toNat / 2 ^ 16, pa / 2 ^ 16)] h (xldEA s base ea) 16 = .ok (Memory.value s.mem pa 16) := by
      unfold localRead
      rw [List.length_singleton, pieces_xld hal hoff, List.findSome?_cons, hf', ← hvalue]
      rfl
    dsimp only
    rw [show ({ Need.plain (xldReads base ea) (xldWrites base ea) with xs := [xn] } : Need).len = 4 from rfl, xldEA_changed,
      require_of_true hm.1, ok_bind, require_of_true (beq_iff_eq.mpr hal), ok_bind,
      checkLocal_xld hm hal hoff hp hpage hloc, ok_bind]
    dsimp only
    rw [hread, ok_bind]
    refine congrArg Except.ok ?_
    rw [changed_onMyCore _ _ _ _ _ fun _ _ _ => rfl]
    exact xldUpdate_changed s 4 _ base ea

theorem withXld_touchedOrder (s : State) (va : Word) (xn : XIdx) (v : XWord) (ac : Nat) :
    (fun c => withXld xn v ac (touchedOrder s va c)) = fun c => { touchedOrder s va c with xld := Tab.put c.xld xn.val (v, ac) } := by
  funext c
  obtain ⟨l, hl⟩ := touchedOrder_eq s va c
  rw [hl]
  rfl

theorem xldComplete_next {s : State} {v : XWord} {ac : Nat} (h : Tab.look (s.core s.spot.place).xld s.spot.item = some (v, ac))
    (hac : ac < s.coreAc s.spot.place) :
    exec .xldComplete s = .next (s.onCore s.spot.place fun c =>
      { c with x := c.x.setIfInBounds s.spot.item v, xld := Tab.remove c.xld s.spot.item }) := by
  change execXldComplete s = _
  unfold execXldComplete
  simp only [h, if_pos hac]

theorem xldLoads : Piece.XldLoads := by
  intro s xn base ea pa h
  exact ⟨fun hs hal hm hp hpage hloc hf hoff => withXld_touchedOrder s (xldEA s base ea) xn _ _ ▸ xld_local hs hal hm hp hpage hloc hf hoff, fun v ac h hac => xldComplete_next h hac⟩

/-- Settles O11: an atomic is the issue of a change of its fibre, of the micro-TLB's order, of its location and of the gather unit; an
XLD's 16 bytes lie in one page. -/
theorem atomicsAndXld : Obligations.AtomicsAndXld := ⟨localAtomics, xldLoads⟩

end Sys2Proof.Machine
end

section
/-!
PROOF. A load at a pod window meets the hypotheses of RemoteAccesses and traps (O13).
-/

namespace Sys2Proof.Machine

/-- Core 8 after a reset, RUNNING, with a supervisor fibre of task 0 in slot 0, whose addresses are physical and whose g1 is the
first address of pod window 0 (R147, R324). -/
def atPodWindow : State :=
  { State.reset with
    cur := { core := 8, slot := 0 }
    cores := [(8, { Core.initial 8 with
      entry := #v[0x102, 0, 0, 0, 0, 0, 0, 0]
      slots := [(0, { Slot.free with
        live := true, fw := true, sup := true, pc := 0x2000000, g := Vector.ofFn fun i => if i.val = 1 then 0x600000000000 else 0 })] })] }

/-- Whether an outcome is a next state in which the issuing fibre is frozen (R326). -/
def freezes : Host.Outcome State Fault Refusal → Bool
  | .next t => t.me.frozen
  | _ => false

/-- R147: LD.D g2, 0(g1) at a pod window traps, and freezes its fibre. -/
theorem atPodWindow_traps : freezes (exec (.ldD 2 1 (.disp 0)) atPodWindow) = true := by decide +kernel

theorem atPodWindow_clear : atPodWindow.Clear [1] [2] [] := by
  refine ⟨?_, ?_, ?_, ?_, ?_, ?_⟩ <;> decide +kernel

theorem atPodWindow_tagFree : atPodWindow.TagFree 0 := by
  constructor <;> decide +kernel

theorem atPodWindow_maps : atPodWindow.Maps .load (memEA atPodWindow 1 8 (.disp 0)) 0x600000000000 :=
  ⟨by decide +kernel, by decide +kernel, .inl ⟨by decide +kernel, by decide +kernel, by decide +kernel⟩⟩

/-- Refutes O13: LD.D from a pod window meets every hypothesis, and traps ILLEGAL (R147) where the statement has an ACCESS sent. -/
theorem not_remoteAccesses : ¬ Obligations.RemoteAccesses := by
  rintro ⟨h, -⟩
  obtain ⟨hload, -⟩ := h atPodWindow (.ldD 2 1 (.disp 0)) .add 8 4 0x600000000000 0 true 2 1 0 (.disp 0) .postInc (.pod 0) .podWindow
    (by decide +kernel) nofun (by decide +kernel) atPodWindow_tagFree
  have hsent := congrArg freezes (hload rfl atPodWindow_clear nofun (by decide +kernel) atPodWindow_maps)
  rw [atPodWindow_traps] at hsent
  exact absurd hsent (by decide +kernel)

end Sys2Proof.Machine
end

section
/-!
PROOF. FENCE, EXIT and MIG at issue, what they wait for, and their completion by SETTLE (O15).
-/

namespace Sys2Proof.Machine

open State

/-! ### The end of the issuing fibre -/

namespace State

/-- The retirement of an instruction that ends its own fibre, with what is sent meanwhile. -/
theorem retired_ending (s : State) (len : Nat) (ps : List Packet) :
    retired s 1 ((s.changed len id id).beside s.cur.core ps fun c => c.setSlot s.cur.slot (freed s.me.gen)) =
      (s.onMyCore (coreIssued (s.coreAc s.cur.core) s.rc)).beside s.cur.core ps fun c => c.setSlot s.cur.slot (freed s.me.gen) := by
  rw [changed, onMyCore_eq, setCore_beside, setCore_beside, Core.setSlot_setSlot, retired_setCore_ended]
  · rfl
  · rw [Core.slot_setSlot]
    rfl

/-- EXIT of either length ends its fibre (R86). -/
theorem retired_exit (s : State) (len : Nat) : retired s 1 ((s.changed len id id).endFibre s.cur.core s.cur.slot) = s.ended := by
  have hgen : ((s.changed len id id).slot s.cur.core s.cur.slot).gen = s.me.gen :=
    (congrArg Slot.gen (me_changed s len id id)).trans rfl
  obtain ⟨ps, -, hbegun, hissued⟩ := endFibre_alike (pid := s.cur.core) (n := s.cur.slot)
    ((sendsAlike_begun s len).symm.trans (.setCore s s.cur.core (c := coreIssued (s.coreAc s.cur.core) s.rc s.myCore) rfl))
    (by rw [gk_begun, core_setCore]; rfl) (by rw [slot_begun_me]; exact (congrArg Slot.gen (me_setCore s _)).trans rfl)
  rw [begun_eq_changed, hgen] at hbegun hissued
  rw [hbegun, retired_ending, ended, onMyCore_eq, hissued]

/-- A MIG's fibre has ended, with its record in flight (R87). -/
theorem retired_mig (s : State) (len : Nat) (ps : List Packet) :
    retired s 1 ((s.changed len id id).beside s.cur.core ps fun c => c.setSlot s.cur.slot (freed s.me.gen)) =
      { s.ended with net := s.net ++ ps } := by
  obtain ⟨ps', -, hend, -⟩ := endFibre_alike (.refl (s.onMyCore (coreIssued (s.coreAc s.cur.core) s.rc))) (pid := s.cur.core)
    (n := s.cur.slot) rfl rfl
  have hgen : ((s.onMyCore (coreIssued (s.coreAc s.cur.core) s.rc)).slot s.cur.core s.cur.slot).gen = s.me.gen :=
    (congrArg Slot.gen (me_setCore s _)).trans rfl
  rw [retired_ending, ended, hend, hgen]
  rfl

end State

/-! ### A settling instruction at issue (R71, R76) -/

theorem drained_begun (s : State) (len : Nat) (n : Nat) (gen : BitVec 8) (k : Settling) :
    (s.changed len id id).drained s.cur.core n gen k = s.drained s.cur.core n gen k := by
  have hcore : (s.changed len id id).core s.cur.core = s.myCore.setSlot s.cur.slot (slotBegun len s.me) := myCore_changed s len id id
  cases k <;> simp only [drained, drainedTo, hcore] <;> rfl

theorem maySettle_begun (s : State) (len : Nat) (k : Settling) :
    (s.changed len id id).maySettle s.cur.core s.cur.slot (s.changed len id id).me.gen k =
      s.maySettle s.cur.core s.cur.slot s.me.gen k := by
  rw [maySettle, drained_begun, me_changed]
  rfl

theorem owed_begun (s : State) (len : Nat) : (s.changed len id id).me.owed = s.me.owed := by
  rw [me_changed]
  rfl

section
variable {s : State} {len : Nat} {k : Settling}

theorem settleNow_waits (h : s.maySettle s.cur.core s.cur.slot s.me.gen k = false) :
    settleNow (s.changed len id id) len k = .ok (s.changed len (settlingAt s.me.pc k) id) := by
  have hpc : s.me.pc + BitVec.ofNat 56 len - BitVec.ofNat 56 len = s.me.pc := by bv_omega
  have hwait : (s.changed len id id).onMe (fun f => { f with pc := f.pc - BitVec.ofNat 56 len, settle := some k }) =
      s.changed len (settlingAt s.me.pc k) id := by
    rw [changed_onMe]
    simp only [changed, id_eq, slotBegun, settlingAt, hpc]
  unfold settleNow
  dsimp only
  rw [changed_cur, maySettle_begun, h, if_neg (by decide), hwait]

theorem settleNow_owes {o : Owed} (h : s.maySettle s.cur.core s.cur.slot s.me.gen k = true) (ho : s.me.owed = some o) :
    settleNow (s.changed len id id) len k = .error (.trap (owedTrap o)) := by
  unfold settleNow
  dsimp only
  rw [changed_cur, maySettle_begun, h, if_pos rfl, owed_begun, ho]

theorem settleNow_done (h : s.maySettle s.cur.core s.cur.slot s.me.gen k = true) (ho : s.me.owed = none) :
    settleNow (s.changed len id id) len k = .ok ((s.changed len id id).settled s.cur.core s.cur.slot k) := by
  unfold settleNow
  dsimp only
  rw [changed_cur, maySettle_begun, h, if_pos rfl, owed_begun, ho]

end

/-- What FENCE and EXIT wait for is that their operations are done. -/
theorem maySettle_of_stays (s : State) (n : Nat) (gen : BitVec 8) {k : Settling} (hk : k.rank = none) :
    s.maySettle s.cur.core n gen k = s.drained s.cur.core n gen k := by
  rw [maySettle, hk]
  exact Bool.and_true _

theorem settlingAt_keeps (pc : BitVec 56) (k : Settling) (x : Slot) :
    (settlingAt pc k x).live = x.live ∧ (settlingAt pc k x).gen = x.gen := ⟨rfl, rfl⟩

section
variable {s : State} {k : Settling} {nd : Need} {body : State → Except Stop State}

/-- A settling instruction waits at its own PC while what it covers is not done (R71, R76). -/
theorem issue_settle_waits (h : s.Clear nd.reads nd.writes nd.xs) (hl : nd.legal = true) (hp : nd.priv = false)
    (he : nd.engine = none) (hpass : nd.passes = 1) (hb : body (s.changed nd.len id id) = settleNow (s.changed nd.len id id) nd.len k)
    (hk : s.maySettle s.cur.core s.cur.slot s.me.gen k = false) :
    s.issue nd body = .next (s.after nd.len 1 (settlingAt s.me.pc k) id) := by
  rw [issue_retired h hl hp he (hb.trans (settleNow_waits hk)), hpass,
    retired_changed _ _ _ _ _ h.live (settlingAt_keeps _ _)]

/-- It traps with the refusal that is owed (R71). -/
theorem issue_settle_owes {o : Owed} (h : s.Clear nd.reads nd.writes nd.xs) (hl : nd.legal = true) (hp : nd.priv = false)
    (he : nd.engine = none) (hb : body (s.changed nd.len id id) = settleNow (s.changed nd.len id id) nd.len k)
    (hk : s.maySettle s.cur.core s.cur.slot s.me.gen k = true) (ho : s.me.owed = some o) :
    s.issue nd body = .next (s.trapped (owedTrap o)) :=
  issue_trapped s nd body _ h hl hp he (hb.trans (settleNow_owes hk ho))

/-- It completes otherwise (R71). -/
theorem issue_settle_done (h : s.Clear nd.reads nd.writes nd.xs) (hl : nd.legal = true) (hp : nd.priv = false)
    (he : nd.engine = none) (hpass : nd.passes = 1) (hb : body (s.changed nd.len id id) = settleNow (s.changed nd.len id id) nd.len k)
    (hk : s.maySettle s.cur.core s.cur.slot s.me.gen k = true) (ho : s.me.owed = none) :
    s.issue nd body = .next (retired s 1 ((s.changed nd.len id id).settled s.cur.core s.cur.slot k)) := by
  rw [issue_retired h hl hp he (hb.trans (settleNow_done hk ho)), hpass]

end

/-- The issue of FENCE or EXIT. -/
def issueSettling (s : State) (len : Nat) (k : Settling) : Host.Outcome State Fault Refusal :=
  s.issue { Need.plain [] [] with len := len } fun t => settleNow t len k

theorem execFence_eq (scope : Scope) (s : State) : exec (.fence scope) s = issueSettling s 4 (.fence scope) := rfl

theorem execExit_eq (s : State) : exec .exit s = issueSettling s 4 .exit := rfl

theorem execExitS_eq (s : State) : exec .exitS s = issueSettling s 2 .exit := rfl

section
variable {s : State} (len : Nat) {k : Settling} (hrank : k.rank = none) (h : s.Clear [] [] [])
include hrank h

theorem issueSettling_waits (hk : s.drained s.cur.core s.cur.slot s.me.gen k = false) :
    issueSettling s len k = .next (s.after len 1 (settlingAt s.me.pc k) id) :=
  issue_settle_waits (nd := { Need.plain [] [] with len := len }) h rfl rfl rfl rfl rfl
    ((maySettle_of_stays s _ _ hrank).trans hk)

theorem issueSettling_owes {o : Owed} (hk : s.drained s.cur.core s.cur.slot s.me.gen k = true) (ho : s.me.owed = some o) :
    issueSettling s len k = .next (s.trapped (owedTrap o)) :=
  issue_settle_owes (nd := { Need.plain [] [] with len := len }) h rfl rfl rfl rfl
    ((maySettle_of_stays s _ _ hrank).trans hk) ho

theorem issueSettling_done (hk : s.drained s.cur.core s.cur.slot s.me.gen k = true) (ho : s.me.owed = none) :
    issueSettling s len k = .next (retired s 1 ((s.changed len id id).settled s.cur.core s.cur.slot k)) :=
  issue_settle_done (nd := { Need.plain [] [] with len := len }) h rfl rfl rfl rfl rfl
    ((maySettle_of_stays s _ _ hrank).trans hk) ho

end

/-! ### MIG's record (R87) -/

/-- The routing of a fibre's MIGRATE record to a rank. -/
def migrateRouting (s : State) (pid rank : Nat) (f : Slot) : Routing :=
  { kind := .migrate, tc := 1, ecls := f.ecls, prio := f.prio.val, size := true, dest := rank, task := s.taskOf pid f,
    src := s.rankOf pid }

/-- A fibre that moves frees its slot, with its MIGRATE record in flight and what its end sends. -/
theorem migrate_beside (s : State) (pid n rank : Nat) (pc : BitVec 56) {port : Port} (h : s.rankPort pid rank = some port) :
    ∃ (p : Packet) (ps : List Packet),
      s.migrate pid n rank pc = s.beside pid (p :: ps) (fun c => c.setSlot n (freed (s.slot pid n).gen)) ∧
        ((s.core pid).gk.mode ≠ .faulted → ps = []) ∧ p.src = .core pid ∧ p.dst = port ∧ p.tc = 1 ∧
        p.load = .msg ⟨(migrateRouting s pid rank (s.slot pid n)).word, pc.setWidth 64, (s.slot pid n).g.toList⟩ false := by
  obtain ⟨p, hsend, hsrc, hdst, htc, hload⟩ := s.send_eq_net (.core pid) port (migrateRouting s pid rank (s.slot pid n))
    (pc.setWidth 64) (s.slot pid n).g.toList
  obtain ⟨ps, hps, hend, -⟩ := endFibre_alike (.refl { s with net := s.net ++ [p] }) (pid := pid) (n := n) rfl rfl
  refine ⟨p, ps, ?_, hps, hsrc, hdst, htc, hload⟩
  unfold migrate sendToRank
  rw [h]
  dsimp only
  rw [← migrateRouting, hsend, hend]
  unfold beside
  rw [List.append_assoc]
  rfl

/-- The words of a MIGRATE record say its fibre's class, priority and task, and where it resumes. -/
theorem says_migrate {s : State} {rank : Nat} {f : Slot} {pc : BitVec 56} {g : List Word} {p : Packet}
    (hrank : rank < 2 ^ 16) (hsrc : s.rankOf s.cur.core < 2 ^ 16) (htask : s.taskOf s.cur.core f < 2 ^ 12)
    (hecls : f.ecls = s.me.ecls) (hprio : f.prio = s.me.prio) (hpsrc : p.src = .core s.cur.core) (hptc : p.tc = 1)
    (hload : p.load = .msg ⟨(migrateRouting s s.cur.core rank f).word, pc.setWidth 64, g⟩ false) :
    s.Says p 3 1 rank true (s.taskOf s.cur.core f) (pc.toNat % 2 ^ 55) g false := by
  obtain ⟨mkind, mtc, mecls, mprio, mrec, mdest, mtask, msrc⟩ := Msg.fields_of_routing
    (r := migrateRouting s s.cur.core rank f) ⟨by change 1 < 4; decide, f.prio.isLt, hrank, htask, hsrc⟩ (pc.setWidth 64) g
  refine ⟨hpsrc, hptc, _, hload, mkind, mtc, mdest, msrc, mtask, mecls.trans hecls, Fin.ext (mprio.trans (congrArg Fin.val hprio)),
    mrec, ?_, rfl⟩
  rw [fld, BitVec.toNat_setWidth]
  have := pc.isLt
  omega

end Sys2Proof.Machine
end

section
/-!
PROOF. The three parts of O15.
-/

namespace Sys2Proof.Machine

open State

theorem scopeNum_le (t : Scope) : scopeNum t ≤ 5 := by cases t <;> decide

/-- What a fence of some scopes waits for (R76). -/
theorem drainedTo_iff (s : State) (pid n : Nat) (gen : BitVec 8) (w : Nat) :
    s.drainedTo pid n gen w = true ↔
      (∀ e ∈ (s.core pid).tags, e.2.slot = n → e.2.gen = gen → ¬scopeNum e.2.scope ≤ w) ∧
        ∀ o ∈ (s.core pid).ops, o.slot = n → o.gen = gen → ∀ t ∈ o.scopes, ¬scopeNum t ≤ w := by
  simp [drainedTo, List.all_eq_true, imp_iff_not_or, or_assoc]

theorem settlingCovers : Piece.SettlingCovers := by
  intro s pid n gen k covers
  have hall : ∀ t : Scope, scopeNum t ≤ 5 := scopeNum_le
  have hends : (s.drainedTo pid n gen 5 && (s.core pid).ops.all fun o => !(o.slot == n && o.gen == gen)) = true ↔
      (∀ e ∈ (s.core pid).tags, e.2.slot = n → e.2.gen = gen → ¬True) ∧
        ∀ o ∈ (s.core pid).ops, o.slot = n → o.gen = gen → False := by
    rw [Bool.and_eq_true, drainedTo_iff]
    simp only [hall, not_true, List.all_eq_true, Bool.not_eq_true', Bool.and_eq_false_iff, beq_eq_false_iff_ne]
    exact ⟨fun ⟨⟨ht, _⟩, ho⟩ => ⟨ht, fun o hm hn hg => (ho o hm).elim (· hn) (· hg)⟩,
      fun ⟨ht, ho⟩ => ⟨⟨ht, fun o hm hn hg => (ho o hm hn hg).elim⟩, fun o hm => not_and_or.mp fun h => ho o hm h.1 h.2⟩⟩
  cases k with
  | fence f =>
    refine (drainedTo_iff s pid n gen (scopeNum f)).trans (and_congr_right fun _ => ?_)
    exact forall₄_congr fun o _ _ _ => ⟨fun h => ⟨⟨f, rfl⟩, h⟩, fun h => h.2⟩
  | exit | mig _ | predict _ =>
    refine hends.trans (and_congr_right fun _ => forall₄_congr fun o _ _ _ => ⟨False.elim, ?_⟩)
    rintro ⟨⟨f, hf⟩, -⟩
    cases hf

/-- MIG once its registers are up (R87). -/
def migBody (a : Reg) (t : State) : Except Stop State := do
  require (!t.me.epcv) .illegal .message 0
  require (fld (t.reg a) 16 48 == 0) .illegal .message 0
  let _ ← t.namedPort (fld (t.reg a) 0 16)
  settleNow t 4 (.mig (fld (t.reg a) 0 16))

theorem execMig_eq (a : Reg) (s : State) : exec (.mig a) s = s.issue (.plain [0, 1, 2, 3, 4, 5, 6, 7] []) (migBody a) := rfl

/-- MIG's checks pass, and it settles (R87). -/
theorem migBody_settles {s : State} {a : Reg} {port : Port} (hv : s.me.epcv = false) (hr : (s.reg a).toNat < 2 ^ 16)
    (hp : s.Names (s.reg a).toNat port) :
    migBody a (s.changed 4 id id) = settleNow (s.changed 4 id id) 4 (.mig (s.reg a).toNat) := by
  have hreg : (s.changed 4 id id).reg a = s.reg a := reg_begun s 4 a
  have hepcv : (s.changed 4 id id).me.epcv = false := by rw [me_changed]; exact hv
  have hlow : fld (s.reg a) 0 16 = (s.reg a).toNat := by rw [fld]; omega
  have hhigh : fld (s.reg a) 16 48 = 0 := by rw [fld]; omega
  have hport : (s.changed 4 id id).namedPort (s.reg a).toNat = .ok port := namedPort_begun hp
  rw [migBody, hreg, hepcv, hlow, hhigh, hport]
  rfl

/-- A MIG whose fibre leaves: the record and the state (R87). -/
theorem mig_leaves {s : State} {rank : Nat} {port : Port} (hr : rank < 2 ^ 16) (hp : s.Names rank port)
    (hsrc : s.rankOf s.cur.core < 2 ^ 16) (htask : s.taskOf s.cur.core s.me < 2 ^ 12) :
    ∃ (p : Packet) (ps : List Packet),
      retired s 1 ((s.changed 4 id id).settled s.cur.core s.cur.slot (.mig rank)) = { s.ended with net := s.net ++ p :: ps } ∧
        p.dst = port ∧ (s.myCore.gk.mode ≠ .faulted → ps = []) ∧
        s.Says p 3 1 rank true (s.taskOf s.cur.core s.me) ((s.me.pc + 4).toNat % 2 ^ 55) s.me.g.toList false ∧
        ∃ m, p.load = .msg m false ∧ m.sel.setWidth 56 = s.me.pc + 4 := by
  have hslot : (s.changed 4 id id).slot s.cur.core s.cur.slot = slotBegun 4 s.me := me_changed s 4 id id
  have hrouting : migrateRouting (s.changed 4 id id) s.cur.core rank (slotBegun 4 s.me) = migrateRouting s s.cur.core rank s.me := by
    rw [migrateRouting, taskOf, ← begun_eq_changed, (sendsAlike_begun s 4).entryTask]
    rfl
  obtain ⟨p, ps, hmig, hps, hpsrc, hdst, hptc, hload⟩ := migrate_beside (s.changed 4 id id) s.cur.core s.cur.slot rank
    (s.me.pc + 4) (port := port) hp.1
  rw [hslot] at hmig hload
  rw [hrouting] at hload
  rw [← begun_eq_changed, gk_begun] at hps
  refine ⟨p, ps, ?_, hdst, hps, says_migrate hr hsrc htask rfl rfl hpsrc hptc hload, _, hload,
    (BitVec.setWidth_setWidth_of_le _ (by decide)).trans (BitVec.setWidth_eq _)⟩
  rw [settled, hslot]
  exact (congrArg (retired s 1) hmig).trans (retired_mig s 4 (p :: ps))

theorem settlingInstructions : Piece.SettlingInstructions := by
  intro s scope a port o rank doneTo leaves mayMig
  refine ⟨fun h => ⟨fun ho => ⟨fun hd => ?_, fun hd => ⟨?_, ?_⟩⟩,
    fun ho => ⟨fun hd => issueSettling_owes 4 rfl h hd ho, fun hd => ⟨issueSettling_owes 4 rfl h hd ho, issueSettling_owes 2 rfl h hd ho⟩⟩,
    fun hd => issueSettling_waits 4 rfl h hd, fun hd => ⟨issueSettling_waits 4 rfl h hd, issueSettling_waits 2 rfl h hd⟩⟩,
    fun ⟨h, hv, hr, hp⟩ hl ho hsrc htask => ?_, fun ⟨h, hv, hr, hp⟩ hl ho => ?_, fun ⟨h, hv, hr, hp⟩ hl => ?_⟩
  · rw [execFence_eq, issueSettling_done 4 rfl h hd ho, settled,
      retired_changed s 4 id id 1 h.live fun _ => ⟨rfl, rfl⟩]
  · rw [execExit_eq, issueSettling_done 4 rfl h hd ho, settled, retired_exit]
  · rw [execExitS_eq, issueSettling_done 2 rfl h hd ho, settled, retired_exit]
  · obtain ⟨p, ps, hstate, hrest⟩ := mig_leaves hr hp hsrc htask
    refine ⟨p, ps, ?_, hrest⟩
    rw [execMig_eq, issue_settle_done h rfl rfl rfl rfl (migBody_settles hv hr hp) hl ho]
    exact congrArg _ hstate
  · rw [execMig_eq, issue_settle_owes h rfl rfl rfl (migBody_settles hv hr hp) hl ho]
  · rw [execMig_eq, issue_settle_waits h rfl rfl rfl rfl (migBody_settles hv hr hp) hl]
    rfl

/-! ### SETTLE (R71, R81) -/

/-- A fibre whose settling is done: it stands at its NextPC, ready after a pass. -/
def settledSlot (s : State) (pid : Nat) (k : Settling) (f : Slot) : Slot :=
  { f with settle := none, pc := f.pc + BitVec.ofNat 56 (settleLen k), readyAt := s.coreAc pid + 8 }

section
variable {s : State} {k : Settling} (hk : (s.slot s.spot.place s.spot.item).settle = some k)
  (hl : (s.slot s.spot.place s.spot.item).live = true) (hf : (s.slot s.spot.place s.spot.item).frozen = false)
  (ha : s.acts s.spot.place = true)
  (hm : s.maySettle s.spot.place s.spot.item (s.slot s.spot.place s.spot.item).gen k = true)
include hk hl hf ha hm

omit hk in
theorem settles : ((s.slot s.spot.place s.spot.item).live && !(s.slot s.spot.place s.spot.item).frozen && s.acts s.spot.place &&
    s.maySettle s.spot.place s.spot.item (s.slot s.spot.place s.spot.item).gen k) = true := by
  rw [hl, hf, ha, hm]
  rfl

theorem execSettle_owes {o : Owed} (ho : (s.slot s.spot.place s.spot.item).owed = some o) :
    exec .settle s = .next (s.raiseFault s.spot.place s.spot.item (owedTrap o)) := by
  change execSettle s = _
  unfold execSettle
  dsimp only
  rw [hk]
  dsimp only
  rw [if_pos (settles hl hf ha hm), ho]

theorem execSettle_lost (ho : (s.slot s.spot.place s.spot.item).owed = none) (hr : s.rankStands s.spot.place k = false) :
    exec .settle s = .next (s.raiseFault s.spot.place s.spot.item (trapOf .illegal .message 0)) := by
  change execSettle s = _
  unfold execSettle
  dsimp only
  rw [hk]
  dsimp only
  rw [if_pos (settles hl hf ha hm), ho, hr]
  rfl

theorem execSettle_done (ho : (s.slot s.spot.place s.spot.item).owed = none) (hr : s.rankStands s.spot.place k = true) :
    exec .settle s = .next ((s.setSlot s.spot.place s.spot.item
      (settledSlot s s.spot.place k (s.slot s.spot.place s.spot.item))).settled s.spot.place s.spot.item k) := by
  change execSettle s = _
  unfold execSettle
  dsimp only
  rw [hk]
  dsimp only
  rw [if_pos (settles hl hf ha hm)]
  unfold settledSlot
  split
  · next o ho' => rw [ho] at ho'; cases ho'
  · rw [if_pos hr]

end

theorem slot_setSlot_same (s : State) (pid n : Nat) (x : Slot) : (s.setSlot pid n x).slot pid n = x := by
  rw [setSlot, slot, onCore, core_setCore, Core.slot_setSlot]

theorem slot_setSlot_beside (s : State) (pid n m : Nat) (x : Slot) (hm : m ≠ n) : (s.setSlot pid n x).slot pid m = s.slot pid m := by
  rw [setSlot, slot, onCore, core_setCore, Core.slot_setSlot_other _ _ _ _ hm, slot]

/-- What SETTLE keeps of the rest of the wafer. -/
structure SettleFrame (s t : State) (pid n : Nat) : Prop where
  mem : t.mem = s.mem
  clusters : t.clusters = s.clusters
  regions : t.regions = s.regions
  core : ∀ q, q ≠ pid → t.core q = s.core q
  slot : ∀ m, m ≠ n → t.slot pid m = s.slot pid m

theorem settleFrame_setSlot (s : State) (pid n : Nat) (x : Slot) : SettleFrame s (s.setSlot pid n x) pid n :=
  ⟨rfl, rfl, rfl, fun _ hq => core_setCore_other _ _ _ _ hq, fun m hm => slot_setSlot_beside s pid n m x hm⟩

theorem SettleFrame.trans {s t u : State} {pid n : Nat} (h : SettleFrame s t pid n) (k : SettleFrame t u pid n) :
    SettleFrame s u pid n :=
  ⟨k.mem.trans h.mem, k.clusters.trans h.clusters, k.regions.trans h.regions, fun q hq => (k.core q hq).trans (h.core q hq),
    fun m hm => (k.slot m hm).trans (h.slot m hm)⟩

/-- A slot set, with packets sent. -/
theorem settleFrame_beside (s : State) (pid n : Nat) (ps : List Packet) (x : Slot) :
    SettleFrame s (s.beside pid ps fun c => c.setSlot n x) pid n :=
  ⟨rfl, rfl, rfl, fun _ hq => core_setCore_other _ _ _ _ hq, fun m hm => slot_setSlot_beside { s with net := s.net ++ ps } pid n m x hm⟩

theorem slot_beside_setSlot (s : State) (pid n : Nat) (ps : List Packet) (x : Slot) :
    (s.beside pid ps fun c => c.setSlot n x).slot pid n = x :=
  slot_setSlot_same { s with net := s.net ++ ps } pid n x

theorem gk_setSlot (s : State) (pid n : Nat) (x : Slot) : ((s.setSlot pid n x).core pid).gk = (s.core pid).gk := by
  rw [setSlot, onCore, core_setCore]
  rfl

/-- The completion of EXIT: the slot is freed, and what a faulted gather unit sends is all that is sent. -/
theorem settled_exit (s : State) (pid n : Nat) (x : Slot) :
    ∃ ps, ((s.core pid).gk.mode ≠ .faulted → ps = []) ∧
      (s.setSlot pid n x).settled pid n .exit = (s.setSlot pid n x).beside pid ps fun c => c.setSlot n (freed x.gen) := by
  obtain ⟨ps, hps, hend, -⟩ := endFibre_alike (.refl (s.setSlot pid n x)) (pid := pid) (n := n) rfl rfl
  rw [slot_setSlot_same] at hend
  rw [gk_setSlot] at hps
  exact ⟨ps, hps, hend⟩

/-- The record of a fibre that has moved from a core to a port, with its registers and the PC at which it resumes (R87). -/
def MovedIn (s t : State) (pid : Nat) (port : Port) (x : Slot) : Prop :=
  ∃ (p : Packet) (m : Msg) (ps : List Packet), t.net = s.net ++ p :: ps ∧ ((s.core pid).gk.mode ≠ .faulted → ps = []) ∧
    p.src = .core pid ∧ p.dst = port ∧ p.tc = 1 ∧ p.load = .msg m false ∧ m.data = x.g.toList ∧ m.sel.setWidth 56 = x.pc

/-- The completion of a migration: the slot is freed, and the record is sent from where the fibre stands. -/
theorem settled_moves (s : State) (pid n rank : Nat) (x : Slot) {port : Port} (h : s.rankPort pid rank = some port) :
    let t := (s.setSlot pid n x).migrate pid n rank ((s.setSlot pid n x).slot pid n).pc
    SettleFrame s t pid n ∧ t.slot pid n = freed x.gen ∧ MovedIn s t pid port x := by
  obtain ⟨p, ps, hmig, hps, hsrc, hdst, htc, hload⟩ := migrate_beside (s.setSlot pid n x) pid n rank
    ((s.setSlot pid n x).slot pid n).pc (port := port) h
  intro t
  rw [show t = _ from hmig]
  rw [slot_setSlot_same] at hload ⊢
  rw [gk_setSlot] at hps
  exact ⟨(settleFrame_setSlot s pid n x).trans (settleFrame_beside _ pid n (p :: ps) (freed x.gen)), slot_beside_setSlot ..,
    p, _, ps, rfl, hps, hsrc, hdst, htc, hload, rfl, (BitVec.setWidth_setWidth_of_le _ (by decide)).trans (BitVec.setWidth_eq _)⟩

theorem settleCompletes : Piece.SettleCompletes := by
  intro s k pid n f goes hk hl hf ha hd hacc
  have hm : s.maySettle pid n f.gen k = true := by
    rw [maySettle, hd, Bool.true_and]
    cases k with
    | fence _ | exit => rfl
    | mig rank => exact hacc rank (.inl rfl)
    | predict rank => exact hacc rank (.inr rfl)
  refine ⟨fun o ho => execSettle_owes hk hl hf ha hm ho, fun rank ho hgo hport => execSettle_lost hk hl hf ha hm ho ?_,
    fun ho hports => ⟨_, execSettle_done hk hl hf ha hm ho ?_, ?_⟩⟩
  · rcases hgo with rfl | rfl <;> exact congrArg Option.isSome hport
  · cases k with
    | fence _ | exit => rfl
    | mig rank => exact hports rank (.inl rfl)
    | predict rank => exact hports rank (.inr rfl)
  · cases k with
    | fence scope =>
      have hset := settleFrame_setSlot s pid n (settledSlot s pid (.fence scope) f)
      have hslot := slot_setSlot_same s pid n (settledSlot s pid (.fence scope) f)
      refine ⟨hset.mem, hset.clusters, hset.regions, hset.core, hset.slot, fun _ _ => ⟨rfl, ?_⟩, nofun, fun h => absurd rfl (h scope), ?_⟩
      · rw [settled, hslot]
        exact ⟨rfl, rfl, rfl, hl⟩
      · rintro rank port (h | h) <;> cases h
    | exit =>
      obtain ⟨ps, hps, hend⟩ := settled_exit s pid n (settledSlot s pid .exit f)
      have hset := (settleFrame_setSlot s pid n (settledSlot s pid .exit f)).trans (settleFrame_beside _ pid n ps (freed f.gen))
      rw [hend]
      refine ⟨hset.mem, hset.clusters, hset.regions, hset.core, hset.slot, nofun, fun _ hg => ?_, fun _ => slot_beside_setSlot .., ?_⟩
      · rw [hps hg]
        exact List.append_nil _
      · rintro rank port (h | h) <;> cases h
    | mig rank =>
      obtain ⟨port, hport⟩ := Option.isSome_iff_exists.mp (hports rank (.inl rfl))
      obtain ⟨hset, hslot, hmoved⟩ := settled_moves s pid n rank (settledSlot s pid (.mig rank) f) hport
      refine ⟨hset.mem, hset.clusters, hset.regions, hset.core, hset.slot, nofun, nofun, fun _ => hslot, ?_⟩
      rintro _ port' (h | h) hport' <;> cases h
      cases hport.symm.trans hport'
      obtain ⟨p, m, ps, hnet, hps, hsrc, hdst, htc, hload, hdata, hsel⟩ := hmoved
      exact ⟨p, m, ps, hnet, hps, hsrc, hdst, htc, hload, hdata, hsel.trans (if_pos rfl).symm⟩
    | predict rank =>
      obtain ⟨port, hport⟩ := Option.isSome_iff_exists.mp (hports rank (.inr rfl))
      obtain ⟨hset, hslot, hmoved⟩ := settled_moves s pid n rank (settledSlot s pid (.predict rank) f) hport
      refine ⟨hset.mem, hset.clusters, hset.regions, hset.core, hset.slot, nofun, nofun, fun _ => hslot, ?_⟩
      rintro _ port' (h | h) hport' <;> cases h
      cases hport.symm.trans hport'
      obtain ⟨p, m, ps, hnet, hps, hsrc, hdst, htc, hload, hdata, hsel⟩ := hmoved
      exact ⟨p, m, ps, hnet, hps, hsrc, hdst, htc, hload, hdata, hsel.trans (BitVec.add_zero _)⟩

/-- Settles O15: an instruction that settles at issue, what it covers, and SETTLE by what it completes. -/
theorem settling : Obligations.Settling := ⟨settlingInstructions, settlingCovers, settleCompletes⟩

end Sys2Proof.Machine
end

section
/-!
PROOF. YIELD, BIND, CNTSET and SPAWN (O16), and what an instruction leaves that is held at its own effect.
-/

namespace Sys2Proof.Machine

open State

theorem fld_low (w : Word) (n : Nat) : fld w 0 n = w.toNat % 2 ^ n := by rw [fld, pow_zero, Nat.div_one]

/-- A check that fails stops what follows it. -/
theorem error_bind {ε α β : Type} (e : ε) (f : α → Except ε β) : ((Except.error e : Except ε α) >>= f) = .error e := rfl

/-! ### An instruction that is held at its effect -/

namespace State

/-- A user instruction without an engine whose registers are clear and whose effect does not come about. -/
theorem issue_stopped {s : State} {nd : Need} {body : State → Except Stop State} {st : Stop} (h : s.Clear nd.reads nd.writes nd.xs)
    (hl : nd.legal = true) (hp : nd.priv = false) (he : nd.engine = none) (hb : body (s.changed nd.len id id) = .error st) :
    s.issue nd body = .next (s.stopped st) := by
  have hr := ready_ok s nd h hl (fun hc => by rw [hp] at hc; cases hc) fun _ hc => by rw [he] at hc; cases hc
  unfold issue
  rw [h.live, h.notFrozen, hr]
  change (match body (s.changed nd.len id id) with
    | .ok s' => Host.Outcome.next (retired s nd.passes s')
    | .error st => .next (s.stopped st)) = _
  rw [hb]

/-- A user instruction without an engine whose effect stands on its fibre and its core. -/
theorem issue_after {s : State} {nd : Need} {body : State → Except Stop State} {f : Slot → Slot} {g : Core → Core}
    (h : s.Clear nd.reads nd.writes nd.xs) (hl : nd.legal = true) (hp : nd.priv = false) (he : nd.engine = none)
    (hf : ∀ x : Slot, (f x).live = x.live ∧ (f x).gen = x.gen)
    (hb : body (s.changed nd.len id id) = .ok (s.changed nd.len f g)) :
    s.issue nd body = .next (s.after nd.len nd.passes f g) := by
  rw [issue_retired h hl hp he hb, retired_changed s nd.len f g nd.passes h.live hf]

/-- Nothing has changed but that the issuing fibre is held. -/
structure IsHeld (s t : State) (h : Hold) : Prop where
  me : ∃ r, t.me = { s.me with hold := some h, readyAt := r }
  core : ∃ l, t.myCore = { s.myCore with slots := l }
  net : t.net = s.net
  outside : s.OutsideKept t

/-- The issuing fibre is held, ready at an ac at the earliest, with the next order number told. -/
def holding (s : State) (h : Hold) (seq r : Nat) : State :=
  State.onMe { s.onMe (fun f => { f with hold := some h }) with seq := seq } fun f => { f with readyAt := max f.readyAt r }

theorem held_holding (s : State) (h : Hold) (seq r : Nat) : IsHeld s (s.holding h seq r) h := by
  have hcore : (s.holding h seq r).myCore =
      s.myCore.setSlot s.cur.slot { s.me with hold := some h, readyAt := max s.me.readyAt r } := by
    change ((s.onMe fun f => { f with hold := some h }).onMe fun f => { f with readyAt := max f.readyAt r }).myCore = _
    rw [onMe_onMe, onMe_eq, myCore_setCore]
  refine ⟨⟨max s.me.readyAt r, ?_⟩, ⟨_, hcore⟩, rfl, fun _ => rfl, rfl, rfl, fun p hp => ?_, rfl, rfl, rfl, rfl, rfl, rfl, rfl, rfl, rfl⟩
  · exact (congrArg (Core.slot · s.cur.slot) hcore).trans (Core.slot_setSlot _ _ _)
  · exact (core_setCore_other _ _ _ _ hp).trans (core_setCore_other _ _ _ _ hp)

theorem held_outbound (s : State) : IsHeld s (s.stopped (.hold .outbound)) .outbound := by
  have heq : s.stopped (.hold .outbound) = s.holding .outbound s.seq (s.coreAc s.cur.core + 1) := by
    simp only [stopped]
    rfl
  exact heq ▸ held_holding ..

/-- A fibre that waits to write a queue keeps its place, or takes the next one (R88). -/
theorem held_queueWrite (s : State) (q : Nat) : ∃ o, IsHeld s (s.stopped (.hold (.queueWrite q 0))) (.queueWrite q o) := by
  have heq : ∃ o seq, s.stopped (.hold (.queueWrite q 0)) = s.holding (.queueWrite q o) seq (s.coreAc s.cur.core + 1) := by
    cases hh : s.me.hold with
    | none => exact ⟨s.seq, s.seq + 1, by simp only [stopped, hh]; rfl⟩
    | some x =>
      cases x with
      | queueWrite q' o => exact ⟨_, s.seq, by simp only [stopped, hh]; rfl⟩
      | _ => exact ⟨s.seq, s.seq + 1, by simp only [stopped, hh]; rfl⟩
  obtain ⟨o, seq, heq⟩ := heq
  exact ⟨o, heq ▸ held_holding ..⟩

/-- A fibre that waits to read a queue keeps its place, or takes the next one (R88). -/
theorem held_queueRead (s : State) (q : Nat) : ∃ o, IsHeld s (s.stopped (.hold (.queueRead q 0))) (.queueRead q o) := by
  have heq : ∃ o seq, s.stopped (.hold (.queueRead q 0)) = s.holding (.queueRead q o) seq (s.coreAc s.cur.core + 1) := by
    cases hh : s.me.hold with
    | none => exact ⟨s.seq, s.seq + 1, by simp only [stopped, hh]; rfl⟩
    | some x =>
      cases x with
      | queueRead q' o => exact ⟨_, s.seq, by simp only [stopped, hh]; rfl⟩
      | _ => exact ⟨s.seq, s.seq + 1, by simp only [stopped, hh]; rfl⟩
  obtain ⟨o, seq, heq⟩ := heq
  exact ⟨o, heq ▸ held_holding ..⟩

end State

end Sys2Proof.Machine
end

section
/-!
PROOF. The parts of O16: YIELD, the instructions on fibres, and the queue moves.
-/

namespace Sys2Proof.Machine

open State

theorem yieldCompletes : Piece.YieldCompletes := by
  intro s h last
  have hend (len : Nat) : s.issue { Need.plain [] [] with len := len } (fun t => .ok (t.onMe yieldFibre)) =
      .next (s.after len 1 yieldFibre id) := issue_plain h (fun _ => ⟨rfl, rfl⟩) rfl
  exact ⟨hend 4, hend 2⟩

/-! ### BIND, CNTSET and SPAWN (R83 to R85) -/

section
variable {s : State} {rd a b : Reg}

/-- BIND's effect (R84). -/
def bindBody (rd a : Reg) (t : State) : Except Stop State :=
  .ok ((t.setReg rd (mkHandle (t.rankOf t.cur.core) t.cur.slot t.me.gen a.val)).setPending a .bind)

theorem execBind_eq (rd a : Reg) (s : State) :
    exec (.bind rd a) s = s.issue { Need.plain [] [rd, a] with legal := rd != a } (bindBody rd a) := rfl

theorem bind_next (h : s.Clear [] [rd, a] []) (hne : rd ≠ a) :
    exec (.bind rd a) s = .next (s.after 4 1 (fun f =>
      (f.write rd (mkHandle (s.rankOf s.cur.core) s.cur.slot s.me.gen a.val)).markPending a .bind) id) := by
  have hgen : (s.changed 4 id id).me.gen = s.me.gen := by rw [me_changed]; rfl
  have hbody : bindBody rd a (s.changed 4 id id) = .ok (s.changed 4 (fun f =>
      (f.write rd (mkHandle (s.rankOf s.cur.core) s.cur.slot s.me.gen a.val)).markPending a .bind) id) := by
    rw [bindBody, hgen, changed_setReg, changed_setPending]
    rfl
  rw [execBind_eq]
  exact issue_after (nd := { Need.plain [] [rd, a] with legal := rd != a }) h (bne_iff_ne.mpr hne) rfl rfl (fun _ => ⟨rfl, rfl⟩) hbody

/-- The control word of CNTSET is well formed, and names a handler (R83). -/
def State.CntsetOk (s : State) (a : Reg) : Prop :=
  (s.reg a).toNat / 2 ^ 16 = 0 ∧ (s.reg a).toNat / 2 ^ 6 % 4 = 0 ∧ s.handlerEmpty s.cur.core ((s.reg a).toNat / 2 ^ 8 % 256) = false

/-- The control word of SPAWN is well formed, and names a handler (R85). -/
def State.SpawnOk (s : State) (a : Reg) : Prop :=
  (s.reg a).toNat / 2 ^ 8 = 0 ∧ s.handlerEmpty s.cur.core ((s.reg a).toNat % 256) = false

theorem handlerEmpty_begun (s : State) (index : Nat) :
    (s.changed 4 id id).handlerEmpty s.cur.core index = s.handlerEmpty s.cur.core index :=
  (sendsAlike_begun s 4).handlerEmpty s.cur.core index

/-- CNTSET once its registers are up (R83). -/
def cntsetBody (a b : Reg) (t : State) : Except Stop State := do
  let c := t.reg a
  require (fld c 16 48 == 0 && fld c 6 2 == 0) .illegal .instruction 0
  require (!t.handlerEmpty t.cur.core (fld c 8 8)) .illegal .instruction 0
  .ok (t.onMyCore fun k => { k with counters := Tab.put k.counters (fld c 0 6) (fld (t.reg b) 0 32, fld c 8 8) })

theorem execCntset_eq (a b : Reg) (s : State) : exec (.cntset a b) s = s.issue (.plain [a, b] []) (cntsetBody a b) := rfl

/-- SPAWN once its registers are up (R85). -/
def spawnBody (rd a b : Reg) (t : State) : Except Stop State := do
  let h := t.reg a
  let pid := t.cur.core
  require (fld h 8 56 == 0) .illegal .instruction 0
  require (!t.handlerEmpty pid (fld h 0 8)) .illegal .instruction 0
  match t.freeSlot pid with
  | none => .ok (t.setReg rd (BitVec.allOnes 64))
  | some n =>
    let g := (Vector.replicate 8 (0 : Word)).set 0 (t.reg b)
    let u := t.born pid n (Word.ofNat (t.handlerAddr pid (fld h 0 8))) g t.me.prio t.me.ecls
    .ok (u.setReg rd (mkHandle (t.rankOf pid) n (t.slot pid n).gen 0))

theorem execSpawn_eq (rd a b : Reg) (s : State) : exec (.spawn rd a b) s = s.issue (.plain [a, b] [rd]) (spawnBody rd a b) := rfl

theorem cntset_checks (h : s.CntsetOk a) :
    require (fld (s.reg a) 16 48 == 0 && fld (s.reg a) 6 2 == 0) .illegal .instruction 0 = .ok () ∧
      require (!s.handlerEmpty s.cur.core (fld (s.reg a) 8 8)) .illegal .instruction 0 = .ok () := by
  obtain ⟨htop, hmid, hhandler⟩ := h
  have h16 : fld (s.reg a) 16 48 = 0 := by rw [fld, htop, Nat.zero_mod]
  have h6 : fld (s.reg a) 6 2 = 0 := hmid
  have h8 : s.handlerEmpty s.cur.core (fld (s.reg a) 8 8) = false := hhandler
  rw [h16, h6, h8]
  exact ⟨rfl, rfl⟩

theorem cntset_next (hs : s.Clear [a, b] [] []) (h : s.CntsetOk a) :
    exec (.cntset a b) s = .next (s.after 4 1 id fun c =>
      { c with counters := Tab.put c.counters ((s.reg a).toNat % 64) ((s.reg b).toNat % 2 ^ 32, (s.reg a).toNat / 2 ^ 8 % 256) }) := by
  obtain ⟨hword, hhandler⟩ := cntset_checks h
  have ha : (s.changed 4 id id).reg a = s.reg a := reg_begun s 4 a
  have hb : (s.changed 4 id id).reg b = s.reg b := reg_begun s 4 b
  have hindex : fld (s.reg a) 0 6 = (s.reg a).toNat % 64 := fld_low ..
  have hcount : fld (s.reg b) 0 32 = (s.reg b).toNat % 2 ^ 32 := fld_low ..
  have hbody : cntsetBody a b (s.changed 4 id id) = .ok (s.changed 4 id fun c =>
      { c with counters := Tab.put c.counters ((s.reg a).toNat % 64) ((s.reg b).toNat % 2 ^ 32, (s.reg a).toNat / 2 ^ 8 % 256) }) := by
    unfold cntsetBody
    dsimp only
    rw [ha, hb, hword, ok_bind, changed_cur, handlerEmpty_begun, hhandler, ok_bind, hindex, hcount,
      changed_onMyCore _ _ _ _ _ fun _ _ _ => rfl]
    rfl
  rw [execCntset_eq]
  exact issue_after hs rfl rfl rfl (fun _ => ⟨rfl, rfl⟩) hbody

theorem cntset_illegal (hs : s.Clear [a, b] [] []) (h : ¬s.CntsetOk a) :
    exec (.cntset a b) s = .next (s.trapped (trapOf .illegal .instruction 0)) := by
  have ha : (s.changed 4 id id).reg a = s.reg a := reg_begun s 4 a
  refine issue_trapped s _ (cntsetBody a b) _ hs rfl rfl rfl ?_
  change cntsetBody a b (s.changed 4 id id) = _
  unfold cntsetBody
  dsimp only
  rw [ha]
  cases hword : (fld (s.reg a) 16 48 == 0 && fld (s.reg a) 6 2 == 0) with
  | false => rfl
  | true =>
    rw [Bool.and_eq_true, beq_iff_eq, beq_iff_eq, fld, fld] at hword
    have hhandler : s.handlerEmpty s.cur.core (fld (s.reg a) 8 8) = true := by
      rw [← Bool.not_eq_false]
      exact fun hc => h ⟨by have := (s.reg a).isLt; omega, hword.2, hc⟩
    rw [require_of_true rfl, ok_bind, changed_cur, handlerEmpty_begun, hhandler]
    rfl

theorem freeSlot_begun : (s.changed 4 id id).freeSlot s.cur.core = s.freeSlot s.cur.core := by
  have hlive : ∀ n, (((s.changed 4 id id).core s.cur.core).slot n).live = ((s.core s.cur.core).slot n).live := fun n => by
    by_cases hn : n = s.cur.slot
    · subst hn
      exact (congrArg Slot.live (me_changed s 4 id id)).trans rfl
    · exact congrArg Slot.live (slot_begun_other s 4 hn)
  simp only [freeSlot, hlive]
  rfl

theorem ne_cur_of_freeSlot (hl : s.me.live = true) {n : Nat} (h : s.freeSlot s.cur.core = some n) : n ≠ s.cur.slot := by
  rintro rfl
  have hfree := List.find?_some h
  rw [show ((s.core s.cur.core).slot s.cur.slot).live = true from hl] at hfree
  cases hfree

/-- What SPAWN requires of its control word. -/
theorem spawn_checks (h : s.SpawnOk a) :
    require (fld (s.reg a) 8 56 == 0) .illegal .instruction 0 = .ok () ∧
      require (!s.handlerEmpty s.cur.core (fld (s.reg a) 0 8)) .illegal .instruction 0 = .ok () := by
  obtain ⟨htop, hhandler⟩ := h
  have h8 : fld (s.reg a) 8 56 = 0 := by rw [fld, htop, Nat.zero_mod]
  have h0 : s.handlerEmpty s.cur.core (fld (s.reg a) 0 8) = false := by
    rw [fld_low]
    exact hhandler
  rw [h8, h0]
  exact ⟨rfl, rfl⟩

theorem spawn_illegal (hs : s.Clear [a, b] [rd] []) (h : ¬s.SpawnOk a) :
    exec (.spawn rd a b) s = .next (s.trapped (trapOf .illegal .instruction 0)) := by
  have ha : (s.changed 4 id id).reg a = s.reg a := reg_begun s 4 a
  refine issue_trapped s _ (spawnBody rd a b) _ hs rfl rfl rfl ?_
  change spawnBody rd a b (s.changed 4 id id) = _
  unfold spawnBody
  dsimp only
  rw [ha]
  cases hword : fld (s.reg a) 8 56 == 0 with
  | false => rfl
  | true =>
    rw [beq_iff_eq, fld] at hword
    have hhandler : s.handlerEmpty s.cur.core (fld (s.reg a) 0 8) = true := by
      rw [← Bool.not_eq_false, fld_low]
      exact fun hc => h ⟨by have := (s.reg a).isLt; omega, hc⟩
    rw [require_of_true rfl, ok_bind, changed_cur, handlerEmpty_begun, hhandler]
    rfl

theorem spawn_none (hs : s.Clear [a, b] [rd] []) (h : s.SpawnOk a) (hn : s.freeSlot s.cur.core = none) :
    exec (.spawn rd a b) s = .next (s.wrote rd (BitVec.allOnes 64)) := by
  obtain ⟨hword, hhandler⟩ := spawn_checks h
  have ha : (s.changed 4 id id).reg a = s.reg a := reg_begun s 4 a
  have hbody : spawnBody rd a b (s.changed 4 id id) = .ok (s.changed 4 (fun f => f.write rd (BitVec.allOnes 64)) id) := by
    unfold spawnBody
    dsimp only
    rw [ha, hword, ok_bind, changed_cur, handlerEmpty_begun, hhandler, ok_bind, freeSlot_begun, hn]
    exact congrArg Except.ok (changed_setReg s 4 id id rd _)
  rw [execSpawn_eq]
  exact issue_after hs rfl rfl rfl (fun _ => ⟨rfl, rfl⟩) hbody

/-- The slot of a fibre that is born (R102, R302). -/
def bornSlot (s : State) (pid n : Nat) (pc : Word) (g : Vector Word 8) (prio : Fin 4) (ecls : BitVec 3) : Slot :=
  { Slot.free with
    live := true, pc := (pc.setWidth 56) &&& (~~~1#56), g := g, prio := prio, eff := prio, ecls := ecls,
    amig := flag (s.entryWord pid 0) 49, gen := (s.slot pid n).gen, sup := isService pid, readyAt := s.coreAc pid + 1 }

theorem born_eq (s : State) (pid n : Nat) (pc : Word) (g : Vector Word 8) (prio : Fin 4) (ecls : BitVec 3) :
    s.born pid n pc g prio ecls = s.beside pid [] fun c => c.setSlot n (bornSlot s pid n pc g prio ecls) := by
  rw [beside, List.append_nil]
  rfl

theorem bornSlot_begun {n : Nat} (hn : n ≠ s.cur.slot) (pc : Word) (g : Vector Word 8) (prio : Fin 4) (ecls : BitVec 3) :
    bornSlot (s.changed 4 id id) s.cur.core n pc g prio ecls = bornSlot s s.cur.core n pc g prio ecls := by
  have hslot : (s.changed 4 id id).slot s.cur.core n = s.slot s.cur.core n := slot_begun_other s 4 hn
  have hentry : (s.changed 4 id id).entryWord s.cur.core 0 = s.entryWord s.cur.core 0 := (sendsAlike_begun s 4).entryWord _ _
  unfold bornSlot
  rw [hslot, hentry]
  rfl

theorem handlerAddr_begun (s : State) (index : Nat) :
    (s.changed 4 id id).handlerAddr s.cur.core index = s.handlerAddr s.cur.core index := by
  have hentry (i : Fin 8) : (s.changed 4 id id).entryWord s.cur.core i = s.entryWord s.cur.core i := (sendsAlike_begun s 4).entryWord _ i
  have hva : (s.changed 4 id id).handlerVa s.cur.core index = s.handlerVa s.cur.core index := by
    rw [handlerVa, hentry]
    rfl
  have haddr (va : Word) : (s.changed 4 id id).structAddr s.cur.core va = s.structAddr s.cur.core va := by
    unfold structAddr entryPasid
    rw [hentry]
    rfl
  unfold handlerAddr structWord
  rw [hva, haddr]
  rfl

/-- SPAWN where a slot is free (R85): the fibre is born beside its own, which takes its handle. -/
theorem spawn_born (hs : s.Clear [a, b] [rd] []) (h : s.SpawnOk a) {n : Nat} (hn : s.freeSlot s.cur.core = some n) :
    exec (.spawn rd a b) s =
      .next ((s.wrote rd (mkHandle (s.rankOf s.cur.core) n (s.slot s.cur.core n).gen 0)).beside s.cur.core [] fun c =>
        c.setSlot n (bornSlot s s.cur.core n (Word.ofNat (s.handlerAddr s.cur.core ((s.reg a).toNat % 256)))
          ((Vector.replicate 8 0).set 0 (s.reg b)) s.me.prio s.me.ecls)) := by
  obtain ⟨hword, hhandler⟩ := spawn_checks h
  have hne := ne_cur_of_freeSlot hs.live hn
  have ha : (s.changed 4 id id).reg a = s.reg a := reg_begun s 4 a
  have hb : (s.changed 4 id id).reg b = s.reg b := reg_begun s 4 b
  have hslot : (s.changed 4 id id).slot s.cur.core n = s.slot s.cur.core n := slot_begun_other s 4 hne
  have hprio : (s.changed 4 id id).me.prio = s.me.prio := by rw [me_changed]; rfl
  have hecls : (s.changed 4 id id).me.ecls = s.me.ecls := by rw [me_changed]; rfl
  have hindex : fld (s.reg a) 0 8 = (s.reg a).toNat % 256 := fld_low ..
  rw [execSpawn_eq]
  refine (issue_retired hs rfl rfl rfl ?_).trans (congrArg Host.Outcome.next (retired_beside s (ofSlot_setSlot n _) hne hs.live [] rd _))
  change spawnBody rd a b (s.changed 4 id id) = _
  unfold spawnBody
  dsimp only
  rw [ha, hb, hword, ok_bind, changed_cur, handlerEmpty_begun, hhandler, ok_bind, freeSlot_begun, hn]
  dsimp only
  rw [born_eq, bornSlot_begun hne, handlerAddr_begun, hprio, hecls, hslot, hindex]
  rfl

theorem fibreInstructions : Piece.FibreInstructions := by
  intro s rd a b pid w handle
  refine ⟨fun h hne => bind_next h hne, fun hl hf hu => ?_, fun h => ⟨fun hok => cntset_next h hok, fun hok => cntset_illegal h hok⟩,
    fun h => ⟨fun hok => spawn_illegal h hok, fun hok hn => spawn_none h hok hn, fun hok n hn => ?_⟩⟩
  · rw [execBind_eq]
    exact issue_illegal hl hf hu (bne_self_eq_false rd)
  · have hne := ne_cur_of_freeSlot h.live hn
    have hof := ofSlot_setSlot n (bornSlot s s.cur.core n (Word.ofNat (s.handlerAddr s.cur.core ((s.reg a).toNat % 256)))
      ((Vector.replicate 8 0).set 0 (s.reg b)) s.me.prio s.me.ecls)
    refine ⟨_, spawn_born h hok hn, slot_beside hof hne.symm, hne, outsideKept_beside, List.append_nil _, ?_,
      fun m hmn hms => (slot_beside hof hmn).trans (slot_wrote hms), ?_⟩
    · rw [core_wrote_beside]
      exact (congrArg coreRest (myCore_after s 4 1 (fun f => f.write rd (mkHandle (s.rankOf pid) n (s.slot pid n).gen 0)) id)).trans rfl
    · intro f
      have hf : f = bornSlot s pid n _ _ s.me.prio s.me.ecls :=
        (congrArg (Core.slot · n) core_wrote_beside).trans (Core.slot_setSlot _ _ _)
      rw [hf]
      refine ⟨rfl, rfl, ?_, rfl, rfl, rfl, rfl, rfl, rfl, rfl, rfl, ?_, rfl⟩
      · exact congrArg (· &&& ~~~1) (BitVec.setWidth_ofNat_of_le (by decide) _)
      · rw [taskOf, entryTask, ofFlatar]
        cases isService pid <;> rfl

end

end Sys2Proof.Machine
end

section
/-!
PROOF. The queue moves (R19, R88), and O16.
-/

namespace Sys2Proof.Machine

open State

/-! ### The fibres that wait before the issuing one -/

/-- No entry of a table has a property where none had it and the entry put has it not. -/
theorem Tab.any_put_false {α : Type} {p : Nat × α → Bool} {n : Nat} {x : α} (hx : p (n, x) = false) :
    ∀ {t : Tab α}, t.any p = false → (Tab.put t n x).any p = false
  | [], _ => by simp [Tab.put, hx]
  | (k, v) :: t, h => by
    rw [List.any_cons, Bool.or_eq_false_iff] at h
    obtain ⟨hhead, htail⟩ := h
    unfold Tab.put
    split_ifs
    · simp [hx, hhead, htail]
    · simp [hx, htail]
    · rw [List.any_cons, hhead, Tab.any_put_false hx htail]
      rfl

section
variable {s : State} {q : QIdx} {rd a b : Reg}

theorem writersBefore_begun {k than : Nat} (h : writersBefore s.myCore k than = false) :
    writersBefore (s.changed 4 id id).myCore k than = false := by
  rw [myCore_changed]
  exact Tab.any_put_false rfl h

theorem readersBefore_begun {k than : Nat} (h : readersBefore s.myCore k than = false) :
    readersBefore (s.changed 4 id id).myCore k than = false := by
  rw [myCore_changed]
  exact Tab.any_put_false rfl h

/-! ### What the moves leave -/

theorem append_begun (v : Word) :
    (s.changed 4 id id).onMyCore (fun c => c.append q v) =
      s.changed 4 id fun c => { c with q := c.q.set q (c.q[q] ++ [v]) } :=
  changed_onMyCore s 4 id id _ fun _ _ _ => rfl

theorem pop_begun : (s.changed 4 id id).onMyCore (fun c => c.pop q) = s.changed 4 id fun c => { c with q := c.q.set q c.q[q].tail } :=
  changed_onMyCore s 4 id id _ fun _ _ _ => rfl

/-- QPUT's effect for a fibre with a place among those that wait (R88). -/
def qputBody (q : QIdx) (a : Reg) (order : Nat) (t : State) : Except Stop State := do
  waitUnless ((t.myCore.q[q]).length < 16 && !writersBefore t.myCore q.val order) (.queueWrite q.val 0)
  .ok (t.onMyCore fun c => c.append q (t.reg a))

theorem execQput_eq (q : QIdx) (a : Reg) (s : State) :
    exec (.qput q a) s = s.issue { Need.plain [a] [] with legal := decide (4 ≤ q.val) } (qputBody q a (waitOrder s)) := rfl

/-- QGET's effect for a fibre with a place among those that wait (R88). -/
def qgetBody (rd : Reg) (q : QIdx) (order : Nat) (t : State) : Except Stop State :=
  match t.myCore.q[q] with
  | [] => .error (.hold (.queueRead q.val 0))
  | v :: _ =>
    if readersBefore t.myCore q.val order then .error (.hold (.queueRead q.val 0))
    else .ok ((t.onMyCore fun c => c.pop q).setReg rd v)

theorem execQget_eq (rd : Reg) (q : QIdx) (s : State) :
    exec (.qget rd q) s = s.issue (.plain [] [rd]) (qgetBody rd q (waitOrder s)) := rfl

/-- QPUT.NB's effect (R88). -/
def qputNbBody (q : QIdx) (a b : Reg) (t : State) : Except Stop State :=
  if (t.myCore.q[q]).length < 16 then .ok ((t.onMyCore fun c => c.append q (t.reg a)).setReg b 1)
  else .ok (t.setReg b 0)

theorem execQputNb_eq (q : QIdx) (a b : Reg) (s : State) :
    exec (.qputNb q a b) s = s.issue { Need.plain [a] [b] with legal := decide (4 ≤ q.val) } (qputNbBody q a b) := rfl

/-- QGET.NB's effect (R88). -/
def qgetNbBody (rd : Reg) (q : QIdx) (b : Reg) (t : State) : Except Stop State :=
  match t.myCore.q[q] with
  | [] => .ok (t.setReg b 0)
  | v :: _ => .ok (((t.onMyCore fun c => c.pop q).setReg rd v).setReg b 1)

theorem execQgetNb_eq (rd : Reg) (q : QIdx) (b : Reg) (s : State) :
    exec (.qgetNb rd q b) s = s.issue { Need.plain [] [rd, b] with legal := rd != b } (qgetNbBody rd q b) := rfl

theorem q_begun (s : State) : (s.changed 4 id id).myCore.q = s.myCore.q := myCore_q_begun s 4

theorem qput_next (hq : 4 ≤ q.val) (h : s.Clear [a] [] []) (hlen : s.myCore.q[q].length < 16)
    (hw : writersBefore s.myCore q.val (waitOrder s) = false) :
    exec (.qput q a) s = .next (s.after 4 1 id fun c => { c with q := c.q.set q (c.q[q] ++ [s.reg a]) }) := by
  have hbody : qputBody q a (waitOrder s) (s.changed 4 id id) =
      .ok (s.changed 4 id fun c => { c with q := c.q.set q (c.q[q] ++ [s.reg a]) }) := by
    have hreg : (s.changed 4 id id).reg a = s.reg a := reg_begun s 4 a
    rw [qputBody, q_begun, writersBefore_begun hw, decide_eq_true hlen, hreg, append_begun]
    rfl
  rw [execQput_eq]
  exact issue_after (nd := { Need.plain [a] [] with legal := decide (4 ≤ q.val) }) h (decide_eq_true hq) rfl rfl
    (fun _ => ⟨rfl, rfl⟩) hbody

theorem qput_held (hq : 4 ≤ q.val) (h : s.Clear [a] [] []) (hlen : 16 ≤ s.myCore.q[q].length) :
    exec (.qput q a) s = .next (s.stopped (.hold (.queueWrite q.val 0))) := by
  have hbody : qputBody q a (waitOrder s) (s.changed 4 id id) = .error (.hold (.queueWrite q.val 0)) := by
    rw [qputBody, q_begun, decide_eq_false (not_lt.mpr hlen)]
    rfl
  rw [execQput_eq]
  exact issue_stopped (nd := { Need.plain [a] [] with legal := decide (4 ≤ q.val) }) h (decide_eq_true hq) rfl rfl hbody

theorem qputNb_next (hq : 4 ≤ q.val) (h : s.Clear [a] [b] []) (hlen : s.myCore.q[q].length < 16) :
    exec (.qputNb q a b) s =
      .next (s.after 4 1 (fun f => f.write b 1) fun c => { c with q := c.q.set q (c.q[q] ++ [s.reg a]) }) := by
  have hbody : qputNbBody q a b (s.changed 4 id id) =
      .ok (s.changed 4 (fun f => f.write b 1) fun c => { c with q := c.q.set q (c.q[q] ++ [s.reg a]) }) := by
    have hreg : (s.changed 4 id id).reg a = s.reg a := reg_begun s 4 a
    rw [qputNbBody, q_begun, if_pos hlen, hreg, append_begun, changed_setReg]
    rfl
  rw [execQputNb_eq]
  exact issue_after (nd := { Need.plain [a] [b] with legal := decide (4 ≤ q.val) }) h (decide_eq_true hq) rfl rfl
    (fun _ => ⟨rfl, rfl⟩) hbody

theorem qputNb_full (hq : 4 ≤ q.val) (h : s.Clear [a] [b] []) (hlen : ¬s.myCore.q[q].length < 16) :
    exec (.qputNb q a b) s = .next (s.after 4 1 (fun f => f.write b 0) id) := by
  have hbody : qputNbBody q a b (s.changed 4 id id) = .ok (s.changed 4 (fun f => f.write b 0) id) := by
    rw [qputNbBody, q_begun, if_neg hlen, changed_setReg]
    rfl
  rw [execQputNb_eq]
  exact issue_after (nd := { Need.plain [a] [b] with legal := decide (4 ≤ q.val) }) h (decide_eq_true hq) rfl rfl
    (fun _ => ⟨rfl, rfl⟩) hbody

theorem qget_next (h : s.Clear [] [rd] []) {v : Word} {vs : List Word} (hv : s.myCore.q[q] = v :: vs)
    (hr : readersBefore s.myCore q.val (waitOrder s) = false) :
    exec (.qget rd q) s = .next (s.after 4 1 (fun f => f.write rd v) fun c => { c with q := c.q.set q c.q[q].tail }) := by
  have hbody : qgetBody rd q (waitOrder s) (s.changed 4 id id) =
      .ok (s.changed 4 (fun f => f.write rd v) fun c => { c with q := c.q.set q c.q[q].tail }) := by
    rw [qgetBody, q_begun, hv]
    dsimp only
    rw [readersBefore_begun hr, pop_begun, changed_setReg]
    rfl
  rw [execQget_eq]
  exact issue_after h rfl rfl rfl (fun _ => ⟨rfl, rfl⟩) hbody

theorem qget_held (h : s.Clear [] [rd] []) (hv : s.myCore.q[q] = []) :
    exec (.qget rd q) s = .next (s.stopped (.hold (.queueRead q.val 0))) := by
  have hbody : qgetBody rd q (waitOrder s) (s.changed 4 id id) = .error (.hold (.queueRead q.val 0)) := by
    rw [qgetBody, q_begun, hv]
  rw [execQget_eq]
  exact issue_stopped h rfl rfl rfl hbody

theorem qgetNb_next (h : s.Clear [] [rd, b] []) (hne : rd ≠ b) {v : Word} {vs : List Word} (hv : s.myCore.q[q] = v :: vs) :
    exec (.qgetNb rd q b) s =
      .next (s.after 4 1 (fun f => (f.write rd v).write b 1) fun c => { c with q := c.q.set q c.q[q].tail }) := by
  have hbody : qgetNbBody rd q b (s.changed 4 id id) =
      .ok (s.changed 4 (fun f => (f.write rd v).write b 1) fun c => { c with q := c.q.set q c.q[q].tail }) := by
    rw [qgetNbBody, q_begun, hv]
    dsimp only
    rw [pop_begun, changed_setReg, changed_setReg]
    rfl
  rw [execQgetNb_eq]
  exact issue_after (nd := { Need.plain [] [rd, b] with legal := rd != b }) h (bne_iff_ne.mpr hne) rfl rfl
    (fun _ => ⟨rfl, rfl⟩) hbody

theorem qgetNb_empty (h : s.Clear [] [rd, b] []) (hne : rd ≠ b) (hv : s.myCore.q[q] = []) :
    exec (.qgetNb rd q b) s = .next (s.after 4 1 (fun f => f.write b 0) id) := by
  have hbody : qgetNbBody rd q b (s.changed 4 id id) = .ok (s.changed 4 (fun f => f.write b 0) id) := by
    rw [qgetNbBody, q_begun, hv]
    exact congrArg Except.ok (changed_setReg s 4 id id b 0)
  rw [execQgetNb_eq]
  exact issue_after (nd := { Need.plain [] [rd, b] with legal := rd != b }) h (bne_iff_ne.mpr hne) rfl rfl
    (fun _ => ⟨rfl, rfl⟩) hbody

theorem qlen_next (h : s.Clear [] [rd] []) : exec (.qlen rd q) s = .next (s.wrote rd (BitVec.ofNat 64 s.myCore.q[q].length)) := by
  change s.compute (.plain [] [rd]) rd (fun t => Word.ofNat (t.myCore.q[q]).length) = _
  refine compute_next s _ rd _ _ h rfl nofun nofun ?_
  rw [myCore_q_begun]
  rfl

/-- What a fibre that is held leaves of its own and of its core. -/
theorem held_frame {t : State} {h : Hold} (k : s.IsHeld t h) :
    t.me.hold = some h ∧ t.me.pc = s.me.pc ∧ t.me.g = s.me.g ∧ t.myCore.q = s.myCore.q ∧ t.myCore.last = s.myCore.last ∧
      t.myCore.tags = s.myCore.tags := by
  obtain ⟨⟨r, hme⟩, ⟨l, hcore⟩, -, -⟩ := k
  rw [hme, hcore]
  exact ⟨rfl, rfl, rfl, rfl, rfl, rfl⟩

end

theorem queueMoves : Piece.QueueMoves := by
  intro s rd a b q c pushed popped illegal
  refine ⟨fun hl hf hu => ⟨fun hq => ?_, ?_⟩, fun hq => ⟨fun h hlen hw => qput_next hq h hlen hw, fun h hlen => ?_, fun h => ?_⟩,
    fun h => ⟨qlen_next h, fun v vs hv hr => qget_next h hv hr, fun hv => ?_⟩,
    fun h hne => ⟨fun v vs hv => qgetNb_next h hne hv, fun hv => qgetNb_empty h hne hv⟩⟩
  · have hlegal : decide (4 ≤ q.val) = false := decide_eq_false (not_le.mpr hq)
    rw [execQput_eq, execQputNb_eq]
    exact ⟨issue_illegal hl hf hu hlegal, issue_illegal hl hf hu hlegal⟩
  · rw [execQgetNb_eq]
    exact issue_illegal hl hf hu (bne_self_eq_false rd)
  · obtain ⟨o, hheld⟩ := held_queueWrite s q.val
    obtain ⟨hhold, hpc, hg, hqs, hlast, -⟩ := held_frame hheld
    exact ⟨_, o, qput_held hq h hlen, hhold, hpc, hg, hqs, hlast, hheld.outside, hheld.net⟩
  · split_ifs with hlen
    · exact qputNb_next hq h hlen
    · exact qputNb_full hq h hlen
  · obtain ⟨o, hheld⟩ := held_queueRead s q.val
    obtain ⟨hhold, hpc, hg, hqs, hlast, -⟩ := held_frame hheld
    exact ⟨_, o, qget_held h hv, hhold, hpc, hg, hqs, hlast, hheld.outside, hheld.net⟩

/-- Settles O16: each instruction by what its effect makes of the begun fibre and core. -/
theorem fibresAndQueues : Obligations.FibresAndQueues := ⟨yieldCompletes, fibreInstructions, queueMoves⟩

end Sys2Proof.Machine
end

section
/-!
PROOF. A message posted by the issuing fibre: its tag, its packet, and the words that it says (R69, R77 to R81), for O17.
-/

namespace Sys2Proof.Machine

open State

/-- A core whose micro-TLB stands in another order. -/
def Core.withUtlb (l : List MicroEntry) (c : Core) : Core := { c with utlb := l }

theorem Core.withUtlb_self (c : Core) : c.withUtlb c.utlb = c := rfl

theorem changed_withUtlb_self (s : State) : s.changed 4 id (Core.withUtlb s.myCore.utlb) = s.changed 4 id id := by
  unfold changed
  rw [Core.withUtlb_self]
  rfl

/-- A core with a tag taken (R69). -/
def Core.withTag (n : Nat) (t : Tag) (c : Core) : Core := { c with tags := Tab.put c.tags n t }

namespace State

section
variable {s : State} {l : List MicroEntry} {rank tag tc task : Nat} {port : Port} {k : MsgKind} {size : Bool} {sel : Word}
  {data : List Word}

theorem sendTagged_eq (t : State) (src dst : Port) (r : Routing) (tag : Nat) (sel : Word) (data : List Word) :
    ∃ p : Packet, t.sendTagged src dst r tag sel data = t.sent p ∧ p.src = src ∧ p.dst = dst ∧ p.tc = r.tc ∧
      p.load = .msg ⟨r.word, sel ||| Word.ofNat (tag * 2 ^ 55), data⟩ true :=
  ⟨t.markHeld _, rfl, t.markHeld_ends _⟩

theorem namedPort_changed (h : s.Names rank port) : (s.changed 4 id (Core.withUtlb l)).namedPort rank = .ok port := by
  obtain ⟨hport, hsup⟩ := h
  have kport : (s.changed 4 id (Core.withUtlb l)).rankPort s.cur.core rank = some port := hport
  have ksup : (!isServiceRank rank || (s.changed 4 id (Core.withUtlb l)).me.sup) = true := by
    rw [me_changed]
    change (!isServiceRank rank || s.me.sup) = true
    cases hr : isServiceRank rank with
    | false => rfl
    | true => rw [hsup hr]; rfl
  unfold namedPort
  rw [require_of_true ksup, changed_cur, kport]
  rfl

theorem takeTag_changed (h : s.TagFree tag) (t : Tag) :
    (s.changed 4 id (Core.withUtlb l)).takeTag t =
      .ok (tag, s.changed 4 id fun c => (c.withUtlb l).withTag tag t) := by
  obtain ⟨hfree, hmany⟩ := h
  have hcore : ((s.changed 4 id (Core.withUtlb l)).core s.cur.core).tags = s.myCore.tags :=
    (congrArg Core.tags (myCore_changed s 4 id (Core.withUtlb l))).trans rfl
  have hgen : (s.changed 4 id (Core.withUtlb l)).me.gen = s.me.gen := by rw [me_changed]; rfl
  have hmany' : (s.changed 4 id (Core.withUtlb l)).tagsOf s.cur.core s.cur.slot s.me.gen < 32 := by
    rw [tagsOf, hcore]
    exact hmany
  have hput : (s.changed 4 id (Core.withUtlb l)).onCore s.cur.core (Core.withTag tag t) =
      s.changed 4 id fun c => (c.withUtlb l).withTag tag t :=
    changed_onMyCore s 4 id (Core.withUtlb l) (Core.withTag tag t) fun _ _ _ => rfl
  unfold takeTag
  dsimp only
  rw [changed_cur, hcore, hfree, hgen]
  dsimp only
  rw [if_neg (not_le.mpr hmany')]
  exact congrArg (fun u => Except.ok (tag, u)) hput

/-- The routing that the issuing fibre's message has is that at issue. -/
theorem fibreRouting_changed (task : Nat) :
    ({ (s.changed 4 id (Core.withUtlb l)).fibreRouting k tc rank size with task := task } : Routing) =
      { s.fibreRouting k tc rank size with task := task } := by
  unfold fibreRouting
  simp only [me_changed]
  rfl

/-- The tag that a posted message of a fibre takes whose NextPC is set (R69, R71). -/
def tagPosted (t : State) (rank : Nat) (port : Port) : Tag where
  slot := t.cur.slot
  gen := t.me.gen
  use := .posted .message
  scope :=
    match port with
    | .core p => scopeOfCore t.cur.core p
    | _ => .system
  pc := (t.me.pc - 4#56).signExtend 64
  place := Word.ofNat rank
  issuer := t.cur.core

theorem tagPosted_changed : (s.changed 4 id (Core.withUtlb l)).tagPosted rank port = s.postTag rank port := by
  have hpc : s.me.pc + BitVec.ofNat 56 4 - 4#56 = s.me.pc := by bv_omega
  have hme : (s.changed 4 id (Core.withUtlb l)).me = slotBegun 4 s.me := me_changed ..
  simp only [tagPosted, hme, slotBegun, hpc, postTag]
  rfl

/-- A message posted, by the steps of R69 and R81. -/
theorem post_eq (t : State) : t.post k tc rank size task sel data = (do
    let port ← t.namedPort rank
    waitUnless (t.accepts t.cur.core) .outbound
    let (n, u) ← t.takeTag (t.tagPosted rank port)
    .ok (u.sendTagged (.core t.cur.core) port { t.fibreRouting k tc rank size with task := task } n sel data)) := rfl

theorem post_changed (hn : s.Names rank port) (ha : s.accepts s.cur.core = true) (htag : s.TagFree tag) :
    ∃ p : Packet, (s.changed 4 id (Core.withUtlb l)).post k tc rank size task sel data =
        .ok ((s.changed 4 id fun c => (c.withUtlb l).withTag tag (s.postTag rank port)).sent p) ∧
      p.src = .core s.cur.core ∧ p.dst = port ∧ p.tc = tc ∧
      p.load = .msg ⟨({ s.fibreRouting k tc rank size with task := task } : Routing).word, sel ||| Word.ofNat (tag * 2 ^ 55), data⟩ true := by
  have hacc : (s.changed 4 id (Core.withUtlb l)).accepts s.cur.core = true := ha
  obtain ⟨p, hsend, hp⟩ := sendTagged_eq (s.changed 4 id fun c => (c.withUtlb l).withTag tag (s.postTag rank port))
    (.core s.cur.core) port ({ s.fibreRouting k tc rank size with task := task }) tag sel data
  refine ⟨p, ?_, hp⟩
  rw [post_eq, namedPort_changed hn, ok_bind, changed_cur, hacc, waitUnless, if_pos rfl, ok_bind,
    tagPosted_changed, takeTag_changed htag, ok_bind, fibreRouting_changed]
  exact congrArg Except.ok hsend

/-- While the outbound queue accepts nothing, the message is held (R81). -/
theorem post_held (hn : s.Names rank port) (ha : s.accepts s.cur.core = false) :
    (s.changed 4 id id).post k tc rank size task sel data = .error (.hold .outbound) := by
  have hacc : (s.changed 4 id (Core.withUtlb s.myCore.utlb)).accepts s.cur.core = false := ha
  rw [← changed_withUtlb_self, post_eq, namedPort_changed hn, ok_bind, changed_cur, hacc]
  rfl

/-- The retirement of an instruction whose effect stands on its core, and which has sent a packet. -/
theorem retired_sent (s : State) (g : Core → Core) (p : Packet) (hl : s.me.live = true) :
    retired s 1 ((s.changed 4 id g).sent p) = (s.after 4 1 id g).sent p := by
  refine (retired_setCore s { s with net := s.net ++ [p] } 1 (c := (g s.myCore).setSlot s.cur.slot (slotBegun 4 s.me)) ?_ ?_).trans ?_
  · rw [Core.slot_setSlot]
    exact hl
  · rw [Core.slot_setSlot]
    rfl
  · rw [Core.slot_setSlot, Core.setSlot_setSlot]
    rfl

/-- What the words of a posted message say (R77 to R79). -/
theorem says_posted {p : Packet} {low : Nat} (hsrc : p.src = .core s.cur.core) (hptc : p.tc = tc)
    (hload : p.load = .msg ⟨({ s.fibreRouting k tc rank size with task := task } : Routing).word,
      Word.ofNat low ||| Word.ofNat (tag * 2 ^ 55), data⟩ true)
    (hlow : low < 2 ^ 55) (htag : tag < 512) (htc : tc < 4) (hrank : rank < 2 ^ 16) (htask : task < 2 ^ 12)
    (hme : s.rankOf s.cur.core < 2 ^ 16) :
    Tagged p tag ∧ s.Says p k.num tc rank size task low data true := by
  obtain ⟨mkind, mtc, mecls, mprio, mrec, mdest, mtask, msrc⟩ := Msg.fields_of_routing
    (r := { s.fibreRouting k tc rank size with task := task }) ⟨htc, s.me.prio.isLt, hrank, htask, hme⟩
    (Word.ofNat low ||| Word.ofNat (tag * 2 ^ 55)) data
  have hsel : (Word.ofNat low ||| Word.ofNat (tag * 2 ^ 55)).toNat = low + tag * 2 ^ 55 := by
    rw [BitVec.toNat_or, Word.ofNat, Word.ofNat, BitVec.toNat_ofNat, BitVec.toNat_ofNat, Nat.mod_eq_of_lt (by omega),
      Nat.mod_eq_of_lt (by omega), Nat.or_comm, Nat.mul_comm, ← Nat.two_pow_add_eq_or_of_lt hlow, Nat.add_comm]
  refine ⟨⟨_, hload, ?_⟩, hsrc, hptc, _, hload, mkind, mtc, mdest, msrc, mtask, mecls, Fin.ext mprio, mrec, ?_, rfl⟩
  · rw [Msg.tag, fld, hsel]
    omega
  · rw [fld, hsel]
    omega

end

end State

end Sys2Proof.Machine
end

section
/-!
PROOF. The payload of a SEND with a record: its translation changes the order of the micro-TLB alone (R82), for O17.
-/

namespace Sys2Proof.Machine

open State

/-- What a step that succeeds has passed through. -/
theorem bind_eq_ok {ε α β : Type} {x : Except ε α} {f : α → Except ε β} {b : β} (h : (x >>= f) = .ok b) :
    ∃ a, x = .ok a ∧ f a = .ok b := by
  cases x with
  | error e => cases h
  | ok a => exact ⟨a, rfl, h⟩

namespace State

section
variable {s : State} {l : List MicroEntry} {f : Slot} {a : Access} {kind : FaultKind} {va : Word}

theorem useEntry_state {t u : State} {e : TlbEntry} {pa : Nat} (h : t.useEntry f a kind va e = .ok (pa, u)) : u = t := by
  unfold useEntry trapAt at h
  split at h
  · cases h
  · split at h
    · cases h
    · cases h
      rfl

/-- The states that differ from the begun one in the order of the micro-TLB. -/
def Reordered (s t : State) : Prop := ∃ l, t = s.changed 4 id (Core.withUtlb l)

theorem translatePage_reordered {pa : Nat} {u : State}
    (h : (s.changed 4 id (Core.withUtlb l)).translatePage s.cur.core f a kind va = .ok (pa, u)) : Reordered s u := by
  unfold translatePage at h
  obtain ⟨-, -, h⟩ := bind_eq_ok h
  split_ifs at h
  · obtain ⟨-, -, h⟩ := bind_eq_ok h
    split at h
    · cases h
    · cases h
      exact ⟨l, rfl⟩
  · dsimp only at h
    split at h
    · next m _ =>
      rw [useEntry_state h]
      exact ⟨_, changed_onMyCore s 4 id (Core.withUtlb l) (fun c => { c with utlb := m :: c.utlb.erase m }) fun _ _ _ => rfl⟩
    · split at h
      · rw [useEntry_state h]
        exact ⟨l, rfl⟩
      · split at h <;> cases h

theorem translatePages_reordered (n : Nat) {t u : State} (ht : Reordered s t) {va : Word} {ps : Pages}
    (h : t.translatePages s.cur.core f a kind n va = .ok (ps, u)) : Reordered s u := by
  induction n generalizing t va ps with
  | zero =>
    cases h
    exact ht
  | succ n ih =>
    obtain ⟨l, rfl⟩ := ht
    unfold translatePages at h
    obtain ⟨⟨pa, t1⟩, hpage, h⟩ := bind_eq_ok h
    obtain ⟨⟨rest, t2⟩, hrest, h⟩ := bind_eq_ok h
    cases h
    exact ih (translatePage_reordered hpage) hrest

theorem checkLocal_reordered {n al : Nat} {ps : Pages} {h : Home} {u : State}
    (hc : (s.changed 4 id id).checkLocal a kind va n al = .ok (ps, h, u)) : Reordered s u := by
  unfold checkLocal at hc
  obtain ⟨-, -, hc⟩ := bind_eq_ok hc
  obtain ⟨-, -, hc⟩ := bind_eq_ok hc
  obtain ⟨⟨ps', t⟩, hrange, hc⟩ := bind_eq_ok hc
  have ht : Reordered s t := by
    unfold translateRange at hrange
    split_ifs at hrange
    · cases hrange
      exact ⟨s.myCore.utlb, (changed_withUtlb_self s).symm⟩
    · obtain ⟨⟨ps'', t'⟩, hpages, hrange⟩ := bind_eq_ok hrange
      obtain ⟨-, -, hrange⟩ := bind_eq_ok hrange
      obtain ⟨-, -, hrange⟩ := bind_eq_ok hrange
      cases hrange
      exact translatePages_reordered _ ⟨s.myCore.utlb, (changed_withUtlb_self s).symm⟩ hpages
  dsimp only at hc
  split at hc
  · split_ifs at hc
    · cases hc
      exact ht
    · cases hc
  · cases hc

theorem localRead_ok {u : State} {ps : Pages} {h : Home} {n : Nat}
    (hf : ∀ x ∈ ps.pieces ps.length va n, u.localFault h .load x.1 x.2 = none) :
    u.localRead kind ps h va n = .ok (ps.value u.mem va n) := by
  unfold localRead
  rw [List.findSome?_eq_none_iff.mpr hf]

end

end State

end Sys2Proof.Machine
end

section
/-!
PROOF. SEND, SENDC and DEP (O17).
-/

namespace Sys2Proof.Machine

open State

/-! ### The bodies -/

/-- SEND once its registers are up (R82). -/
def sendBody (a b : Reg) (t : State) : Except Stop State := do
  let w := t.reg a
  let flatar := State.ofFlatar t.cur.core t.me
  let stream := flag w 26
  require (fld w 39 25 == 0 && (flatar || fld w 27 12 == 0) && (!stream || fld w 18 6 == 0)) .illegal .message 0
  require (!(flag w 25 && flag w 24)) .illegal .message 0
  let _ ← t.namedPort (fld w 0 16)
  let sel := Word.ofNat ((if stream then 256 else 0) + (if stream then fld w 16 2 else fld w 16 8))
  let tc := if flag w 24 then 0 else 1
  let task := if flatar then fld w 27 12 else t.taskOf t.cur.core t.me
  if flag w 25 then do
    let (ps, h, t1) ← t.checkLocal .load .message (t.reg b) 64 8
    let v ← t1.localRead .message ps h (t.reg b) 64
    t1.post .run tc (fld w 0 16) true task sel ((List.range 8).map fun i => Word.ofNat (v / 2 ^ (64 * i)))
  else t.post .run tc (fld w 0 16) false task sel [t.reg b]

/-- SENDC once its registers are up (R83). -/
def sendcBody (a b : Reg) (t : State) : Except Stop State := do
  let w := t.reg a
  require (fld w 25 39 == 0 && fld w 22 2 == 0) .illegal .message 0
  t.post .count (if flag w 24 then 0 else 1) (fld w 0 16) false (t.taskOf t.cur.core t.me)
    (Word.ofNat (fld w 16 6 * 2 ^ 32 + fld (t.reg b) 0 32)) [0]

/-- DEP once its registers are up (R84). -/
def depBody (a b : Reg) (t : State) : Except Stop State := do
  let h := t.reg a
  require (fld h 36 28 == 0) .illegal .message 0
  t.post .deposit (if flag h 35 then 0 else 1) (fld h 0 16) false (t.taskOf t.cur.core t.me)
    (Word.ofNat (fld h 32 3 * 2 ^ 16 + fld h 24 8 * 2 ^ 8 + fld h 16 8)) [t.reg b]

theorem execSend_eq (a b : Reg) (s : State) : exec (.send a b) s = s.issue (.plain [a, b] []) (sendBody a b) := rfl

theorem execSendc_eq (a b : Reg) (s : State) : exec (.sendc a b) s = s.issue (.plain [a, b] []) (sendcBody a b) := rfl

theorem execDep_eq (a b : Reg) (s : State) : exec (.dep a b) s = s.issue (.plain [a, b] []) (depBody a b) := rfl

/-! ### The control words -/

namespace State

/-- The control word of SEND has no reserved bit set (R82). -/
def SendOk (s : State) (a : Reg) : Prop :=
  (s.reg a).toNat / 2 ^ 39 = 0 ∧ ((s.reg a).toNat / 2 ^ 27 = 0 ∨ ofFlatar s.cur.core s.me = true) ∧
    ((s.reg a).getLsbD 26 = true → (s.reg a).toNat / 2 ^ 18 % 64 = 0)

/-- The control word of SENDC has no reserved bit set (R83). -/
def SendcOk (s : State) (a : Reg) : Prop := (s.reg a).toNat / 2 ^ 25 = 0 ∧ (s.reg a).toNat / 2 ^ 22 % 4 = 0

/-- The control word of DEP has no reserved bit set (R84). -/
def DepOk (s : State) (a : Reg) : Prop := (s.reg a).toNat / 2 ^ 36 = 0

/-- The rank in a control word. -/
def rankIn (s : State) (a : Reg) : Nat := (s.reg a).toNat % 2 ^ 16

/-- The task that a SEND names (R82, R101). -/
def sendTask (s : State) (a : Reg) : Nat :=
  if ofFlatar s.cur.core s.me then (s.reg a).toNat / 2 ^ 27 % 2 ^ 12 else s.taskOf s.cur.core s.me

/-- The selector of a SEND: a stream queue or a handler (R82). -/
def sendSel (s : State) (a : Reg) : Nat :=
  if (s.reg a).getLsbD 26 then 256 + (s.reg a).toNat / 2 ^ 16 % 4 else (s.reg a).toNat / 2 ^ 16 % 256

end State

section
variable {s : State} {a b : Reg}

/-- A field that reaches the word's top is 0 where all of it is. -/
theorem fld_top_eq_zero (w : Word) {k n : Nat} (hn : k + n = 64) : fld w k n = 0 ↔ w.toNat / 2 ^ k = 0 := by
  have hlt : w.toNat / 2 ^ k < 2 ^ n := Nat.div_lt_of_lt_mul (by rw [← pow_add, hn]; exact w.isLt)
  rw [fld, Nat.mod_eq_of_lt hlt]

theorem sendOk_iff : (fld (s.reg a) 39 25 == 0 && (ofFlatar s.cur.core s.me || fld (s.reg a) 27 12 == 0) &&
    (!flag (s.reg a) 26 || fld (s.reg a) 18 6 == 0)) = true ↔ s.SendOk a := by
  rw [Bool.and_eq_true, Bool.and_eq_true, Bool.or_eq_true, Bool.or_eq_true, beq_iff_eq, beq_iff_eq, beq_iff_eq,
    fld_top_eq_zero _ (by decide), and_assoc]
  refine and_congr_right fun htop => and_congr ?_ ?_
  · have hmid : (s.reg a).toNat / 2 ^ 27 < 2 ^ 12 := by omega
    rw [or_comm, fld, Nat.mod_eq_of_lt hmid]
  · rw [Bool.not_eq_true', ← Bool.not_eq_true, ← imp_iff_not_or]
    rfl

theorem sendcOk_iff : (fld (s.reg a) 25 39 == 0 && fld (s.reg a) 22 2 == 0) = true ↔ s.SendcOk a := by
  rw [Bool.and_eq_true, beq_iff_eq, beq_iff_eq, fld_top_eq_zero _ (by decide)]
  rfl

theorem depOk_iff : (fld (s.reg a) 36 28 == 0) = true ↔ s.DepOk a := by
  rw [beq_iff_eq, fld_top_eq_zero _ (by decide)]
  rfl

/-! ### The bodies at the begun state -/

theorem ofFlatar_begun (s : State) : ofFlatar s.cur.core (s.changed 4 id id).me = ofFlatar s.cur.core s.me := by
  rw [me_changed]
  rfl

theorem taskOf_begun (s : State) : (s.changed 4 id id).taskOf s.cur.core (s.changed 4 id id).me = s.taskOf s.cur.core s.me := by
  rw [taskOf, ofFlatar_begun, ← begun_eq_changed, (sendsAlike_begun s 4).entryTask]
  rfl

/-- SEND's selector. -/
theorem sendSel_eq (s : State) (a : Reg) :
    (if flag (s.reg a) 26 then 256 else 0) + (if flag (s.reg a) 26 then fld (s.reg a) 16 2 else fld (s.reg a) 16 8) = s.sendSel a := by
  unfold sendSel fld flag
  split <;> simp

/-- A message that the checks let through is posted (R82). -/
theorem sendBody_word (h : s.SendOk a) (h25 : (s.reg a).getLsbD 25 = false) {port : Port} (hp : s.Names (s.rankIn a) port) :
    sendBody a b (s.changed 4 id id) = (s.changed 4 id id).post .run (if (s.reg a).getLsbD 24 then 0 else 1) (s.rankIn a) false
      (s.sendTask a) (Word.ofNat (s.sendSel a)) [s.reg b] := by
  have ha : (s.changed 4 id id).reg a = s.reg a := reg_begun s 4 a
  have hb : (s.changed 4 id id).reg b = s.reg b := reg_begun s 4 b
  have hport : (s.changed 4 id id).namedPort (s.rankIn a) = .ok port := namedPort_begun hp
  have hrank : fld (s.reg a) 0 16 = s.rankIn a := fld_low ..
  have h25' : flag (s.reg a) 25 = false := h25
  have hclass : (!(flag (s.reg a) 25 && flag (s.reg a) 24)) = true := by rw [h25']; rfl
  unfold sendBody
  dsimp only
  rw [ha, hb, changed_cur, ofFlatar_begun, taskOf_begun, require_of_true (sendOk_iff.mpr h), ok_bind,
    require_of_true hclass, ok_bind, hrank, hport, ok_bind, sendSel_eq, h25']
  rfl

theorem sendBody_record (h : s.SendOk a) (h25 : (s.reg a).getLsbD 25 = true) (h24 : (s.reg a).getLsbD 24 = false) {port : Port}
    (hp : s.Names (s.rankIn a) port) {ps : Pages} {k : Home} {u : State}
    (hc : (s.changed 4 id id).checkLocal .load .message (s.reg b) 64 8 = .ok (ps, k, u))
    (hf : ∀ x ∈ ps.pieces ps.length (s.reg b) 64, u.localFault k .load x.1 x.2 = none) :
    sendBody a b (s.changed 4 id id) = u.post .run 1 (s.rankIn a) true (s.sendTask a) (Word.ofNat (s.sendSel a))
      ((List.range 8).map fun i => Word.ofNat (ps.value u.mem (s.reg b) 64 / 2 ^ (64 * i))) := by
  have ha : (s.changed 4 id id).reg a = s.reg a := reg_begun s 4 a
  have hb : (s.changed 4 id id).reg b = s.reg b := reg_begun s 4 b
  have hport : (s.changed 4 id id).namedPort (s.rankIn a) = .ok port := namedPort_begun hp
  have hrank : fld (s.reg a) 0 16 = s.rankIn a := fld_low ..
  have h25' : flag (s.reg a) 25 = true := h25
  have h24' : flag (s.reg a) 24 = false := h24
  have hclass : (!(flag (s.reg a) 25 && flag (s.reg a) 24)) = true := by rw [h25', h24']; rfl
  unfold sendBody
  dsimp only
  rw [ha, hb, changed_cur, ofFlatar_begun, taskOf_begun, require_of_true (sendOk_iff.mpr h), ok_bind,
    require_of_true hclass, ok_bind, hrank, hport, ok_bind, sendSel_eq, h25', h24', if_pos rfl, hc, ok_bind]
  dsimp only
  rw [localRead_ok hf, ok_bind]
  rfl

theorem sendcBody_ok (h : s.SendcOk a) :
    sendcBody a b (s.changed 4 id id) = (s.changed 4 id id).post .count (if (s.reg a).getLsbD 24 then 0 else 1) (s.rankIn a) false
      (s.taskOf s.cur.core s.me) (Word.ofNat ((s.reg a).toNat / 2 ^ 16 % 64 * 2 ^ 32 + (s.reg b).toNat % 2 ^ 32)) [0] := by
  have ha : (s.changed 4 id id).reg a = s.reg a := reg_begun s 4 a
  have hb : (s.changed 4 id id).reg b = s.reg b := reg_begun s 4 b
  have hrank : fld (s.reg a) 0 16 = s.rankIn a := fld_low ..
  unfold sendcBody
  dsimp only
  rw [ha, hb, changed_cur, taskOf_begun, require_of_true (sendcOk_iff.mpr h), ok_bind, hrank, fld_low (s.reg b) 32]
  rfl

theorem depBody_ok (h : s.DepOk a) :
    depBody a b (s.changed 4 id id) = (s.changed 4 id id).post .deposit (if (s.reg a).getLsbD 35 then 0 else 1) (s.rankIn a) false
      (s.taskOf s.cur.core s.me) (Word.ofNat ((s.reg a).toNat / 2 ^ 32 % 8 * 2 ^ 16 + (s.reg a).toNat / 2 ^ 24 % 256 * 2 ^ 8 +
        (s.reg a).toNat / 2 ^ 16 % 256)) [s.reg b] := by
  have ha : (s.changed 4 id id).reg a = s.reg a := reg_begun s 4 a
  have hb : (s.changed 4 id id).reg b = s.reg b := reg_begun s 4 b
  have hrank : fld (s.reg a) 0 16 = s.rankIn a := fld_low ..
  unfold depBody
  dsimp only
  rw [ha, hb, changed_cur, taskOf_begun, require_of_true (depOk_iff.mpr h), ok_bind, hrank]
  rfl

end

end Sys2Proof.Machine
end

section
/-!
PROOF. The two parts of O17: the messages that are sent, and those that are refused.
-/

namespace Sys2Proof.Machine

open State

section
variable {s : State} {a b : Reg} {body : State → Except Stop State} {k : MsgKind} {tc rank task low tag : Nat} {size : Bool}
  {data : List Word} {port : Port}

/-- A message that is posted as its instruction completes (R69, R81). -/
theorem issue_posted (hs : s.Clear [a, b] [] []) (hn : s.Names rank port) (ha : s.accepts s.cur.core = true) (htag : s.TagFree tag)
    (hb : body (s.changed 4 id id) = (s.changed 4 id id).post k tc rank size task (Word.ofNat low) data)
    (hlow : low < 2 ^ 55) (hlt : tag < 512) (htc : tc < 4) (hrank : rank < 2 ^ 16) (htask : task < 2 ^ 12)
    (hme : s.rankOf s.cur.core < 2 ^ 16) :
    ∃ p : Packet, s.issue (.plain [a, b] []) body =
        .next ((s.after 4 1 id fun c => { c with tags := Tab.put c.tags tag (s.postTag rank port) }).sent p) ∧
      p.dst = port ∧ Tagged p tag ∧ s.Says p k.num tc rank size task low data true := by
  obtain ⟨p, hpost, hsrc, hdst, hptc, hload⟩ := post_changed (l := s.myCore.utlb) (k := k) (tc := tc) (size := size)
    (task := task) (sel := Word.ofNat low) (data := data) hn ha htag
  rw [changed_withUtlb_self] at hpost
  refine ⟨p, ?_, hdst, says_posted hsrc hptc hload hlow hlt htc hrank htask hme⟩
  rw [issue_retired hs rfl rfl rfl (hb.trans hpost)]
  exact congrArg Host.Outcome.next (retired_sent s _ p hs.live)

/-- A message that waits for the outbound queue (R81). -/
theorem issue_post_held (hs : s.Clear [a, b] [] []) (hn : s.Names rank port) (ha : s.accepts s.cur.core = false)
    (hb : body (s.changed 4 id id) = (s.changed 4 id id).post k tc rank size task (Word.ofNat low) data) :
    s.issue (.plain [a, b] []) body = .next (s.stopped (.hold .outbound)) :=
  issue_stopped hs rfl rfl rfl (hb.trans (post_held hn ha))

theorem sendSel_lt (s : State) (a : Reg) : s.sendSel a < 2 ^ 55 := by
  unfold sendSel
  split <;> omega

theorem sendTask_lt (s : State) (a : Reg) (h : s.taskOf s.cur.core s.me < 2 ^ 12) : s.sendTask a < 2 ^ 12 := by
  unfold sendTask
  split
  · exact Nat.mod_lt _ (by decide)
  · exact h

theorem class_lt (c : Bool) : (if c then 0 else 1) < 4 := by cases c <;> decide

theorem rankIn_lt (s : State) (a : Reg) : s.rankIn a < 2 ^ 16 := Nat.mod_lt _ (by decide)

/-- The core of a fibre that has sent a record: a tag taken, and the micro-TLB in another order (R82). -/
def Core.recorded (l : List MicroEntry) (tag : Nat) (t : Tag) (c : Core) : Core := (c.withUtlb l).withTag tag t

/-- What a record, the issue and the fibre's slot leave of a core. -/
theorem coreRest_recorded (c : Core) (l : List MicroEntry) (tag : Nat) (t : Tag) (ac rc n : Nat) (f : Slot) :
    coreRest { coreIssued ac rc ((c.recorded l tag t).setSlot n f) with utlb := [], tags := [] } =
      coreRest { c with utlb := [], tags := [] } := rfl

/-- The state after a record has been sent whose payload has been translated (R82). -/
theorem record_sent (s : State) (l : List MicroEntry) (t : Tag) (tag : Nat) (p : Packet) :
    let u := (s.after 4 1 id (Core.recorded l tag t)).sent p
    (u.core s.cur.core).tags = Tab.put s.myCore.tags tag t ∧ u.me = (s.after 4 1 id id).me ∧ s.OutsideKept u ∧ s.CoreSent u := by
  intro u
  have hcore : u.core s.cur.core = coreIssued (s.coreAc s.cur.core) s.rc ((s.myCore.recorded l tag t).setSlot s.cur.slot
      (slotBusy (s.coreAc s.cur.core + 8 * 1) (slotBegun 4 s.me))) := myCore_after s 4 1 id (Core.recorded l tag t)
  refine ⟨(congrArg Core.tags hcore).trans rfl,
    (me_after s 4 1 id (Core.recorded l tag t)).trans (me_after s 4 1 id id).symm,
    ⟨fun _ => rfl, rfl, rfl, fun q hq => core_after_other s 4 1 id (Core.recorded l tag t) hq, rfl, rfl, rfl, rfl, rfl, rfl, rfl,
      rfl, rfl⟩, ?_, (congrArg Core.fpmode hcore).trans rfl,
    fun n hn => slot_after_other s 4 1 id (Core.recorded l tag t) rfl hn⟩
  exact (congrArg (fun c : Core => coreRest { c with utlb := [], tags := [] }) hcore).trans (coreRest_recorded ..)

end

theorem messagesSent : Piece.MessagesSent := by
  intro s a b port tag w rank bit tc mine out hs htag hlt hn hme htask sendOk
  refine ⟨fun ha i hi => ?_, fun ha hok => ⟨fun h25 => ?_, fun h25 h24 ps h u hc hf => ?_⟩, fun ha htop hmid => ?_, fun ha htop => ?_⟩
  · have hheld := held_outbound s
    have hexec : exec i s = .next (s.stopped (.hold .outbound)) := by
      rcases hi with ⟨rfl, hok, h25⟩ | ⟨rfl, hok⟩ | ⟨rfl, hok⟩
      · exact issue_post_held hs hn ha (sendBody_word hok h25 hn)
      · exact issue_post_held hs hn ha (sendcBody_ok hok)
      · exact issue_post_held hs hn ha (depBody_ok hok)
    obtain ⟨hhold, hpc, hg, -, -, htags⟩ := held_frame hheld
    exact ⟨_, hexec, hhold, hpc, hg, hheld.net, htags, hheld.outside⟩
  · exact issue_posted hs hn ha htag (sendBody_word hok h25 hn) (sendSel_lt s a) hlt (class_lt _) (rankIn_lt s a)
      (sendTask_lt s a htask) hme
  · obtain ⟨l, rfl⟩ := checkLocal_reordered hc
    obtain ⟨p, hpost, hsrc, hdst, hptc, hload⟩ := post_changed (l := l) (k := .run) (tc := 1) (size := true)
      (task := s.sendTask a) (sel := Word.ofNat (s.sendSel a))
      (data := (List.range 8).map fun i => Word.ofNat (ps.value s.mem (s.reg b) 64 / 2 ^ (64 * i))) hn ha htag
    obtain ⟨htagged, hsays⟩ := says_posted hsrc hptc hload (sendSel_lt s a) hlt (by decide) (rankIn_lt s a) (sendTask_lt s a htask) hme
    obtain ⟨htags, hme', houtside, hsent⟩ := record_sent s l (s.postTag rank port) tag p
    refine ⟨_, p, ?_, rfl, hdst, htagged, hsays, htags, hme', houtside, hsent⟩
    rw [execSend_eq, issue_retired hs rfl rfl rfl ((sendBody_record hok h25 h24 hn hc hf).trans hpost)]
    exact congrArg Host.Outcome.next (retired_sent s _ p hs.live)
  · exact issue_posted hs hn ha htag (sendcBody_ok ⟨htop, hmid⟩) (by omega) hlt (class_lt _) (rankIn_lt s a) htask hme
  · exact issue_posted hs hn ha htag (depBody_ok htop) (by omega) hlt (class_lt _) (rankIn_lt s a) htask hme

/-! ### Messages that are refused (R81, R82, R97) -/

/-- A rank that the issuing fibre may not name, and the code of its refusal (R81, R97). -/
def State.Refuses (s : State) (rank : Nat) (c : FaultCode) : Prop :=
  (isServiceRank rank = true ∧ s.me.sup = false ∧ c = .privilege) ∨
    (isServiceRank rank = false ∧ s.rankPort s.cur.core rank = none ∧ c = .illegal)

section
variable {s : State} {a b : Reg} {c : FaultCode} {rank : Nat}

theorem namedPort_refused (h : s.Refuses rank c) : (s.changed 4 id id).namedPort rank = .error (.trap (trapOf c .message 0)) := by
  have hsup : (s.changed 4 id id).me.sup = s.me.sup := by rw [me_changed]; rfl
  unfold namedPort
  rw [hsup, changed_cur]
  rcases h with ⟨hservice, hs, rfl⟩ | ⟨hservice, hport, rfl⟩
  · rw [hservice, hs]
    rfl
  · have hport' : (s.changed 4 id id).rankPort s.cur.core rank = none := hport
    rw [hservice, Bool.not_false, Bool.true_or, require_of_true rfl, ok_bind, hport']
    rfl

theorem post_refused (h : s.Refuses rank c) (k : MsgKind) (tc : Nat) (size : Bool) (task : Nat) (sel : Word) (data : List Word) :
    (s.changed 4 id id).post k tc rank size task sel data = .error (.trap (trapOf c .message 0)) := by
  rw [post_eq, namedPort_refused h]
  rfl

/-- An instruction that sends, and whose effect traps. -/
theorem issue_refused {body : State → Except Stop State} (hs : s.Clear [a, b] [] [])
    (hb : body (s.changed 4 id id) = .error (.trap (trapOf c .message 0))) :
    s.issue (.plain [a, b] []) body = .next (s.trapped (trapOf c .message 0)) :=
  issue_trapped s _ body _ hs rfl rfl rfl hb

theorem sendBody_reserved (h : ¬s.SendOk a) : sendBody a b (s.changed 4 id id) = .error (.trap (trapOf .illegal .message 0)) := by
  have ha : (s.changed 4 id id).reg a = s.reg a := reg_begun s 4 a
  unfold sendBody
  dsimp only
  rw [ha, changed_cur, ofFlatar_begun, require_of_false (Bool.eq_false_iff.mpr (mt sendOk_iff.mp h)), error_bind]

/-- A record in TC0 (R82). -/
theorem sendBody_class (h : s.SendOk a) (h25 : (s.reg a).getLsbD 25 = true) (h24 : (s.reg a).getLsbD 24 = true) :
    sendBody a b (s.changed 4 id id) = .error (.trap (trapOf .illegal .message 0)) := by
  have ha : (s.changed 4 id id).reg a = s.reg a := reg_begun s 4 a
  have hclass : (!(flag (s.reg a) 25 && flag (s.reg a) 24)) = false := by rw [flag, flag, h25, h24]; rfl
  unfold sendBody
  dsimp only
  rw [ha, changed_cur, ofFlatar_begun, require_of_true (sendOk_iff.mpr h), ok_bind, require_of_false hclass, error_bind]

theorem sendBody_refused (h : s.SendOk a) (h25 : (s.reg a).getLsbD 25 = false) (hr : s.Refuses (s.rankIn a) c) :
    sendBody a b (s.changed 4 id id) = .error (.trap (trapOf c .message 0)) := by
  have ha : (s.changed 4 id id).reg a = s.reg a := reg_begun s 4 a
  have hrank : fld (s.reg a) 0 16 = s.rankIn a := fld_low ..
  have hclass : (!(flag (s.reg a) 25 && flag (s.reg a) 24)) = true := by rw [flag, h25]; rfl
  unfold sendBody
  dsimp only
  rw [ha, changed_cur, ofFlatar_begun, require_of_true (sendOk_iff.mpr h), ok_bind, require_of_true hclass, ok_bind, hrank,
    namedPort_refused hr, error_bind]

theorem sendcBody_reserved (h : ¬s.SendcOk a) : sendcBody a b (s.changed 4 id id) = .error (.trap (trapOf .illegal .message 0)) := by
  have ha : (s.changed 4 id id).reg a = s.reg a := reg_begun s 4 a
  unfold sendcBody
  dsimp only
  rw [ha, require_of_false (Bool.eq_false_iff.mpr (mt sendcOk_iff.mp h)), error_bind]

theorem depBody_reserved (h : ¬s.DepOk a) : depBody a b (s.changed 4 id id) = .error (.trap (trapOf .illegal .message 0)) := by
  have ha : (s.changed 4 id id).reg a = s.reg a := reg_begun s 4 a
  unfold depBody
  dsimp only
  rw [ha, require_of_false (Bool.eq_false_iff.mpr (mt depOk_iff.mp h)), error_bind]

end

theorem messagesRefused : Piece.MessagesRefused := by
  intro s a b w rank bit trap sendOk hs
  refine ⟨fun hok => issue_refused hs (sendBody_reserved hok), fun hok h25 h24 => issue_refused hs (sendBody_class hok h25 h24),
    fun hok => issue_refused hs (sendcBody_reserved hok), fun hok => issue_refused hs (depBody_reserved hok), fun c hr => ?_⟩
  have hr' : s.Refuses (s.rankIn a) c := hr
  exact ⟨fun hok h25 => issue_refused hs (sendBody_refused hok h25 hr'),
    fun htop hmid => issue_refused hs ((sendcBody_ok ⟨htop, hmid⟩).trans (post_refused hr' ..)),
    fun htop => issue_refused hs ((depBody_ok htop).trans (post_refused hr' ..))⟩

/-- Settles O17: the checks of a control word, and `post_changed` for the message that passes them. -/
theorem messages : Obligations.Messages := ⟨messagesSent, messagesRefused⟩

end Sys2Proof.Machine
end

section
/-!
PROOF. An ACCESS at its home (O14): the REPLY, the kick, and what is left of memory.
-/

namespace Sys2Proof.Machine

open State

namespace State

/-! ### The REPLY (R77, R79, R80) -/

theorem status_lt (c : FaultCode) : c.status < 8 := by cases c <;> decide

/-- The routing of the REPLY to a message. -/
def replyRouting (m : Msg) : Routing :=
  { kind := .reply, tc := m.tc, ecls := m.ecls, prio := m.prio.val, size := false, dest := m.src, task := m.task, src := m.dest }

theorem replyRouting_fits (m : Msg) : (replyRouting m).Fits :=
  ⟨Nat.mod_lt _ (by decide), m.prio.isLt, Nat.mod_lt _ (by decide), Nat.mod_lt _ (by decide), Nat.mod_lt _ (by decide)⟩

/-- The REPLY is one packet more in flight. -/
theorem reply_eq (s : State) (src dst : Port) (m : Msg) (status : Nat) (value : Word) :
    ∃ r, s.reply src dst m status value = { s with net := s.net ++ [r] } ∧ r.src = src ∧ r.dst = dst ∧ r.tc = m.tc ∧
      r.load = .msg ⟨(replyRouting m).word, Word.ofNat (status * 2 ^ 9 + m.tag), [value]⟩ false :=
  s.send_eq_net src dst (replyRouting m) _ _

theorem answered_reply (s : State) (src dst : Port) (m : Msg) {status : Nat} (hs : status < 8) (value : Word) :
    (s.reply src dst m status value).Answered s.net src dst m status value := by
  obtain ⟨r, heq, hsrc, hdst, htc, hload⟩ := s.reply_eq src dst m status value
  obtain ⟨mkind, mtc, mecls, mprio, mrec, mdest, mtask, msrc⟩ := Msg.fields_of_routing (replyRouting_fits m)
    (Word.ofNat (status * 2 ^ 9 + m.tag)) [value]
  have htag : m.tag < 2 ^ 9 := Nat.mod_lt _ (by decide)
  have hsel : (Word.ofNat (status * 2 ^ 9 + m.tag)).toNat = status * 2 ^ 9 + m.tag := by
    rw [Word.ofNat, BitVec.toNat_ofNat]
    omega
  rw [heq]
  refine ⟨r, _, rfl, hsrc, hdst, htc, hload, mkind, mtc, mecls, Fin.ext mprio, mtask, mdest, msrc, mrec, ?_, ?_, rfl⟩
  · rw [fld, hsel]
    omega
  · rw [fld, hsel]
    omega

theorem mem_reply (s : State) (src dst : Port) (m : Msg) (status : Nat) (value : Word) :
    (s.reply src dst m status value).mem = s.mem := rfl

/-! ### The kick of a store (R358) -/

theorem kickRing_kept (s : State) (r i : Nat) : (s.kickRing r i).mem = s.mem ∧ (s.kickRing r i).net = s.net := by
  unfold kickRing
  split
  · exact ⟨rfl, rfl⟩
  · dsimp only
    split_ifs <;> exact ⟨rfl, rfl⟩

theorem kickAt_kept (s : State) (pa n : Nat) : (s.kickAt pa n).mem = s.mem ∧ (s.kickAt pa n).net = s.net := by
  unfold kickAt
  split
  · refine List.foldlRecOn (motive := fun u : State => u.mem = s.mem ∧ u.net = s.net) _ _ ⟨rfl, rfl⟩ fun u hu i _ => ?_
    split
    · split_ifs
      · exact ⟨(kickRing_kept u _ i).1.trans hu.1, (kickRing_kept u _ i).2.trans hu.2⟩
      · exact hu
    · exact hu
  · exact ⟨rfl, rfl⟩

theorem triggerGather_kept (s : State) (h : Home) (pa n : Nat) :
    (s.triggerGather h pa n).mem = s.mem ∧ (s.triggerGather h pa n).net = s.net := by
  unfold triggerGather
  split
  · split <;> exact ⟨rfl, rfl⟩
  · exact ⟨rfl, rfl⟩

end State

end Sys2Proof.Machine
end

section
/-!
PROOF. ACCESS_PERFORM (O14).
-/

namespace Sys2Proof.Machine

open State

/-- What an access leaves of memory and of what is in flight: the new value's bytes at its location, or all as it was. -/
structure AccessLeft (s u : State) (pa n : Nat) (new : Option Nat) : Prop where
  bytes : ∀ v, new = some v → ∀ x, pa ≤ x → x < pa + n → Memory.byte u.mem x = BitVec.ofNat 8 (v / 256 ^ (x - pa))
  kept : new = none → u.mem = s.mem
  rest : ∀ x, x < pa ∨ pa + n ≤ x → Memory.byte u.mem x = Memory.byte s.mem x
  net : u.net = s.net

theorem accessLeft_none {s u : State} (pa n : Nat) (hm : u.mem = s.mem) (hn : u.net = s.net) : AccessLeft s u pa n none :=
  ⟨nofun, fun _ => hm, fun x _ => congrArg (Memory.byte · x) hm, hn⟩

/-- A byte of a value's n low bytes. -/
theorem byte_of_low {n i : Nat} (hi : i < n) (w : Nat) : BitVec.ofNat 8 (w / 256 ^ i) = BitVec.ofNat 8 (w % 2 ^ (8 * n) / 256 ^ i) := by
  apply BitVec.eq_of_toNat_eq
  have hsplit : 256 ^ n = 256 ^ i * 256 ^ (n - i) := by rw [← pow_add]; congr 1; omega
  have hdvd : 256 ∣ 256 ^ (n - i) := dvd_pow_self 256 (by omega)
  rw [BitVec.toNat_ofNat, BitVec.toNat_ofNat, two_pow_bytes, hsplit, Nat.mod_mul_right_div_self]
  exact (Nat.mod_mod_of_dvd _ hdvd).symm

section
variable {s : State} {h : Home} {pa n : Nat}

/-- A write performed, with what it triggers and kicks. -/
theorem accessLeft_write (hwf : Memory.wf s.mem = true) {v w : Nat} (hv : ∀ i < n, BitVec.ofNat 8 (w / 256 ^ i) = BitVec.ofNat 8 (v / 256 ^ i)) :
    AccessLeft s (((s.writeValue pa n w).triggerGather h pa n).kickAt pa n) pa n (some v) := by
  obtain ⟨hkmem, hknet⟩ := kickAt_kept ((s.writeValue pa n w).triggerGather h pa n) pa n
  obtain ⟨htmem, htnet⟩ := triggerGather_kept (s.writeValue pa n w) h pa n
  have hmem : (((s.writeValue pa n w).triggerGather h pa n).kickAt pa n).mem = Memory.store s.mem pa n w := hkmem.trans htmem
  refine ⟨fun v' hv' x hlo hhi => ?_, nofun, fun x hx => ?_, hknet.trans htnet⟩
  · cases hv'
    rw [hmem, Memory.byte_store hwf, if_pos ⟨hlo, hhi⟩, hv _ (by omega)]
  · rw [hmem, Memory.byte_store hwf, if_neg (by omega)]

variable {a : AccessAsk} {m : Msg}

/-- A load at its home (R72, R73). -/
theorem performMemory_load (ha : a.op = 0) (hn : 0 < a.bytes) (hr : s.readsWell h = true) :
    s.performMemory h a m = (extended a.bytes a.signed (Memory.value s.mem a.pa a.bytes), s) := by
  unfold performMemory AccessAsk.access passed
  rw [if_pos ha, hr, if_pos rfl]
  dsimp only
  rw [extendBytes_eq_extended hn]

/-- A store at its home (R73, R153). -/
theorem performMemory_store (ha : a.op = 1) (hw : s.writesWell h = true) (ht : s.TraceOff h) :
    s.performMemory h a m =
      (0, ((s.writeValue a.pa a.bytes (m.word 0).toNat).triggerGather h a.pa a.bytes).kickAt a.pa a.bytes) := by
  unfold performMemory AccessAsk.access
  rw [if_neg (by omega), if_pos ha, performWrite_of_off hw ht]

/-- An atomic at its home (R74, R75, R153). -/
theorem performMemory_atomic (h0 : a.op ≠ 0) (h1 : a.op ≠ 1) (hn : 0 < a.bytes) (hr : s.readsWell h = true)
    (hw : s.writesWell h = true) (ht : s.TraceOff h) :
    let old := Memory.value s.mem a.pa a.bytes
    let new := atomNew (AtomOp.ofCode a.op) a.bytes old ((m.word 0).toNat % 2 ^ (8 * a.bytes)) ((m.word 1).toNat % 2 ^ (8 * a.bytes))
    s.performMemory h a m = (extended a.bytes true old,
      (if new.isSome then (s.replaced a.pa a.bytes new).triggerGather h a.pa a.bytes else s).kickAt a.pa a.bytes) := by
  intro old new
  unfold performMemory AccessAsk.access
  rw [if_neg h0, if_neg h1]
  dsimp only
  rw [performAtomic_of_off hr hw ht hn, extendBytes_eq_extended hn]

/-- What an access to memory answers, and what it leaves (R72 to R75). -/
theorem performMemory_left (hwf : Memory.wf s.mem = true) (hn : 0 < a.bytes) (hr : s.readsWell h = true) (hw : s.writesWell h = true)
    (ht : s.TraceOff h) :
    let old := Memory.value s.mem a.pa a.bytes
    let d (j : Nat) : Nat := (m.word j).toNat % 2 ^ (8 * a.bytes)
    let new := if a.op = 0 then none else if a.op = 1 then some (d 0) else atomNew (AtomOp.ofCode a.op) a.bytes old (d 0) (d 1)
    let value := if a.op = 0 then extended a.bytes a.signed old else if a.op = 1 then 0 else extended a.bytes true old
    ∃ u, s.performMemory h a m = (value, u) ∧ AccessLeft s u a.pa a.bytes new := by
  intro old d new value
  by_cases h0 : a.op = 0
  · simp only [new, value, if_pos h0]
    exact ⟨s, performMemory_load h0 hn hr, accessLeft_none _ _ rfl rfl⟩
  · by_cases h1 : a.op = 1
    · simp only [new, value, if_neg h0, if_pos h1]
      exact ⟨_, performMemory_store h1 hw ht, accessLeft_write hwf fun i hi => byte_of_low hi _⟩
    · simp only [new, value, if_neg h0, if_neg h1]
      refine ⟨_, performMemory_atomic h0 h1 hn hr hw ht, ?_⟩
      cases hv : atomNew (AtomOp.ofCode a.op) a.bytes old (d 0) (d 1) with
      | none =>
        obtain ⟨hmem, hnet⟩ := kickAt_kept s a.pa a.bytes
        exact accessLeft_none _ _ hmem hnet
      | some v => exact accessLeft_write hwf fun _ _ => rfl

end

/-! ### The step -/

section
variable {s : State} {p : Packet} {m : Msg} {tg : Bool} {h : Home} (hfront : s.front s.spot.place = some p) (hload : p.load = .msg m tg)
  (hdst : p.dst = .home h) (hkind : m.kind = 4) (hplace : place (accessAsk m).pa = some (h, .memory))
include hfront hload hdst hkind hplace

theorem accessPerform_refuses
    (hr : s.homeRefuses ((Packet.sender p).getD 0) (m.task == 0 || (Packet.sender p).isNone) h (accessAsk m).pa = true) :
    exec .accessPerform s =
      .next ((s.taken s.spot.place).reply (.home h) (s.replyPort p m) m FaultCode.homeFenced.status 0) := by
  change execAccessPerform s = _
  unfold execAccessPerform
  simp only [hfront, hload, hdst, hplace, hr, if_true]
  exact if_neg (not_not_intro hkind)

theorem accessPerform_waits
    (hr : s.homeRefuses ((Packet.sender p).getD 0) (m.task == 0 || (Packet.sender p).isNone) h (accessAsk m).pa = false)
    (hw : s.accessWaits h (accessAsk m) = true) : exec .accessPerform s = .next s := by
  change execAccessPerform s = _
  unfold execAccessPerform
  simp only [hfront, hload, hdst, hplace, hr, hw, Bool.true_or, if_true, Bool.false_eq_true, if_false]
  exact if_neg (not_not_intro hkind)

theorem accessPerform_performs
    (hr : s.homeRefuses ((Packet.sender p).getD 0) (m.task == 0 || (Packet.sender p).isNone) h (accessAsk m).pa = false)
    (hw : s.accessWaits h (accessAsk m) = false) (ha : s.arrivedBefore s.spot.place p = false) :
    exec .accessPerform s =
      let r := (s.taken s.spot.place).performAccess h .memory (accessAsk m) m
      .next ((r.2.2.performed h false).reply (.home h) (s.replyPort p m) m r.1 r.2.1) := by
  change execAccessPerform s = _
  unfold execAccessPerform
  simp only [hfront, hload, hdst, hplace, hr, hw, ha, Bool.or_self, Bool.false_eq_true, if_false]
  exact if_neg (not_not_intro hkind)

end

theorem accessPerformed : Piece.AccessPerformed := by
  intro s p m tg h hfront hload hdst hkind hwf hplace a refuses refused
  refine ⟨fun hr => ?_, fun hr hw => accessPerform_waits hfront hload hdst hkind hplace hr hw, fun hr hw ha c hc => ?_,
    fun hr hw ha hread hwrite hc ht => ?_⟩
  · exact ⟨_, accessPerform_refuses hfront hload hdst hkind hplace hr, rfl, rfl, answered_reply _ _ _ _ (status_lt _) _⟩
  · have hfault : (s.taken s.spot.place).performAccess h .memory a m = (c.status, 0, s.taken s.spot.place) := by
      have hc' : (s.taken s.spot.place).remoteFault h a.access a.pa a.bytes = some c := hc
      unfold performAccess
      simp only [hc']
    refine ⟨_, accessPerform_performs hfront hload hdst hkind hplace hr hw ha, ?_⟩
    rw [hfault]
    exact ⟨rfl, rfl, answered_reply ((s.taken s.spot.place).performed h false) _ _ _ (status_lt _) _⟩
  · intro old d new value
    obtain ⟨u, hperf, hleft⟩ := performMemory_left (s := s.taken s.spot.place) (h := h) (a := a) (m := m) hwf (Nat.two_pow_pos _)
      hread hwrite ht
    have hdone : (s.taken s.spot.place).performAccess h .memory a m = (0, value, u) := by
      have hc' : (s.taken s.spot.place).remoteFault h a.access a.pa a.bytes = none := hc
      unfold performAccess
      simp only [hc']
      exact congrArg (Prod.mk 0) hperf
    refine ⟨_, accessPerform_performs hfront hload hdst hkind hplace hr hw ha, ?_⟩
    rw [hdone]
    refine ⟨hleft.bytes, hleft.kept, hleft.rest, ?_⟩
    rw [← hleft.net]
    exact answered_reply (u.performed h false) _ _ _ (Nat.zero_lt_succ 7) _

end Sys2Proof.Machine
end

section
/-!
PROOF. REPLY_ARRIVAL (O14).
-/

namespace Sys2Proof.Machine

open State

/-! ### What a REPLY makes of a fibre (R70, R71, R107) -/

/-- A fibre whose register takes a REPLY: the value, or the refusal with its address. -/
def Slot.landed (f : Slot) (r : Reg) (code : Option FaultCode) (v place : Word) (kind : FaultKind) : Slot :=
  match code with
  | none => f.arrive r v
  | some c => f.refuse r place { code := c, kind := kind }

theorem answer_register {g : Tag} {reg : Reg} {k : FaultKind} (h : g.use = .value reg k ∨ g.use = .status reg) (status : Nat)
    (v : Word) (f : Slot) :
    ∃ kind, g.answer status v f = f.onLoad reg (f.landed reg (statusCode status) v g.place kind) := by
  unfold Tag.answer Slot.landed
  rcases h with h | h
  · rw [h]
    exact ⟨k, rfl⟩
  · rw [h]
    exact ⟨.message, rfl⟩

section
variable (f : Slot) (r : Reg) (code : Option FaultCode) (v place : Word) (kind : FaultKind)

theorem landed_owed : (f.landed r code v place kind).owed = f.owed := by cases code <;> rfl

theorem landed_mark : (f.landed r code v place kind).mark[r] = none := by
  cases code <;> exact Vector.getElem_set_self _

/-- The other registers stay. -/
theorem landed_other {q : Reg} (hq : q ≠ r) :
    (f.landed r code v place kind).g[q] = f.g[q] ∧ (f.landed r code v place kind).mark[q] = f.mark[q] ∧
      (f.landed r code v place kind).refused[q] = f.refused[q] := by
  have hne : r.val ≠ q.val := fun h => hq (Fin.ext h.symm)
  cases code <;> exact ⟨Vector.getElem_set_ne r.isLt q.isLt hne, Vector.getElem_set_ne r.isLt q.isLt hne, Vector.getElem_set_ne r.isLt q.isLt hne⟩

theorem landed_value : (f.landed r none v place kind).g[r] = v ∧ (f.landed r none v place kind).refused[r] = none :=
  ⟨Vector.getElem_set_self _, Vector.getElem_set_self _⟩

theorem landed_refusal (c : FaultCode) :
    (f.landed r (some c) v place kind).g[r] = place ∧
      (f.landed r (some c) v place kind).refused[r] = some { code := c, kind := kind } :=
  ⟨Vector.getElem_set_self _, Vector.getElem_set_self _⟩

end

/-- A posted operation's REPLY without a refusal (R71). -/
theorem answer_posted_done {g : Tag} {k : FaultKind} (h : g.use = .posted k) {status : Nat} (hc : statusCode status = none) (v : Word)
    (f : Slot) : g.answer status v f = f := by
  unfold Tag.answer
  rw [h]
  dsimp only
  rw [hc]

/-- A posted operation's refusal becomes owed, or is counted (R71). -/
theorem answer_posted_refused {g : Tag} {k : FaultKind} (h : g.use = .posted k) {status : Nat} {c : FaultCode}
    (hc : statusCode status = some c) (v : Word) (f : Slot) : g.answer status v f = f.owe c k g.pc g.place := by
  unfold Tag.answer
  rw [h]
  dsimp only
  rw [hc]

theorem owe_first {f : Slot} (h : f.owed = none) (c : FaultCode) (k : FaultKind) (pc place : Word) :
    (f.owe c k pc place).owed = some { code := c, pc := pc, place := place, kind := k, count := 1 } := by
  unfold Slot.owe
  dsimp only
  rw [h]

theorem owe_more {f : Slot} {w : Owed} (h : f.owed = some w) (c : FaultCode) (k : FaultKind) (pc place : Word) :
    (f.owe c k pc place).owed = some { w with count := min 255 (w.count + 1) } := by
  unfold Slot.owe
  dsimp only
  rw [h]

/-! ### The step -/

theorem endCheck_of_no_course {s : State} {pid : Nat} {m : Msg} {g : Tag}
    (hg : Tab.look (s.core pid).tags (fld m.sel 0 9) = some g) (hu : ∀ r a, g.use ≠ .course r a) : s.endCheck pid m = s := by
  unfold endCheck
  rw [hg]
  split
  · next pa heq =>
    cases heq
    exact absurd rfl (hu _ _)
  · rfl

/-- The core at which a REPLY's tag has been freed and its fibre answered. -/
def Core.replied (c : Core) (ac : Nat) (m : Msg) (g : Tag) : Core :=
  ({ c with tags := Tab.remove c.tags (fld m.sel 0 9) }).setSlot g.slot
    ((g.answer (fld m.sel 9 3) (m.word 0) (c.slot g.slot)).wake ac)

theorem takeReply_eq {c : Core} {m : Msg} {g : Tag} (ac : Nat) (hg : Tab.look c.tags (fld m.sel 0 9) = some g)
    (hl : (c.slot g.slot).live = true) (hgen : (c.slot g.slot).gen = g.gen) : c.takeReply ac m = c.replied ac m g := by
  unfold Core.takeReply
  dsimp only
  rw [hg]
  dsimp only
  unfold Core.onFibre
  exact if_pos (Bool.and_eq_true_iff.mpr ⟨hl, beq_iff_eq.mpr hgen⟩)

theorem replyArrival_next {s : State} {p : Packet} {m : Msg} {tg : Bool} {port pid : Nat} {g : Tag}
    (hfront : s.front s.spot.place = some p) (hload : p.load = .msg m tg) (hdst : p.dst = .core port)
    (hpid : pid = (s.core port).went.getD port) (hkind : m.kind = 5) (hfenced : (s.core port).fenced = false)
    (hport : s.portRuns port = true) (hruns : s.portRuns pid = true) (hsaved : s.savedNow pid = false)
    (hg : Tab.look (s.core pid).tags (fld m.sel 0 9) = some g) (hu : ∀ r a, g.use ≠ .course r a)
    (hl : (s.slot pid g.slot).live = true) (hgen : (s.slot pid g.slot).gen = g.gen) :
    exec .replyArrival s =
      .next ((s.taken s.spot.place).setCore pid ((s.core pid).replied (s.coreAc pid) m g)) := by
  have hholder : s.holder port = pid := hpid.symm
  have hend : (s.taken s.spot.place).endCheck pid m = s.taken s.spot.place := endCheck_of_no_course hg hu
  change execReplyArrival s = _
  unfold execReplyArrival
  simp only [hfront, hload, hdst, hholder, hfenced, hport, hruns, hsaved, hend, Bool.not_true, Bool.or_self, Bool.false_eq_true,
    if_false]
  refine (if_neg (not_not_intro hkind)).trans (congrArg Host.Outcome.next ?_)
  exact congrArg ((s.taken s.spot.place).setCore pid) (takeReply_eq _ hg hl hgen)

theorem replyAnswers : Piece.ReplyAnswers := by
  intro s p m tg port pid g hfront hload hdst hpid hkind hfenced hport hruns hsaved hg hu hl hgen f code
  refine ⟨_, replyArrival_next hfront hload hdst hpid hkind hfenced hport hruns hsaved hg hu hl hgen, rfl, rfl, ?_,
    fun q hq => core_setCore_other _ _ _ _ hq, fun n hn => ?_, ?_⟩
  · rw [core_setCore]
    rfl
  · rw [slot, core_setCore]
    exact Core.slot_setSlot_other _ _ _ _ hn
  · have hslot : ((s.taken s.spot.place).setCore pid ((s.core pid).replied (s.coreAc pid) m g)).slot pid g.slot =
        (g.answer (fld m.sel 9 3) (m.word 0) f).wake (s.coreAc pid) := by
      rw [slot, core_setCore]
      exact Core.slot_setSlot _ _ _
    intro f'
    rw [show f' = _ from hslot]
    refine ⟨fun reg k hreg => ?_, fun k hk => ?_⟩
    · obtain ⟨kind, hanswer⟩ := answer_register hreg (fld m.sel 9 3) (m.word 0) f
      rw [hanswer]
      refine ⟨fun hmark => ?_, fun hmark => ?_⟩
      · rw [Slot.onLoad, if_neg (by rwa [beq_iff_eq])]
        exact ⟨rfl, rfl, rfl, rfl⟩
      · rw [Slot.onLoad, if_pos (by rw [hmark]; rfl)]
        refine ⟨landed_mark .., fun q hq => landed_other f reg _ _ _ _ hq, landed_owed .., fun hc => ?_, fun c hc => ?_⟩
        · rw [show statusCode (fld m.sel 9 3) = none from hc]
          exact landed_value f reg (m.word 0) g.place kind
        · rw [show statusCode (fld m.sel 9 3) = some c from hc]
          obtain ⟨hvalue, hrefused⟩ := landed_refusal f reg (m.word 0) g.place kind c
          exact ⟨hvalue, kind, hrefused⟩
    · cases hc : statusCode (fld m.sel 9 3) with
      | none =>
        rw [answer_posted_done hk hc]
        exact ⟨rfl, rfl, rfl, fun _ => rfl, fun c h => (nomatch hc.symm.trans h), fun c w h => (nomatch hc.symm.trans h)⟩
      | some c =>
        rw [answer_posted_refused hk hc]
        refine ⟨rfl, rfl, rfl, fun h => (nomatch hc.symm.trans h), fun c' h ho => ?_, fun c' w h ho => ?_⟩
        · cases hc.symm.trans h
          exact owe_first ho c k g.pc g.place
        · cases hc.symm.trans h
          exact owe_more ho c k g.pc g.place

/-- Settles O14: what an access at its home answers and leaves, and what its REPLY makes of the fibre. -/
theorem accessesPerformedAndAnswered : Obligations.AccessesPerformedAndAnswered := ⟨accessPerformed, replyAnswers⟩

end Sys2Proof.Machine
end

section
/-!
PROOF. RECORD_ARRIVAL: the records that a port refuses, that find no place, and that are held (O27).
-/

namespace Sys2Proof.Machine

open State

namespace State

/-- A tagged message is answered with a status from a place, an untagged one is not: what is then in flight. -/
def AnsweredIf (t : State) (tg : Bool) (net : List Packet) (src dst : Port) (m : Msg) (status : Nat) : Prop :=
  (tg = true → t.Answered net src dst m status 0) ∧ (tg = false → t.net = net)

theorem answer_kept (u : State) (p : Packet) (m : Msg) (tg : Bool) (status : Nat) :
    (u.answer p m tg status).mem = u.mem ∧ (u.answer p m tg status).cores = u.cores := by
  unfold answer
  split <;> exact ⟨rfl, rfl⟩

theorem answer_answered (u : State) (p : Packet) (m : Msg) (tg : Bool) {status : Nat} (hs : status < 8) :
    (u.answer p m tg status).AnsweredIf tg u.net p.dst (u.replyPort p m) m status := by
  unfold answer
  cases tg with
  | true => exact ⟨fun _ => answered_reply u _ _ m hs 0, nofun⟩
  | false => exact ⟨nofun, fun _ => rfl⟩

/-- A record that goes back with its code, or whose tag is answered with it (R80, R87, R114). -/
theorem refuseRecord_kept (u : State) (p : Packet) (m : Msg) (tg : Bool) (c : FaultCode) :
    (u.refuseRecord p m tg c).mem = u.mem ∧ (u.refuseRecord p m tg c).cores = u.cores := by
  unfold refuseRecord
  split
  · exact ⟨rfl, rfl⟩
  · exact answer_kept u p m tg _

theorem refuseRecord_answered (u : State) (p : Packet) {m : Msg} (tg : Bool) (c : FaultCode) (h : m.kind ≠ 3) :
    (u.refuseRecord p m tg c).AnsweredIf tg u.net p.dst (u.replyPort p m) m c.status := by
  have h' : ¬m.kind = MsgKind.migrate.num := h
  rw [refuseRecord, if_neg h']
  exact answer_answered u p m tg (status_lt c)

/-- What comes into the mesh is one packet more in flight. -/
theorem inject_eq (u : State) (src dst : Port) (tc : Nat) (load : Payload) :
    ∃ q : Packet, u.inject src dst tc load = { u with net := u.net ++ [q] } ∧ q.src = src ∧ q.dst = dst ∧ q.tc = tc ∧
      q.load = load :=
  ⟨u.markHeld _, rfl, u.markHeld_ends _⟩

theorem refuseRecord_returned (u : State) (p : Packet) {m : Msg} (tg : Bool) (c : FaultCode) (h : m.kind = 3) :
    ∃ q, (u.refuseRecord p m tg c).net = u.net ++ [q] ∧ q.src = p.dst ∧ q.dst = u.replyPort p m ∧ q.load = .returned m c := by
  obtain ⟨q, hq, hsrc, hdst, -, hload⟩ := u.inject_eq p.dst (u.replyPort p m) 1 (.returned m c)
  have h' : m.kind = MsgKind.migrate.num := h
  rw [refuseRecord, if_pos h', hq]
  exact ⟨q, rfl, hsrc, hdst, hload⟩

/-- The state in which a record that is no longer in flight finds its place: a RUN is a request to the core's memory (R296). -/
def landed (s : State) (pid : Nat) (m : Msg) : State :=
  if m.kind = MsgKind.run.num then (s.taken s.spot.place).performed (.tcm pid) false else s.taken s.spot.place

theorem landed_kept (s : State) (pid : Nat) (m : Msg) :
    (s.landed pid m).mem = s.mem ∧ (s.landed pid m).cores = s.cores ∧ (s.landed pid m).net = (s.taken s.spot.place).net ∧
      (s.landed pid m).seq = s.seq := by
  unfold landed
  split <;> exact ⟨rfl, rfl, rfl, rfl⟩

theorem replyPort_landed (s : State) (pid : Nat) (m m' : Msg) (p : Packet) : (s.landed pid m).replyPort p m' = s.replyPort p m' := by
  unfold landed
  split <;> rfl

end State

/-! ### The step -/

section
variable {s : State} {p : Packet} {m : Msg} {tg : Bool} {pid : Nat} (h : Arrives s p m tg pid)
include h

theorem recordKind_of_arrives : isReservedKind m.kind = false ∧ isRecordKind m.kind = true := by
  obtain ⟨-, -, -, hkind⟩ := h
  generalize m.kind = k at hkind
  interval_cases k <;> exact ⟨rfl, rfl⟩

theorem recordArrival_refused (hr : s.portRefuses p.src pid (m.task == 0) = true) :
    exec .recordArrival s = .next ((s.taken s.spot.place).refuseRecord p m tg .homeFenced) := by
  obtain ⟨hres, hrec⟩ := recordKind_of_arrives h
  obtain ⟨hfront, hload, hdst, -⟩ := h
  change execRecordArrival s = _
  unfold execRecordArrival
  simp only [hfront, hload, hdst, hres, hrec, hr, Bool.not_true, Bool.false_eq_true, if_false, if_true]

variable (hr : s.portRefuses p.src pid (m.task == 0) = false) (hruns : s.portRuns pid = true)
include hr hruns

theorem recordArrival_forward {i : Nat} (hstub : s.stubMatch pid m = some i)
    (hwait : ¬(fld m.sel 9 2 = 3 ∧ !s.mayDivert pid)) :
    exec .recordArrival s = .next ((s.landed pid m).forward pid p m tg i) := by
  obtain ⟨hres, hrec⟩ := recordKind_of_arrives h
  obtain ⟨hfront, hload, hdst, -⟩ := h
  change execRecordArrival s = _
  unfold execRecordArrival
  simp only [hfront, hload, hdst, hres, hrec, hr, hruns, hstub, Bool.not_true, Bool.false_eq_true, if_false]
  exact if_neg hwait

variable (hstub : s.stubMatch pid m = none) (hwait : s.recordWaits pid m = false)
include hstub hwait

theorem recordArrival_placed {t : State} (ht : (s.landed pid m).placeFor pid m = some t) :
    exec .recordArrival s = .next (t.answer p m tg 0) := by
  obtain ⟨hres, hrec⟩ := recordKind_of_arrives h
  obtain ⟨hfront, hload, hdst, -⟩ := h
  change execRecordArrival s = _
  unfold execRecordArrival
  simp only [hfront, hload, hdst, hres, hrec, hr, hruns, hstub, hwait, Bool.not_true, Bool.false_eq_true, if_false]
  change (match (s.landed pid m).placeFor pid m with | some t => _ | none => _) = _
  rw [ht]

theorem recordArrival_lost (ht : (s.landed pid m).placeFor pid m = none) :
    exec .recordArrival s = .next ((s.landed pid m).refuseRecord p m tg .overflowExhausted) := by
  obtain ⟨hres, hrec⟩ := recordKind_of_arrives h
  obtain ⟨hfront, hload, hdst, -⟩ := h
  change execRecordArrival s = _
  unfold execRecordArrival
  simp only [hfront, hload, hdst, hres, hrec, hr, hruns, hstub, hwait, Bool.not_true, Bool.false_eq_true, if_false]
  change (match (s.landed pid m).placeFor pid m with | some t => _ | none => _) = _
  rw [ht]
  rfl

end

end Sys2Proof.Machine
end

section
/-!
PROOF. The entry that takes a record (R91, R111), and the first part of O27.
-/

namespace Sys2Proof.Machine

open State

namespace State

section
variable {v : State} {pid : Nat} {m : Msg}

/-- A record that a general entry takes (R91, R111). -/
theorem placeRecord_general (hring : v.ringCount pid = 0) (hg : (v.core pid).part.length < (v.core pid).general)
    (hk : m.kind ≠ 3 ∨ (v.core pid).admitting = true) :
    v.placeRecord pid m false = some ((v.hold pid m false false v.seq).tick) := by
  have hgeneral : (v.core pid).hasGeneral = true := decide_eq_true hg
  unfold placeRecord
  dsimp only
  rw [hring, hgeneral]
  cases hadm : (v.core pid).admitting with
  | true => rfl
  | false =>
    have hmig : (m.kind == MsgKind.migrate.num) = false := beq_eq_false_iff_ne.mpr (hk.resolve_right (by rw [hadm]; decide))
    rw [hmig]
    rfl

/-- A MIGRATE that the reserve takes (R91, R111). -/
theorem placeRecord_reserve (hring : v.ringCount pid = 0) (hr : (v.core pid).reserve.length < (v.core pid).mres) (hk : m.kind = 3)
    (ha : (v.core pid).admitting = false ∨ ¬(v.core pid).part.length < (v.core pid).general) :
    v.placeRecord pid m false = some ((v.hold pid m false true v.seq).tick) := by
  have hreserve : (v.core pid).hasReserve = true := decide_eq_true hr
  have hmig : (m.kind == MsgKind.migrate.num) = true := beq_iff_eq.mpr hk
  unfold placeRecord
  dsimp only
  rw [hring, hreserve, hmig]
  cases hadm : (v.core pid).admitting with
  | true =>
    have hgeneral : (v.core pid).hasGeneral = false := decide_eq_false (ha.resolve_left (by rw [hadm]; decide))
    rw [hgeneral]
    rfl
  | false => rfl

/-- A RUNNING core of the record's task takes it into its mailbox (R116). -/
theorem placeFor_running (hs : isService pid = false) (hm : m.task = v.entryTask pid) (he : v.entryState pid = 2)
    (hsaved : v.savedNow pid = false) : v.placeFor pid m = v.placeRecord pid m false := by
  unfold placeFor
  dsimp only
  rw [hs, beq_iff_eq.mpr hm, hsaved, he]
  rfl

/-- The entry of a record that arrives in this ac. -/
def heldNow (s : State) (pid : Nat) (m : Msg) : Held := { msg := m, start := none, first := false, order := s.seq, ac := s.coreAc pid }

/-- A core with a record in an entry: in the reserve or among the general ones (R91). -/
def Core.holding (inReserve : Bool) (h : Held) (c : Core) : Core :=
  if inReserve then { c with reserve := c.reserve ++ [h] } else { c with part := c.part ++ [h] }

theorem core_held (v : State) (pid : Nat) (m : Msg) (r : Bool) :
    ((v.hold pid m false r v.seq).tick).core pid = Core.holding r (v.heldNow pid m) (v.core pid) :=
  core_onCore v pid (Core.holding r (v.heldNow pid m))

theorem core_held_other (v : State) (pid : Nat) (m : Msg) (r : Bool) {q : Nat} (hq : q ≠ pid) :
    ((v.hold pid m false r v.seq).tick).core q = v.core q :=
  core_onCore_other v pid q (Core.holding r (v.heldNow pid m)) hq

end

/-- The place of a record is found in the state in which it has arrived. -/
theorem landed_facts (s : State) (pid : Nat) (m : Msg) :
    (s.landed pid m).ringCount pid = s.ringCount pid ∧ (∀ q, (s.landed pid m).core q = s.core q) ∧
      (s.landed pid m).entryTask pid = s.entryTask pid ∧ (s.landed pid m).entryState pid = s.entryState pid ∧
      (s.landed pid m).savedNow pid = s.savedNow pid ∧ (s.landed pid m).heldNow pid m = s.heldNow pid m := by
  unfold landed
  split <;> exact ⟨rfl, fun _ => rfl, rfl, rfl, rfl, rfl⟩

end State

theorem core_of_cores {s t : State} (h : t.cores = s.cores) (q : Nat) : t.core q = s.core q := by
  unfold State.core
  rw [h]

section
variable {s : State} {p : Packet} {m : Msg} {tg : Bool} {pid : Nat}

/-- A record that a core accepts is answered with status 0, and all else is as its entry has left it. -/
theorem accepted_frame (hdst : p.dst = .core pid) {w : State} (hmem : w.mem = s.mem) (hnet : w.net = (s.taken s.spot.place).net)
    (hport : w.replyPort p m = s.replyPort p m) :
    (w.answer p m tg 0).AnsweredIf tg (s.taken s.spot.place).net (.core pid) (s.replyPort p m) m 0 ∧
      (w.answer p m tg 0).mem = s.mem ∧ ∀ q, (w.answer p m tg 0).core q = w.core q := by
  obtain ⟨kmem, kcores⟩ := w.answer_kept p m tg 0
  have kanswer := w.answer_answered p m tg (status := 0) (by decide)
  rw [hnet, hdst, hport] at kanswer
  exact ⟨kanswer, kmem.trans hmem, core_of_cores kcores⟩

end

theorem recordsPlaced : Piece.RecordsArrive := by
  intro s p m tg pid h c u v answered refused
  have hdst : p.dst = .core pid := h.2.2.1
  have hrefused : ∀ (w : State) (code : FaultCode), w.mem = s.mem → w.cores = s.cores → w.net = u.net →
      w.replyPort p m = s.replyPort p m → refused (w.refuseRecord p m tg code) code := by
    intro w code hmem hcores hnet hport
    obtain ⟨kmem, kcores⟩ := w.refuseRecord_kept p m tg code
    refine ⟨kmem.trans hmem, kcores.trans hcores, fun hk => ?_, fun hk => ?_⟩
    · have := w.refuseRecord_answered p tg code hk
      rwa [hnet, hdst, hport] at this
    · have := w.refuseRecord_returned p tg code hk
      rwa [hnet, hdst, hport] at this
  obtain ⟨lmem, lcores, lnet, -⟩ := s.landed_kept pid m
  obtain ⟨hring, hcore, htask, hstate, hsaved, hheld⟩ := s.landed_facts pid m
  refine ⟨fun hr => ⟨_, recordArrival_refused h hr, hrefused _ _ rfl rfl rfl rfl⟩, fun hr hruns hwait hstub => ⟨fun hnone => ?_,
    fun hservice hmine hrunning hsave hempty => ?_⟩⟩
  · exact ⟨_, recordArrival_lost h hr hruns hstub hwait hnone, hrefused _ _ lmem lcores lnet (s.replyPort_landed pid m m p)⟩
  · have hplace := placeFor_running (v := s.landed pid m) (m := m) hservice (hmine.trans htask.symm) (hstate.trans hrunning)
      (hsaved.trans hsave)
    intro general reserve hd
    refine ⟨fun hg hk => ?_, fun hr' hk ha => ?_⟩
    · have hput := hplace.trans (placeRecord_general (hring.trans hempty) (by rw [hcore]; exact hg) (by rw [hcore]; exact hk))
      obtain ⟨kanswer, kmem, kcore⟩ := accepted_frame (tg := tg) (m := m) hdst
        (w := ((s.landed pid m).hold pid m false false (s.landed pid m).seq).tick) lmem lnet (s.replyPort_landed pid m m p)
      refine ⟨_, recordArrival_placed h hr hruns hstub hwait hput, kanswer, ?_, ?_, kmem, fun q hq => ?_⟩
      · rw [kcore, core_held, hcore, hheld]
        rfl
      · rw [kcore, core_held, hcore]
        rfl
      · rw [kcore, core_held_other _ _ _ _ hq, hcore]
    · have hput := hplace.trans (placeRecord_reserve (hring.trans hempty) (by rw [hcore]; exact hr') hk (by rw [hcore]; exact ha))
      obtain ⟨kanswer, kmem, kcore⟩ := accepted_frame (tg := tg) (m := m) hdst
        (w := ((s.landed pid m).hold pid m false true (s.landed pid m).seq).tick) lmem lnet (s.replyPort_landed pid m m p)
      refine ⟨_, recordArrival_placed h hr hruns hstub hwait hput, kanswer, ?_, ?_, kmem, fun q hq => ?_⟩
      · rw [kcore, core_held, hcore, hheld]
        rfl
      · rw [kcore, core_held, hcore]
        rfl
      · rw [kcore, core_held_other _ _ _ _ hq, hcore]

end Sys2Proof.Machine
end

section
/-!
PROOF. Records that a stub forwards (R293, R294), and O27.
-/

namespace Sys2Proof.Machine

open State

/-! ### What a ring and a dead letter change (R115, R117) -/

namespace State

/-- A state that differs from another in memory alone, with the words that are bad in it. -/
def MemoryOnly (s t : State) : Prop := ∃ m b, t = { s with mem := m, bad := b }

theorem memoryOnly_putWord (s : State) (pa : Nat) (v : Word) : MemoryOnly s (s.putWord pa v) := ⟨_, _, rfl⟩

theorem MemoryOnly.trans {s t u : State} (h : MemoryOnly s t) (k : MemoryOnly t u) : MemoryOnly s u := by
  obtain ⟨_, _, rfl⟩ := h
  obtain ⟨_, _, rfl⟩ := k
  exact ⟨_, _, rfl⟩

theorem memoryOnly_putWords (s : State) (pa : Nat) (ws : List Word) : MemoryOnly s (s.putWords pa ws) := by
  induction ws generalizing s pa with
  | nil => exact ⟨_, _, rfl⟩
  | cons w ws ih => exact (memoryOnly_putWord s pa w).trans (ih (s.putWord pa w) (pa + 8))

theorem memoryOnly_appendRing {s t : State} {pid pasid : Nat} {hdr : Word} {m : Msg} {extra : List Word}
    (h : s.appendRing pid pasid hdr m extra = some t) : MemoryOnly s t := by
  unfold appendRing at h
  split at h
  · cases h
  · split_ifs at h
    split at h
    · cases h
    · split_ifs at h
      cases h
      exact (memoryOnly_putWords _ _ _).trans (memoryOnly_putWord _ _ _)

end State

/-- A core with a dead letter more in its task's ring, or lost (R117, R118). -/
def Core.diverted (kept : Bool) (c : Core) : Core :=
  if kept then { c with dead := holdAtTop 32 c.dead } else { c with lost := holdAtTop 32 c.lost }

theorem deadLetterAt_eq (s : State) (pid pasid : Nat) (hdr : Word) (m : Msg) (why : Reason) :
    ∃ (t : State) (kept : Bool), MemoryOnly s t ∧ s.deadLetterAt pid pasid hdr m why = t.onCore pid (Core.diverted kept) := by
  unfold deadLetterAt
  split
  · next t h => exact ⟨t, true, memoryOnly_appendRing h, rfl⟩
  · exact ⟨s, false, ⟨_, _, rfl⟩, rfl⟩

/-! ### Forwarding -/

/-- The entry of a stub that has forwarded a message: COUNT has risen (R294). -/
def stubCounted (w : Word) : Word := Word.ofNat (holdAtTop 32 (fld w 32 32) * 2 ^ 32 + fld w 0 32)

theorem stubCounted_fields (w : Word) :
    (stubCounted w).toNat % 2 ^ 32 = w.toNat % 2 ^ 32 ∧ (stubCounted w).toNat / 2 ^ 32 = min (2 ^ 32 - 1) (w.toNat / 2 ^ 32 + 1) := by
  have hlow : fld w 0 32 = w.toNat % 2 ^ 32 := fld_low w 32
  have hhigh : fld w 32 32 = w.toNat / 2 ^ 32 := by
    have := w.isLt
    rw [fld]
    omega
  rw [stubCounted, hlow, hhigh, holdAtTop, Word.ofNat, BitVec.toNat_ofNat]
  omega

/-- A core of which a stub's entry has been written. -/
def Core.withStub (i : Nat) (w : Word) (c : Core) : Core := { c with sdst := Tab.put c.sdst i w }

/-- A message as a stub sends it on (R293): another DEST, and a hop more. -/
def forwardedMsg (m : Msg) (w : Word) : Msg :=
  { m with rw := fields 0x0000FFFF00000000#64 m.rw (w <<< 32), sel := m.sel + 0x200#64 }

theorem fields_kept (mask old new : Word) : fields mask old new &&& ~~~mask = old &&& ~~~mask := by
  ext i hi
  simp only [fields, BitVec.getElem_and, BitVec.getElem_or, BitVec.getElem_not]
  cases mask[i] <;> simp

theorem forwardedMsg_dest (m : Msg) (w : Word) : (forwardedMsg m w).dest = w.toNat % 2 ^ 16 := by
  have hmask : ∀ i < 16, (0x0000FFFF00000000#64).getLsbD (32 + i) = true := by decide
  have hbits : (forwardedMsg m w).rw.extractLsb' 32 16 = w.extractLsb' 0 16 := by
    ext i hi
    simp only [forwardedMsg, fields, BitVec.getElem_extractLsb', BitVec.getLsbD_or, BitVec.getLsbD_and, BitVec.getLsbD_not,
      BitVec.getLsbD_shiftLeft, hmask i hi]
    simp
    omega
  rw [← fld_low]
  exact (toNat_extractLsb'_eq_fld _ _ _).symm.trans ((congrArg BitVec.toNat hbits).trans (toNat_extractLsb'_eq_fld _ _ _))

section
variable {s : State} {p : Packet} {m : Msg} {tg : Bool} {pid i : Nat}

/-- The state in which a stub's entry has counted a message (R294). -/
def State.counted (v : State) (pid i : Nat) : State := v.onCore pid (Core.withStub i (stubCounted (Tab.read (v.core pid).sdst 0 i)))

theorem sdst_counted (v : State) (pid i : Nat) :
    Tab.read ((v.counted pid i).core pid).sdst 0 i = stubCounted (Tab.read (v.core pid).sdst 0 i) := by
  rw [State.counted, core_onCore]
  exact Tab.read_put_same _ _ _ _

theorem forward_hops (v : State) (h : fld m.sel 9 2 = 3) : v.forward pid p m tg i = (v.deadLetter pid m .hops).answer p m tg 0 :=
  if_pos h

theorem forward_sent (v : State) (h : fld m.sel 9 2 ≠ 3) {port : Port}
    (hport : v.rankPort pid (fld (Tab.read (v.core pid).sdst 0 i) 0 16) = some port) :
    v.forward pid p m tg i =
      (v.counted pid i).inject (.stub pid i) port m.tc (.msg (forwardedMsg m (Tab.read (v.core pid).sdst 0 i)) tg) := by
  have hport' : (v.counted pid i).rankPort pid (fld (Tab.read (v.core pid).sdst 0 i) 0 16) = some port := hport
  unfold forward
  rw [if_neg h]
  change (match (v.counted pid i).rankPort pid _ with | none => _ | some dst => _) = _
  rw [hport']
  rfl

theorem forward_lost (v : State) (h : fld m.sel 9 2 ≠ 3) (hport : v.rankPort pid (fld (Tab.read (v.core pid).sdst 0 i) 0 16) = none) :
    v.forward pid p m tg i = (v.counted pid i).answer p m tg 1 := by
  have hport' : (v.counted pid i).rankPort pid (fld (Tab.read (v.core pid).sdst 0 i) 0 16) = none := hport
  unfold forward
  rw [if_neg h]
  change (match (v.counted pid i).rankPort pid _ with | none => _ | some dst => _) = _
  rw [hport']
  rfl

theorem replyPort_deadLetter (v : State) (why : Reason) : (v.deadLetter pid m why).replyPort p m = v.replyPort p m := by
  obtain ⟨_, kept, ⟨_, _, rfl⟩, heq⟩ := deadLetterAt_eq v pid (v.entryPasid pid) (v.entryAddr pid 6) m why
  rw [deadLetter, heq]
  rfl

end

theorem stubsForward : Piece.StubsForward := by
  intro s p m tg pid i h hr hruns hstub u w answered counted
  have hdst : p.dst = .core pid := h.2.2.1
  obtain ⟨lmem, -, lnet, -⟩ := s.landed_kept pid m
  obtain ⟨-, hcore, -, -, -, -⟩ := s.landed_facts pid m
  have hport : ∀ rank, (s.landed pid m).rankPort pid rank = s.rankPort pid rank := fun rank => by
    unfold landed
    split <;> rfl
  have hw : Tab.read ((s.landed pid m).core pid).sdst 0 i = w := congrArg (fun c : Core => Tab.read c.sdst 0 i) (hcore pid)
  have hrank : fld w 0 16 = w.toNat % 2 ^ 16 := fld_low w 16
  have hcounted : ∀ t : State, t.cores = ((s.landed pid m).counted pid i).cores → counted t := by
    intro t ht
    have hread : Tab.read (t.core pid).sdst 0 i = stubCounted w := by
      rw [core_of_cores ht, sdst_counted, hw]
    change (Tab.read (t.core pid).sdst 0 i).toNat % 2 ^ 32 = _ ∧ (Tab.read (t.core pid).sdst 0 i).toNat / 2 ^ 32 = _
    rw [hread]
    exact stubCounted_fields w
  refine ⟨fun hhops => ⟨fun port hp => ?_, fun hp => ?_⟩, fun hhops hdivert => ?_⟩
  · have hexec := recordArrival_forward h hr hruns hstub fun hc => hhops hc.1
    rw [forward_sent (s.landed pid m) hhops (by rw [hport, hw, hrank]; exact hp), hw] at hexec
    obtain ⟨q, hq, -, hqdst, -, hqload⟩ := ((s.landed pid m).counted pid i).inject_eq (.stub pid i) port m.tc
      (.msg (forwardedMsg m w) tg)
    rw [hq] at hexec
    refine ⟨_, q, forwardedMsg m w, hexec, ?_, hqdst, hqload, fields_kept _ _ _, forwardedMsg_dest m w, rfl, rfl, lmem, hcounted _ rfl⟩
    exact congrArg (· ++ [q]) lnet
  · have hexec := recordArrival_forward h hr hruns hstub fun hc => hhops hc.1
    rw [forward_lost (s.landed pid m) hhops (by rw [hport, hw, hrank]; exact hp)] at hexec
    obtain ⟨kmem, kcores⟩ := ((s.landed pid m).counted pid i).answer_kept p m tg 1
    have kanswer := ((s.landed pid m).counted pid i).answer_answered p m tg (status := 1) (by decide)
    have knet : ((s.landed pid m).counted pid i).net = u.net := lnet
    have kport : ((s.landed pid m).counted pid i).replyPort p m = s.replyPort p m := s.replyPort_landed pid m m p
    rw [knet, hdst, kport] at kanswer
    exact ⟨_, hexec, kmem.trans lmem, kanswer, hcounted _ kcores⟩
  · have hexec := recordArrival_forward h hr hruns hstub fun hc => by rw [hdivert] at hc; exact absurd hc.2 (by decide)
    rw [forward_hops (s.landed pid m) hhops] at hexec
    obtain ⟨kmem, kcores⟩ := ((s.landed pid m).deadLetter pid m .hops).answer_kept p m tg 0
    have kanswer := ((s.landed pid m).deadLetter pid m .hops).answer_answered p m tg (status := 0) (by decide)
    obtain ⟨t, kept, ⟨mem, bad, rfl⟩, heq⟩ := deadLetterAt_eq (s.landed pid m) pid ((s.landed pid m).entryPasid pid)
      ((s.landed pid m).entryAddr pid 6) m .hops
    have knet : ((s.landed pid m).deadLetter pid m .hops).net = u.net := (congrArg State.net heq).trans lnet
    rw [knet, hdst, replyPort_deadLetter, s.replyPort_landed] at kanswer
    have kcore : (((s.landed pid m).deadLetter pid m .hops).answer p m tg 0).core pid = Core.diverted kept (s.core pid) := by
      rw [core_of_cores kcores, deadLetter, heq, core_onCore]
      exact congrArg (Core.diverted kept) (hcore pid)
    refine ⟨_, hexec, kanswer, ?_, ?_⟩
    · rw [kcore]
      cases kept <;> rfl
    · rw [kcore]
      cases kept
      · exact .inr ⟨rfl, rfl⟩
      · exact .inl ⟨rfl, rfl⟩

/-- Settles O27: a port that refuses, the place of a record, and the stub that sends one on. -/
theorem recordsArrive : Obligations.RecordsArrive := ⟨recordsPlaced, stubsForward⟩

end Sys2Proof.Machine
end

section
/-!
PROOF. DELIVERY (R112) and CR_ADMIT_WRITE (R89, R91): O28.
-/

namespace Sys2Proof.Machine

open State

/-! ### The records of a mailbox -/

theorem oldest_mem {l : List Held} {h : Held} (hl : oldest l = some h) : h ∈ l := by
  induction l generalizing h with
  | nil => cases hl
  | cons x xs ih =>
    unfold oldest at hl
    split at hl
    · cases hl
      exact List.mem_cons_self
    · next g hg =>
      split_ifs at hl
      · cases hl
        exact List.mem_cons_self
      · cases hl
        exact List.mem_cons_of_mem _ (ih hg)

/-- A record delivered whole leaves its entry. -/
theorem mem_replaceHeld_none {n : Nat} {l : List Held} {x : Held} : x ∈ replaceHeld n none l ↔ x ∈ l ∧ x.order ≠ n := by
  induction l with
  | nil => simp [replaceHeld]
  | cons y ys ih =>
    unfold replaceHeld
    split_ifs with hy
    · simp only [Option.toList_none, List.nil_append, ih, List.mem_cons]
      exact ⟨fun ⟨hm, hne⟩ => ⟨.inr hm, hne⟩, fun ⟨hm, hne⟩ => ⟨hm.resolve_left fun hc => hne (hc ▸ hy), hne⟩⟩
    · simp only [List.mem_cons, ih]
      exact ⟨fun hm => hm.elim (fun hc => ⟨.inl hc, hc ▸ hy⟩) fun ⟨hm, hne⟩ => ⟨.inr hm, hne⟩,
        fun ⟨hm, hne⟩ => hm.imp_right fun hm => ⟨hm, hne⟩⟩

/-- What is left of a record stands where it stood. -/
theorem mem_replaceHeld_some {h g : Held} {l : List Held} (hm : h ∈ l) : g ∈ replaceHeld h.order (some g) l := by
  induction l with
  | nil => cases hm
  | cons y ys ih =>
    unfold replaceHeld
    split_ifs with hy
    · exact List.mem_append_left _ (List.mem_singleton.mpr rfl)
    · refine List.mem_cons_of_mem _ (ih ((List.mem_cons.mp hm).resolve_left fun hc => hy (hc ▸ rfl)))

namespace State

section
variable {s : State} {pid : Nat} {h : Held}

/-! ### What a delivery leaves of the other cores -/

/-- The other cores are as they were, and the clocks. -/
structure CoresKept (s t : State) (pid : Nat) : Prop where
  core : ∀ q, q ≠ pid → t.core q = s.core q
  ac : t.coreAc pid = s.coreAc pid

theorem coresKept_bornFrom (s : State) (pid : Nat) (m : Msg) (first : Bool) (pc : Word) (g : List Word) :
    CoresKept s (s.bornFrom pid m first pc g) pid := by
  unfold bornFrom
  split
  · exact ⟨fun _ _ => rfl, rfl⟩
  · exact ⟨fun q hq => core_onCore_other s pid q _ hq, rfl⟩

theorem coresKept_deadLetter (s : State) (pid : Nat) (m : Msg) (why : Reason) : CoresKept s (s.deadLetter pid m why) pid := by
  obtain ⟨_, kept, ⟨_, _, rfl⟩, heq⟩ := deadLetterAt_eq s pid (s.entryPasid pid) (s.entryAddr pid 6) m why
  rw [deadLetter, heq]
  exact ⟨fun q hq => core_onCore_other _ pid q _ hq, rfl⟩

theorem coresKept_unsolicited (s : State) (pid : Nat) (m : Msg) (cause : Nat) : CoresKept s (s.unsolicited pid m cause) pid := by
  unfold unsolicited
  split
  · exact coresKept_bornFrom s pid m _ _ _
  · exact coresKept_deadLetter s pid m _

theorem coresKept_deliverRecord (s : State) (pid : Nat) (h : Held) : CoresKept s (s.deliverRecord pid h).1 pid := by
  unfold deliverRecord
  dsimp only
  split
  · exact coresKept_bornFrom s pid h.msg _ _ _
  · split_ifs
    · split
      · exact ⟨fun q hq => core_onCore_other s pid q _ hq, rfl⟩
      · exact coresKept_deadLetter s pid h.msg _
      · exact coresKept_unsolicited s pid h.msg _
    · exact coresKept_unsolicited s pid h.msg _
    · exact ⟨fun q hq => core_onCore_other s pid q _ hq, rfl⟩
    · exact ⟨fun q hq => core_onCore_other s pid q _ hq, rfl⟩
    · exact coresKept_bornFrom s pid h.msg _ _ _
    · exact ⟨fun q hq => core_onCore_other s pid q _ hq, rfl⟩
    · exact coresKept_deadLetter s pid h.msg _
    · exact coresKept_bornFrom s pid h.msg _ _ _

/-! ### The step -/

/-- While nothing resumes, the oldest record that can be delivered is (R112). -/
theorem delivery_next (hmay : s.mayDeliver s.spot.place = true) (hadm : (s.core s.spot.place).admitting = true)
    (hinbox : s.inboxReady s.spot.place = false) (hres : (s.core s.spot.place).resuming = none)
    (hold : oldest (((s.core s.spot.place).reserve ++ (s.core s.spot.place).part).filter (s.canDeliver s.spot.place)) = some h)
    (hac : h.ac < s.coreAc s.spot.place) :
    exec .delivery s = .next ((s.deliverRecord s.spot.place h).1.afterDelivery s.spot.place h.order (s.deliverRecord s.spot.place h).2) := by
  have hcan : s.canDeliver s.spot.place h = true := (List.mem_filter.mp (oldest_mem hold)).2
  have hdeliv : s.deliverable s.spot.place h = true := by rw [deliverable, decide_eq_true hac, hcan]; rfl
  have hresumed : s.resumed s.spot.place = none := by
    unfold resumed
    rw [hres]
  have hdeliver : s.deliver s.spot.place =
      (s.deliverRecord s.spot.place h).1.afterDelivery s.spot.place h.order (s.deliverRecord s.spot.place h).2 := by
    unfold deliver
    dsimp only
    rw [hresumed, Option.toList_none, List.append_nil, hold, Option.filter_some, hdeliv, if_pos rfl]
    rfl
  change Host.Outcome.next (if s.mayDeliver s.spot.place && (s.core s.spot.place).admitting && !s.inboxReady s.spot.place then
    s.deliver s.spot.place else s) = _
  rw [hmay, hadm, hinbox, hdeliver]
  rfl

end

end State

end Sys2Proof.Machine
end

section
/-!
PROOF. Records delivered by kind (R83, R84, R102, R107, R112), for O28.
-/

namespace Sys2Proof.Machine

open State

/-- A core from whose entries a record has been delivered in an ac, with what is left of it (R112). -/
def Core.delivered (n : Nat) (left : Option Held) (ac : Nat) (c : Core) : Core :=
  { c with part := replaceHeld n left c.part, reserve := replaceHeld n left c.reserve, delivAt := some ac }

namespace State

section
variable {s : State} {pid : Nat} {h : Held}

theorem core_afterDelivery (u : State) (pid n : Nat) (left : Option Held) :
    (u.afterDelivery pid n left).core pid = (u.core pid).delivered n left (u.coreAc pid) :=
  core_onCore u pid (Core.delivered n left (u.coreAc pid))

theorem coresKept_afterDelivery {u : State} (hu : CoresKept s u pid) (n : Nat) (left : Option Held) :
    CoresKept s (u.afterDelivery pid n left) pid :=
  ⟨fun q hq => (core_onCore_other u pid q (Core.delivered n left (u.coreAc pid)) hq).trans (hu.core q hq), hu.ac⟩

theorem slot_afterDelivery (u : State) (pid n : Nat) (left : Option Held) (k : Nat) :
    (u.afterDelivery pid n left).slot pid k = u.slot pid k := by
  rw [slot, core_afterDelivery]
  rfl

/-- A record has left its entry; the others stand. -/
def Gone (s t : State) (pid : Nat) (h : Held) : Prop :=
  ∀ x, x ∈ (t.core pid).part ++ (t.core pid).reserve ↔ x ∈ (s.core pid).part ++ (s.core pid).reserve ∧ x.order ≠ h.order

theorem gone_afterDelivery {u : State} (hpart : (u.core pid).part = (s.core pid).part)
    (hreserve : (u.core pid).reserve = (s.core pid).reserve) : Gone s (u.afterDelivery pid h.order none) pid h := by
  intro x
  rw [core_afterDelivery]
  simp only [Core.delivered, hpart, hreserve, List.mem_append, mem_replaceHeld_none]
  exact or_and_right.symm

/-! ### A fibre that starts (R102) -/

/-- A fibre has started in the lowest free slot, and nothing else but the mailbox has changed. -/
def Starts (s t : State) (pid : Nat) (pc : Word) (g : List Word) (prio : Fin 4) (ecls : BitVec 3) : Prop :=
  ∃ n, s.freeSlot pid = some n ∧ BornAs (t.slot pid n) pc g prio ecls (s.slot pid n).gen ((s.entryWord pid 0).getLsbD 49) ∧
    (t.slot pid n).readyAt = s.coreAc pid + 1 ∧ (∀ k, k ≠ n → t.slot pid k = s.slot pid k) ∧ t.mem = s.mem ∧ t.net = s.net

theorem bornSlot_bornAs (s : State) (pid n : Nat) (pc : Word) (g : List Word) (prio : Fin 4) (ecls : BitVec 3) :
    BornAs (bornSlot s pid n pc (Vector.ofFn fun i => g.getD i.val 0) prio ecls) pc g prio ecls (s.slot pid n).gen
      ((s.entryWord pid 0).getLsbD 49) :=
  ⟨rfl, rfl, rfl, fun r => Vector.getElem_ofFn r.isLt, rfl, rfl, rfl, rfl, rfl, rfl, rfl, rfl, rfl, rfl, rfl, rfl, rfl, rfl⟩

/-- A record whose delivery starts a fibre. -/
theorem starts_of_born {m : Msg} {first : Bool} {pc : Word} {g : List Word}
    (hd : s.deliverRecord pid h = (s.bornFrom pid m first pc g, none)) (hf : first = false) (hfree : (s.freeSlot pid).isSome = true) :
    let t := (s.deliverRecord pid h).1.afterDelivery pid h.order (s.deliverRecord pid h).2
    Gone s t pid h ∧ Starts s t pid pc g m.prio m.ecls := by
  obtain ⟨n, hn⟩ := Option.isSome_iff_exists.mp hfree
  have hborn : s.bornFrom pid m first pc g =
      s.setSlot pid n (bornSlot s pid n pc (Vector.ofFn fun i => g.getD i.val 0) m.prio m.ecls) := by
    unfold bornFrom
    rw [hn, hf]
    rfl
  have hcore : (s.bornFrom pid m first pc g).core pid =
      (s.core pid).setSlot n (bornSlot s pid n pc (Vector.ofFn fun i => g.getD i.val 0) m.prio m.ecls) := by
    rw [hborn]
    exact core_onCore _ _ _
  intro t
  have ht : t = (s.bornFrom pid m first pc g).afterDelivery pid h.order none :=
    congrArg (fun r : State × Option Held => r.1.afterDelivery pid h.order r.2) hd
  have hslot : t.slot pid n = bornSlot s pid n pc (Vector.ofFn fun i => g.getD i.val 0) m.prio m.ecls := by
    rw [ht, slot_afterDelivery, slot, hcore, Core.slot_setSlot]
  have hothers : ∀ k, k ≠ n → t.slot pid k = s.slot pid k := fun k hk => by
    rw [ht, slot_afterDelivery, slot, hcore, Core.slot_setSlot_other _ _ _ _ hk]
    rfl
  refine ⟨?_, n, hn, ?_, ?_, hothers, ?_, ?_⟩
  · rw [ht]
    exact gone_afterDelivery (by rw [hcore]; rfl) (by rw [hcore]; rfl)
  · rw [hslot]
    exact bornSlot_bornAs ..
  · rw [hslot]
    rfl
  · rw [ht, hborn]
    rfl
  · rw [ht, hborn]
    rfl

/-! ### The kinds -/

/-- A COUNT that has taken its counter to 0 starts its handler (R83, R112). -/
theorem deliverRecord_start {hd j : Nat} (hs : h.start = some (hd, j)) :
    s.deliverRecord pid h = (s.bornFrom pid h.msg false (BitVec.ofNat 64 (s.handlerAddr pid hd)) [BitVec.ofNat 64 j], none) := by
  unfold deliverRecord
  dsimp only
  rw [hs]
  rfl

theorem deliverRecord_run (hs : h.start = none) (hk : h.msg.kind = 0) (h8 : flag h.msg.sel 8 = false)
    (he : s.handlerEmpty pid (fld h.msg.sel 0 8) = false) :
    s.deliverRecord pid h =
      (s.bornFrom pid h.msg h.first (BitVec.ofNat 64 (s.handlerAddr pid (fld h.msg.sel 0 8))) h.msg.data, none) := by
  unfold deliverRecord
  dsimp only
  rw [hs, hk, h8, he]
  rfl

/-- A core with a stream's words appended to a queue (R19). -/
def streamed (m : Msg) (c : Core) : Core :=
  { c with q := c.q.setIfInBounds (fld m.sel 0 2) (c.q.toList.getD (fld m.sel 0 2) [] ++ m.data) }

theorem deliverRecord_stream (hs : h.start = none) (hk : h.msg.kind = 0) (h8 : flag h.msg.sel 8 = true) :
    s.deliverRecord pid h = (s.onCore pid (streamed h.msg), none) := by
  unfold deliverRecord
  dsimp only
  rw [hs, hk, h8]
  rfl

theorem deliverRecord_migrate (hs : h.start = none) (hk : h.msg.kind = 3) :
    s.deliverRecord pid h = (s.bornFrom pid h.msg false ((h.msg.sel.setWidth 56).signExtend 64) h.msg.data, none) := by
  unfold deliverRecord
  dsimp only
  rw [hs, hk]
  rfl

/-- A fibre of which a DEPOSIT has written a register (R84, R107). -/
def deposited (m : Msg) (ac : Nat) (f : Slot) : Slot := (f.arrive (m.sel.extractLsb' 16 3).toFin (m.word 0)).wake ac

theorem deliverRecord_deposit (hs : h.start = none) (hk : h.msg.kind = 2) (hc : depositCase (s.core pid) h.msg = .applied) :
    s.deliverRecord pid h = (s.onSlot pid (fld h.msg.sel 0 8) (deposited h.msg (s.coreAc pid)), none) := by
  unfold deliverRecord
  dsimp only
  rw [hs, hk, hc]
  rfl

/-- A core of which a counter has been written (R83). -/
def withCounter (i : Nat) (k : Nat × Nat) (c : Core) : Core := { c with counters := Tab.put c.counters i k }

theorem deliverRecord_count (hs : h.start = none) (hk : h.msg.kind = 1)
    (hlt : fld h.msg.sel 0 32 < (Tab.read (s.core pid).counters (0, 0) (fld h.msg.sel 32 6)).1) :
    s.deliverRecord pid h = (s.onCore pid (withCounter (fld h.msg.sel 32 6)
      ((Tab.read (s.core pid).counters (0, 0) (fld h.msg.sel 32 6)).1 - fld h.msg.sel 0 32,
        (Tab.read (s.core pid).counters (0, 0) (fld h.msg.sel 32 6)).2)), none) := by
  have hcount : h.msg.kind = MsgKind.count.num := hk
  have hdeposit : h.msg.kind ≠ MsgKind.deposit.num := by rw [hk]; decide
  unfold deliverRecord
  dsimp only
  rw [hs]
  dsimp only
  rw [if_neg hdeposit, if_pos hcount, if_neg (by omega), if_neg (by omega)]
  rfl

theorem deliverRecord_zero (hs : h.start = none) (hk : h.msg.kind = 1)
    (h0 : (Tab.read (s.core pid).counters (0, 0) (fld h.msg.sel 32 6)).1 ≠ 0)
    (hle : (Tab.read (s.core pid).counters (0, 0) (fld h.msg.sel 32 6)).1 ≤ fld h.msg.sel 0 32) :
    s.deliverRecord pid h = (s.onCore pid (withCounter (fld h.msg.sel 32 6)
      (0, (Tab.read (s.core pid).counters (0, 0) (fld h.msg.sel 32 6)).2)),
      some { h with start := some ((Tab.read (s.core pid).counters (0, 0) (fld h.msg.sel 32 6)).2, fld h.msg.sel 32 6) }) := by
  have hcount : h.msg.kind = MsgKind.count.num := hk
  have hdeposit : h.msg.kind ≠ MsgKind.deposit.num := by rw [hk]; decide
  unfold deliverRecord
  dsimp only
  rw [hs]
  dsimp only
  rw [if_neg hdeposit, if_pos hcount, if_neg h0, if_pos hle]
  rfl

/-- What a record needs that is to start a fibre: a free slot (R112). -/
theorem freeSlot_of_start {hd j : Nat} (hs : h.start = some (hd, j)) (hc : s.canDeliver pid h = true) :
    (s.freeSlot pid).isSome = true := by
  unfold canDeliver at hc
  dsimp only at hc
  rw [hs] at hc
  exact (Bool.and_eq_true_iff.mp hc).1

theorem freeSlot_of_migrate (hs : h.start = none) (hk : h.msg.kind = 3) (hc : s.canDeliver pid h = true) :
    (s.freeSlot pid).isSome = true := by
  unfold canDeliver at hc
  dsimp only at hc
  rw [hs, hk] at hc
  exact hc

theorem freeSlot_of_run (hs : h.start = none) (hk : h.msg.kind = 0) (h8 : flag h.msg.sel 8 = false)
    (he : s.handlerEmpty pid (fld h.msg.sel 0 8) = false) (hc : s.canDeliver pid h = true) : (s.freeSlot pid).isSome = true := by
  unfold canDeliver at hc
  dsimp only at hc
  rw [hs, hk, h8, he] at hc
  exact (Bool.and_eq_true_iff.mp hc).2

end

end State

end Sys2Proof.Machine
end

section
/-!
PROOF. The two parts of O28.
-/

namespace Sys2Proof.Machine

open State

/-! ### Delivery -/

namespace State

section
variable {s : State} {pid : Nat} {h : Held}

/-- The state after a record's delivery, by what its delivery is (R112). -/
def deliveredState (s : State) (pid : Nat) (h : Held) : State :=
  (s.deliverRecord pid h).1.afterDelivery pid h.order (s.deliverRecord pid h).2

theorem deliveredState_eq {u : State} {left : Option Held} (hd : s.deliverRecord pid h = (u, left)) :
    s.deliveredState pid h = u.afterDelivery pid h.order left :=
  congrArg (fun r : State × Option Held => r.1.afterDelivery pid h.order r.2) hd

/-- A delivery that changes its core, and the core's entries. -/
theorem core_deliveredState {f : Core → Core} {left : Option Held} (hd : s.deliverRecord pid h = (s.onCore pid f, left)) :
    (s.deliveredState pid h).core pid = (f (s.core pid)).delivered h.order left (s.coreAc pid) := by
  rw [deliveredState_eq hd, core_afterDelivery, core_onCore]
  rfl

/-- A stream's words stand at the end of their queue (R19). -/
theorem streamed_queue (c : Core) (m : Msg) :
    (streamed m c).q.toList.getD (fld m.sel 0 2) [] = c.q.toList.getD (fld m.sel 0 2) [] ++ m.data := by
  have hlt : fld m.sel 0 2 < 8 := by rw [fld_low]; omega
  simp [streamed, Vector.toList_setIfInBounds, List.getD_eq_getElem?_getD, hlt]

theorem stream_delivered (hd : s.deliverRecord pid h = (s.onCore pid (streamed h.msg), none)) :
    Gone s (s.deliveredState pid h) pid h ∧
      ((s.deliveredState pid h).core pid).q.toList.getD (fld h.msg.sel 0 2) [] =
        (s.core pid).q.toList.getD (fld h.msg.sel 0 2) [] ++ h.msg.data ∧ (s.deliveredState pid h).mem = s.mem := by
  have hcore := core_onCore s pid (streamed h.msg)
  refine ⟨?_, ?_, ?_⟩
  · rw [deliveredState_eq hd]
    exact gone_afterDelivery (by rw [hcore]; rfl) (by rw [hcore]; rfl)
  · rw [core_deliveredState hd]
    exact streamed_queue (s.core pid) h.msg
  · rw [deliveredState_eq hd]
    rfl

/-- A DEPOSIT's register holds its word, and its mark is gone; the other fibres stay (R84, R107). -/
theorem deposit_delivered {n : Nat} (hd : s.deliverRecord pid h = (s.onSlot pid n (deposited h.msg (s.coreAc pid)), none)) :
    Gone s (s.deliveredState pid h) pid h ∧ (s.deliveredState pid h).mem = s.mem ∧
      let r : Reg := (h.msg.sel.extractLsb' 16 3).toFin
      ((s.deliveredState pid h).slot pid n).g[r] = h.msg.word 0 ∧ ((s.deliveredState pid h).slot pid n).mark[r] = none ∧
        ∀ x, x ≠ n → (s.deliveredState pid h).slot pid x = s.slot pid x := by
  have hcore : (s.onSlot pid n (deposited h.msg (s.coreAc pid))).core pid =
      (s.core pid).setSlot n (deposited h.msg (s.coreAc pid) (s.slot pid n)) := core_onCore _ _ _
  rw [deliveredState_eq hd, slot_afterDelivery, slot_onSlot]
  refine ⟨gone_afterDelivery (by rw [hcore]; rfl) (by rw [hcore]; rfl), rfl, Vector.getElem_set_self _, Vector.getElem_set_self _,
    fun x hx => ?_⟩
  rw [slot_afterDelivery]
  exact slot_setSlot_beside s pid n x _ hx

/-- A COUNT that leaves something of its counter (R83). -/
theorem count_delivered {i : Nat} {k : Nat × Nat} (hd : s.deliverRecord pid h = (s.onCore pid (withCounter i k), none)) :
    Gone s (s.deliveredState pid h) pid h ∧ Tab.read ((s.deliveredState pid h).core pid).counters (0, 0) i = k := by
  have hcore := core_onCore s pid (withCounter i k)
  refine ⟨?_, ?_⟩
  · rw [deliveredState_eq hd]
    exact gone_afterDelivery (by rw [hcore]; rfl) (by rw [hcore]; rfl)
  · rw [core_deliveredState hd]
    exact Tab.read_put_same _ _ _ _

/-- A COUNT that takes its counter to 0 stays in its entry as a start (R83, R112). -/
theorem count_started {i : Nat} {k : Nat × Nat} {start : Nat × Nat} (hm : h ∈ (s.core pid).reserve ++ (s.core pid).part)
    (hd : s.deliverRecord pid h = (s.onCore pid (withCounter i k), some { h with start := some start })) :
    Tab.read ((s.deliveredState pid h).core pid).counters (0, 0) i = k ∧
      ∃ x ∈ ((s.deliveredState pid h).core pid).part ++ ((s.deliveredState pid h).core pid).reserve,
        x.order = h.order ∧ x.msg = h.msg ∧ x.start = some start := by
  rw [core_deliveredState hd]
  refine ⟨Tab.read_put_same _ _ _ _, { h with start := some start }, ?_, rfl, rfl, rfl⟩
  rcases List.mem_append.mp hm with hreserve | hpart
  · exact List.mem_append_right _ (mem_replaceHeld_some hreserve)
  · exact List.mem_append_left _ (mem_replaceHeld_some hpart)

end

end State

theorem recordsDeliveredByKind : Piece.RecordsDelivered := by
  intro s h pid c m hmay hadm hinbox hres hold hac
  have hcan : s.canDeliver pid h = true := (List.mem_filter.mp (oldest_mem hold)).2
  have hmem : h ∈ c.reserve ++ c.part := (List.mem_filter.mp (oldest_mem hold)).1
  have hkept := coresKept_deliverRecord s pid h
  refine ⟨_, delivery_next hmay hadm hinbox hres hold hac, (coresKept_afterDelivery hkept _ _).core, ?_, ?_⟩
  · rw [core_afterDelivery, hkept.ac]
    rfl
  · intro gone born i k
    refine ⟨fun hd j hs => starts_of_born (deliverRecord_start hs) rfl (freeSlot_of_start hs hcan), fun hs => ⟨fun hk h8 he hf => ?_,
      fun hk h8 => ?_, fun hk => starts_of_born (deliverRecord_migrate hs hk) rfl (freeSlot_of_migrate hs hk hcan),
      fun hk hc => ?_, fun hk h0 => ⟨fun hlt => ?_, fun hle => ?_⟩⟩⟩
    · have h8' : flag m.sel 8 = false := by rw [flag_eq_fld, h8]; rfl
      exact starts_of_born (deliverRecord_run hs hk h8' he) hf (freeSlot_of_run hs hk h8' he hcan)
    · have h8' : flag m.sel 8 = true := by rw [flag_eq_fld, h8]; rfl
      exact stream_delivered (deliverRecord_stream hs hk h8')
    · exact deposit_delivered (deliverRecord_deposit hs hk hc)
    · exact count_delivered (deliverRecord_count hs hk hlt)
    · exact count_started hmem (deliverRecord_zero hs hk h0 hle)

end Sys2Proof.Machine
end

section
/-!
PROOF. Admission that opens (R89, R91), and O28.
-/

namespace Sys2Proof.Machine

open State

/-! ### Entries in their order -/

theorem insertHeld_sorted (h : Held) {l : List Held} (hl : l.Pairwise fun a b => a.order ≤ b.order) :
    (insertHeld h l).Pairwise fun a b => a.order ≤ b.order := by
  induction l with
  | nil => exact List.pairwise_singleton _ _
  | cons g gs ih =>
    obtain ⟨hhead, htail⟩ := List.pairwise_cons.mp hl
    unfold insertHeld
    split_ifs with hlt
    · refine List.pairwise_cons.mpr ⟨fun x hx => ?_, hl⟩
      rcases List.mem_cons.mp hx with rfl | hx
      · exact hlt.le
      · exact hlt.le.trans (hhead x hx)
    · refine List.pairwise_cons.mpr ⟨fun x hx => ?_, ih htail⟩
      rcases List.mem_cons.mp ((insertHeld_perm h gs).mem_iff.mp hx) with rfl | hx
      · exact not_lt.mp hlt
      · exact hhead x hx

theorem byOrder_sorted (l : List Held) : (byOrder l).Pairwise fun a b => a.order ≤ b.order := by
  induction l with
  | nil => exact .nil
  | cons h hs ih => exact insertHeld_sorted h ih

/-- The new order numbers run from the first one up. -/
theorem renumber_bounds (n : Nat) (l : List Held) : ∀ x ∈ renumber n l, n ≤ x.order ∧ x.order < n + l.length := by
  induction l generalizing n with
  | nil => exact fun _ hx => absurd hx List.not_mem_nil
  | cons h hs ih =>
    intro x hx
    rw [List.length_cons]
    rcases List.mem_cons.mp hx with rfl | hx
    · exact ⟨le_rfl, by change n < n + (hs.length + 1); omega⟩
    · obtain ⟨hlo, hhi⟩ := ih (n + 1) x hx
      omega

theorem renumber_sorted (n : Nat) (l : List Held) : (renumber n l).Pairwise fun a b => a.order < b.order := by
  induction l generalizing n with
  | nil => exact .nil
  | cons h hs ih => exact List.pairwise_cons.mpr ⟨fun x hx => (renumber_bounds (n + 1) hs x hx).1, ih (n + 1)⟩

/-- Entries put in their order, with new numbers. -/
theorem renumbered (n : Nat) (l : List Held) :
    (renumber n (byOrder l)).Pairwise (fun a b => a.order < b.order) ∧
      ∃ k : List Held, k.Perm l ∧ k.Pairwise (fun a b => a.order ≤ b.order) ∧ (renumber n (byOrder l)).map Held.msg = k.map Held.msg :=
  ⟨renumber_sorted n _, byOrder l, byOrder_perm l, byOrder_sorted l, map_msg_renumber n _⟩

/-! ### CR_ADMIT_WRITE (R89, R91) -/

/-- A core whose admission has opened, with r records in its ring, from an order number on (R91). -/
def Core.opened (first r : Nat) (c : Core) : Core :=
  { c with
    admitting := true
    reserve := renumber first (byOrder c.reserve)
    part := renumber (first + c.reserve.length + r) (byOrder c.part)
    resuming := if r = 0 then none else some (first + c.reserve.length, r) }

/-- A core whose ADMIT is written without opening it. -/
def Core.admits (v : Bool) (c : Core) : Core := { c with admitting := v, resuming := if v then c.resuming else none }

section
variable {s : State}

theorem admitWrite_opens (hv : s.spot.v0.getLsbD 0 = true) (ha : (s.core s.spot.place).admitting = false) :
    ∃ t : State, exec .crAdmitWrite s = .next t ∧ t.mem = s.mem ∧ t.net = s.net ∧
      t.cores = (s.setCore s.spot.place ((s.core s.spot.place).opened s.seq (s.ringCount s.spot.place))).cores := by
  refine ⟨{ s.setCore s.spot.place ((s.core s.spot.place).opened s.seq (s.ringCount s.spot.place)) with
    seq := s.seq + (s.core s.spot.place).reserve.length + s.ringCount s.spot.place + (s.core s.spot.place).part.length },
    ?_, rfl, rfl, rfl⟩
  change Host.Outcome.next (s.writeAdmit s.spot.place (flag s.spot.v0 0)) = _
  unfold writeAdmit flag
  dsimp only
  rw [hv, ha]
  rfl

theorem admitWrite_keeps (h : ¬(s.spot.v0.getLsbD 0 = true ∧ (s.core s.spot.place).admitting = false)) :
    exec .crAdmitWrite s = .next (s.setCore s.spot.place ((s.core s.spot.place).admits (s.spot.v0.getLsbD 0))) := by
  have hcond : ¬(s.spot.v0.getLsbD 0 && !(s.core s.spot.place).admitting) = true := by
    rw [Bool.and_eq_true, Bool.not_eq_true']
    exact h
  change Host.Outcome.next (s.writeAdmit s.spot.place (flag s.spot.v0 0)) = _
  unfold writeAdmit flag
  dsimp only
  rw [if_neg hcond]
  rfl

end

theorem admissionOpens : Piece.AdmissionOpens := by
  intro s pid c on
  by_cases h : on = true ∧ c.admitting = false
  · obtain ⟨hon, hadm⟩ := h
    obtain ⟨t, hexec, hmem, hnet, hcores⟩ := admitWrite_opens hon hadm
    have hcore : t.core pid = c.opened s.seq (s.ringCount pid) := (core_of_cores hcores pid).trans (core_setCore ..)
    refine ⟨t, hexec, ?_, hmem, hnet, fun q hq => (core_of_cores hcores q).trans (core_setCore_other _ _ _ _ hq),
      fun n => ?_, fun hn => absurd ⟨hon, hadm⟩ hn, fun _ _ => ⟨fun x hx => ?_, s.seq + c.reserve.length, ?_, ?_, ?_⟩⟩
    · rw [hcore]
      exact hon.symm
    · rw [slot, hcore]
      rfl
    · rw [hcore] at hx
      rcases List.mem_cons.mp hx with rfl | hx
      · exact renumbered ..
      · cases List.mem_singleton.mp hx
        exact renumbered ..
    · rw [hcore]
      intro x hx
      have hlt := (renumber_bounds s.seq (byOrder c.reserve) x hx).2
      rwa [(byOrder_perm c.reserve).length_eq] at hlt
    · rw [hcore]
      exact fun x hx => (renumber_bounds _ (byOrder c.part) x hx).1
    · rw [hcore]
      rfl
  · refine ⟨_, admitWrite_keeps h, ?_, rfl, rfl, fun q hq => core_setCore_other _ _ _ _ hq, fun n => ?_, fun _ => ?_,
      fun hon hadm => absurd ⟨hon, hadm⟩ h⟩
    · rw [core_setCore]
      rfl
    · rw [slot, core_setCore]
      rfl
    · rw [core_setCore]
      exact ⟨rfl, rfl⟩

/-- Settles O28: a delivery by the kind of the oldest record, and the order of the entries when admission opens. -/
theorem recordsDelivered : Obligations.RecordsDelivered := ⟨recordsDeliveredByKind, admissionOpens⟩

end Sys2Proof.Machine
end

section
/-!
PROOF. A MIGRATE that came back to a core whose rank in the table is wider than the field SRC (O29).
-/

namespace Sys2Proof.Machine

/-- A MIGRATE of task 1 that came back with HOME_FENCED into a fault inbox (R331). -/
def returnedHome : Inboxed where
  msg := { rw := 0x3000000000100000, sel := 0x4000, data := [1, 2, 3, 4, 5, 6, 7, 8] }
  back := some .homeFenced
  ac := 0

/-- Core 8, RUNNING task 1, whose fault inbox holds the MIGRATE, and which the rank table of region 0 lists under 2^56: a state's tables
bound no rank, and the 16 bits of SRC (R77) hold none so great. -/
def rankedTooHigh : State :=
  { State.reset with
    spot := { place := 8, item := 0, v0 := 0, v1 := 0, v2 := 0, v3 := 0 }
    now := 5000
    ranks := [(0, [(2 ^ 56, 0x8008)])]
    cores := [(8, { Core.initial 8 with entry := #v[0x102, 0, 0, 0, 0, 0, 0, 0], inbox := [returnedHome] })]
    clusters := [(1, { Cluster.initial 1 with
      fwd := { Forwarder.initial 1 with hold := false, hreq := false, aligned := true }, heldAt := none })] }

/-- Whether every message in flight after a step is a FAULT record (R78). -/
def sendsFaults : Host.Outcome State Fault Refusal → Bool
  | .next t => t.net.all fun q => match q.load with
    | .msg w _ => w.kind == 10
    | _ => true
  | _ => false

theorem sendsFaults_one {s t : State} {q : Packet} {w : Msg} (hs : s.net = []) (ht : t.net = s.net ++ [q]) (hq : q.load = .msg w false)
    (hw : w.kind = 10) : sendsFaults (.next t) = true := by
  simp [sendsFaults, ht, hs, hq, hw]

/-- The record of the fault carries into KIND: what is sent is no FAULT record (R78, R328). -/
theorem rankedTooHigh_sends : sendsFaults (exec .faultDelivery rankedTooHigh) = false := by decide +kernel

/-- Refutes O29: the clause on a MIGRATE that came back bounds no rank, and a rank of 2^56 carries from SRC into KIND, so that what
follows is no FAULT record. -/
theorem not_ringsAndFaultInbox : ¬ Obligations.RingsAndFaultInbox := by
  rintro ⟨-, hinbox⟩
  obtain ⟨-, -, hdelivery⟩ := hinbox rankedTooHigh
    { src := .core 8, dst := .core 8, tc := 1, load := .msg returnedHome.msg false, here := 1, held := none } returnedHome.msg false 8 0 .homeFenced returnedHome []
  obtain ⟨t, hexec, -, -, -, -, -, hback⟩ := hdelivery rfl (by decide +kernel) (by decide +kernel) (by decide +kernel) (by decide +kernel)
    (by decide +kernel)
  obtain ⟨-, -, -, -, -, -, -, -, hrecord⟩ := hback .homeFenced rfl
  obtain ⟨q, w, hnet, -, hload, hkind, -⟩ := hrecord (by decide)
  have hsent := sendsFaults_one (by decide +kernel) hnet hload hkind
  rw [← hexec, rankedTooHigh_sends] at hsent
  exact absurd hsent (by decide)

end Sys2Proof.Machine
end

section
/-!
PROOF. Tables changed value by value, and the cores of a cluster changed together.
-/

namespace Sys2Proof.Machine

open State

/-- A table of which every value is changed, by the same function at every key. -/
theorem Tab.look_map {α : Type} (t : Tab α) (f : α → α) (n : Nat) :
    Tab.look (t.map fun e => (e.1, f e.2)) n = (Tab.look t n).map f := by
  induction t with
  | nil => rfl
  | cons e t ih =>
    obtain ⟨k, v⟩ := e
    simp only [List.map_cons, Tab.look, ih]
    split <;> rfl

/-- Read with a default that the change leaves. -/
theorem Tab.read_map {α : Type} (t : Tab α) (f : α → α) (d : α) (hd : f d = d) (n : Nat) :
    Tab.read (t.map fun e => (e.1, f e.2)) d n = f (Tab.read t d n) := by
  rw [Tab.read, Tab.look_map, Tab.read]
  cases Tab.look t n with
  | none => exact hd.symm
  | some _ => rfl

/-- A core with every slot changed. -/
def Core.mapSlots (f : Slot → Slot) (c : Core) : Core := { c with slots := c.slots.map fun e => (e.1, f e.2) }

theorem Core.slot_mapSlots (f : Slot → Slot) (hf : f Slot.free = Slot.free) (c : Core) (n : Nat) : (c.mapSlots f).slot n = f (c.slot n) :=
  Tab.read_map c.slots f Slot.free hf n

namespace State

/-- The first cores of a cluster changed one after the other. -/
theorem onFirstCores_eq (s : State) (cid : Nat) (f : Core → Core) (n : Nat) :
    ∃ cores, (List.range n).foldl (fun u k => u.onCore (8 * cid + k) f) s = { s with cores := cores } ∧
      ∀ q, State.core { s with cores := cores } q = if 8 * cid ≤ q ∧ q < 8 * cid + n then f (s.core q) else s.core q := by
  induction n with
  | zero => exact ⟨s.cores, rfl, fun q => (if_neg (by omega)).symm⟩
  | succ n ih =>
    obtain ⟨cores, heq, hcore⟩ := ih
    rw [List.range_succ, List.foldl_append, heq]
    refine ⟨_, rfl, fun q => ?_⟩
    change (State.onCore { s with cores := cores } (8 * cid + n) f).core q = _
    by_cases hq : q = 8 * cid + n
    · subst hq
      rw [core_onCore, hcore, if_neg (by omega), if_pos (by omega)]
    · rw [core_onCore_other _ _ _ _ hq, hcore]
      exact if_congr (by omega) rfl rfl

/-- The cores of a cluster changed together, and nothing else. -/
theorem onClusterCores_eq (s : State) (cid : Nat) (f : Core → Core) : ∃ cores, s.onClusterCores cid f = { s with cores := cores } :=
  (s.onFirstCores_eq cid f 8).imp fun _ h => h.1

theorem core_onClusterCores (s : State) (cid : Nat) (f : Core → Core) (q : Nat) :
    (s.onClusterCores cid f).core q = if q / 8 = cid then f (s.core q) else s.core q := by
  obtain ⟨cores, heq, hcore⟩ := s.onFirstCores_eq cid f 8
  rw [onClusterCores, heq, hcore]
  exact if_congr (by omega) rfl rfl

end State

end Sys2Proof.Machine
end

section
/-!
PROOF. Aging (R105) and the instruction cache (R2, R104, R150, R314): O30.
-/

namespace Sys2Proof.Machine

open State

theorem agingPromotes : Piece.AgingPromotes := by
  intro s pid n f hlive hage
  have hpromote : f.promote = { f with eff := if f.eff.val < 3 then f.eff + 1 else f.eff, age := 0, yld := false } := if_pos hage
  change Host.Outcome.next (if f.live then s.setSlot pid n f.promote else s) = _
  rw [if_pos hlive, hpromote]

/-! ### ICACHE_FILL (R2, R104, R150) -/

/-- What a fill's end makes of a fibre: nothing but its hold on the parcel, and when it may issue (R104). -/
theorem uncache_kept (pa ac : Nat) (f : Slot) :
    (f.uncache pa ac).pc = f.pc ∧ (f.uncache pa ac).g = f.g ∧ (f.uncache pa ac).hold ≠ some (.icache pa) ∧
      (f.hold ≠ some (.icache pa) → f.uncache pa ac = f) := by
  unfold Slot.uncache
  split_ifs with h
  · exact ⟨rfl, rfl, nofun, fun hn => absurd h hn⟩
  · exact ⟨rfl, rfl, h, fun _ => rfl⟩

/-- A cluster with a parcel brought into its instruction cache, and the number of the one that a full cache gives up (log 15). -/
def Cluster.withParcel (pa : Nat) (p : Parcel) (free : Nat) (c : Cluster) : Cluster := { c with icache := fillCache c.icache pa p free }

namespace State

/-- The fibres of a cluster that wait for a parcel released (R104). -/
def uncached (s : State) (cid pa ac : Nat) : State := s.onClusterCores cid (Core.mapSlots (Slot.uncache pa ac))

theorem uncached_eq (s : State) (cid pa ac : Nat) : ∃ cores, s.uncached cid pa ac = { s with cores := cores } := s.onClusterCores_eq cid _

theorem slot_uncached (s : State) (cid pa ac q n : Nat) :
    (s.uncached cid pa ac).slot q n = if q / 8 = cid then (s.slot q n).uncache pa ac else s.slot q n := by
  rw [slot, uncached, core_onClusterCores]
  split
  · exact Core.slot_mapSlots _ rfl _ _
  · rfl

/-- The fibres that wait for a parcel of a cluster's code go on, and no other fibre changes. -/
def Released (s t : State) (cid pa : Nat) : Prop :=
  ∀ q n, (t.slot q n).pc = (s.slot q n).pc ∧ (t.slot q n).g = (s.slot q n).g ∧
    (q / 8 = cid → (t.slot q n).hold ≠ some (.icache pa)) ∧
    ((s.slot q n).hold ≠ some (.icache pa) → t.slot q n = s.slot q n)

theorem released_uncached (s : State) (cid pa ac : Nat) : s.Released (s.uncached cid pa ac) cid pa := by
  intro q n
  rw [slot_uncached]
  split_ifs with h
  · obtain ⟨hpc, hg, hhold, hother⟩ := uncache_kept pa ac (s.slot q n)
    exact ⟨hpc, hg, fun _ => hhold, hother⟩
  · exact ⟨rfl, rfl, fun hq => absurd hq h, fun _ => rfl⟩

/-- The state in which a parcel of code has been brought into a cluster's instruction cache, with a free value drawn (log 15). -/
def withParcel (s : State) (cid pa : Nat) : State :=
  (s.onCluster cid (Cluster.withParcel pa (BitVec.ofNat 16 (Memory.value s.mem pa 2)) (Config.freeWord s.fresh).toNat)).tickFree

theorem cluster_withParcel (s : State) (cid pa : Nat) :
    (s.withParcel cid pa).cluster cid =
      (s.cluster cid).withParcel pa (BitVec.ofNat 16 (Memory.value s.mem pa 2)) (Config.freeWord s.fresh).toNat :=
  cluster_onCluster s cid (Cluster.withParcel pa (BitVec.ofNat 16 (Memory.value s.mem pa 2)) (Config.freeWord s.fresh).toNat)

end State

theorem look_fillCache_same (t : Tab Parcel) (pa : Nat) (p : Parcel) (free : Nat) : Tab.look (fillCache t pa p free) pa = some p := by
  unfold fillCache
  split <;> exact Tab.look_put_same _ _ _

theorem look_fillCache_other {t : Tab Parcel} (ht : t.length < 65536) {pa x : Nat} (hx : x ≠ pa) (p : Parcel) (free : Nat) :
    Tab.look (fillCache t pa p free) x = Tab.look t x := by
  have hroom : t.length < cacheParcels := ht
  rw [fillCache, if_pos hroom]
  exact Tab.look_put_other _ _ _ _ hx

section
variable {s : State} {h : Home} {a : Area}

/-- A fibre of the cluster at spot waits for the parcel at spot, and may read it (R104, R148). -/
def FillWanted (s : State) : Prop :=
  ∃ k < 8, ∃ e ∈ (s.core (8 * s.spot.place + k)).slots, e.2.hold = some (.icache s.spot.item) ∧
    s.mayFill (8 * s.spot.place + k) (ofFlatar (8 * s.spot.place + k) e.2) s.spot.item = true

theorem icacheFill_next (hwant : FillWanted s) (hrun : s.clusterRuns s.spot.place = true) (hplace : place s.spot.item = some (h, a))
    (hwell : s.readsWell h = true) :
    exec .icacheFill s = .next ((if s.eccBad s.spot.item 2 then s else s.withParcel s.spot.place s.spot.item).uncached s.spot.place s.spot.item
      (s.clusterAc s.spot.place)) := by
  obtain ⟨k, hk, e, he, hhold, hfill⟩ := hwant
  have hwaits : ((List.range 8).any fun k => (s.core (8 * s.spot.place + k)).slots.any fun e =>
      e.2.hold == some (.icache s.spot.item) &&
        s.mayFill (8 * s.spot.place + k) (ofFlatar (8 * s.spot.place + k) e.2) s.spot.item) = true :=
    List.any_eq_true.mpr ⟨k, List.mem_range.mpr hk, List.any_eq_true.mpr ⟨e, he, by rw [hhold, hfill]; simp⟩⟩
  change execIcacheFill s = _
  unfold execIcacheFill
  simp only [hwaits, hrun, hplace, Option.map_some, Option.getD_some, hwell, passed, Bool.and_self, if_true]
  rfl

end

/-! ### ICFLUSH_ARRIVAL (R311, R314) -/

/-- A cluster whose instruction cache is empty (R314). -/
def Cluster.flushed (c : Cluster) : Cluster := { c with icache := [] }

section
variable {s : State} {p : Packet} {m : Msg} {tg : Bool} {cid : Nat}
  (hfront : s.front s.spot.place = some p) (hload : p.load = .msg m tg) (hdst : p.dst = .cluster cid) (hkind : m.kind = 11)
  (hevent : fld m.sel 48 7 = 2)
include hfront hload hdst hkind hevent

theorem icflush_refused
    (hdead : s.clusterDead cid = true ∨ (s.region (cid / 64)).life = .dark ∨ (s.region (cid / 64)).life = .wiping) :
    exec .icflushArrival s = .next ((s.taken s.spot.place).answer p m tg 1) := by
  have hev : ¬m.event ≠ 2 := fun hne => hne ((if_pos hkind).trans hevent)
  have hcond : (s.clusterDead cid || (s.region (cid / 64)).life == .dark || (s.region (cid / 64)).life == .wiping) = true := by
    simpa only [Bool.or_eq_true, beq_iff_eq, or_assoc] using hdead
  change execIcflushArrival s = _
  unfold execIcflushArrival
  simp only [hfront, hload, hdst, hcond, if_true]
  exact if_neg hev

theorem icflush_done
    (halive : ¬(s.clusterDead cid = true ∨ (s.region (cid / 64)).life = .dark ∨ (s.region (cid / 64)).life = .wiping))
    (hrun : s.clusterRuns cid = true) :
    exec .icflushArrival s =
      .next (((s.taken s.spot.place).onCluster cid Cluster.flushed).reply (.cluster cid)
        ((s.taken s.spot.place).replyPort p m) m 0 0x80000000) := by
  have hev : ¬m.event ≠ 2 := fun hne => hne ((if_pos hkind).trans hevent)
  have hcond : ¬(s.clusterDead cid || (s.region (cid / 64)).life == .dark || (s.region (cid / 64)).life == .wiping) = true := by
    simpa only [Bool.or_eq_true, beq_iff_eq, or_assoc] using halive
  change execIcflushArrival s = _
  unfold execIcflushArrival
  simp only [hfront, hload, hdst, hrun, if_true]
  rw [if_neg hev, if_neg hcond]
  rfl

end

theorem instructionCache : Piece.InstructionCache := by
  intro s p m tg h a
  refine ⟨fun hwant hrun hplace hwell => ?_, fun cid hfront hload hdst hkind hevent => ⟨fun halive hrun => ?_, fun hdead htag => ?_⟩⟩
  · have hexec := icacheFill_next hwant hrun hplace hwell
    refine ⟨fun hgood => ?_, fun hbad => ?_⟩
    · rw [hgood] at hexec
      obtain ⟨cores, heq⟩ := (s.withParcel s.spot.place s.spot.item).uncached_eq s.spot.place s.spot.item (s.clusterAc s.spot.place)
      have hrel := (s.withParcel s.spot.place s.spot.item).released_uncached s.spot.place s.spot.item (s.clusterAc s.spot.place)
      have hcache := congrArg Cluster.icache (s.cluster_withParcel s.spot.place s.spot.item)
      rw [if_neg (by decide), heq] at hexec
      rw [heq] at hrel
      refine ⟨_, hexec, rfl, rfl, hrel, ?_, fun hroom x hx => ?_⟩
      · exact (congrArg (Tab.look · _) hcache).trans (look_fillCache_same _ _ _ _)
      · exact (congrArg (Tab.look · _) hcache).trans (look_fillCache_other hroom hx _ _)
    · rw [hbad] at hexec
      obtain ⟨cores, heq⟩ := s.uncached_eq s.spot.place s.spot.item (s.clusterAc s.spot.place)
      have hrel := s.released_uncached s.spot.place s.spot.item (s.clusterAc s.spot.place)
      rw [if_pos rfl, heq] at hexec
      rw [heq] at hrel
      exact ⟨_, hexec, rfl, rfl, rfl, hrel⟩
  · refine ⟨_, icflush_done hfront hload hdst hkind hevent halive hrun, ?_, rfl, rfl, answered_reply _ _ _ m (by decide) _⟩
    exact congrArg Cluster.icache (cluster_onCluster (s.taken s.spot.place) cid Cluster.flushed)
  · refine ⟨_, icflush_refused hfront hload hdst hkind hevent hdead, ?_, (answer_kept _ p m tg 1).1, ?_⟩
    · rw [htag]
      rfl
    · rw [← hdst]
      exact (answer_answered (s.taken s.spot.place) p m tg (by decide)).1 htag

/-- Settles O30: a promotion is one slot written; a fill is one parcel put, beside its fibres released; a flush by who answers it. -/
theorem agingAndInstructionCache : Obligations.AgingAndInstructionCache := ⟨agingPromotes, instructionCache⟩

end Sys2Proof.Machine
end

section
/-!
PROOF. Signals into the barrier networks (R168), and the cores that they change (R127, R340).
-/

namespace Sys2Proof.Machine

open State

namespace State

/-- A signal that begins its path keeps whose it is, its level and what it says. -/
theorem beginLeg_says (s : State) (b : BarSignal) :
    (s.beginLeg b).core = b.core ∧ (s.beginLeg b).level = b.level ∧ (s.beginLeg b).kind = b.kind := by
  unfold beginLeg
  split <;> exact ⟨rfl, rfl, rfl⟩

/-- A core's signal is one signal more in the networks. -/
theorem signal_eq (s : State) (pid l : Nat) (k : BarKind) :
    ∃ b, s.signal pid l k = { s with bars := s.bars ++ [b] } ∧ b.core = pid ∧ b.level = l ∧ b.kind = k :=
  ⟨s.beginLeg _, rfl, s.beginLeg_says _⟩

/-- A core's signals to the roots of several levels. -/
theorem signals_eq (s : State) (pid : Nat) (k : BarKind) (ls : List Nat) :
    ∃ new, ls.foldl (fun u l => u.signal pid l k) s = { s with bars := s.bars ++ new } ∧
      ∀ l ∈ ls, ∃ b ∈ new, b.core = pid ∧ b.level = l ∧ b.kind = k := by
  induction ls generalizing s with
  | nil => exact ⟨[], by rw [List.append_nil]; rfl, nofun⟩
  | cons l ls ih =>
    obtain ⟨b, hb, hsays⟩ := s.signal_eq pid l k
    obtain ⟨new, hnew, htold⟩ := ih (s.signal pid l k)
    refine ⟨b :: new, ?_, fun x hx => ?_⟩
    · rw [List.foldl_cons, hnew, hb]
      simp only [List.append_assoc, List.singleton_append]
    · rcases List.mem_cons.mp hx with rfl | hx
      · exact ⟨b, List.mem_cons_self, hsays⟩
      · obtain ⟨c, hc, h⟩ := htold x hx
        exact ⟨c, List.mem_cons_of_mem _ hc, h⟩

/-- Two changes of one core are one. -/
theorem onCore_onCore (s : State) (pid : Nat) (f g : Core → Core) : (s.onCore pid f).onCore pid g = s.onCore pid fun c => g (f c) := by
  rw [onCore, core_onCore, onCore, setCore_setCore, onCore]

end State

/-! ### EXC at every level (R127) -/

/-- A core with its EXC. -/
def Core.withExc (e : BitVec 4) (c : Core) : Core := { c with exc := e }

/-- EXC with the bit of a level set. -/
def excusedAt (e : BitVec 4) (l : Nat) : BitVec 4 := if levelBit e l then e else setLevelBit e l true

theorem excusedAt_levels : ∀ e : BitVec 4, [1, 2, 3, 4].foldl excusedAt e = 0xF := by decide

namespace State

/-- A core excused at a level at which it is not (R127). -/
def excuseAt (pid : Nat) (u : State) (l : Nat) : State := if levelBit (u.core pid).exc l then u else u.excuse pid l true

theorem excuseAt_eq (s : State) (pid l : Nat) (e : BitVec 4) (bars : List BarSignal) :
    ∃ new, excuseAt pid { s.onCore pid (Core.withExc e) with bars := bars } l =
        { s.onCore pid (Core.withExc (excusedAt e l)) with bars := bars ++ new } ∧ ∀ b ∈ new, b.core = pid ∧ b.kind = .excuse true := by
  have hexc : (State.core { s.onCore pid (Core.withExc e) with bars := bars } pid).exc = e :=
    congrArg Core.exc (core_onCore s pid (Core.withExc e))
  unfold excuseAt excusedAt
  rw [hexc]
  split
  · exact ⟨[], by rw [List.append_nil], nofun⟩
  · obtain ⟨b, hb, hcore, -, hkind⟩ := signal_eq { s.onCore pid (Core.withExc (setLevelBit e l true)) with bars := bars } pid l (.excuse true)
    have hset : State.onCore { s.onCore pid (Core.withExc e) with bars := bars } pid (fun c => { c with exc := setLevelBit c.exc l true }) =
        { s.onCore pid (Core.withExc (setLevelBit e l true)) with bars := bars } :=
      congrArg (fun u : State => { u with bars := bars })
        (s.onCore_onCore pid (Core.withExc e) fun c => { c with exc := setLevelBit c.exc l true })
    refine ⟨[b], ?_, fun x hx => ?_⟩
    · rw [excuse, hset, hb]
    · rw [List.mem_singleton.mp hx]
      exact ⟨hcore, hkind⟩

theorem excuseLevels_eq (s : State) (pid : Nat) (ls : List Nat) (e : BitVec 4) (bars : List BarSignal) :
    ∃ new, ls.foldl (excuseAt pid) { s.onCore pid (Core.withExc e) with bars := bars } =
        { s.onCore pid (Core.withExc (ls.foldl excusedAt e)) with bars := bars ++ new } ∧
      ∀ b ∈ new, b.core = pid ∧ b.kind = .excuse true := by
  induction ls generalizing e bars with
  | nil => exact ⟨[], by rw [List.append_nil]; rfl, nofun⟩
  | cons l ls ih =>
    obtain ⟨first, hfirst, hsays⟩ := s.excuseAt_eq pid l e bars
    obtain ⟨rest, hrest, hsays'⟩ := ih (excusedAt e l) (bars ++ first)
    refine ⟨first ++ rest, ?_, fun b hb => (List.mem_append.mp hb).elim (hsays b) (hsays' b)⟩
    rw [List.foldl_cons, hfirst, hrest, List.append_assoc]
    rfl

/-- A core excused at every level: EXC is all ones, and the roots are told what changes (R127). -/
theorem excuseAll_eq (s : State) (pid : Nat) (f : Core → Core) :
    ∃ new, (s.onCore pid f).excuseAll pid = { s.onCore pid (fun c => (f c).withExc 0xF) with bars := s.bars ++ new } ∧
      ∀ b ∈ new, b.core = pid ∧ b.kind = .excuse true := by
  have hstart : s.onCore pid f = { (s.onCore pid f).onCore pid (Core.withExc (f (s.core pid)).exc) with bars := s.bars } := by
    rw [onCore_onCore, onCore, onCore]
    rfl
  obtain ⟨new, hnew, hsays⟩ := (s.onCore pid f).excuseLevels_eq pid [1, 2, 3, 4] (f (s.core pid)).exc s.bars
  refine ⟨new, ?_, hsays⟩
  change [1, 2, 3, 4].foldl (excuseAt pid) (s.onCore pid f) = _
  rw [hstart, hnew, excusedAt_levels, onCore_onCore]

end State

end Sys2Proof.Machine
end


section
/-!
PROOF. Stores to a task entry (R99, R100): what each makes of its core.
-/

namespace Sys2Proof.Machine

open State

/-! ### Word 0 of a task entry (R100) -/

/-- The fields of word 0 that a store writes, STATE apart (R100). -/
def entryFields (v : Word) : Word := v &&& 0xFF07FFFFFF0FFF00

theorem entryMask_fields (v : Word) : (v &&& entryMask 0) &&& ~~~3#64 = entryFields v := by
  rw [BitVec.and_assoc]
  rfl

/-- A state put into the two low bits of a word is read back. -/
theorem fld_withState (x : Word) {n : Nat} (hn : n < 4) : fld (x &&& ~~~3#64 ||| Word.ofNat n) 0 2 = n := by
  have hones : ∀ i < 2, (3#64).getLsbD i = true := by decide
  have hlow : (x &&& ~~~3#64 ||| Word.ofNat n).extractLsb' 0 2 = (Word.ofNat n).extractLsb' 0 2 := by
    ext i hi
    simp only [BitVec.getElem_extractLsb', Nat.zero_add, BitVec.getLsbD_or, BitVec.getLsbD_and, BitVec.getLsbD_not, hones i hi]
    simp
  rw [← toNat_extractLsb'_eq_fld, hlow, toNat_extractLsb'_eq_fld, fld_low, Word.ofNat, BitVec.toNat_ofNat]
  omega

theorem fld_noState (x : Word) : fld (x &&& ~~~3#64) 0 2 = 0 := by
  have h := fld_withState x (n := 0) (by decide)
  rwa [Word.ofNat, BitVec.or_zero] at h

/-- A word is its other bits with its state. -/
theorem withState_self (w : Word) : w &&& ~~~3#64 ||| Word.ofNat (fld w 0 2) = w := by
  have hlow : ∀ i, (Word.ofNat (fld w 0 2)).getLsbD i = (w.getLsbD i && (3#64).getLsbD i) := by
    intro i
    rw [← BitVec.getLsbD_and]
    congr 1
    apply BitVec.eq_of_toNat_eq
    rw [BitVec.toNat_and, Word.ofNat, BitVec.toNat_ofNat, fld_low, show (3#64).toNat = 2 ^ 2 - 1 from rfl, Nat.and_two_pow_sub_one_eq_mod]
    omega
  ext i hi
  rw [← BitVec.getLsbD_eq_getElem, ← BitVec.getLsbD_eq_getElem, BitVec.getLsbD_or, hlow, BitVec.getLsbD_and, BitVec.getLsbD_not]
  cases w.getLsbD i <;> cases (3#64).getLsbD i <;> simp [hi]

/-- A core with a word of its task entry written. -/
def Core.withEntry (i : Fin 8) (w : Word) (c : Core) : Core := { c with entry := c.entry.set i w }

/-- A core whose task starts (R122): the start fibre is born in the next ac. -/
def Core.started (ac : Nat) (c : Core) : Core :=
  { c with slots := c.slots.map fun e => (e.1, e.2.wake ac), delivAt := some ac }

/-- A core whose placement clear is over, or given up (R123). -/
def Core.unclearing (c : Core) : Core := { c with clearing := false }

theorem onlyCore_onCore (s : State) (pid : Nat) (f : Core → Core) : OnlyCore s (s.onCore pid f) pid :=
  ⟨rfl, rfl, rfl, rfl, fun q hq => core_onCore_other s pid q f hq, fun _ _ => rfl⟩

theorem onlyCore_signalled (s : State) (pid : Nat) (f : Core → Core) (bars : List BarSignal) :
    OnlyCore s { s.onCore pid f with bars := bars } pid :=
  onlyCore_onCore s pid f

namespace State

/-- What a store leaves of word 0 beside its state (R100): its fields while the entry is FREE or PLACING, else what stands there. -/
def keptWord (s : State) (pid : Nat) (v : Word) : Word :=
  if s.entryState pid ≤ 1 then entryFields v else s.entryWord pid 0 &&& ~~~3#64

theorem keptWord_open {s : State} {pid : Nat} (h : s.entryState pid ≤ 1) (v : Word) : s.keptWord pid v = entryFields v := if_pos h

theorem keptWord_closed {s : State} {pid : Nat} (h : ¬s.entryState pid ≤ 1) (v : Word) :
    s.keptWord pid v = s.entryWord pid 0 &&& ~~~3#64 := if_neg h

theorem fld_keptWord (s : State) (pid : Nat) (v : Word) {n : Nat} (hn : n < 4) : fld (s.keptWord pid v ||| Word.ofNat n) 0 2 = n := by
  unfold keptWord
  split
  · rw [← entryMask_fields]
    exact fld_withState _ hn
  · exact fld_withState _ hn

/-- What a store to word 0 does, by the state that stands and the state that it asks for (R99, R100). -/
theorem writeEntry_zero (s : State) (pid : Nat) (v : Word) :
    s.writeEntry pid 0 v =
      if s.entryState pid = 0 ∧ v.toNat % 4 = 1 then
        if s.mailboxOk pid then
          (((s.onCore pid (Core.withEntry 0 (s.keptWord pid v ||| Word.ofNat 1))).onCore pid (Core.placed pid)).leaveUnits pid).forsake pid
        else s.onCore pid (Core.withEntry 0 (s.keptWord pid v))
      else if s.entryState pid = 1 ∧ v.toNat % 4 = 2 then
        (s.onCore pid (Core.withEntry 0 (s.keptWord pid v ||| Word.ofNat 2))).onCore pid (Core.started (s.coreAc pid))
      else if s.entryState pid ≤ 2 ∧ v.toNat % 4 = 0 then
        ((s.onCore pid (Core.withEntry 0 (s.keptWord pid v))).onCore pid Core.unclearing).excuseAll pid
      else s.onCore pid (Core.withEntry 0 (s.keptWord pid v ||| Word.ofNat (s.entryState pid))) := by
  have hkept : (if s.entryState pid ≤ 1 then v &&& entryMask 0 else s.entryWord pid 0) &&& ~~~3#64 = s.keptWord pid v := by
    rw [apply_ite (· &&& ~~~3#64), entryMask_fields]
    rfl
  have hasked : fld v 0 2 = v.toNat % 4 := fld_low v 2
  rw [← hkept, ← hasked]
  simp only [writeEntry, Fin.val_zero, ne_eq, not_true_eq_false, if_false]
  rfl

/-- What a store to another word does (R100). -/
theorem writeEntry_other (s : State) (pid : Nat) {i : Fin 8} (hi : i ≠ 0) (v : Word) :
    s.writeEntry pid i v = if s.entryState pid ≤ 1 then s.onCore pid (Core.withEntry i (v &&& entryMask i.val)) else s := by
  have hval : i.val ≠ 0 := fun h => hi (Fin.ext h)
  unfold writeEntry
  rw [if_pos hval]
  rfl

section
variable {s : State} {pid : Nat} {v : Word}

theorem writeEntry_place (h0 : s.entryState pid = 0) (h1 : v.toNat % 4 = 1) (hm : s.mailboxOk pid = true) :
    s.writeEntry pid 0 v =
      (((s.onCore pid (Core.withEntry 0 (entryFields v ||| 1))).onCore pid (Core.placed pid)).leaveUnits pid).forsake pid := by
  rw [writeEntry_zero, if_pos ⟨h0, h1⟩, if_pos hm, keptWord_open (by omega)]
  rfl

theorem writeEntry_refused (h0 : s.entryState pid = 0) (h1 : v.toNat % 4 = 1) (hm : s.mailboxOk pid = false) :
    s.writeEntry pid 0 v = s.onCore pid (Core.withEntry 0 (entryFields v)) := by
  rw [writeEntry_zero, if_pos ⟨h0, h1⟩, hm, if_neg (by decide), keptWord_open (by omega)]

theorem writeEntry_run (h0 : s.entryState pid = 1) (h1 : v.toNat % 4 = 2) :
    s.writeEntry pid 0 v = s.onCore pid fun c => (c.withEntry 0 (s.keptWord pid v ||| Word.ofNat 2)).started (s.coreAc pid) := by
  rw [writeEntry_zero, if_neg (by omega), if_pos ⟨h0, h1⟩, onCore_onCore]

theorem writeEntry_free (h0 : s.entryState pid ≤ 2) (h1 : v.toNat % 4 = 0) :
    ∃ new, s.writeEntry pid 0 v =
        { s.onCore pid fun c => ((c.withEntry 0 (s.keptWord pid v)).unclearing).withExc 0xF with bars := s.bars ++ new } ∧
      ∀ b ∈ new, b.core = pid ∧ b.kind = .excuse true := by
  rw [writeEntry_zero, if_neg (by omega), if_neg (by omega), if_pos ⟨h0, h1⟩, onCore_onCore]
  exact s.excuseAll_eq pid fun c => (c.withEntry 0 (s.keptWord pid v)).unclearing

theorem writeEntry_stays (hplace : ¬(s.entryState pid = 0 ∧ v.toNat % 4 = 1)) (hrun : ¬(s.entryState pid = 1 ∧ v.toNat % 4 = 2))
    (hfree : ¬(s.entryState pid ≤ 2 ∧ v.toNat % 4 = 0)) :
    s.writeEntry pid 0 v = s.onCore pid (Core.withEntry 0 (s.keptWord pid v ||| Word.ofNat (s.entryState pid))) := by
  rw [writeEntry_zero, if_neg hplace, if_neg hrun, if_neg hfree]

/-- A store to a RUNNING or SAVED entry that moves it nowhere writes word 0 as it stands (R100). -/
theorem writeEntry_kept (hopen : ¬s.entryState pid ≤ 1) (hfree : ¬(s.entryState pid ≤ 2 ∧ v.toNat % 4 = 0)) :
    OnlyCore s (s.writeEntry pid 0 v) pid ∧ (s.writeEntry pid 0 v).core pid = s.core pid := by
  have hword : s.keptWord pid v ||| Word.ofNat (s.entryState pid) = (s.core pid).entry[0] := by
    rw [keptWord_closed hopen]
    exact withState_self _
  rw [writeEntry_stays (by omega) (by omega) hfree, hword]
  refine ⟨onlyCore_onCore .., ?_⟩
  rw [core_onCore, Core.withEntry]
  congr 1
  exact Vector.set_getElem_self _

end

end State

/-! ### Where a word of a task entry stands (R145) -/

/-- An offset of a cluster's window at which its task entries stand (R144, R145). -/
theorem place_taskEntries {cid o : Nat} (hr : cid / 64 < 63) (hc : cid % 64 < 36) (ho : o < 0x800) :
    place (clusterBase cid + 0x1901000 + o) = some (.control (cid / 64), .taskEntries) := by
  have hpa : clusterBase cid + 0x1901000 + o = cid / 64 * 0x100000000 + (cid % 64 * 0x2000000 + (0x1901000 + o)) := by
    rw [clusterBase, regionBase]
    omega
  have hregion : (clusterBase cid + 0x1901000 + o) / 0x100000000 = cid / 64 := by omega
  have hwindow : (clusterBase cid + 0x1901000 + o) % 0x100000000 = cid % 64 * 0x2000000 + (0x1901000 + o) := by omega
  have hcluster : (cid % 64 * 0x2000000 + (0x1901000 + o)) / 0x2000000 = cid % 64 := by omega
  have hoffset : (cid % 64 * 0x2000000 + (0x1901000 + o)) % 0x2000000 = 0x1901000 + o := by omega
  have hcid : cid / 64 * 64 + cid % 64 = cid := by omega
  rw [place, if_pos (by omega), hregion, hwindow, placeInRegion, if_pos (by omega), hcluster, hoffset, hcid, placeInCluster,
    if_neg (by omega), if_neg (by omega), if_neg (by omega), if_neg (by omega), if_neg (by omega), if_neg (by omega), if_pos (by omega)]

theorem controlWrite_of_taskEntries (s : State) (v : Word) {pa cid o : Nat} {h : Home} (hplace : place pa = some (h, .taskEntries))
    (hcid : pa / 0x100000000 * 64 + pa % 0x100000000 / 0x2000000 = cid) (ho : pa % 0x2000000 - 0x1901000 = o) :
    s.controlWrite pa v = s.storeEntry cid o v := by
  rw [← hcid, ← ho]
  unfold controlWrite
  dsimp only
  rw [hplace]

/-- Word i of a core's task entry, by its offset (R100). -/
theorem storeEntry_word (s : State) (v : Word) (pid : Nat) (i : Fin 8) :
    s.storeEntry (pid / 8) (pid % 8 * 0x100 + 8 * i.val) v = s.writeEntry pid i v := by
  have hi := i.isLt
  have hcore : pid / 8 * 8 + (pid % 8 * 0x100 + 8 * i.val) / 0x100 = pid := by omega
  have hword : (pid % 8 * 0x100 + 8 * i.val) % 0x100 / 8 = i.val := by omega
  unfold storeEntry
  rw [hcore, dif_pos (by omega)]
  exact congrArg (s.writeEntry pid · v) (Fin.ext hword)

/-- A store to word i of a core's task entry (R100, R145). -/
theorem controlWrite_taskEntry (s : State) (v : Word) {pid : Nat} (hr : pid / 512 < 63) (hc : pid / 8 % 64 < 36) (i : Fin 8) :
    s.controlWrite (clusterBase (pid / 8) + 0x1901000 + pid % 8 * 0x100 + 8 * i.val) v = s.writeEntry pid i v := by
  have hi := i.isLt
  have hplace := place_taskEntries (cid := pid / 8) (o := pid % 8 * 0x100 + 8 * i.val) (by omega) hc (by omega)
  rw [← storeEntry_word, Nat.add_assoc _ (pid % 8 * 0x100)]
  refine controlWrite_of_taskEntries s v hplace ?_ ?_
  · rw [clusterBase, regionBase]
    omega
  · rw [clusterBase, regionBase]
    omega

end Sys2Proof.Machine
end

section
/-!
PROOF. A placement, the clear's end, and the first part of O33 (R99, R100, R110, R123).
-/

namespace Sys2Proof.Machine

open State

/-! ### A placement (R123) -/

/-- A cluster whose units hold no work of a core (R123). -/
def Cluster.left (pid : Nat) (c : Cluster) : Cluster :=
  { c with
    vec0 := c.vec0.without pid
    vec1 := c.vec1.without pid
    exp := c.exp.without pid
    mat := if c.mat.core = some (pid % 8) then { c.mat with core := none } else c.mat
    rot := if c.rot.core = some (pid % 8) then { c.rot with core := none } else c.rot }

/-- A core that does nothing more for a context of a core (R123, R337). -/
def Core.forsaken (pid : Nat) (c : Core) : Core :=
  if c.went = some pid then { c with went := none, hods := c.hods.map HodOp.orphan } else c

namespace State

/-- Tokens at or below NEXT stay where they are (R230, R233). -/
theorem settleTokens_of_held {s : State} {cid : Nat} (h : (s.tokens cid).held ≤ tokenCost cid * (s.tokens cid).next) :
    s.settleTokens cid = s := by
  unfold settleTokens passBack
  split
  · rfl
  · exact if_pos (Nat.sub_eq_zero_of_le h)

theorem leaveUnits_eq {s : State} {pid : Nat}
    (h : (s.tokens (pid / 8)).held ≤ tokenCost (pid / 8) * (s.tokens (pid / 8)).next) :
    s.leaveUnits pid = s.onCluster (pid / 8) (Cluster.left pid) := by
  have htokens : (s.onCluster (pid / 8) (Cluster.left pid)).tokens (pid / 8) = s.tokens (pid / 8) := by
    rw [tokens, cluster_onCluster]
    rfl
  rw [← htokens] at h
  exact settleTokens_of_held h

theorem core_forsake (s : State) (pid q : Nat) : (s.forsake pid).core q = Core.forsaken pid (s.core q) :=
  Tab.read_map s.cores (Core.forsaken pid) (Core.initial q) rfl q

/-- A store that places a task, where no tokens pass back (R100, R123). -/
theorem place_next {s : State} (h0 : s.entryState s.spot.place = 0) (h1 : s.spot.v0.toNat % 4 = 1) (hm : s.mailboxOk s.spot.place = true)
    (ht : (s.tokens (s.spot.place / 8)).held ≤ tokenCost (s.spot.place / 8) * (s.tokens (s.spot.place / 8)).next) :
    exec .taskEntryPlace s = .next (((s.onCore s.spot.place fun c =>
      (c.withEntry 0 (entryFields s.spot.v0 ||| 1)).placed s.spot.place).onCluster (s.spot.place / 8)
        (Cluster.left s.spot.place)).forsake s.spot.place) := by
  change Host.Outcome.next (if _ ∧ fld s.spot.v0 0 2 = 1 then _ else s) = _
  rw [if_pos ⟨h0, (fld_low _ _).trans h1⟩, writeEntry_place h0 h1 hm, onCore_onCore]
  exact congrArg (fun u : State => Host.Outcome.next (u.forsake s.spot.place)) (leaveUnits_eq ht)

theorem place_refused {s : State} (h0 : s.entryState s.spot.place = 0) (h1 : s.spot.v0.toNat % 4 = 1)
    (hm : s.mailboxOk s.spot.place = false) :
    exec .taskEntryPlace s = .next (s.onCore s.spot.place (Core.withEntry 0 (entryFields s.spot.v0))) := by
  change Host.Outcome.next (if _ ∧ fld s.spot.v0 0 2 = 1 then _ else s) = _
  rw [if_pos ⟨h0, (fld_low _ _).trans h1⟩, writeEntry_refused h0 h1 hm]

/-- A core as a placement has left it, other cores, and what the placement does not touch (R123). -/
theorem core_placed (s : State) (pid : Nat) (f : Core → Core) (g : Cluster → Cluster) (hf : (f (s.core pid)).went = none) :
    (((s.onCore pid f).onCluster (pid / 8) g).forsake pid).core pid = f (s.core pid) := by
  rw [core_forsake, core_onCluster, core_onCore]
  exact if_neg (by rw [hf]; nofun)

theorem core_placed_other (s : State) (pid : Nat) (f : Core → Core) (g : Cluster → Cluster) {q : Nat} (hq : q ≠ pid) :
    (((s.onCore pid f).onCluster (pid / 8) g).forsake pid).core q = Core.forsaken pid (s.core q) := by
  rw [core_forsake, core_onCluster, core_onCore_other _ _ _ _ hq]

end State

/-- STATE of an entry, by its word 0. -/
theorem entryState_of {s : State} {pid : Nat} {w : Word} (h : (s.core pid).entry[0] = w) : s.entryState pid = fld w 0 2 :=
  congrArg (fld · 0 2) h

theorem entry_withEntry (w : Word) (c : Core) : (c.withEntry 0 w).entry[0] = w := Vector.getElem_set_self _

theorem fld_entryFields (v : Word) {n : Nat} (hn : n < 4) : fld (entryFields v ||| Word.ofNat n) 0 2 = n := by
  rw [← entryMask_fields]
  exact fld_withState _ hn

theorem fld_entryFields_free (v : Word) : fld (entryFields v) 0 2 = 0 := by
  rw [← entryMask_fields]
  exact fld_noState _

/-! ### The clear's end (R123) -/

/-- A range of memory cleared, byte by byte (R156). -/
theorem Memory.byte_clear (m : List Host.Cell) (lo hi a : Nat) :
    Memory.byte (Memory.clear m lo hi) a = if lo ≤ a ∧ a < hi then Memory.unlisted a else Memory.byte m a := by
  induction m with
  | nil => exact (ite_self _).symm
  | cons c t ih =>
    obtain ⟨k, v⟩ := c
    have hcons : Memory.clear ((k, v) :: t) lo hi =
        if decide (k < lo) || decide (hi ≤ k) then (k, v) :: Memory.clear t lo hi else Memory.clear t lo hi := List.filter_cons ..
    rw [hcons]
    by_cases hk : lo ≤ k ∧ k < hi
    · have hout : ¬(decide (k < lo) || decide (hi ≤ k)) = true := by simp; omega
      rw [if_neg hout, ih, Memory.byte]
      by_cases ha : lo ≤ a ∧ a < hi
      · rw [if_pos ha, if_pos ha]
      · rw [if_neg ha, if_neg ha, if_neg (by rintro rfl; exact ha hk)]
    · have hin : (decide (k < lo) || decide (hi ≤ k)) = true := by simp; omega
      rw [if_pos hin, Memory.byte, Memory.byte, ih]
      by_cases hak : a = k
      · rw [if_pos hak, if_pos hak, if_neg (by rw [hak]; exact hk)]
      · rw [if_neg hak, if_neg hak]

/-- A core whose placement clear has ended: its station holds nothing (R123). -/
def Core.cleared (c : Core) : Core := { c with clearing := false, station := [], active := none, incoming := none }

theorem clearDone_next {s : State} (hc : (s.core s.spot.place).clearing = true) (hr : s.clusterRuns (s.spot.place / 8) = true) :
    ∃ bad, exec .placementClearDone s = .next { s.onCore s.spot.place Core.cleared with
      mem := Memory.clear s.mem (tcmBase s.spot.place) (tcmBase s.spot.place + 0x40000), bad := bad } := by
  change ∃ bad, (if (s.core s.spot.place).clearing && s.clusterRuns (s.spot.place / 8) then _ else _) = _
  rw [hc, hr]
  exact ⟨_, rfl⟩

theorem taskEntries : Piece.TaskEntries := by
  intro s pid v c state others
  refine ⟨fun h0 h1 hm ht => ?_, fun h0 h1 hm => ?_, fun h0 h1 => ?_, fun h0 h0' h1 => ?_, ?_, fun hc hr => ?_⟩
  · have hcore := s.core_placed pid (fun c => (c.withEntry 0 (entryFields v ||| 1)).placed pid) (Cluster.left pid) rfl
    have hentry := (congrArg (fun d : Core => d.entry[0]) hcore).trans (entry_withEntry (entryFields v ||| 1) c)
    refine ⟨_, place_next h0 h1 hm ht, ⟨rfl, rfl, rfl, rfl, fun k hk => cluster_onCluster_other _ _ _ _ hk,
      fun q hq => s.core_placed_other pid _ _ hq⟩, (entryState_of hentry).trans (fld_entryFields v (by decide)), ?_⟩
    refine ⟨hentry, ?_⟩
    rw [hcore]
    exact ⟨fun _ => rfl, rfl, rfl, rfl, rfl, rfl, rfl, rfl, rfl, rfl, rfl, rfl, rfl, rfl, rfl, rfl, rfl, rfl, rfl⟩
  · have hcore := core_onCore s pid (Core.withEntry 0 (entryFields v))
    have hentry := (congrArg (fun d : Core => d.entry[0]) hcore).trans (entry_withEntry (entryFields v) c)
    exact ⟨_, place_refused h0 h1 hm, onlyCore_onCore .., (entryState_of hentry).trans (fld_entryFields_free v),
      (congrArg Core.clearing hcore :), hentry⟩
  · have hexec : exec .taskEntryRun s = .next (s.writeEntry pid 0 v) :=
      congrArg Host.Outcome.next (if_pos ⟨h0, (fld_low _ _).trans h1⟩)
    rw [writeEntry_run h0 h1] at hexec
    have hcore := core_onCore s pid fun c => (c.withEntry 0 (s.keptWord pid v ||| Word.ofNat 2)).started (s.coreAc pid)
    have hentry := (congrArg (fun d : Core => d.entry[0]) hcore).trans (entry_withEntry (s.keptWord pid v ||| Word.ofNat 2) c)
    exact ⟨_, hexec, onlyCore_onCore .., (entryState_of hentry).trans (s.fld_keptWord pid v (by decide)), (congrArg Core.part hcore :),
      (congrArg Core.x hcore :)⟩
  · have hexec : exec .taskEntryFree s = .next (s.writeEntry pid 0 v) :=
      congrArg Host.Outcome.next (if_pos ⟨h0, h0', (fld_low _ _).trans h1⟩)
    obtain ⟨new, hnew, hsays⟩ := writeEntry_free h0' h1
    rw [hnew] at hexec
    have hcore := core_onCore s pid fun c => ((c.withEntry 0 (s.keptWord pid v)).unclearing).withExc 0xF
    have hentry := (congrArg (fun d : Core => d.entry[0]) hcore).trans (entry_withEntry (s.keptWord pid v) c)
    have hfree := s.fld_keptWord pid v (n := 0) (by decide)
    rw [Word.ofNat, BitVec.or_zero] at hfree
    exact ⟨_, hexec, onlyCore_signalled .., (entryState_of (pid := pid) hentry).trans hfree, (congrArg Core.exc hcore :), new, rfl, hsays⟩
  · intro open_ stored fields
    refine ⟨fun i _ _ hr hcl => controlWrite_taskEntry s v hr hcl i, fun h0 h1 => ?_, fun h0 h1 => ?_, fun h0 h1 => ?_, fun h0 h1 => ?_,
      fun h0 => ?_, fun i hi => ⟨fun hn => ?_, fun ho => ?_⟩⟩
    · obtain ⟨new, hnew, -⟩ := writeEntry_free (s := s) (pid := pid) (by omega) h1
      have hcore := core_onCore s pid fun c => ((c.withEntry 0 (s.keptWord pid v)).unclearing).withExc 0xF
      have hkept : s.keptWord pid v = fields := keptWord_open (by omega) v
      change OnlyCore s (s.writeEntry pid 0 v) pid ∧ ((s.writeEntry pid 0 v).core pid).entry = _
      rw [hnew]
      refine ⟨onlyCore_signalled .., (congrArg Core.entry hcore).trans ?_⟩
      rw [hkept]
      rfl
    · change s.writeEntry pid 0 v = _
      rw [writeEntry_stays (by omega) (by omega) (by omega), h0, keptWord_open (by omega), Word.ofNat, BitVec.or_zero]
      rfl
    · change s.writeEntry pid 0 v = _
      rw [writeEntry_stays (by omega) (by omega) (by omega), h0, keptWord_open (by omega)]
      rfl
    · exact (writeEntry_kept (by omega) (by omega)).symm
    · exact (writeEntry_kept (by omega) (by omega)).symm
    · exact (writeEntry_other s pid hi v).trans (if_neg hn)
    · have hmask : ∀ i : Fin 8, i ≠ 0 → entryMask i.val = if i = 2 then 0x00000000FFFFFFFF else 0x00FFFFFFFFFFFFFF := by decide
      rw [← hmask i hi]
      exact (writeEntry_other s pid hi v).trans (if_pos ho)
  · obtain ⟨bad, hexec⟩ := clearDone_next hc hr
    have hcore := core_onCore s pid Core.cleared
    exact ⟨_, hexec, congrArg Core.clearing hcore, congrArg Core.station hcore, congrArg Core.active hcore, congrArg Core.incoming hcore,
      rfl, fun q hq => core_onCore_other s pid q Core.cleared hq, Memory.byte_clear s.mem _ _⟩

end Sys2Proof.Machine
end

section
/-!
PROOF. Watchdogs, fences, lock release and reports (R164, R332, R339, R340, R372), and O33.
-/

namespace Sys2Proof.Machine

open State

/-! ### SUPERVISOR words of the hardware (R338) -/

/-- The routing of a word that a core sends to service core 0 of a region (R338). -/
def tellRouting (r src : Nat) : Routing :=
  { kind := .supervisor, tc := 0, ecls := 0, prio := 3, size := false, dest := serviceRank r, task := 0, src := src }

/-- A word to Flatar is one message more in flight, with its event and what its event says (R338). -/
theorem State.tellFlatar_reported (s : State) (from_ : Port) {r src event low : Nat} (data : Word) (hr : r < 64) (hsrc : src < 2 ^ 16)
    (he : event < 2 ^ 7) (hlow : low < 2 ^ 48) :
    ∃ net, s.tellFlatar from_ src r (Word.ofNat (event * 2 ^ 48 + low)) data = { s with net := net } ∧
      Reported s { s with net := net } r event low data := by
  obtain ⟨p, hp, -, hdst, htc, hload⟩ := s.send_eq_net from_ (.core (r * 512 + 504)) (tellRouting r src)
    (Word.ofNat (event * 2 ^ 48 + low)) [data]
  have hfits : (tellRouting r src).Fits :=
    ⟨by change 0 < 4; decide, by change 3 < 4; decide, by change 0xFF00 + 2 * r < 2 ^ 16; omega, by change 0 < 2 ^ 12; decide, hsrc⟩
  obtain ⟨hkind, -⟩ := Msg.fields_of_routing hfits (Word.ofNat (event * 2 ^ 48 + low)) [data]
  have hsel : (Word.ofNat (event * 2 ^ 48 + low)).toNat = event * 2 ^ 48 + low := by
    rw [Word.ofNat, BitVec.toNat_ofNat]
    omega
  refine ⟨s.net ++ [p], hp, p, _, rfl, hdst, htc, hload, hkind, ?_, ?_, rfl⟩
  · rw [fld, hsel]
    omega
  · rw [fld, hsel]
    omega

/-! ### WATCHDOG_EXPIRY (R339) -/

/-- A watchdog that is on, has not expired, and has counted to its LIMIT (R339). -/
def WatchdogDue (c : Core) : Prop :=
  c.wdog.getLsbD 31 = true ∧ c.wdog.getLsbD 32 = false ∧ c.wdog.toNat % 2 ^ 20 ≠ 0 ∧ c.wdog.toNat % 2 ^ 20 * 1024 ≤ c.wdogCount

/-- A core whose watchdog has expired: EXP is set (R339). -/
def Core.expired (c : Core) : Core := { c with wdog := c.wdog ||| 0x100000000 }

theorem watchdogExpiry_eq (s : State) :
    (WatchdogDue (s.core s.spot.place) → exec .watchdogExpiry s =
        .next ((s.onCore s.spot.place Core.expired).tellFlatar (.core s.spot.place) (s.rankOf s.spot.place) (s.spot.place / 512)
          (Word.ofNat (6 * 2 ^ 48 + (0x8000 + s.spot.place))) (s.time (s.spot.place / 512)))) ∧
      (¬WatchdogDue (s.core s.spot.place) → exec .watchdogExpiry s = .next s) := by
  have hdue : (flag (s.core s.spot.place).wdog 31 && !flag (s.core s.spot.place).wdog 32 && fld (s.core s.spot.place).wdog 0 20 != 0 &&
      decide (fld (s.core s.spot.place).wdog 0 20 * 1024 ≤ (s.core s.spot.place).wdogCount)) = true ↔ WatchdogDue (s.core s.spot.place) := by
    simp only [fld_low, flag, WatchdogDue, Bool.and_eq_true, Bool.not_eq_true', bne_iff_ne, decide_eq_true_eq, and_assoc]
  rw [← Nat.add_assoc]
  exact ⟨fun h => if_pos (hdue.mpr h), fun h => if_neg (mt hdue.mp h)⟩

/-! ### FENCEC (R340) -/

/-- A core fenced or not. -/
def Core.fencedAs (v : Bool) (c : Core) : Core := { c with fenced := v }

namespace State

/-- The roots of every level are told of a core's fence (R340). -/
def FenceTold (new : List BarSignal) (q : Nat) (v : Bool) : Prop :=
  ∀ l, 1 ≤ l → l ≤ 4 → ∃ b ∈ new, b.core = q ∧ b.level = l ∧ b.kind = .fence v

/-- What a fence of some cores leaves: their fences as asked, all else of every core, and the roots told of each that changes. -/
structure Fences (s t : State) (In : Nat → Prop) (v : Nat → Bool) : Prop where
  mem : t.mem = s.mem
  net : t.net = s.net
  inside : ∀ q, In q → t.core q = (s.core q).fencedAs (v q)
  outside : ∀ q, ¬In q → t.core q = s.core q
  told : ∃ new, t.bars = s.bars ++ new ∧ ∀ q, In q → (s.core q).fenced ≠ v q → FenceTold new q (v q)

theorem fences_setFence (s : State) (q : Nat) (v : Nat → Bool) : Fences s (s.setFence q (v q)) (· = q) v := by
  unfold setFence
  split_ifs with h
  · refine ⟨rfl, rfl, fun x hx => ?_, fun _ _ => rfl, [], (List.append_nil _).symm, fun x hx hne => ?_⟩
    · subst hx
      rw [← h]
      rfl
    · subst hx
      exact absurd h hne
  · obtain ⟨new, hnew, htold⟩ := (s.onCore q (Core.fencedAs (v q))).signals_eq q (.fence (v q)) [1, 2, 3, 4]
    change Fences s ([1, 2, 3, 4].foldl (fun u l => u.signal q l (.fence (v q))) (s.onCore q (Core.fencedAs (v q)))) _ _
    rw [hnew]
    refine ⟨rfl, rfl, fun x hx => ?_, fun x hx => core_onCore_other s q x _ hx, new, rfl, fun x hx _ l h1 h4 => ?_⟩
    · subst hx
      exact core_onCore s x _
    · subst hx
      exact htold l (by interval_cases l <;> decide)

/-- Cores fenced, and then one more. -/
theorem Fences.trans {s t u : State} {In : Nat → Prop} {q : Nat} {v : Nat → Bool} (h : Fences s t In v) (k : Fences t u (· = q) v)
    (hq : ¬In q) : Fences s u (fun x => In x ∨ x = q) v := by
  obtain ⟨new, hnew, htold⟩ := h.told
  obtain ⟨new', hnew', htold'⟩ := k.told
  refine ⟨k.mem.trans h.mem, k.net.trans h.net, fun x hx => ?_, fun x hx => ?_, new ++ new', ?_, fun x hx hne l h1 h4 => ?_⟩
  · rcases hx with hx | rfl
    · rw [k.outside x (fun hc => hq (hc ▸ hx)), h.inside x hx]
    · rw [k.inside x rfl, h.outside x hq]
  · rw [k.outside x fun hc => hx (.inr hc), h.outside x fun hc => hx (.inl hc)]
  · rw [hnew', hnew, List.append_assoc]
  · rcases hx with hx | rfl
    · obtain ⟨b, hb, hsays⟩ := htold x hx hne l h1 h4
      exact ⟨b, List.mem_append_left _ hb, hsays⟩
    · obtain ⟨b, hb, hsays⟩ := htold' x rfl (by rw [h.outside x hq]; exact hne) l h1 h4
      exact ⟨b, List.mem_append_right _ hb, hsays⟩

/-- FENCEC fences the first cores of its cluster, one after the other. -/
theorem fences_first (s : State) (cid : Nat) (w : Word) (n : Nat) :
    Fences s ((List.range n).foldl (fun u k => u.setFence (8 * cid + k) (flag w k)) s) (fun q => 8 * cid ≤ q ∧ q < 8 * cid + n)
      (fun q => flag w (q - 8 * cid)) := by
  induction n with
  | zero => exact ⟨rfl, rfl, fun q hq => by omega, fun _ _ => rfl, [], (List.append_nil _).symm, fun q hq => by omega⟩
  | succ n ih =>
    have hstep := fences_setFence ((List.range n).foldl (fun u k => u.setFence (8 * cid + k) (flag w k)) s) (8 * cid + n)
      (fun q => flag w (q - 8 * cid))
    have hall := ih.trans hstep (by omega)
    have hin : (fun q => (8 * cid ≤ q ∧ q < 8 * cid + n) ∨ q = 8 * cid + n) = fun q => 8 * cid ≤ q ∧ q < 8 * cid + (n + 1) := by
      funext q
      exact propext (by omega)
    rw [List.range_succ, List.foldl_append]
    rw [hin, Nat.add_sub_cancel_left] at hall
    exact hall

end State

/-! ### RANGE_LOCK_RELEASE (R164) -/

theorem Tab.look_filter_key {α : Type} (t : Tab α) (n m : Nat) :
    Tab.look (t.filter fun x => !(x.1 == n)) m = if m = n then none else Tab.look t m := by
  induction t with
  | nil => exact (ite_self _).symm
  | cons e t ih =>
    obtain ⟨k, v⟩ := e
    rw [List.filter_cons]
    by_cases hk : k = n
    · rw [if_neg (by simp [hk]), ih, Tab.look]
      by_cases hm : m = n
      · rw [if_pos hm, if_pos hm]
      · rw [if_neg hm, if_neg hm, if_neg (by rw [hk]; exact hm)]
    · rw [if_pos (by simp [hk]), Tab.look, Tab.look, ih]
      by_cases hm : m = k
      · rw [if_pos hm, if_pos hm, if_neg (by rw [hm]; exact hk)]
      · rw [if_neg hm, if_neg hm]

namespace State

/-- The release of an entry's lock (R164): the other entries of the table, and all else but what a cluster keeps of this ac's releases. -/
theorem releaseEntry_kept (s : State) (t : LockTable) (e : Nat) :
    (s.releaseEntry t e).mem = s.mem ∧ (s.releaseEntry t e).net = s.net ∧ (s.releaseEntry t e).cores = s.cores ∧
      (s.releaseEntry t e).lockEntries t = (s.lockEntries t).filter fun x => !(x.1 == e) := by
  cases t with
  | cluster c =>
    refine ⟨rfl, rfl, rfl, ?_⟩
    unfold releaseEntry releaseWhere lockEntries
    dsimp only
    rw [cluster_onCluster]
    dsimp only [setLockEntries]
    rw [cluster_onCluster]
  | region r => exact ⟨rfl, rfl, rfl, congrArg Region.locks (region_onRegion s r _)⟩
  | stack k => exact ⟨rfl, rfl, rfl, congrArg Region.slocks (region_onRegion s (stackRegion k) _)⟩

end State

/-! ### UNCORRECTED_REPORT (R332, R338, R372) -/

/-- A core of which a word holds an uncorrected error (R332). -/
def Core.uncorrected (c : Core) : Core := { c with unc := true }

/-- A fibre of which a word holds an uncorrected error (R332). -/
def Slot.uncorrected (f : Slot) : Slot := { f with unc := true }

theorem uncorrectedReport_core {s : State} (h : s.spot.item ≤ 4) :
    exec .uncorrectedReport s =
      .next (((s.countEcc (s.spot.place / 512) (otherBank s.spot.v1.toNat) true).onCore s.spot.place Core.uncorrected).tellFlatar
        (.core s.spot.place) (s.rankOf s.spot.place) (s.spot.place / 512)
        (Word.ofNat (8 * 2 ^ 48 + (s.spot.item * 2 ^ 16 + 0x8000 + s.spot.place))) s.spot.v0) := by
  refine (if_pos h).trans ?_
  rw [← Nat.add_assoc, ← Nat.add_assoc]
  rfl

theorem uncorrectedReport_slot {s : State} (h : s.spot.item = 5) (hlive : (s.slot s.spot.place s.spot.v0.toNat).live = true) :
    exec .uncorrectedReport s =
      .next (((s.countEcc (s.spot.place / 512) (otherBank s.spot.v1.toNat) true).onSlot s.spot.place s.spot.v0.toNat
        Slot.uncorrected).raiseFault s.spot.place s.spot.v0.toNat (trapOf .uncorrected .context 0)) := by
  have hitem : ¬s.spot.item ≤ 4 := by omega
  exact (if_neg hitem).trans (if_pos ⟨h, hlive⟩)

/-- A bank's count of errors beyond correction rises by one, holding at its top (R372). -/
theorem State.countEcc_ctl (s : State) (r b : Nat) :
    (s.countEcc r b true).ctl (controlBase r + 0x4000 + 8 * b) 0 = stubCounted (s.ctl (controlBase r + 0x4000 + 8 * b) 0) :=
  Tab.read_put_same _ _ _ _

theorem watchdogsAndFences : Piece.WatchdogsAndFences := by
  intro s pid w
  refine ⟨fun hon hexp hlimit hcount hpid hrank => ?_, fun hnot => ?_, ?_, ?_, fun hitem hpid hrank => ?_, fun hitem hlive => ?_⟩
  · obtain ⟨net, hnet, hreported⟩ := (s.onCore pid Core.expired).tellFlatar_reported (.core pid) (event := 6) (low := 0x8000 + pid)
      (s.time (pid / 512)) (by omega : pid / 512 < 64) hrank (by decide) (by omega)
    have hexec := (watchdogExpiry_eq s).1 ⟨hon, hexp, hlimit, hcount⟩
    rw [hnet] at hexec
    exact ⟨_, hexec, core_onCore s pid Core.expired, rfl, fun q hq => core_onCore_other s pid q Core.expired hq, hreported⟩
  · refine (watchdogExpiry_eq s).2 ?_
    rintro ⟨hon, hexp, hlimit, hcount⟩
    rcases hnot with h | h | h | h
    · exact absurd (hexp.symm.trans h) (by decide)
    · exact absurd (hon.symm.trans h) (by decide)
    · exact hlimit h
    · exact absurd hcount (not_le.mpr h)
  · have hfences := s.fences_first pid s.spot.v0 8
    obtain ⟨new, hbars, htold⟩ := hfences.told
    have hbit : ∀ k, flag s.spot.v0 (8 * pid + k - 8 * pid) = s.spot.v0.getLsbD k := fun k => by rw [Nat.add_sub_cancel_left]; rfl
    refine ⟨_, rfl, hfences.mem, hfences.net, fun k hk => ?_, fun q hq => hfences.outside q (by omega), new, hbars, fun k hk hne => ?_⟩
    · rw [← hbit]
      exact hfences.inside (8 * pid + k) (by omega)
    · rw [← hbit] at hne ⊢
      exact htold (8 * pid + k) (by omega) hne
  · obtain ⟨hmem, hnet, hcores, hentries⟩ := s.releaseEntry_kept (lockTableOf pid) s.spot.item
    refine ⟨_, rfl, hmem, hnet, hcores, ?_⟩
    intro old new
    have hlook : ∀ e, new e = if e = s.spot.item then none else old e := fun e =>
      (congrArg (Tab.look · e) hentries).trans (Tab.look_filter_key _ _ _)
    exact ⟨(hlook _).trans (if_pos rfl), fun e he => (hlook e).trans (if_neg he)⟩
  · intro a
    obtain ⟨net, hnet, hreported⟩ := ((s.countEcc (pid / 512) (otherBank s.spot.v1.toNat) true).onCore pid Core.uncorrected).tellFlatar_reported
      (.core pid) (event := 8) (low := s.spot.item * 2 ^ 16 + 0x8000 + pid) s.spot.v0 (by omega : pid / 512 < 64) hrank (by decide) (by omega)
    have hexec := uncorrectedReport_core hitem
    rw [hnet] at hexec
    have hctl : (s.countEcc (pid / 512) (otherBank s.spot.v1.toNat) true).ctl a 0 = stubCounted (s.ctl a 0) := s.countEcc_ctl _ _
    obtain ⟨hlow, hhigh⟩ := stubCounted_fields (s.ctl a 0)
    rw [← hctl] at hlow hhigh
    exact ⟨_, hexec, core_onCore (s.countEcc _ _ true) pid Core.uncorrected, rfl,
      fun q hq => core_onCore_other (s.countEcc _ _ true) pid q Core.uncorrected hq, hlow, hhigh, hreported⟩
  · obtain ⟨net, hnet⟩ := ((s.countEcc (pid / 512) (otherBank s.spot.v1.toNat) true).onSlot pid s.spot.v0.toNat
      Slot.uncorrected).sendFault_eq_net pid s.spot.v0.toNat _ (trapOf .uncorrected .context 0)
    obtain ⟨hslot, -, hslots, hmem, -⟩ := raiseFault_of_net hnet
    have herr : ((s.countEcc (pid / 512) (otherBank s.spot.v1.toNat) true).onSlot pid s.spot.v0.toNat Slot.uncorrected).slot pid
        s.spot.v0.toNat = (s.slot pid s.spot.v0.toNat).uncorrected := slot_onSlot _ _ _ _
    refine ⟨_, uncorrectedReport_slot hitem hlive, ?_, ?_, hmem, fun n hn => (hslots n hn).trans ?_⟩
    · exact congrArg Slot.frozen hslot
    · rw [hslot, herr]
      rfl
    · exact slot_setSlot_other (s.countEcc _ _ true) pid _ pid n _ (.inr hn)

/-- Settles O33: a store to an entry by the state that stands and the one asked for; the steps of watchdogs, fences, locks and reports. -/
theorem taskEntriesAndFences : Obligations.TaskEntriesAndFences := ⟨taskEntries, watchdogsAndFences⟩

end Sys2Proof.Machine
end

section
/-!
PROOF. The machine right after its reset (O59).
-/

namespace Sys2Proof.Machine

open State

/-- Every task entry is FREE (R99). -/
theorem entryState_reset (pid : Nat) : State.reset.entryState pid = 0 := by
  change fld (Vector.replicate 8 (0 : Word))[(0 : Fin 8)] 0 2 = 0
  decide

/-- No core runs: a service core while its region is being wiped (R343, R367), any other while its entry is FREE. -/
theorem running_reset (pid : Nat) : State.reset.running pid = false := by
  unfold running
  split
  · rfl
  · rw [entryState_reset]
    rfl

/-- Settles O59: every table of the reset state is empty, so a part of the machine reads as its own initial state. -/
theorem resetState : Obligations.ResetState := by
  refine ⟨rfl, rfl, rfl, fun r => ⟨rfl, rfl, rfl, rfl, rfl, fun z hz => ?_⟩, fun cid => ⟨rfl, rfl, rfl, rfl, rfl, rfl, rfl, rfl, rfl⟩,
    fun r c hc => ?_, fun pid => ⟨rfl, rfl, rfl, rfl, entryState_reset pid, running_reset pid⟩⟩
  · interval_cases z <;> exact ⟨rfl, rfl, rfl, rfl, rfl⟩
  · have hcluster : (64 * r + c) % 64 = c := by omega
    change Forwarder.defaultParent ((64 * r + c) % 64) = _
    rw [hcluster]
    rfl

end Sys2Proof.Machine
end

section
/-!
PROOF. What an instruction leaves whose effect stands on its fibre and core, and on parts of the machine beside its core.
-/

namespace Sys2Proof.Machine

open State

namespace State

/-- The retirement of an instruction that has also changed the machine outside its core. -/
theorem retired_outside {s : State} (u : State) (f : Slot → Slot) (g : Core → Core) (hl : s.me.live = true)
    (hf : ∀ x : Slot, (f x).live = x.live ∧ (f x).gen = x.gen) :
    retired s 1 (u.setCore s.cur.core (s.changed 4 f g).myCore) = u.setCore s.cur.core (s.after 4 1 f g).myCore := by
  obtain ⟨hlive, hgen⟩ := hf (slotBegun 4 s.me)
  rw [myCore_changed, retired_setCore s u 1 (by rw [Core.slot_setSlot, hlive]; exact hl) (by rw [Core.slot_setSlot, hgen]; rfl),
    Core.slot_setSlot, Core.setSlot_setSlot, myCore_after]

end State

end Sys2Proof.Machine
end

section
/-!
PROOF. The barrier instructions: levels 1 to 4, and level 0 (O18).
-/

namespace Sys2Proof.Machine

open State

namespace State

section
variable {s : State} {l : Level} {rd a : Reg}

/-! ### What the instructions share -/

/-- GRANT of a level lets its instructions execute (R127). -/
theorem granted_of_bit (h : bitOf s.myCore.grant l = true) : (s.changed 4 id id).granted l = .ok () := by
  rw [granted, myCore_changed]
  exact require_of_true (by rw [Bool.or_eq_true]; exact .inr h) _ _ _

/-- A level without GRANT traps PRIVILEGE (R127). -/
theorem granted_denied (hl : l ≠ .core) (h : bitOf s.myCore.grant l = false) :
    (s.changed 4 id id).granted l = .error (.trap (trapOf .privilege .instruction 0)) := by
  rw [granted, myCore_changed]
  exact require_of_false (by rw [beq_false_of_ne hl]; exact h) _ _ _

/-- A signal that an instruction sends to the root of a level begins its path up (R168). -/
theorem signal_changed (hl : l ≠ .core) (f : Slot → Slot) (g : Core → Core) (k : BarKind) :
    (s.changed 4 f g).signal s.cur.core (levelNum l) k = signalled s (s.changed 4 f g) l k := by
  cases l with
  | core => exact absurd rfl hl
  | _ => rfl

theorem retired_signalled (hlive : s.me.live = true) (f : Slot → Slot) (g : Core → Core)
    (hf : ∀ x : Slot, (f x).live = x.live ∧ (f x).gen = x.gen) (k : BarKind) :
    retired s 1 (signalled s (s.changed 4 f g) l k) = signalled s (s.after 4 1 f g) l k := by
  have h := retired_outside (signalled s s l k) f g hlive hf
  rw [myCore_changed, myCore_after] at h
  exact h

/-! ### Arrivals at levels 1 to 4 (R129) -/

theorem arriveAt_denied (hl : l ≠ .core) (h : bitOf s.myCore.grant l = false) :
    (s.changed 4 id id).arriveAt rd a l = .error (.trap (trapOf .privilege .instruction 0)) := by
  rw [arriveAt, granted_denied hl h]
  rfl

/-- The arrival is latched, rd is pending on the level, and the input goes to the root. -/
theorem arriveAt_signals (hl : l ≠ .core) (h : bitOf s.myCore.grant l = true) (harv : bitOf s.myCore.arv l = false) :
    (s.changed 4 id id).arriveAt rd a l =
      .ok (signalled s (s.changed 4 (fun f => f.markPending rd (.barrier l)) (latched l)) l .arrive) := by
  have hfree : (!levelBit (s.changed 4 id id).myCore.arv (levelNum l)) = true := by
    rw [myCore_changed]
    exact congrArg (!·) harv
  have hlatch := changed_onMyCore s 4 (fun f => f.markPending rd (.barrier l)) id (latched l) fun _ _ _ => rfl
  rw [arriveAt, granted_of_bit h, ok_bind, if_neg hl, hfree, waitUnless, if_pos rfl, ok_bind, changed_setPending]
  exact congrArg Except.ok
    ((congrArg (fun u : State => u.signal s.cur.core (levelNum l) .arrive) hlatch).trans (signal_changed hl _ (latched l) .arrive))

/-- While the last arrival is latched, the next one is held. -/
theorem arriveAt_held (hl : l ≠ .core) (h : bitOf s.myCore.grant l = true) (harv : bitOf s.myCore.arv l = true) :
    (s.changed 4 id id).arriveAt rd a l = .error (.hold (.barrier l)) := by
  have hlatched : (!levelBit (s.changed 4 id id).myCore.arv (levelNum l)) = false := by
    rw [myCore_changed]
    exact congrArg (!·) harv
  rw [arriveAt, granted_of_bit h, ok_bind, if_neg hl, hlatched]
  rfl

theorem held_barrier (s : State) (l : Level) : IsHeld s (s.stopped (.hold (.barrier l))) (.barrier l) := by
  have heq : s.stopped (.hold (.barrier l)) = s.holding (.barrier l) s.seq (s.coreAc s.cur.core + 1) := by
    simp only [stopped]
    rfl
  exact heq ▸ held_holding ..

end

/-- What BAR.WT adds to an arrival: the fibre waits while rd is pending (R129). -/
def waiting (rd : Reg) (u : State) : State :=
  if u.me.pending rd then u.onMe (waitsFor rd) else u

/-- BAR.WT is an arrival, after which its fibre may have to wait. -/
def arriveAndWait (rd a : Reg) (l : Level) (t : State) : Except Stop State := do
  let u ← t.arriveAt rd a l
  .ok (waiting rd u)

theorem execBarArv_eq (rd a : Reg) (l : Level) (s : State) :
    exec (.barArv rd a l) s = s.issue (barrierNeed rd a l) fun t => t.arriveAt rd a l := rfl

theorem execBarWt_eq (rd a : Reg) (l : Level) (s : State) :
    exec (.barWt rd a l) s = s.issue (barrierNeed rd a l) (arriveAndWait rd a l) := rfl

theorem barrierNeed_of_ne {l : Level} (hl : l ≠ .core) (rd a : Reg) : barrierNeed rd a l = .plain [] [rd] := by
  rw [barrierNeed, if_neg hl]

theorem pending_markPending (f : Slot) (r : Reg) (p : PSrc) : (f.markPending r p).pending r = true := by
  unfold Slot.pending Slot.markPending
  simp

/-- An arrival has left rd pending, so BAR.WT's fibre waits. -/
theorem waiting_signalled (s : State) (rd : Reg) (l : Level) (p : PSrc) (g : Core → Core) (k : BarKind) :
    waiting rd (signalled s (s.changed 4 (fun f => f.markPending rd p) g) l k) =
      signalled s (s.changed 4 (fun f => waitsFor rd (f.markPending rd p)) g) l k := by
  have hme : (signalled s (s.changed 4 (fun f => f.markPending rd p) g) l k).me.pending rd = true :=
    (congrArg (Slot.pending · rd) (me_changed s 4 (fun f => f.markPending rd p) g)).trans (pending_markPending _ _ _)
  rw [waiting, if_pos hme]
  exact congrArg (fun u : State => signalled s u l k) (changed_onMe s 4 (fun f => f.markPending rd p) g (waitsFor rd))

/-! ### Excuses (R130) -/

section
variable {s : State} {l : Level}

theorem excuse_changed (hl : l ≠ .core) (v : Bool) :
    (s.changed 4 id id).excuse s.cur.core (levelNum l) v =
      signalled s (s.changed 4 id fun c => { c with exc := setLevelBit c.exc (levelNum l) v }) l (.excuse v) := by
  have hset := changed_onMyCore s 4 id id (fun c => { c with exc := setLevelBit c.exc (levelNum l) v }) fun _ _ _ => rfl
  exact (congrArg (fun u : State => u.signal s.cur.core (levelNum l) (.excuse v)) hset).trans (signal_changed hl _ _ _)

/-- BAR.EXC and BAR.RJN: EXC is set or cleared at a level, and the root is told. -/
def excuseBody (l : Level) (v : Bool) (t : State) : Except Stop State := do
  t.granted l
  .ok (t.excuse t.cur.core (levelNum l) v)

theorem excuse_next (hl : l ≠ .core) (hs : s.Clear [] [] []) (h : bitOf s.myCore.grant l = true) (v : Bool) :
    s.issue { Need.plain [] [] with legal := l != .core } (excuseBody l v) =
      .next (signalled s (s.after 4 1 id fun c => { c with exc := setLevelBit c.exc (levelNum l) v }) l (.excuse v)) := by
  have hbody : excuseBody l v (s.changed 4 id id) = .ok
      (signalled s (s.changed 4 id fun c => { c with exc := setLevelBit c.exc (levelNum l) v }) l (.excuse v)) := by
    rw [excuseBody, granted_of_bit h, ok_bind, changed_cur, excuse_changed hl]
  rw [issue_retired hs (bne_iff_ne.mpr hl) rfl rfl hbody]
  exact congrArg Host.Outcome.next (retired_signalled hs.live id _ (fun _ => ⟨rfl, rfl⟩) _)

theorem excuse_denied (hl : l ≠ .core) (hs : s.Clear [] [] []) (h : bitOf s.myCore.grant l = false) (v : Bool) :
    s.issue { Need.plain [] [] with legal := l != .core } (excuseBody l v) =
      .next (s.trapped (trapOf .privilege .instruction 0)) := by
  have hbody : excuseBody l v (s.changed 4 id id) = .error (.trap (trapOf .privilege .instruction 0)) := by
    rw [excuseBody, granted_denied hl h]
    rfl
  exact issue_trapped s _ _ _ hs (bne_iff_ne.mpr hl) rfl rfl hbody

theorem excuse_core (hs : s.Clear [] [] []) (v : Bool) :
    s.issue { Need.plain [] [] with legal := Level.core != .core } (excuseBody .core v) =
      .next (s.trapped (trapOf .illegal .instruction 0)) :=
  issue_illegal hs.live hs.notFrozen hs.2.2.1 rfl

end

/-! ### BAR.ARV and BAR.WT at levels 1 to 4 -/

section
variable {s : State} {l : Level} {rd a : Reg}

theorem arriveAndWait_stops {st : Stop} {t : State} (h : t.arriveAt rd a l = .error st) : arriveAndWait rd a l t = .error st := by
  rw [arriveAndWait, h]
  rfl

theorem arrival_denied (hl : l ≠ .core) (hs : s.Clear [] [rd] []) (h : bitOf s.myCore.grant l = false) {i : Instr}
    (hi : i = .barArv rd a l ∨ i = .barWt rd a l) : exec i s = .next (s.trapped (trapOf .privilege .instruction 0)) := by
  rcases hi with rfl | rfl
  · rw [execBarArv_eq, barrierNeed_of_ne hl]
    exact issue_trapped s _ _ _ hs rfl rfl rfl (arriveAt_denied hl h)
  · rw [execBarWt_eq, barrierNeed_of_ne hl]
    exact issue_trapped s _ _ _ hs rfl rfl rfl (arriveAndWait_stops (arriveAt_denied hl h))

theorem barArv_next (hl : l ≠ .core) (hs : s.Clear [] [rd] []) (h : bitOf s.myCore.grant l = true)
    (harv : bitOf s.myCore.arv l = false) : exec (.barArv rd a l) s =
      .next (signalled s (s.after 4 1 (fun f => f.markPending rd (.barrier l)) (latched l)) l .arrive) := by
  rw [execBarArv_eq, barrierNeed_of_ne hl, issue_retired hs rfl rfl rfl (arriveAt_signals hl h harv)]
  exact congrArg Host.Outcome.next
    (retired_signalled hs.live (fun f => f.markPending rd (.barrier l)) (latched l) (fun _ => ⟨rfl, rfl⟩) .arrive)

theorem barWt_next (hl : l ≠ .core) (hs : s.Clear [] [rd] []) (h : bitOf s.myCore.grant l = true)
    (harv : bitOf s.myCore.arv l = false) : exec (.barWt rd a l) s =
      .next (signalled s (s.after 4 1 (fun f => waitsFor rd (f.markPending rd (.barrier l))) (latched l)) l .arrive) := by
  have hbody : arriveAndWait rd a l (s.changed 4 id id) =
      .ok (signalled s (s.changed 4 (fun f => waitsFor rd (f.markPending rd (.barrier l))) (latched l)) l .arrive) := by
    rw [arriveAndWait, arriveAt_signals hl h harv, ok_bind, waiting_signalled]
  rw [execBarWt_eq, barrierNeed_of_ne hl, issue_retired hs rfl rfl rfl hbody]
  exact congrArg Host.Outcome.next
    (retired_signalled hs.live (fun f => waitsFor rd (f.markPending rd (.barrier l))) (latched l) (fun _ => ⟨rfl, rfl⟩) .arrive)

theorem arrival_held (hl : l ≠ .core) (hs : s.Clear [] [rd] []) (h : bitOf s.myCore.grant l = true)
    (harv : bitOf s.myCore.arv l = true) {i : Instr} (hi : i = .barArv rd a l ∨ i = .barWt rd a l) :
    exec i s = .next (s.stopped (.hold (.barrier l))) := by
  rcases hi with rfl | rfl
  · rw [execBarArv_eq, barrierNeed_of_ne hl]
    exact issue_stopped hs rfl rfl rfl (arriveAt_held hl h harv)
  · rw [execBarWt_eq, barrierNeed_of_ne hl]
    exact issue_stopped hs rfl rfl rfl (arriveAndWait_stops (arriveAt_held hl h harv))

end

end State

theorem barriersByLevel : Piece.BarrierInstructions := by
  intro s rd a l hl g denied
  refine ⟨fun hs => ⟨fun h => ⟨arrival_denied hl hs h (.inl rfl), arrival_denied (a := a) hl hs h (.inr rfl)⟩,
      fun h harv => ⟨barArv_next hl hs h harv, barWt_next hl hs h harv⟩, fun h harv i hi => ?_⟩,
    fun hs => ⟨fun h => ⟨excuse_denied hl hs h true, excuse_denied hl hs h false⟩,
      fun h => ⟨excuse_next hl hs h true, excuse_next hl hs h false⟩, excuse_core hs true, excuse_core hs false⟩⟩
  obtain ⟨⟨r, hme⟩, ⟨slots, hcore⟩, -, hout⟩ := held_barrier s l
  exact ⟨_, arrival_held hl hs h harv hi, by rw [hme], by rw [hme], by rw [hme], by rw [hcore], hout.2.2.2.2.2.2.2.2.2.1, hout⟩

end Sys2Proof.Machine
end

section
/-!
PROOF. A release written at a core (R129), the arrivals at level 0, and O18.
-/

namespace Sys2Proof.Machine

open State

/-! ### The registers that wait for a release (R107, R129) -/

section
variable (src : PSrc) (status : Word) (ac : Nat) (f : Slot)

/-- A register that is pending on a level takes the status word of its release. -/
def Slot.takeRelease (f : Slot) (r : Reg) : Slot := if f.mark[r] == some src then (f.arrive r status).wake ac else f

/-- Every register of a fibre that is pending on a level takes the status word. -/
def Slot.released (f : Slot) : Slot := (List.finRange 8).foldl (Slot.takeRelease src status ac) f

theorem Slot.takeRelease_same {r : Reg} (h : f.mark[r] = some src) :
    (f.takeRelease src status ac r).g[r] = status ∧ (f.takeRelease src status ac r).mark[r] = none := by
  rw [Slot.takeRelease, if_pos (beq_iff_eq.mpr h)]
  exact ⟨Vector.getElem_set_self _, Vector.getElem_set_self _⟩

theorem Slot.takeRelease_kept {r q : Reg} (h : q ≠ r ∨ f.mark[r] ≠ some src) :
    (f.takeRelease src status ac r).g[q] = f.g[q] ∧ (f.takeRelease src status ac r).mark[q] = f.mark[q] ∧
      (f.takeRelease src status ac r).refused[q] = f.refused[q] := by
  unfold Slot.takeRelease
  split
  · next hm =>
    have hne : r.val ≠ q.val := fun hv => h.elim (fun hq => hq (Fin.ext hv.symm)) fun hq => hq (beq_iff_eq.mp hm)
    exact ⟨Vector.getElem_set_ne r.isLt q.isLt hne, Vector.getElem_set_ne r.isLt q.isLt hne, Vector.getElem_set_ne r.isLt q.isLt hne⟩
  · exact ⟨rfl, rfl, rfl⟩

/-- A register of a list takes the word if it is pending on the level, and stays as it is if it is not. -/
theorem Slot.takeReleases_reg (l : List Reg) (q : Reg) :
    (q ∈ l → f.mark[q] = some src →
      (l.foldl (Slot.takeRelease src status ac) f).g[q] = status ∧ (l.foldl (Slot.takeRelease src status ac) f).mark[q] = none) ∧
    (f.mark[q] ≠ some src →
      (l.foldl (Slot.takeRelease src status ac) f).g[q] = f.g[q] ∧ (l.foldl (Slot.takeRelease src status ac) f).mark[q] = f.mark[q] ∧
        (l.foldl (Slot.takeRelease src status ac) f).refused[q] = f.refused[q]) := by
  induction l generalizing f with
  | nil => exact ⟨fun h => absurd h List.not_mem_nil, fun _ => ⟨rfl, rfl, rfl⟩⟩
  | cons r l ih =>
    obtain ⟨ihTakes, ihKept⟩ := ih (f.takeRelease src status ac r)
    rw [List.foldl_cons]
    refine ⟨fun hq hm => ?_, fun hm => ?_⟩
    · by_cases hr : q = r
      · subst hr
        obtain ⟨hg, hmark⟩ := f.takeRelease_same src status ac hm
        obtain ⟨kg, kmark, -⟩ := ihKept (by rw [hmark]; exact nofun)
        exact ⟨kg.trans hg, kmark.trans hmark⟩
      · obtain ⟨-, hmark, -⟩ := f.takeRelease_kept src status ac (.inl hr)
        exact ihTakes ((List.mem_cons.mp hq).resolve_left hr) (hmark.trans hm)
    · obtain ⟨hg, hmark, href⟩ := f.takeRelease_kept src status ac (r := r) (q := q)
        ((eq_or_ne q r).elim (fun h => .inr (h ▸ hm)) .inl)
      obtain ⟨kg, kmark, kref⟩ := ihKept (by rw [hmark]; exact hm)
      exact ⟨kg.trans hg, kmark.trans hmark, kref.trans href⟩

theorem Slot.released_takes {q : Reg} (h : f.mark[q] = some src) :
    (f.released src status ac).g[q] = status ∧ (f.released src status ac).mark[q] = none :=
  (f.takeReleases_reg src status ac _ q).1 (List.mem_finRange q) h

theorem Slot.released_kept {q : Reg} (h : f.mark[q] ≠ some src) :
    (f.released src status ac).g[q] = f.g[q] ∧ (f.released src status ac).mark[q] = f.mark[q] ∧
      (f.released src status ac).refused[q] = f.refused[q] :=
  (f.takeReleases_reg src status ac _ q).2 h

/-- What a release changes of a fibre is its registers, with their marks and refusals, and when it is ready. -/
theorem Slot.released_rest : ∃ g m x r, f.released src status ac = { f with g := g, mark := m, refused := x, readyAt := r } := by
  unfold Slot.released
  induction List.finRange 8 generalizing f with
  | nil => exact ⟨f.g, f.mark, f.refused, f.readyAt, rfl⟩
  | cons r l ih =>
    obtain ⟨g, m, x, a, h⟩ := ih (f.takeRelease src status ac r)
    refine ⟨g, m, x, a, ?_⟩
    rw [List.foldl_cons, h, Slot.takeRelease]
    split <;> rfl

theorem Slot.released_live : (f.released src status ac).live = f.live ∧ (f.released src status ac).gen = f.gen ∧
    (f.released src status ac).pc = f.pc ∧ (f.released src status ac).hold = f.hold := by
  obtain ⟨g, m, x, r, h⟩ := f.released_rest src status ac
  rw [h]
  exact ⟨rfl, rfl, rfl, rfl⟩

/-- A free slot has no register that waits. -/
theorem Slot.released_free : Slot.free.released src status ac = Slot.free := by
  have hmark : ∀ r : Reg, Slot.free.mark[r] ≠ some src := fun r => by
    rw [show Slot.free.mark[r] = none from Vector.getElem_replicate ..]
    exact nofun
  unfold Slot.released
  induction List.finRange 8 with
  | nil => rfl
  | cons r l ih => rw [List.foldl_cons, Slot.takeRelease, if_neg (by rw [beq_iff_eq]; exact hmark r), ih]

end

namespace State

/-! ### Arrivals at level 0 (R129) -/

/-- A state in which an arrival at level 0 has left a count, its register pending. -/
def arrivedAtCore (s : State) (rd : Reg) (left : Nat) : State :=
  s.changed 4 (fun f => f.markPending rd (.barrier .core)) fun c => { c with cnt0 := left }

/-- The count that an arrival leaves: the first arms CNT0, each later one counts it down. -/
def countLeft (s : State) (a : Reg) : Nat := if s.myCore.cnt0 = 0 then (s.reg a).toNat - 1 else s.myCore.cnt0 - 1

section
variable {s : State} {rd a : Reg}

/-- An arrival at level 0 (R129): its count is checked, and what it leaves releases the waiters at 0. -/
theorem arriveAt_core_eq (t : State) (rd a : Reg) :
    t.arriveAt rd a .core = (require (decide (1 ≤ (t.reg a).toNat) && decide ((t.reg a).toNat ≤ 256)) .illegal .instruction 0 >>= fun _ =>
      let u := (t.setPending rd (.barrier .core)).onMyCore fun c => { c with cnt0 := t.countLeft a }
      .ok (if t.countLeft a = 0 then u.release0 t.cur.core else u)) := rfl

theorem countLeft_changed (s : State) (a : Reg) : (s.changed 4 id id).countLeft a = s.countLeft a := by
  rw [countLeft, reg_changed, myCore_changed]
  rfl

theorem arriveAt_core_illegal (h : (s.reg a).toNat = 0 ∨ 256 < (s.reg a).toNat) :
    (s.changed 4 id id).arriveAt rd a .core = .error (.trap (trapOf .illegal .instruction 0)) := by
  rw [arriveAt_core_eq, reg_changed, require_of_false]
  · rfl
  · rw [Bool.and_eq_false_iff, decide_eq_false_iff_not, decide_eq_false_iff_not]
    omega

theorem arriveAt_core (h1 : 1 ≤ (s.reg a).toNat) (h2 : (s.reg a).toNat ≤ 256) :
    (s.changed 4 id id).arriveAt rd a .core =
      .ok (if s.countLeft a = 0 then (s.arrivedAtCore rd (s.countLeft a)).release0 s.cur.core
        else s.arrivedAtCore rd (s.countLeft a)) := by
  have hleft : ((s.changed 4 id id).setPending rd (.barrier .core)).onMyCore (fun c => { c with cnt0 := s.countLeft a }) =
      s.arrivedAtCore rd (s.countLeft a) := by
    rw [changed_setPending]
    exact changed_onMyCore s 4 (fun f => f.markPending rd (.barrier .core)) id (fun c => { c with cnt0 := s.countLeft a }) fun _ _ _ => rfl
  rw [arriveAt_core_eq, reg_changed, countLeft_changed, require_of_true (by simp [h1, h2]), ok_bind, hleft]
  rfl

/-- The status word of a release at level 0 (R129). -/
theorem releaseWord_core (time : Word) : Word.ofNat (fld time 0 32 * 2 ^ 32 + 2 ^ 4) = releaseWord time false 0 := by
  rw [fld_low, releaseWord, if_neg Bool.false_ne_true, Nat.add_zero, Nat.add_zero, Word.ofNat]

/-- The core after an arrival at level 0 that leaves the count at 0: what waits at the level is released (R129). -/
def releasedCore (s : State) (rd : Reg) : Core :=
  (s.arrivedAtCore rd 0).myCore.mapSlots
    (Slot.released (.barrier .core) (releaseWord (s.time (s.cur.core / 512)) false 0) (s.coreAc s.cur.core + 1))

theorem release0_arrived : (s.arrivedAtCore rd 0).release0 s.cur.core = s.setCore s.cur.core (s.releasedCore rd) := by
  have hword := releaseWord_core (s.time (s.cur.core / 512))
  unfold releasedCore
  rw [← hword]
  change (s.setCore s.cur.core _).setCore s.cur.core _ = _
  rw [setCore_setCore]
  rfl

/-- The issuing fibre where its arrival at level 0 has left rd pending. -/
def arrivedFibre (s : State) (rd : Reg) : Slot := (slotBegun 4 s.me).markPending rd (.barrier .core)

theorem arrivedFibre_self : (s.arrivedFibre rd).mark[rd] = some (.barrier .core) := Vector.getElem_set_self rd.isLt

theorem arrivedFibre_other {r : Reg} (h : rd ≠ r) :
    (s.arrivedFibre rd).mark[r] = s.me.mark[r] ∧ (s.arrivedFibre rd).refused[r] = s.me.refused[r] :=
  have hne : rd.val ≠ r.val := fun hv => h (Fin.ext hv)
  ⟨Vector.getElem_set_ne rd.isLt r.isLt hne, Vector.getElem_set_ne rd.isLt r.isLt hne⟩

/-- The issuing fibre where its arrival at level 0 has released the level. -/
def releasedFibre (s : State) (rd : Reg) : Slot :=
  (s.arrivedFibre rd).released (.barrier .core) (releaseWord (s.time (s.cur.core / 512)) false 0) (s.coreAc s.cur.core + 1)

theorem releasedFibre_live : (s.releasedFibre rd).live = s.me.live ∧ (s.releasedFibre rd).gen = s.me.gen ∧
    (s.releasedFibre rd).pc = s.me.pc + 4 ∧ (s.releasedFibre rd).hold = none :=
  (s.arrivedFibre rd).released_live ..

theorem releasedFibre_self : (s.releasedFibre rd).g[rd] = releaseWord (s.time (s.cur.core / 512)) false 0 ∧
    (s.releasedFibre rd).mark[rd] = none := (s.arrivedFibre rd).released_takes _ _ _ arrivedFibre_self

/-- What a fibre that is free again to issue keeps of its registers. -/
theorem slotBusy_regs (ac : Nat) (f : Slot) : (slotBusy ac f).g = f.g ∧ (slotBusy ac f).mark = f.mark ∧
    (slotBusy ac f).refused = f.refused ∧ (slotBusy ac f).hold = f.hold ∧ (slotBusy ac f).pc = f.pc := ⟨rfl, rfl, rfl, rfl, rfl⟩

theorem slot_releasedCore_me : (s.releasedCore rd).slot s.cur.slot = s.releasedFibre rd := by
  rw [releasedCore, Core.slot_mapSlots _ (Slot.released_free ..), arrivedAtCore, myCore_changed, Core.slot_setSlot]
  rfl

theorem slot_releasedCore_other {n : Nat} (hn : n ≠ s.cur.slot) :
    (s.releasedCore rd).slot n = (s.slot s.cur.core n).released (.barrier .core)
      (releaseWord (s.time (s.cur.core / 512)) false 0) (s.coreAc s.cur.core + 1) := by
  rw [releasedCore, Core.slot_mapSlots _ (Slot.released_free ..), arrivedAtCore, myCore_changed, Core.slot_setSlot_other _ _ _ _ hn]
  rfl

/-- What an arrival at level 0 leaves that releases the level, its instruction retired. -/
def coreReleased (s : State) (rd : Reg) : State :=
  s.setCore s.cur.core (coreIssued (s.coreAc s.cur.core) s.rc
    ((s.releasedCore rd).setSlot s.cur.slot (slotBusy (s.coreAc s.cur.core + 8) (s.releasedFibre rd))))

theorem retired_releasedCore (hl : s.me.live = true) :
    retired s 1 (s.setCore s.cur.core (s.releasedCore rd)) = s.coreReleased rd := by
  obtain ⟨hlive, hgen, -⟩ := releasedFibre_live (s := s) (rd := rd)
  rw [retired_setCore s s 1 (by rw [slot_releasedCore_me, hlive, hl]) (by rw [slot_releasedCore_me, hgen]), slot_releasedCore_me]
  rfl

/-- The level has been released: rd is pending no more, and a BAR.WT has nothing to wait for. -/
theorem waiting_releasedCore : waiting rd (s.setCore s.cur.core (s.releasedCore rd)) = s.setCore s.cur.core (s.releasedCore rd) := by
  have hpend : (s.setCore s.cur.core (s.releasedCore rd)).me.pending rd = false := by
    rw [me_setCore, slot_releasedCore_me, Slot.pending]
    exact congrArg Option.isSome releasedFibre_self.2
  rw [waiting, hpend]
  rfl

/-- A BAR.ARV or a BAR.WT at level 0 whose count is not legal. -/
theorem coreArrival_illegal (hs : s.Clear [a] [rd] []) (h : (s.reg a).toNat = 0 ∨ 256 < (s.reg a).toNat) {i : Instr}
    (hi : i = .barArv rd a .core ∨ i = .barWt rd a .core) : exec i s = .next (s.trapped (trapOf .illegal .instruction 0)) := by
  rcases hi with rfl | rfl
  · rw [execBarArv_eq]
    exact issue_trapped s _ _ _ hs rfl rfl rfl (arriveAt_core_illegal h)
  · rw [execBarWt_eq]
    exact issue_trapped s _ _ _ hs rfl rfl rfl (arriveAndWait_stops (arriveAt_core_illegal h))

/-- An arrival at level 0 that leaves others to come. -/
theorem coreArrival_counts (hs : s.Clear [a] [rd] []) (h1 : 1 ≤ (s.reg a).toNat) (h2 : (s.reg a).toNat ≤ 256) (h0 : s.countLeft a ≠ 0) :
    exec (.barArv rd a .core) s =
      .next (s.after 4 1 (fun f => f.markPending rd (.barrier .core)) fun c => { c with cnt0 := s.countLeft a }) ∧
    exec (.barWt rd a .core) s =
      .next (s.after 4 1 (fun f => waitsFor rd (f.markPending rd (.barrier .core))) fun c => { c with cnt0 := s.countLeft a }) := by
  have hbody := arriveAt_core (rd := rd) h1 h2
  rw [if_neg h0] at hbody
  refine ⟨?_, ?_⟩
  · rw [execBarArv_eq]
    exact issue_after hs rfl rfl rfl (fun _ => ⟨rfl, rfl⟩) hbody
  · have hme : (s.arrivedAtCore rd (s.countLeft a)).me.pending rd = true := by
      rw [arrivedAtCore, me_changed]
      exact pending_markPending _ _ _
    have hwait : arriveAndWait rd a .core (s.changed 4 id id) =
        .ok (s.changed 4 (fun f => waitsFor rd (f.markPending rd (.barrier .core))) fun c => { c with cnt0 := s.countLeft a }) := by
      rw [arriveAndWait, hbody, ok_bind, waiting, if_pos hme, arrivedAtCore, changed_onMe]
    rw [execBarWt_eq]
    exact issue_after hs rfl rfl rfl (fun _ => ⟨rfl, rfl⟩) hwait

/-- The last arrival at level 0. -/
theorem coreArrival_releases (hs : s.Clear [a] [rd] []) (h1 : 1 ≤ (s.reg a).toNat) (h2 : (s.reg a).toNat ≤ 256)
    (h0 : s.countLeft a = 0) {i : Instr} (hi : i = .barArv rd a .core ∨ i = .barWt rd a .core) :
    exec i s = .next (s.coreReleased rd) := by
  have hbody : (s.changed 4 id id).arriveAt rd a .core = .ok (s.setCore s.cur.core (s.releasedCore rd)) := by
    rw [arriveAt_core h1 h2, if_pos h0, h0, release0_arrived]
  rcases hi with rfl | rfl
  · rw [execBarArv_eq, issue_retired hs rfl rfl rfl hbody]
    exact congrArg Host.Outcome.next (retired_releasedCore hs.live)
  · have hwait : arriveAndWait rd a .core (s.changed 4 id id) = .ok (s.setCore s.cur.core (s.releasedCore rd)) := by
      rw [arriveAndWait, hbody, ok_bind, waiting_releasedCore]
    rw [execBarWt_eq, issue_retired hs rfl rfl rfl hwait]
    exact congrArg Host.Outcome.next (retired_releasedCore hs.live)

/-! ### What the release of level 0 leaves -/

theorem myCore_coreReleased : (s.coreReleased rd).myCore = coreIssued (s.coreAc s.cur.core) s.rc
    ((s.releasedCore rd).setSlot s.cur.slot (slotBusy (s.coreAc s.cur.core + 8) (s.releasedFibre rd))) := myCore_setCore _ _

theorem me_coreReleased : (s.coreReleased rd).me = slotBusy (s.coreAc s.cur.core + 8) (s.releasedFibre rd) := by
  change (s.coreReleased rd).myCore.slot s.cur.slot = _
  rw [myCore_coreReleased, slot_coreIssued, Core.slot_setSlot]

theorem slot_coreReleased {n : Nat} (hn : n ≠ s.cur.slot) :
    (s.coreReleased rd).slot s.cur.core n = (s.slot s.cur.core n).released (.barrier .core)
      (releaseWord (s.time (s.cur.core / 512)) false 0) (s.coreAc s.cur.core + 1) := by
  change (s.coreReleased rd).myCore.slot n = _
  rw [myCore_coreReleased, slot_coreIssued, Core.slot_setSlot_other _ _ _ _ hn, slot_releasedCore_other hn]

/-- A register of the core beside rd takes the status word if it is pending on level 0, and stays as it is if it is not. -/
theorem reg_coreReleased {n : Nat} {r : Reg} (hne : (n, r) ≠ (s.cur.slot, rd)) :
    let status := releaseWord (s.time (s.cur.core / 512)) false 0
    let f := s.slot s.cur.core n
    let f' := (s.coreReleased rd).slot s.cur.core n
    (f.mark[r] = some (.barrier .core) → f'.g[r] = status ∧ f'.mark[r] = none) ∧
      (f.mark[r] ≠ some (.barrier .core) → f'.g[r] = f.g[r] ∧ f'.mark[r] = f.mark[r] ∧ f'.refused[r] = f.refused[r]) := by
  intro status f f'
  by_cases hn : n = s.cur.slot
  · subst hn
    obtain ⟨hmark, hrefused⟩ := s.arrivedFibre_other (r := r) fun h : rd = r => hne (by rw [h])
    obtain ⟨bg, bmark, bref, -⟩ := slotBusy_regs (s.coreAc s.cur.core + 8) (s.releasedFibre rd)
    have hf' : f' = slotBusy (s.coreAc s.cur.core + 8) (s.releasedFibre rd) := me_coreReleased
    rw [hf', bg, bmark, bref]
    refine ⟨fun h => (s.arrivedFibre rd).released_takes _ _ _ (hmark.trans h), fun h => ?_⟩
    obtain ⟨kg, kmark, kref⟩ := (s.arrivedFibre rd).released_kept (.barrier .core) status (s.coreAc s.cur.core + 1) (q := r)
      (by rw [hmark]; exact h)
    exact ⟨kg, kmark.trans hmark, kref.trans hrefused⟩
  · have hf' : f' = f.released (.barrier .core) status (s.coreAc s.cur.core + 1) := slot_coreReleased hn
    rw [hf']
    exact ⟨fun h => f.released_takes _ _ _ h, fun h => f.released_kept _ _ _ h⟩

end

end State

theorem coreBarrier : Piece.CoreBarrier := by
  intro s rd a i hi hs k left status
  refine ⟨fun h => coreArrival_illegal hs h hi, fun h1 h2 h0 => ?_, fun h1 h2 h0 => ?_⟩
  · obtain ⟨harv, hwt⟩ := coreArrival_counts hs h1 h2 h0
    rcases hi with rfl | rfl
    · exact harv
    · exact hwt
  · obtain ⟨hg, hmark⟩ := s.releasedFibre_self (rd := rd)
    obtain ⟨-, -, hpc, hhold⟩ := s.releasedFibre_live (rd := rd)
    obtain ⟨bg, bmark, -, bhold, bpc⟩ := slotBusy_regs (s.coreAc s.cur.core + 8) (s.releasedFibre rd)
    refine ⟨_, coreArrival_releases hs h1 h2 h0 hi,
      ⟨fun _ => rfl, rfl, rfl, fun p hp => core_setCore_other _ _ _ _ hp, rfl, rfl, rfl, rfl, rfl, rfl, rfl, rfl, rfl⟩, rfl, rfl, ?_, ?_,
      ?_, ?_, ?_, fun e _ r hne => reg_coreReleased hne⟩
    · rw [myCore_coreReleased]
      exact congrArg Core.cnt0 (myCore_changed s 4 _ _)
    · rw [me_coreReleased, bg, hg]
    · rw [me_coreReleased, bmark, hmark]
    · rw [me_coreReleased, bhold, hhold]
    · rw [me_coreReleased, bpc, hpc]

/-- Settles O18: at each level, where its instructions trap, where they wait, and what they leave. -/
theorem barrierInstructions : Obligations.BarrierInstructions := ⟨barriersByLevel, coreBarrier⟩

end Sys2Proof.Machine
end

section
/-!
PROOF. Arrivals at a root, and what the root releases (R125, R129, R141, R168; O19).
-/

namespace Sys2Proof.Machine

open State

theorem Tab.mem_keys_put {α : Type} (t : Tab α) (n : Nat) (x : α) : n ∈ (Tab.put t n x).map Prod.fst := by
  induction t with
  | nil => exact List.mem_singleton.mpr rfl
  | cons e t ih =>
    obtain ⟨k, y⟩ := e
    rw [Tab.put]
    split
    · exact List.mem_cons_self
    · split
      · exact List.mem_cons_self
      · exact List.mem_cons_of_mem _ ih

/-! ### The bits of a level -/

theorem levelBit_set {l : Nat} (h1 : 1 ≤ l) (h4 : l ≤ 4) (b : BitVec 4) (v : Bool) : levelBit (setLevelBit b l v) l = v := by
  have hall : ∀ (k : Fin 4) (b : BitVec 4) (v : Bool), levelBit (setLevelBit b (k.val + 1) v) (k.val + 1) = v := by decide
  have h := hall ⟨l - 1, by omega⟩ b v
  rwa [show l - 1 + 1 = l by omega] at h

/-- The status word of a release, with CHG where a change is marked (R129). -/
theorem releaseWord_marked (time : Word) (chg : Bool) {l : Nat} (hl : l ≤ 4) :
    Word.ofNat (fld time 0 32 * 2 ^ 32 + 2 ^ 4 + l) ||| (if chg then 0x100#64 else 0#64) = releaseWord time chg l := by
  rw [fld_low, releaseWord, Word.ofNat]
  cases chg with
  | false => rw [if_neg Bool.false_ne_true, if_neg Bool.false_ne_true, BitVec.or_zero, Nat.add_zero]
  | true =>
    have hlow : (2 ^ 4 + l) ||| 2 ^ 8 = 2 ^ 8 + 2 ^ 4 + l := by interval_cases l <;> rfl
    have htop : ∀ n : Nat, n < 2 ^ 32 → time.toNat % 2 ^ 32 * 2 ^ 32 + n = 2 ^ 32 * (time.toNat % 2 ^ 32) ||| n := fun n hn => by
      rw [← Nat.two_pow_add_eq_or_of_lt hn, Nat.mul_comm]
    rw [if_pos rfl, if_pos rfl, show (0x100#64 : Word) = BitVec.ofNat 64 (2 ^ 8) from rfl, ← BitVec.ofNat_or]
    congr 1
    rw [Nat.add_assoc, htop (2 ^ 4 + l) (by omega), Nat.or_assoc, hlow, ← htop _ (by omega)]
    omega

namespace State

/-! ### What the tree of a partition rests on (R171) -/

/-- The tree of a partition stands in the control windows and the regions. -/
theorem keystone_congr {s t : State} (hregs : t.regs = s.regs) (hregions : t.regions = s.regions) (n r : Nat) :
    t.keystone n r = s.keystone n r := by
  have htree : ∀ q, t.darkRouter (q * 64) = s.darkRouter (q * 64) ∧ t.isKeystone q = s.isKeystone q ∧ t.upward q = s.upward q := by
    cases s
    cases t
    cases hregs
    cases hregions
    exact fun _ => ⟨rfl, rfl, rfl⟩
  induction n generalizing r with
  | zero => rfl
  | succ n ih =>
    obtain ⟨hdark, hkey, hup⟩ := htree r
    rw [keystone, keystone, hdark, hkey, hup]
    cases s.upward r with
    | none => rfl
    | some p => exact if_congr Iff.rfl rfl (if_congr Iff.rfl rfl (ih p))

theorem rootOf_onCore (s : State) (pid : Nat) (f : Core → Core) (r : Nat) : (s.onCore pid f).rootOf r = s.rootOf r :=
  keystone_congr (s := s) rfl rfl 63 r

/-! ### What a root does to the cores of its unit -/

/-- Cores changed one after the other: those of a list have what the change brings about, the others stay. -/
theorem onCores_eq (s : State) (f : Core → Core) (l : List Nat) :
    ∃ cores, l.foldl (fun u q => u.onCore q f) s = { s with cores := cores } ∧
      (∀ q, q ∉ l → State.core { s with cores := cores } q = s.core q) ∧
      ∀ P : Core → Prop, (∀ c, P (f c)) → ∀ q, q ∈ l → P (State.core { s with cores := cores } q) := by
  induction l generalizing s with
  | nil => exact ⟨s.cores, rfl, fun _ _ => rfl, fun _ _ q h => absurd h List.not_mem_nil⟩
  | cons p l ih =>
    obtain ⟨cores, heq, hother, hin⟩ := ih (s.onCore p f)
    refine ⟨cores, heq, fun q hq => ?_, fun P hP q hq => ?_⟩
    · obtain ⟨hne, hq⟩ := List.ne_and_not_mem_of_not_mem_cons hq
      exact (hother q hq).trans (core_onCore_other s p q f hne)
    · by_cases hql : q ∈ l
      · exact hin P hP q hql
      · obtain rfl : q = p := (List.mem_cons.mp hq).resolve_right hql
        exact (congrArg P ((hother q hql).trans (core_onCore s q f))).mpr (hP _)

/-- A release on its way to a core (R168). -/
def releaseTo (q l : Nat) (status : Word) : BarSignal :=
  { core := q, level := l, kind := .release status, legs := downLegs q l, until_ := 0, seg := q / 512, prev := q / 512, due := false }

/-- Releases sent to the cores of a list begin their paths as one. -/
theorem sendReleases_eq (t : State) (l : Nat) (status : Nat → Word) (qs : List Nat) :
    qs.foldl (fun u q => u.sendRelease q l (status q)) t =
      { t with bars := t.bars ++ qs.map fun q => t.beginLeg (releaseTo q l (status q)) } := by
  induction qs generalizing t with
  | nil => rw [List.map_nil, List.append_nil]; rfl
  | cons q qs ih =>
    rw [List.foldl_cons, ih]
    change ({ t with bars := (t.bars ++ [t.beginLeg (releaseTo q l (status q))]) ++ _ } : State) = _
    rw [List.append_assoc]
    rfl

/-- A signal that begins its path keeps the parts of it, and has not come to its end. -/
theorem beginLeg_path (s : State) (b : BarSignal) :
    (s.beginLeg b).legs = b.legs ∧ (s.beginLeg b).seg = b.seg ∧ (s.beginLeg b).due = b.due := by
  unfold beginLeg
  split <;> exact ⟨rfl, rfl, rfl⟩

/-! ### The decision of a root (R125, R168) -/

section
variable {u : State} {pid l : Nat}

/-- The cores of a unit whose arrivals come after a change that the root has seen (R129). -/
def changedCores (u : State) (pid l : Nat) : List Nat :=
  (u.unitCores pid l).filter fun q => levelBit (u.core q).chg l && levelBit (u.core q).seenArv l

/-- A core whose arrival has been used up by a release. -/
def arrivalCleared (l : Nat) (c : Core) : Core := { c with chg := setLevelBit c.chg l false, seenArv := setLevelBit c.seenArv l false }

/-- The arrivals of a unit, used up by its release. -/
def arrivalsCleared (u : State) (pid l : Nat) : State := (u.unitCores pid l).foldl (fun v q => v.onCore q (arrivalCleared l)) u

theorem decide_incomplete (h : u.unitComplete pid l = false) : u.decide_ pid l = u := by
  rw [decide_, h]
  rfl

theorem decide_below (hc : u.unitComplete pid l = true) (ha : (u.unitCores pid l).any (fun q => levelBit (u.core q).seenArv l) = true)
    (hl : l ≠ 4) :
    u.decide_ pid l = (u.unitCores pid l).foldl (fun v q => v.sendRelease q l
      (Word.ofNat (fld (u.time (pid / 512)) 0 32 * 2 ^ 32 + 2 ^ 4 + l) ||| (if (u.changedCores pid l).contains q then 0x100#64 else 0#64)))
      (u.arrivalsCleared pid l) := by
  rw [decide_, hc, ha, Bool.and_self, if_pos rfl]
  simp only [if_neg hl]
  rfl

theorem decide_wafer {root : Nat} (hc : u.unitComplete pid 4 = true)
    (ha : (u.unitCores pid 4).any (fun q => levelBit (u.core q).seenArv 4) = true) (hroot : u.rootOf (pid / 512) = some root) :
    u.decide_ pid 4 = (u.arrivalsCleared pid 4).sendSignal
      { core := pid, level := 4, kind := .wave (Word.ofNat (fld (u.time root) 0 32 * 2 ^ 32 + 2 ^ 4 + 4)) (u.changedCores pid 4),
        legs := [stripLeg root 16], until_ := 0, seg := root, prev := root, due := false } := by
  rw [decide_, hc, ha, Bool.and_self, if_pos rfl, if_pos rfl, if_pos rfl, hroot]
  rfl

theorem arrivalsCleared_eq (h1 : 1 ≤ l) (h4 : l ≤ 4) :
    ∃ cores, u.arrivalsCleared pid l = { u with cores := cores } ∧
      (∀ q, q ∉ u.unitCores pid l → State.core { u with cores := cores } q = u.core q) ∧
      ∀ q, q ∈ u.unitCores pid l → (State.core { u with cores := cores } q).seenArv.getLsbD (l - 1) = false := by
  obtain ⟨cores, heq, hother, hin⟩ := onCores_eq u (arrivalCleared l) (u.unitCores pid l)
  exact ⟨cores, heq, hother, hin (fun c => c.seenArv.getLsbD (l - 1) = false) fun c => levelBit_set h1 h4 c.seenArv false⟩

end

/-! ### An arrival at its root -/

/-- The root has seen the arrival of a core. -/
def arrivalSeen (s : State) (pid l : Nat) : State :=
  s.onCore pid fun c => { c with seenArv := setLevelBit c.seenArv l true, chg := setLevelBit c.chg l false }

theorem arrivalSeen_counts (s : State) (pid : Nat) {l : Nat} (h1 : 1 ≤ l) (h4 : l ≤ 4) (hserv : isService pid = false)
    (hunit : (s.arrivalSeen pid l).sameUnit l pid pid = true) (hdark : l = 4 → s.darkRouter (pid / 8) = false) :
    ((s.arrivalSeen pid l).unitCores pid l).any (fun q => levelBit ((s.arrivalSeen pid l).core q).seenArv l) = true := by
  refine List.any_eq_true.mpr ⟨pid, List.mem_filter.mpr ⟨Tab.mem_keys_put _ _ _, ?_⟩, ?_⟩
  · have hlive : (l == 4 && (s.arrivalSeen pid l).darkRouter (pid / 8)) = false := by
      rw [Bool.and_eq_false_iff, beq_eq_false_iff_ne]
      exact (ne_or_eq l 4).imp id hdark
    rw [hserv, hunit, hlive]
    rfl
  · rw [arrivalSeen, core_onCore]
    exact levelBit_set h1 h4 _ _

end State

namespace State

section
variable {u : State} {pid l : Nat}

/-- A release at levels 1 to 3 goes out to every core of the unit. -/
theorem releases_below (hc : u.unitComplete pid l = true)
    (ha : (u.unitCores pid l).any (fun q => levelBit (u.core q).seenArv l) = true) (h1 : 1 ≤ l) (h3 : l ≤ 3) :
    ∃ cores new, u.decide_ pid l = { u with cores := cores, bars := u.bars ++ new } ∧
      (∀ q, q ∉ u.unitCores pid l → State.core { u with cores := cores } q = u.core q) ∧
      (∀ q ∈ u.unitCores pid l, (State.core { u with cores := cores } q).seenArv.getLsbD (l - 1) = false) ∧
      (∀ q ∈ u.unitCores pid l, ∃ e ∈ new, e.core = q) ∧
      ∀ e ∈ new, e.core ∈ u.unitCores pid l ∧ e.level = l ∧ e.legs = downLegs e.core l ∧ e.due = false ∧
        ∃ chg, e.kind = .release (releaseWord (u.time (pid / 512)) chg l) := by
  obtain ⟨cores, heq, hother, hin⟩ := arrivalsCleared_eq (u := u) (pid := pid) h1 (by omega)
  rw [decide_below hc ha (by omega), heq, sendReleases_eq]
  refine ⟨cores, _, rfl, hother, hin, fun q hq => ⟨_, List.mem_map_of_mem hq, (beginLeg_says _ _).1⟩, fun e he => ?_⟩
  obtain ⟨q, hq, rfl⟩ := List.mem_map.mp he
  obtain ⟨hcore, hlevel, hkind⟩ := beginLeg_says { u with cores := cores } (releaseTo q l
    (Word.ofNat (fld (u.time (pid / 512)) 0 32 * 2 ^ 32 + 2 ^ 4 + l) ||| (if (u.changedCores pid l).contains q then 0x100#64 else 0#64)))
  obtain ⟨hlegs, -, hdue⟩ := beginLeg_path { u with cores := cores } (releaseTo q l
    (Word.ofNat (fld (u.time (pid / 512)) 0 32 * 2 ^ 32 + 2 ^ 4 + l) ||| (if (u.changedCores pid l).contains q then 0x100#64 else 0#64)))
  rw [hcore, hlevel, hlegs, hdue, hkind]
  exact ⟨hq, rfl, rfl, rfl, _, congrArg BarKind.release (releaseWord_marked _ _ (by omega))⟩

/-- A release at level 4 leaves the stages of its keystone after 16 ac. -/
theorem releases_wafer {root : Nat} (hc : u.unitComplete pid 4 = true)
    (ha : (u.unitCores pid 4).any (fun q => levelBit (u.core q).seenArv 4) = true) (hroot : u.rootOf (pid / 512) = some root) :
    ∃ cores e, u.decide_ pid 4 = { u with cores := cores, bars := u.bars ++ [e] } ∧
      (∀ q, q ∉ u.unitCores pid 4 → State.core { u with cores := cores } q = u.core q) ∧
      (∀ q ∈ u.unitCores pid 4, (State.core { u with cores := cores } q).seenArv.getLsbD 3 = false) ∧
      e.kind = .wave (releaseWord (u.time root) false 4) (u.changedCores pid 4) ∧ e.seg = root ∧ e.level = 4 ∧
      e.until_ = u.clusterAc (root * 64 + 63) + 16 := by
  obtain ⟨cores, heq, hother, hin⟩ := arrivalsCleared_eq (u := u) (pid := pid) (l := 4) (by omega) (by omega)
  rw [decide_wafer hc ha hroot, heq]
  exact ⟨cores, _, rfl, hother, hin, congrArg (BarKind.wave · _)
    (BitVec.or_zero.symm.trans (releaseWord_marked (u.time root) false (l := 4) (by omega))), rfl, rfl, rfl⟩

/-- A complete unit at level 4 has a keystone. -/
theorem unitComplete_root (hc : u.unitComplete pid 4 = true) : ∃ root, u.rootOf (pid / 512) = some root := by
  obtain ⟨-, h⟩ := Bool.and_eq_true_iff.mp hc
  cases hroot : u.rootOf (pid / 512) with
  | none =>
    rw [hroot] at h
    exact absurd h Bool.false_ne_true
  | some root => exact ⟨root, rfl⟩

/-- An arrival is the first at its root where none that came before it still waits there (R141). -/
theorem takenBefore_arrival {s : State} {b e : BarSignal} (hkind : b.kind = .arrive)
    (h : e.due = true → e.level = b.level → e.kind.isRelease = false → s.sameUnit b.level e.core b.core = true → b.until_ ≤ e.until_) :
    s.takenBefore e b = false := by
  refine Bool.eq_false_iff.mpr fun ht => ?_
  simp only [takenBefore, hkind, bne_self_eq_false, Bool.and_false, Bool.or_false, Bool.and_eq_true, beq_iff_eq, Bool.not_eq_true',
    decide_eq_true_eq] at ht
  obtain ⟨⟨⟨⟨hdue, hlevel⟩, hrel⟩, hunit⟩, hbefore⟩ := ht
  exact absurd (h hdue hlevel hrel hunit) (by omega)

end

end State

theorem barrierInputs : Piece.BarrierInputs := by
  rintro s ⟨pid, level, kind, legs, until_, seg, prev, due⟩
  intro k l bit hb hkind h1 h4 hdue hfirst hserv hlook hdark u
  have hexec : exec .barrierInputAtRoot s = .next (u.decide_ pid level) := by
    obtain rfl : kind = .arrive := hkind
    obtain rfl : due = true := hdue
    have htaken : (s.bars.any fun e => s.takenBefore e _) = false :=
      List.any_eq_false.mpr fun e he => Bool.eq_false_iff.mp (takenBefore_arrival rfl (hfirst e he))
    change execBarrierInputAtRoot s = _
    rw [execBarrierInputAtRoot, show s.bars[s.spot.place]? = _ from hb]
    simp only [htaken, BarKind.isRelease, Bool.not_false, Bool.and_self, if_true, atRoot]
    rfl
  refine ⟨fun hc => by rw [hexec, decide_incomplete hc], fun hc hunit => ?_⟩
  have hany : (u.unitCores pid level).any (fun q => levelBit (u.core q).seenArv level) = true :=
    arrivalSeen_counts { s with bars := s.bars.eraseIdx k } pid h1 h4 hserv hunit hdark
  by_cases hl : level = 4
  · subst hl
    obtain ⟨root, hroot⟩ := unitComplete_root hc
    obtain ⟨cores, e, heq, hother, hin, hkind, hseg, hlevel, huntil⟩ := releases_wafer hc hany hroot
    refine ⟨_, [e], hexec.trans (congrArg _ heq), rfl, rfl, rfl, hin, hother, fun h : 4 ≤ 3 => absurd h (by decide),
      fun _ root' hroot' => ?_⟩
    obtain rfl : root = root' :=
      Option.some.inj (hroot.symm.trans ((rootOf_onCore { s with bars := s.bars.eraseIdx k } _ _ _).trans hroot'))
    refine ⟨e, _, rfl, hkind, hseg, hlevel, huntil, fun q => ?_⟩
    rw [changedCores, List.mem_filter, Bool.and_eq_true]
    rfl
  · have h3 : level ≤ 3 := Nat.lt_succ_iff.mp (lt_of_le_of_ne h4 hl)
    obtain ⟨cores, new, heq, hother, hin, hall, hnew⟩ := releases_below hc hany h1 h3
    exact ⟨_, new, hexec.trans (congrArg _ heq), rfl, rfl, rfl, hin, hother, fun _ => ⟨hall, hnew⟩, fun h => absurd h hl⟩

end Sys2Proof.Machine
end

section
/-!
PROOF. Releases at a core, how signals travel, BARCFG, and O19.
-/

namespace Sys2Proof.Machine

open State

/-! ### A release at a core (R129, R130) -/

/-- A core in which a release has been written: its status word stands in every register that is pending on the level, and the latched
arrival is used up. -/
def Core.releasedAt (l : Nat) (w : Word) (ac : Nat) (c : Core) : Core :=
  { c.mapSlots (Slot.released (.barrier (levelOf l)) w ac) with arv := setLevelBit c.arv l false, seenArv := setLevelBit c.seenArv l false }

theorem Core.slot_releasedAt (l : Nat) (w : Word) (ac : Nat) (c : Core) (n : Nat) :
    (c.releasedAt l w ac).slot n = (c.slot n).released (.barrier (levelOf l)) w ac :=
  c.slot_mapSlots _ (Slot.released_free ..) n

theorem State.core_releaseAt (s : State) (pid l : Nat) (w : Word) :
    (s.releaseAt pid l w).core pid = (s.core pid).releasedAt l w (s.coreAc pid) := core_onCore s pid (Core.releasedAt l w (s.coreAc pid))

theorem State.core_releaseAt_other (s : State) {pid q : Nat} (l : Nat) (w : Word) (h : q ≠ pid) :
    (s.releaseAt pid l w).core q = s.core q := core_onCore_other s pid q (Core.releasedAt l w (s.coreAc pid)) h

theorem State.slot_releaseAt (s : State) (pid l : Nat) (w : Word) (n : Nat) :
    (s.releaseAt pid l w).slot pid n = (s.slot pid n).released (.barrier (levelOf l)) w (s.coreAc pid) := by
  rw [State.slot, core_releaseAt, Core.slot_releasedAt, State.slot]

theorem barrierReleases : Piece.BarrierReleases := by
  rintro s ⟨pid, level, kind, legs, until_, seg, prev, due⟩ w
  intro k p hb hkind h1 h4 hdue arrived u
  obtain rfl : kind = .release w := hkind
  obtain rfl : due = true := hdue
  have hexec : exec .barrierRelease s =
      .next (if !arrived then u
        else if s.savedNow pid then u.onCore pid fun c => { c with kept := c.kept ++ [(levelOf level, w)] }
        else u.releaseAt pid level w) := by
    change execBarrierRelease s = _
    rw [execBarrierRelease, show s.bars[s.spot.place]? = _ from hb]
    change (if !arrived then _ else if s.savedNow pid then _ else _) = _
    cases arrived <;> cases s.savedNow pid <;> rfl
  refine ⟨fun ha => by rw [hexec, ha]; rfl, fun ha hsaved => by rw [hexec, ha, hsaved]; rfl, fun ha hsaved => ?_⟩
  refine ⟨u.releaseAt pid level w, by rw [hexec, ha, hsaved]; rfl, rfl, rfl, fun q hq => u.core_releaseAt_other _ _ hq, ?_, fun n r => ?_⟩
  · rw [show p = pid from rfl, core_releaseAt]
    exact levelBit_set h1 h4 _ false
  · intro f f'
    have hslot : f' = f.released (.barrier (levelOf level)) w (u.coreAc pid) := u.slot_releaseAt pid level w n
    obtain ⟨-, -, hpc, -⟩ := f.released_live (.barrier (levelOf level)) w (u.coreAc pid)
    rw [hslot]
    exact ⟨fun h => f.released_takes _ _ _ h, fun h => ⟨(f.released_kept _ _ _ h).1, (f.released_kept _ _ _ h).2.1⟩, hpc⟩

/-! ### How a signal travels (R168 to R170, R183) -/

theorem barrierTravel : Piece.BarrierTravel := by
  intro s b g rest hlegs
  have hover : b.until_ ≤ s.clusterAc g.unit → s.advanced b =
      if rest ≠ [] then [s.beginLeg { b with legs := rest }]
      else match b.kind with
        | .wave status chg => s.spread { b with legs := [] } status chg
        | _ => [s.atSegment { b with legs := [] }] := fun h => by
    rw [advanced, hlegs]
    exact if_neg (Nat.not_lt.mpr h)
  refine ⟨fun h => ?_, fun h g' hs hrest => ?_, fun h hrest hlevel hwave => ?_, fun cid d now hcid hheld => ?_⟩
  · rw [advanced, hlegs]
    exact if_pos h
  · subst hrest
    rw [hover h, if_pos (List.cons_ne_nil _ _), beginLeg]
    simp only [Bool.and_eq_true]
  · rw [hover h, if_neg (not_not.mpr hrest)]
    have hseg : s.atSegment { b with legs := [] } = { b with legs := [], due := true } := by
      rw [atSegment, if_pos]
      rw [decide_eq_true hlevel]
      rfl
    split
    · next hkind => exact absurd hkind (hwave _ _)
    · rw [hseg]
  · have hne : cid % 64 ≠ 63 := by omega
    rw [clusterAc, clusterAc, if_neg hne, if_neg hne]
    change Option.getD (s.cluster cid).heldAt _ - _ = Option.getD (s.cluster cid).heldAt _ - _
    rw [hheld]
    rfl

/-! ### BARCFG (R171) -/

/-- A range of bits that the mask holds is taken from the new word. -/
theorem fields_taken {mask : Word} (old new : Word) (k n : Nat) (h : ∀ i < n, mask.getLsbD (k + i) = true) :
    (fields mask old new).extractLsb' k n = new.extractLsb' k n := by
  refine BitVec.eq_of_getLsbD_eq fun i hi => ?_
  simp [fields, hi, h i hi]

/-- A range of bits outside the mask stays. -/
theorem fields_left {mask : Word} (old new : Word) (k n : Nat) (h : ∀ i < n, mask.getLsbD (k + i) = false) :
    (fields mask old new).extractLsb' k n = old.extractLsb' k n := by
  refine BitVec.eq_of_getLsbD_eq fun i hi => ?_
  have hbit : k + i < 64 ∨ 64 ≤ k + i := by omega
  rcases hbit with hbit | hbit
  · have hm : mask[k + i] = false := (BitVec.getLsbD_eq_getElem hbit).symm.trans (h i hi)
    simp [fields, hi, hbit, hm]
  · simp [hi, BitVec.getLsbD_of_ge _ _ hbit]

/-- What a write of BARCFG takes of the value: KEY and CHILD, and a PARENT that is not reserved. -/
def barcfgMask (v : Word) : Word := if fld v 0 3 ≤ 4 then 0xF87#64 else 0xF80#64

/-- The register that a write of BARCFG leaves. -/
theorem barcfgFields (old v : Word) :
    (fields (barcfgMask v) old v).extractLsb' 7 5 = v.extractLsb' 7 5 ∧
      (fields (barcfgMask v) old v).extractLsb' 12 52 = old.extractLsb' 12 52 ∧
      (fields (barcfgMask v) old v).extractLsb' 3 4 = old.extractLsb' 3 4 ∧
      (fields (barcfgMask v) old v).extractLsb' 0 3 = (if v.toNat % 8 ≤ 4 then v else old).extractLsb' 0 3 := by
  rw [barcfgMask, fld_low]
  change _ ∧ _ ∧ _ ∧ _ = BitVec.extractLsb' 0 3 (if v.toNat % 2 ^ 3 ≤ 4 then v else old)
  split
  · exact ⟨fields_taken _ _ _ _ (by decide), fields_left _ _ _ _ (by decide), fields_left _ _ _ _ (by decide),
      fields_taken _ _ _ _ (by decide)⟩
  · exact ⟨fields_taken _ _ _ _ (by decide), fields_left _ _ _ _ (by decide), fields_left _ _ _ _ (by decide),
      fields_left _ _ _ _ (by decide)⟩

namespace State

/-- Signals sent one after the other change nothing but the networks. -/
theorem sendSignals_eq (f : Nat → BarSignal) (l : List Nat) (s : State) :
    ∃ bars, l.foldl (fun u k => u.sendSignal (f k)) s = { s with bars := bars } := by
  induction l generalizing s with
  | nil => exact ⟨s.bars, rfl⟩
  | cons k l ih =>
    obtain ⟨bars, h⟩ := ih (s.sendSignal (f k))
    exact ⟨bars, h⟩

/-- A write of BARCFG leaves the machine as it is but for the register and the networks' signals. -/
theorem writeBarcfg_eq (s : State) (r : Nat) (v : Word) : ∃ bars, s.writeBarcfg r v =
    { s with regs := Tab.put s.regs (controlBase r + 0x600) (fields (barcfgMask v) (s.barcfg r) v), bars := bars } := by
  obtain ⟨bars, h⟩ := sendSignals_eq _ _ _
  exact ⟨bars, h⟩

theorem barcfg_writeBarcfg (s : State) (r : Nat) (v : Word) : (s.writeBarcfg r v).barcfg r = fields (barcfgMask v) (s.barcfg r) v := by
  obtain ⟨bars, h⟩ := s.writeBarcfg_eq r v
  rw [h]
  exact Tab.read_put_same ..

theorem barcfg_writeBarcfg_other (s : State) {r q : Nat} (v : Word) (h : controlBase q + 0x600 ≠ controlBase r + 0x600) :
    (s.writeBarcfg r v).barcfg q = s.barcfg q := by
  obtain ⟨bars, heq⟩ := s.writeBarcfg_eq r v
  rw [heq]
  exact Tab.read_put_other _ _ _ _ _ h

end State

theorem barcfgWritten : Piece.BarcfgWritten := by
  intro s r v
  obtain ⟨bars, heq⟩ := s.writeBarcfg_eq r v
  obtain ⟨hkey, hhigh, hmid, hparent⟩ := barcfgFields (s.barcfg r) v
  refine ⟨s.writeBarcfg r v, rfl, by rw [heq], by rw [heq], ?_, ?_, ?_, ?_, fun q hq hne => ?_, fun p n => by rw [heq]; rfl⟩
  · rw [barcfg_writeBarcfg, hkey]
  · rw [barcfg_writeBarcfg, hhigh]
  · rw [barcfg_writeBarcfg, hmid]
  · rw [barcfg_writeBarcfg, hparent]
  · exact barcfg_writeBarcfg_other s v (by unfold controlBase regionBase; omega)

/-- Settles O19: what a root takes and releases, what a core makes of a release, how signals travel, and BARCFG. -/
theorem barrierNetworks : Obligations.BarrierNetworks := ⟨barrierInputs, barrierReleases, barrierTravel, barcfgWritten⟩

end Sys2Proof.Machine
end

section
/-!
PROOF. What the engine instructions share that start a hod operation: translated ranges, locks at issue, the operation's entry.
-/

namespace Sys2Proof.Machine

open State

namespace State

section
variable {s t u : State} {f : Slot} {a : Access} {kind : FaultKind} {va : Word} {n al : Nat} {ps : Pages}

/-! ### Ranges (R31, R132) -/

theorem translateRange_reordered (ht : Reordered s t) (h : t.translateRange s.cur.core f a kind va n = .ok (ps, u)) : Reordered s u := by
  unfold translateRange at h
  split_ifs at h
  · cases h
    exact ht
  · obtain ⟨⟨ps', t'⟩, hpages, h⟩ := bind_eq_ok h
    obtain ⟨-, -, h⟩ := bind_eq_ok h
    obtain ⟨-, -, h⟩ := bind_eq_ok h
    cases h
    exact translatePages_reordered _ ht hpages

theorem Reordered.cur (ht : Reordered s t) : t.cur = s.cur := by
  obtain ⟨l, rfl⟩ := ht
  rfl

theorem destination_reordered {g : Home} (ht : Reordered s t) (h : t.destination va n al = .ok (ps, g, u)) : Reordered s u := by
  unfold destination at h
  obtain ⟨-, -, h⟩ := bind_eq_ok h
  obtain ⟨-, -, h⟩ := bind_eq_ok h
  obtain ⟨⟨ps', t'⟩, hrange, h⟩ := bind_eq_ok h
  rw [ht.cur] at hrange
  have ht' := translateRange_reordered ht hrange
  dsimp only at h
  split at h
  · split_ifs at h
    · cases h
      exact ht'
    · cases h
  · cases h

/-! ### Locks at issue (R132, R162) -/

theorem addLock_cluster {c : Nat} {l : Lock} (h : t.addLock (some (.cluster c)) l = .added u) : ∃ cl, u = { t with clusters := cl } := by
  unfold addLock at h
  dsimp only at h
  split_ifs at h
  split at h
  · cases h
  · cases h
    exact ⟨_, rfl⟩

/-- A lock that an operation registers in its cluster's table changes that cluster alone. -/
theorem registerAtIssue_cluster {c : Nat} {l : Lock} (h : t.registerAtIssue (some (.cluster c)) l va = .ok u) :
    ∃ cl, u = { t with clusters := cl } := by
  unfold registerAtIssue at h
  split_ifs at h
  split at h
  · next hadd =>
    cases h
    exact addLock_cluster hadd
  · cases h
  · cases h

theorem lockAll_ok {eng op : Nat} {l : List LockAsk} (h : t.lockAll eng op l = .ok u) : ∃ cl, u = { t with clusters := cl } := by
  induction l generalizing t with
  | nil =>
    cases h
    exact ⟨_, rfl⟩
  | cons x l ih =>
    obtain ⟨v, hv, h⟩ := bind_eq_ok h
    obtain ⟨cl, rfl⟩ := registerAtIssue_cluster hv
    obtain ⟨cl', rfl⟩ := ih h
    exact ⟨cl', rfl⟩

end

end State

/-! ### An operation in flight (R76, R132) -/

/-- A core whose micro-TLB has been read, with one more operation in flight. -/
def Core.opStarted (l : List MicroEntry) (o : EngineOp) (c : Core) : Core :=
  { c with utlb := l, opNo := c.opNo + 1, ops := c.ops ++ [o] }

/-- A core with one more hod operation. -/
def Core.withHod (q : HodOp) (c : Core) : Core := { c with hods := c.hods ++ [q] }

namespace State

section
variable {s t : State} {rd : Reg}

/-- What has begun: rd is pending on the engine, the core is changed, and the clusters are as the locks have left them. -/
def engineBegun (s : State) (rd : Reg) (g : Core → Core) (cl : Tab Cluster) : State :=
  { s.changed 4 (fun f => f.markPending rd .engine) g with clusters := cl }

/-- The entry of an operation that the issuing fibre starts. -/
def newOp (s : State) (rd : Reg) (scopes : List Scope) (va : Word) : EngineOp where
  no := s.myCore.opNo
  slot := s.cur.slot
  gen := s.me.gen
  reg := rd
  scopes := scopes
  va := va
  issuer := s.cur.core

theorem startOp_changed (s : State) (l : List MicroEntry) (scopes : List Scope) (va : Word) :
    (s.changed 4 id (Core.withUtlb l)).startOp rd scopes va =
      (s.myCore.opNo, s.changed 4 (fun f => f.markPending rd .engine) (Core.opStarted l (s.newOp rd scopes va))) := by
  have hop := changed_onMyCore s 4 id (Core.withUtlb l)
    (fun c => { c with opNo := s.myCore.opNo + 1, ops := c.ops ++ [s.newOp rd scopes va] }) fun _ _ _ => rfl
  rw [startOp, myCore_changed, me_changed]
  refine congrArg (Prod.mk s.myCore.opNo) ((congrArg (fun u : State => u.setPending rd .engine) hop).trans ?_)
  rw [changed_setPending]
  rfl

theorem startOp_locked (ht : Reordered s t) (cl : Tab Cluster) (scopes : List Scope) (va : Word) :
    ∃ l o, State.startOp { t with clusters := cl } rd scopes va = (s.myCore.opNo, s.engineBegun rd (Core.opStarted l o) cl) := by
  obtain ⟨l, rfl⟩ := ht
  exact ⟨l, _, congrArg (fun x : Nat × State => (x.1, { x.2 with clusters := cl })) (startOp_changed s l scopes va)⟩

/-- The start of a hod operation takes the next number of its core, registers its locks and enters the operation. -/
theorem startHod_ok {scopes : List Scope} {locks : List LockAsk} {no : Nat} {u : State} (ht : Reordered s t)
    (h : t.startHod rd scopes locks = .ok (no, u)) :
    no = s.myCore.opNo ∧ ∃ cl l o, u = s.engineBegun rd (Core.opStarted l o) cl := by
  obtain ⟨-, -, h⟩ := bind_eq_ok h
  obtain ⟨-, -, h⟩ := bind_eq_ok h
  obtain ⟨v, hv, h⟩ := bind_eq_ok h
  obtain ⟨cl, rfl⟩ := lockAll_ok hv
  obtain ⟨l, o, hstart⟩ := startOp_locked (rd := rd) ht cl scopes 0
  rw [hstart] at h
  cases h
  exact ⟨rfl, cl, l, o, rfl⟩

/-- An operation of a core added to what has begun. -/
theorem engineBegun_addHod (g : Core → Core) (cl : Tab Cluster) (q : HodOp) :
    (s.engineBegun rd g cl).addHod q = s.engineBegun rd (fun c => (g c).withHod q) cl :=
  congrArg (fun u : State => { u with clusters := cl })
    (changed_onMyCore s 4 (fun f => f.markPending rd .engine) g (Core.withHod q) fun _ _ _ => rfl)

/-- An engine instruction that has begun retires. -/
theorem retired_engineBegun (hl : s.me.live = true) (g : Core → Core) (cl : Tab Cluster) :
    retired s 1 (s.engineBegun rd g cl) = { s.after 4 1 (fun f => f.markPending rd .engine) g with clusters := cl } := by
  have h := retired_outside { s with clusters := cl } (fun f => f.markPending rd .engine) g hl fun _ => ⟨rfl, rfl⟩
  rw [myCore_changed, myCore_after] at h
  exact h

/-- An operation in the form in which it is issued. -/
def IssuedAs (s : State) (rd : Reg) (kind : HodKind) (todo : List (Word × Nat × Nat)) (dests : List HodDest) (bytes : Nat)
    (q : HodOp) : Prop :=
  q.no = s.myCore.opNo ∧ q.kind = kind ∧ q.slot = s.cur.slot ∧ q.gen = s.me.gen ∧ q.reg = rd ∧ q.todo = todo ∧ q.dests = dests ∧
    q.bytes = bytes ∧ q.failed = none ∧ q.code = none

theorem issued_changed (no : Nat) (kind : HodKind) (ps : Pages) (todo : List (Word × Nat × Nat)) (extent : Nat) (dests : List HodDest)
    (bytes : Nat) :
    HodOp.issued (s.changed 4 id id) no kind rd ps todo extent dests bytes = HodOp.issued s no kind rd ps todo extent dests bytes := by
  unfold HodOp.issued
  rw [me_changed]
  rfl

theorem issuedAs_issued (kind : HodKind) (ps : Pages) (todo : List (Word × Nat × Nat)) (extent : Nat) (dests : List HodDest) (bytes : Nat) :
    s.IssuedAs rd kind todo dests bytes (HodOp.issued s s.myCore.opNo kind rd ps todo extent dests bytes) :=
  ⟨rfl, rfl, rfl, rfl, rfl, rfl, rfl, rfl, rfl, rfl⟩

/-- A hod operation that has been issued leaves its state: an entry more at its core, and rd pending. -/
def hodIssued (s : State) (rd : Reg) (g : Core → Core) (cl : Tab Cluster) (q : HodOp) : State :=
  { s.after 4 1 (fun f => f.markPending rd .engine) (fun c => (g c).withHod q) with clusters := cl }

theorem retired_addHod (hl : s.me.live = true) (g : Core → Core) (cl : Tab Cluster) (q : HodOp) :
    retired s 1 ((s.engineBegun rd g cl).addHod q) = s.hodIssued rd g cl q := by
  rw [engineBegun_addHod, retired_engineBegun hl]
  rfl

theorem myCore_hodIssued (g : Core → Core) (cl : Tab Cluster) (q : HodOp) :
    (s.hodIssued rd g cl q).core s.cur.core = coreIssued (s.coreAc s.cur.core) s.rc (((g s.myCore).withHod q).setSlot s.cur.slot
      (slotBusy (s.coreAc s.cur.core + 8) ((slotBegun 4 s.me).markPending rd .engine))) :=
  myCore_after s 4 1 (fun f => f.markPending rd .engine) fun c => (g c).withHod q

theorem hods_hodIssued (g : Core → Core) (cl : Tab Cluster) (q : HodOp) :
    ((s.hodIssued rd g cl q).core s.cur.core).hods = (g s.myCore).hods ++ [q] := by
  rw [myCore_hodIssued]
  rfl

theorem hodIssued_started {kind : HodKind} {todo : List (Word × Nat × Nat)} {dests : List HodDest} {bytes : Nat} {q : HodOp}
    (hq : s.IssuedAs rd kind todo dests bytes q) {g : Core → Core} (cl : Tab Cluster)
    (hslots : (g s.myCore).slots = s.myCore.slots) (hhods : (g s.myCore).hods = s.myCore.hods) :
    HodStarted s (s.hodIssued rd g cl q) rd kind todo dests bytes :=
  have hme := me_after s 4 1 (fun f => f.markPending rd .engine) fun c => (g c).withHod q
  ⟨rfl, rfl, rfl, rfl, hme, fun _ hn => slot_after_other s 4 1 (fun f => f.markPending rd .engine) (fun c => (g c).withHod q) hslots hn,
    fun _ hp => core_after_other s 4 1 (fun f => f.markPending rd .engine) (fun c => (g c).withHod q) hp, q,
    (hods_hodIssued g cl q).trans (by rw [hhods]), hq⟩

end

end State

end Sys2Proof.Machine
end

section
/-!
PROOF. HOD.PUSH, HOD.TILE and the box of a tile (O46).
-/

namespace Sys2Proof.Machine

open State

namespace State

/-! ### HOD.PUSH (R134) -/

/-- HOD.PUSH once its words have passed (R132, R134): its ranges, its locks, and the operation. -/
def pushRanges (rd : Reg) (w : Word) (n : Nat) (src dst : Word) (t : State) : Except Stop State := do
  let (ps, _, t1) ← t.checkLocal .load .engine src n 8
  let (qs, _, t2) ← t1.destination dst n 8
  require (State.apart ps src n qs dst n) .illegal .engine dst
  let (no, t3) ← t2.startHod rd (t.scopesOf qs) [⟨ps, src, n, false⟩]
  .ok (t3.addHod (HodOp.issued t no .push rd ps [(src, n, 0)] n [.fresh dst qs (noticeOf w)] n))

/-- HOD.PUSH with the words of its operands (R134). -/
def pushWords (rd : Reg) (w : Word) (n : Nat) (src dst : Word) (t : State) : Except Stop State := do
  require (w == 0 || (flag w 31 && fld w 32 32 == 0 && fld w 25 6 == 0 && fld w 22 2 == 0)) .illegal .engine 0
  require (w == 0 || !isServiceRank (fld w 0 16) || t.me.sup) .privilege .engine 0
  require (w == 0 || (t.rankPort t.cur.core (fld w 0 16)).isSome) .illegal .engine 0
  require (n % 8 == 0 && decide (8 ≤ n) && decide (n ≤ 16777216)) .illegal .engine 0
  pushRanges rd w n src dst t

/-- HOD.PUSH once its registers are up. -/
def hodPushBody (xn : XIdx) (rd r1 r2 : Reg) (t : State) : Except Stop State :=
  pushWords rd (t.reg r1) (t.reg r2).toNat ((t.xreg xn).setWidth 64) ((t.xreg xn).extractLsb' 64 64) t

theorem execHodPush_eq (xn : XIdx) (rd r1 r2 : Reg) (s : State) :
    exec (.hodPush xn rd r1 r2) s = s.issue { Need.plain [r1, r2] [rd] with xs := [xn] } (hodPushBody xn rd r1 r2) := rfl

theorem hodPushBody_changed (s : State) (xn : XIdx) (rd r1 r2 : Reg) :
    hodPushBody xn rd r1 r2 (s.changed 4 id id) =
      pushWords rd (s.reg r1) (s.reg r2).toNat ((s.xreg xn).setWidth 64) ((s.xreg xn).extractLsb' 64 64) (s.changed 4 id id) := by
  rw [hodPushBody, reg_changed, reg_changed, ← begun_eq_changed, xreg_begun]

section
variable {s : State} {rd : Reg} {w : Word} {n : Nat} {src dst : Word}

/-- A notice word in its layout (R134). -/
theorem noticeLayout_iff : (w == 0 || (flag w 31 && fld w 32 32 == 0 && fld w 25 6 == 0 && fld w 22 2 == 0)) = true ↔
    w = 0 ∨ (flag w 31 = true ∧ fld w 32 32 = 0 ∧ fld w 25 6 = 0 ∧ fld w 22 2 = 0) := by
  simp [and_assoc]

/-- A notice word that the issuing fibre may use (R97). -/
theorem noticePermitted_iff : (w == 0 || !isServiceRank (fld w 0 16) || (s.changed 4 id id).me.sup) = true ↔
    w = 0 ∨ isServiceRank (fld w 0 16) = false ∨ s.me.sup = true := by
  rw [me_changed, Bool.or_assoc, Bool.or_eq_true, Bool.or_eq_true, Bool.not_eq_true', beq_iff_eq]
  rfl

/-- A notice word whose rank has a table entry at the issuing core. -/
theorem noticeNamed_iff :
    (w == 0 || ((s.changed 4 id id).rankPort (s.changed 4 id id).cur.core (fld w 0 16)).isSome) = true ↔
      w = 0 ∨ (s.rankPort s.cur.core (fld w 0 16)).isSome = true := by
  rw [← begun_eq_changed, (sendsAlike_begun s 4).rankPort, Bool.or_eq_true, beq_iff_eq]
  rfl

theorem pushCount_iff : (n % 8 == 0 && decide (8 ≤ n) && decide (n ≤ 16777216)) = true ↔ n % 8 = 0 ∧ 8 ≤ n ∧ n ≤ 16777216 := by
  simp [and_assoc]

theorem pushWords_layout (h : ¬(w = 0 ∨ (flag w 31 = true ∧ fld w 32 32 = 0 ∧ fld w 25 6 = 0 ∧ fld w 22 2 = 0))) :
    pushWords rd w n src dst (s.changed 4 id id) = .error (.trap (trapOf .illegal .engine 0)) := by
  rw [pushWords, require_of_false (Bool.eq_false_iff.mpr (noticeLayout_iff.not.mpr h))]
  rfl

theorem pushWords_privilege (hlay : w = 0 ∨ (flag w 31 = true ∧ fld w 32 32 = 0 ∧ fld w 25 6 = 0 ∧ fld w 22 2 = 0))
    (h : ¬(w = 0 ∨ isServiceRank (fld w 0 16) = false ∨ s.me.sup = true)) :
    pushWords rd w n src dst (s.changed 4 id id) = .error (.trap (trapOf .privilege .engine 0)) := by
  rw [pushWords, require_of_true (noticeLayout_iff.mpr hlay), ok_bind,
    require_of_false (Bool.eq_false_iff.mpr (noticePermitted_iff.not.mpr h))]
  rfl

theorem pushWords_illegal (hlay : w = 0 ∨ (flag w 31 = true ∧ fld w 32 32 = 0 ∧ fld w 25 6 = 0 ∧ fld w 22 2 = 0))
    (hperm : w = 0 ∨ isServiceRank (fld w 0 16) = false ∨ s.me.sup = true)
    (h : ¬(w = 0 ∨ (s.rankPort s.cur.core (fld w 0 16)).isSome = true) ∨ ¬(n % 8 = 0 ∧ 8 ≤ n ∧ n ≤ 16777216)) :
    pushWords rd w n src dst (s.changed 4 id id) = .error (.trap (trapOf .illegal .engine 0)) := by
  rw [pushWords, require_of_true (noticeLayout_iff.mpr hlay), ok_bind, require_of_true (noticePermitted_iff.mpr hperm), ok_bind]
  by_cases hn : w = 0 ∨ (s.rankPort s.cur.core (fld w 0 16)).isSome = true
  · rw [require_of_true (noticeNamed_iff.mpr hn), ok_bind,
      require_of_false (Bool.eq_false_iff.mpr (pushCount_iff.not.mpr (h.resolve_left (not_not.mpr hn))))]
    rfl
  · rw [require_of_false (Bool.eq_false_iff.mpr (noticeNamed_iff.not.mpr hn))]
    rfl

theorem pushWords_pass (hlay : w = 0 ∨ (flag w 31 = true ∧ fld w 32 32 = 0 ∧ fld w 25 6 = 0 ∧ fld w 22 2 = 0))
    (hperm : w = 0 ∨ isServiceRank (fld w 0 16) = false ∨ s.me.sup = true)
    (hn : w = 0 ∨ (s.rankPort s.cur.core (fld w 0 16)).isSome = true) (hc : n % 8 = 0 ∧ 8 ≤ n ∧ n ≤ 16777216) :
    pushWords rd w n src dst (s.changed 4 id id) = pushRanges rd w n src dst (s.changed 4 id id) := by
  rw [pushWords, require_of_true (noticeLayout_iff.mpr hlay), ok_bind, require_of_true (noticePermitted_iff.mpr hperm), ok_bind,
    require_of_true (noticeNamed_iff.mpr hn), ok_bind, require_of_true (pushCount_iff.mpr hc), ok_bind]

theorem pushRanges_ok {ps qs : Pages} {h g : Home} {no : Nat} {t1 t2 t3 : State}
    (hc : (s.changed 4 id id).checkLocal .load .engine src n 8 = .ok (ps, h, t1)) (hd : t1.destination dst n 8 = .ok (qs, g, t2))
    (hap : State.apart ps src n qs dst n = true)
    (hst : t2.startHod rd ((s.changed 4 id id).scopesOf qs) [⟨ps, src, n, false⟩] = .ok (no, t3)) :
    pushRanges rd w n src dst (s.changed 4 id id) =
      .ok (t3.addHod (HodOp.issued s no .push rd ps [(src, n, 0)] n [.fresh dst qs (noticeOf w)] n)) := by
  rw [pushRanges, hc, ok_bind]
  dsimp only
  rw [hd, ok_bind, require_of_true hap, ok_bind]
  dsimp only
  rw [hst, ok_bind, issued_changed]

end

end State

theorem hodPushes : Piece.HodPushes := by
  intro s xn rd r1 r2 u w n src dst layout permitted named hs
  have hbody := hodPushBody_changed s xn rd r1 r2
  rw [execHodPush_eq]
  refine ⟨fun h => ?_, fun h h' => ?_, fun h h' h'' => ?_, fun ps qs h g no t1 t2 t3 hlay hperm hnamed h8 hlo hhi hc hd hap hst => ?_⟩
  · exact issue_trapped s _ _ _ hs rfl rfl rfl (hbody.trans (pushWords_layout h))
  · exact issue_trapped s _ _ _ hs rfl rfl rfl (hbody.trans (pushWords_privilege h h'))
  · exact issue_trapped s _ _ _ hs rfl rfl rfl (hbody.trans (pushWords_illegal h h' (h''.imp id (by omega))))
  · have hr2 := destination_reordered (checkLocal_reordered hc) hd
    obtain ⟨rfl, cl, l, o, rfl⟩ := startHod_ok hr2 hst
    refine ⟨_, (issue_retired hs rfl rfl rfl ?_).trans (congrArg _ (retired_addHod hs.live (Core.opStarted l o) cl _)),
      hodIssued_started (issuedAs_issued .push ps [(src, n, 0)] n [.fresh dst qs (noticeOf w)] n) cl rfl rfl⟩
    exact hbody.trans ((pushWords_pass hlay hperm hnamed ⟨h8, hlo, hhi⟩).trans (pushRanges_ok hc hd hap hst))

namespace State

/-! ### HOD.TILE (R135) -/

section
variable (d e : Nat) (o : Word)

/-- The bytes of an element of a tile's tensor. -/
def tileSize : Nat := 2 ^ (d / 2 ^ 56 % 4)

/-- The box of the tile that the operands of a HOD.TILE describe. -/
def tileBoxOf : Nat × Nat × Nat × Nat :=
  tileBox (d / 2 ^ 64 % 2 ^ 24) (d / 2 ^ 88 % 2 ^ 24) (e / 2 ^ 64 % 2 ^ 16) (e / 2 ^ 80 % 2 ^ 16) (signed32 o 0) (signed32 o 32)

/-- The bytes of a tile's box. -/
def tileBytes : Nat := (tileBoxOf d e o).2.2.1 * (tileBoxOf d e o).2.2.2 * tileSize d

/-- The operands of a HOD.TILE pass (R135). -/
def tileLegal (empty : Bool) : Bool :=
  d / 2 ^ 58 % 64 == 0 && d / 2 ^ 112 == 0 && decide (1 ≤ d / 2 ^ 64 % 2 ^ 24) && decide (1 ≤ d / 2 ^ 88 % 2 ^ 24) &&
    decide (1 ≤ e / 2 ^ 64 % 2 ^ 16) && decide (e / 2 ^ 64 % 2 ^ 16 ≤ 4096) && decide (1 ≤ e / 2 ^ 80 % 2 ^ 16) &&
    decide (e / 2 ^ 80 % 2 ^ 16 ≤ 4096) && decide (d / 2 ^ 88 % 2 ^ 24 * tileSize d ≤ e / 2 ^ 96) &&
    decide (e / 2 ^ 64 % 2 ^ 16 * (e / 2 ^ 80 % 2 ^ 16) * tileSize d ≤ 16777216) && !empty

/-- The handler and the words of a tile's clip record. -/
def tileClip (dst : Word) : Nat × List Word :=
  (e / 2 ^ 56 % 256,
    [dst, o, Word.ofNat (e / 2 ^ 64 % 2 ^ 16 + e / 2 ^ 80 % 2 ^ 16 * 2 ^ 16 + d / 2 ^ 56 % 4 * 2 ^ 32), Word.ofNat (tileBoxOf d e o).1,
      Word.ofNat (tileBoxOf d e o).2.1, Word.ofNat (tileBoxOf d e o).2.2.1, Word.ofNat (tileBoxOf d e o).2.2.2,
      Word.ofNat (tileBytes d e o)])

/-- A tile without a byte: an operation that is over in the next ac. -/
def emptyTile (s : State) (no : Nat) (rd : Reg) (dst : Word) : HodOp :=
  { HodOp.issued s no .tile rd [] [] 0 [.fresh dst [] []] 0 with clip := some (tileClip d e o dst) }

/-- A HOD.TILE whose box is empty. -/
def tileNothing (rd : Reg) (base dst : Word) (t : State) : Except Stop State := do
  require (base.toNat % tileSize d == 0 && (e / 2 ^ 96) % tileSize d == 0) .align .engine base
  require (dst.toNat % tileSize d == 0) .align .engine dst
  waitUnless (decide (t.myCore.hods.length < 128)) .hodLimit
  let (no, t1) := t.startOp rd [] 0
  .ok ((t1.addHod (emptyTile d e o t no rd dst)).inject (.cluster (t.cur.core / 8)) (.cluster (t.cur.core / 8)) 2
    (.landed t.cur.core no 0 (t.coreAc t.cur.core + 1)))

/-- The first byte that a tile reads, and the first that it writes. -/
def tileSource (base : Word) : Word :=
  base + Word.ofInt ((signed32 o 0 + (tileBoxOf d e o).1) * (e / 2 ^ 96 : Nat) + (signed32 o 32 + (tileBoxOf d e o).2.1) * tileSize d)

def tileTarget (dst : Word) : Word :=
  dst + Word.ofNat (((tileBoxOf d e o).1 * (e / 2 ^ 80 % 2 ^ 16) + (tileBoxOf d e o).2.1) * tileSize d)

/-- The bytes of a row of the box, and those from the first to the last byte that a tile reads and that it writes. -/
def tileRow : Nat := (tileBoxOf d e o).2.2.2 * tileSize d

def tileReads : Nat := rowSpan (tileBoxOf d e o).2.2.1 (e / 2 ^ 96) (tileRow d e o)

def tileWrites : Nat := rowSpan (tileBoxOf d e o).2.2.1 (e / 2 ^ 80 % 2 ^ 16 * tileSize d) (tileRow d e o)

/-- A tile's rows, to be copied one after the other. -/
def tileTodo (src : Word) : List (Word × Nat × Nat) :=
  (List.range (tileBoxOf d e o).2.2.1).map fun i =>
    (src + Word.ofNat (i * (e / 2 ^ 96)), tileRow d e o, i * (e / 2 ^ 80 % 2 ^ 16 * tileSize d))

/-- The copy of a tile's rows. -/
def rowsTile (s : State) (no : Nat) (rd : Reg) (ps qs : Pages) (src out dst : Word) : HodOp :=
  { HodOp.issued s no .tile rd ps (tileTodo d e o src) (tileWrites d e o) [.fresh out qs []] (tileBytes d e o) with
    clip := if tileBoxOf d e o == (0, 0, e / 2 ^ 64 % 2 ^ 16, e / 2 ^ 80 % 2 ^ 16) then none else some (tileClip d e o dst) }

/-- A HOD.TILE whose box has rows to copy. -/
def tileRows (rd : Reg) (base dst : Word) (t : State) : Except Stop State := do
  require (canonical (tileSource d e o base)) .page .engine (tileSource d e o base)
  require (base.toNat % tileSize d == 0 && (e / 2 ^ 96) % tileSize d == 0) .align .engine base
  let (ps, _, t1) ← t.checkLocal .load .engine (tileSource d e o base) (tileReads d e o) (tileSize d)
  let (qs, _, t2) ← t1.destination (tileTarget d e o dst) (tileWrites d e o) (tileSize d)
  require (State.apart ps (tileSource d e o base) (tileReads d e o) qs (tileTarget d e o dst) (tileWrites d e o)) .illegal .engine
    (tileTarget d e o dst)
  let (no, t3) ← t2.startHod rd (t.scopesOf qs) [⟨ps, tileSource d e o base, tileReads d e o, false⟩]
  .ok (t3.addHod (rowsTile d e o t no rd ps qs (tileSource d e o base) (tileTarget d e o dst) dst))

/-- HOD.TILE with the words of its operands. -/
def tileWords (rd : Reg) (base dst : Word) (t : State) : Except Stop State := do
  require (tileLegal d e (t.handlerEmpty t.cur.core (e / 2 ^ 56 % 256))) .illegal .engine 0
  if tileBytes d e o = 0 then tileNothing d e o rd base dst t else tileRows d e o rd base dst t

end

/-- HOD.TILE once its registers are up. -/
def hodTileBody (xn xm : XIdx) (rd r1 : Reg) (t : State) : Except Stop State :=
  tileWords (t.xreg xn).toNat (t.xreg xm).toNat (t.reg r1) rd (matAddr (t.xreg xn)) (matAddr (t.xreg xm)) t

theorem execHodTile_eq (xn xm : XIdx) (rd r1 : Reg) (s : State) :
    exec (.hodTile xn xm rd r1) s = s.issue { Need.plain [r1] [rd] with xs := [xn, xm] } (hodTileBody xn xm rd r1) := (rfl)

theorem execHodTile_next {s t : State} {xn xm : XIdx} {rd r1 : Reg} (hs : s.Clear [r1] [rd] [xn, xm])
    (h : hodTileBody xn xm rd r1 (s.changed 4 id id) = .ok t) : exec (.hodTile xn xm rd r1) s = .next (retired s 1 t) := by
  rw [execHodTile_eq]
  exact issue_retired hs rfl rfl rfl h

theorem hodTileBody_changed (s : State) (xn xm : XIdx) (rd r1 : Reg) :
    hodTileBody xn xm rd r1 (s.changed 4 id id) =
      tileWords (s.xreg xn).toNat (s.xreg xm).toNat (s.reg r1) rd (matAddr (s.xreg xn)) (matAddr (s.xreg xm)) (s.changed 4 id id) := by
  rw [hodTileBody, reg_changed, ← begun_eq_changed, xreg_begun, xreg_begun]

section
variable {s : State} {rd : Reg} {d e : Nat} {o base dst : Word}

/-- An empty tile enters its operation, and its end is on its way. -/
theorem tileNothing_ok (hbase : (base.toNat % tileSize d == 0 && (e / 2 ^ 96) % tileSize d == 0) = true)
    (hdst : dst.toNat % tileSize d = 0) (hroom : s.myCore.hods.length < 128) :
    ∃ l, tileNothing d e o rd base dst (s.changed 4 id id) =
      .ok (((s.engineBegun rd (Core.opStarted s.myCore.utlb l) s.clusters).addHod (emptyTile d e o s s.myCore.opNo rd dst)).inject
        (.cluster (s.cur.core / 8)) (.cluster (s.cur.core / 8)) 2 (.landed s.cur.core s.myCore.opNo 0 (s.coreAc s.cur.core + 1))) := by
  have hstart := startOp_changed (rd := rd) s s.myCore.utlb [] 0
  rw [changed_withUtlb_self] at hstart
  have hfree : decide ((s.changed 4 id id).myCore.hods.length < 128) = true := by
    rw [myCore_changed]
    exact decide_eq_true hroom
  have htile : emptyTile d e o (s.changed 4 id id) s.myCore.opNo rd dst = emptyTile d e o s s.myCore.opNo rd dst := by
    unfold emptyTile
    rw [issued_changed]
  refine ⟨s.newOp rd [] 0, ?_⟩
  rw [tileNothing, require_of_true hbase, ok_bind, require_of_true (beq_iff_eq.mpr hdst), ok_bind, hfree, hstart]
  dsimp only
  rw [htile]
  rfl

/-- A tile with rows enters the operation that copies them. -/
theorem tileRows_ok {ps qs : Pages} {h g : Home} {no : Nat} {t1 t2 t3 : State} (hcanon : canonical (tileSource d e o base) = true)
    (hbase : (base.toNat % tileSize d == 0 && (e / 2 ^ 96) % tileSize d == 0) = true)
    (hc : (s.changed 4 id id).checkLocal .load .engine (tileSource d e o base) (tileReads d e o) (tileSize d) = .ok (ps, h, t1))
    (hd : t1.destination (tileTarget d e o dst) (tileWrites d e o) (tileSize d) = .ok (qs, g, t2))
    (hap : State.apart ps (tileSource d e o base) (tileReads d e o) qs (tileTarget d e o dst) (tileWrites d e o) = true)
    (hst : t2.startHod rd ((s.changed 4 id id).scopesOf qs) [⟨ps, tileSource d e o base, tileReads d e o, false⟩] = .ok (no, t3)) :
    tileRows d e o rd base dst (s.changed 4 id id) =
      .ok (t3.addHod (rowsTile d e o s no rd ps qs (tileSource d e o base) (tileTarget d e o dst) dst)) := by
  have htile : rowsTile d e o (s.changed 4 id id) no rd ps qs (tileSource d e o base) (tileTarget d e o dst) dst =
      rowsTile d e o s no rd ps qs (tileSource d e o base) (tileTarget d e o dst) dst := by
    unfold rowsTile
    rw [issued_changed]
  rw [tileRows, require_of_true hcanon, ok_bind, require_of_true hbase, ok_bind, hc, ok_bind]
  dsimp only
  rw [hd, ok_bind, require_of_true hap, ok_bind]
  dsimp only
  rw [hst, ok_bind, htile]

theorem tileWords_pass (h : tileLegal d e (s.handlerEmpty s.cur.core (e / 2 ^ 56 % 256)) = true) :
    tileWords d e o rd base dst (s.changed 4 id id) =
      if tileBytes d e o = 0 then tileNothing d e o rd base dst (s.changed 4 id id) else tileRows d e o rd base dst (s.changed 4 id id) := by
  rw [tileWords, changed_cur, handlerEmpty_begun, require_of_true h, ok_bind]

/-- An operation that is issued while something is in flight for it. -/
theorem retired_addHod_net (hl : s.me.live = true) (g : Core → Core) (cl : Tab Cluster) (q : HodOp) (ps : List Packet) :
    retired s 1 { (s.engineBegun rd g cl).addHod q with net := ps } = { s.hodIssued rd g cl q with net := ps } := by
  have h := retired_outside { s with clusters := cl, net := ps } (fun f => f.markPending rd .engine) (fun c => (g c).withHod q) hl
    fun _ => ⟨rfl, rfl⟩
  rw [myCore_changed, myCore_after] at h
  rw [engineBegun_addHod]
  exact h

end

end State

theorem hodTiles : Piece.HodTiles := by
  intro s xn xm rd r1 u d e o size rows cols h w stride base dst row0 col0 box bytes hs hd1 hd2 hrows hcols hh hh' hw hw' hcs hhw hempty
    hbase hstride clip
  have hlegal : tileLegal d e (s.handlerEmpty s.cur.core (e / 2 ^ 56 % 256)) = true := by
    simp only [tileLegal, hempty, Bool.not_false, Bool.and_true, Bool.and_eq_true, beq_iff_eq, decide_eq_true_eq]
    exact ⟨⟨⟨⟨⟨⟨⟨⟨⟨hd1, hd2⟩, hrows⟩, hcols⟩, hh⟩, hh'⟩, hw⟩, hw'⟩, hcs⟩, hhw⟩
  have hal : (base.toNat % tileSize d == 0 && (e / 2 ^ 96) % tileSize d == 0) = true :=
    Bool.and_eq_true_iff.mpr ⟨beq_iff_eq.mpr hbase, beq_iff_eq.mpr hstride⟩
  have hbody := (hodTileBody_changed s xn xm rd r1).trans (tileWords_pass hlegal)
  refine ⟨fun hnone hdst hroom => ?_, fun ps qs g k no t1 t2 t3 => ?_⟩
  · obtain ⟨l, hok⟩ := tileNothing_ok (rd := rd) (o := o) hal hdst hroom
    let q := emptyTile d e o s s.myCore.opNo rd dst
    let v := (s.engineBegun rd (Core.opStarted s.myCore.utlb l) s.clusters).addHod q
    obtain ⟨x, heq, -, hxdst, -, hxload⟩ := v.inject_eq (.cluster (s.cur.core / 8)) (.cluster (s.cur.core / 8)) 2
      (.landed s.cur.core s.myCore.opNo 0 (s.coreAc s.cur.core + 1))
    have hexec := execHodTile_next hs (hbody.trans ((if_pos hnone).trans (hok.trans (congrArg Except.ok heq))))
    rw [retired_addHod_net hs.live] at hexec
    obtain ⟨hmem, hnet, hregions, -, hme, -, hcores, -⟩ := hodIssued_started (s := s) (rd := rd) (q := q)
      ⟨rfl, rfl, rfl, rfl, rfl, rfl, rfl, rfl, rfl, rfl⟩ (g := Core.opStarted s.myCore.utlb l) s.clusters rfl rfl
    exact ⟨_, q, x, hexec, hmem, hregions, hme, hcores, hods_hodIssued (Core.opStarted s.myCore.utlb l) s.clusters q, rfl, rfl, rfl, rfl, rfl,
      rfl, rfl, rfl, rfl, rfl, hxdst, hxload⟩
  · intro row src out sx ox hsome hcanon hc hd hap hst
    have hr2 := destination_reordered (checkLocal_reordered hc) hd
    obtain ⟨rfl, cl, l, p, rfl⟩ := startHod_ok hr2 hst
    have hok := tileRows_ok (rd := rd) (dst := dst) hcanon hal hc hd hap hst
    let q := rowsTile d e o s s.myCore.opNo rd ps qs src out dst
    have hexec := execHodTile_next hs (hbody.trans ((if_neg hsome.ne').trans hok))
    rw [retired_addHod hs.live] at hexec
    refine ⟨_, hexec, hodIssued_started (q := q) ⟨rfl, rfl, rfl, rfl, rfl, rfl, rfl, rfl, rfl, rfl⟩ cl rfl rfl, q, ?_, fun hw => ?_,
      fun hw => ?_⟩
    · exact (congrArg List.getLast? (hods_hodIssued (Core.opStarted l p) cl q)).trans List.getLast?_concat
    · exact if_pos (beq_iff_eq.mpr hw)
    · exact if_neg fun h => hw (beq_iff_eq.mp h)

/-! ### The box of a tile (R135) -/

theorem tileBoxes : Piece.TileBoxes := by
  intro rows cols h w row0 col0 i j hi hj b
  by_cases hnone : min (rows : Int) (row0 + h) ≤ max 0 row0 ∨ min (cols : Int) (col0 + w) ≤ max 0 col0
  · have hb : b = (0, 0, 0, 0) := if_pos hnone
    rw [hb]
    dsimp only
    omega
  · have hb : b = ((max 0 row0 - row0).toNat, (max 0 col0 - col0).toNat, (min (rows : Int) (row0 + h) - max 0 row0).toNat,
        (min (cols : Int) (col0 + w) - max 0 col0).toNat) := if_neg hnone
    rw [hb]
    dsimp only
    omega

/-- Settles O46: what HOD.PUSH and HOD.TILE start, and the elements of a tile's box. -/
theorem hodCopies : Obligations.HodCopies := ⟨hodPushes, hodTiles, tileBoxes⟩

end Sys2Proof.Machine
end

section
/-!
PROOF. HOD.MC and MBPASS (O47).
-/

namespace Sys2Proof.Machine

open State

namespace State

/-! ### HOD.MC (R136) -/

section
variable (d off n : Nat)

/-- The notices of a multicast to the cores of a list. -/
def mcNotes (l : List (Nat × Nat)) : List Note :=
  if d / 2 ^ 95 % 2 == 1 then l.map fun c => { rank := c.1, index := d / 2 ^ 89 % 64, tc0 := false } else []

/-- The destinations of a multicast: the scratchpads of its clusters, or its TCMs. -/
def mcDests (cores : List (Nat × Nat)) : List HodDest :=
  if d / 2 ^ 88 % 2 == 1 then
    ((cores.map fun c => c.2 / 8).eraseDups).map fun cid =>
      .fresh (Word.ofNat (clusterBase cid + off)) (physPages (clusterBase cid + off) n) (mcNotes d (cores.filter fun c => c.2 / 8 == cid))
  else cores.map fun c => .fresh (Word.ofNat (tcmBase c.2 + off)) (physPages (tcmBase c.2 + off) n) (mcNotes d [c])

/-- A free counter of a core counts one more tile (R136). -/
def countFree (ctr : Nat) (c : Core) : Core := { c with freeCtr := Tab.put c.freeCtr ctr ((Tab.read c.freeCtr 0 ctr + 1) % 2 ^ 16) }

/-- The operation of a multicast. -/
def mcOp (s : State) (no : Nat) (rd : Reg) (ps : Pages) (src : Word) (ctr : Nat) (dests : List HodDest) : HodOp :=
  { HodOp.issued s no .multicast rd ps [(src, n, 0)] n dests (n * dests.length) with counter := ctr }

/-- HOD.MC with the cores of its rectangle. -/
def mcCores (ctr : Nat) (rd : Reg) (src : Word) (cores : List (Nat × Nat)) (t : State) : Except Stop State := do
  require (cores.all fun c => c.2 != t.cur.core) .illegal .engine 0
  let (ps, _, t1) ← t.checkLocal .load .engine src n 8
  require (off % 8 == 0) .align .engine (Word.ofNat off)
  require ((mcDests d off n cores).all fun q => State.apart ps src n q.pages q.va n) .illegal .engine 0
  let (no, t2) ← t1.startHod rd ((mcDests d off n cores).flatMap fun q => t.scopesOf q.pages) [⟨ps, src, n, false⟩]
  .ok ((t2.onMyCore (countFree ctr)).addHod (mcOp n t no rd ps src ctr (mcDests d off n cores)))

/-- HOD.MC with the words of its operands. -/
def mcWords (ctr : Nat) (rd : Reg) (w : Word) (src : Word) (t : State) : Except Stop State := do
  require (d / 2 ^ 56 % 256 == 0 && d / 2 ^ 96 == 0 && fld w 32 32 == 0 && decide (1 ≤ fld w 16 8) &&
    decide (1 ≤ fld w 24 8)) .illegal .engine 0
  require (!isServiceRank (fld w 0 16) || t.me.sup) .privilege .engine 0
  require (n % 8 == 0 && decide (8 ≤ n) && decide (n ≤ 16777216) &&
    decide (off + n ≤ if d / 2 ^ 88 % 2 == 1 then 16777216 else 262144)) .illegal .engine 0
  match (t.rectangleRanks (fld w 0 16) (fld w 16 8) (fld w 24 8)).bind t.coresOf with
  | none => trap .illegal .engine
  | some cores => mcCores d off n ctr rd src cores t

end

/-- HOD.MC once its registers are up. -/
def hodMcBody (xn : XIdx) (ctr : BitVec 4) (rd r1 r2 : Reg) (t : State) : Except Stop State :=
  mcWords (t.xreg xn).toNat ((t.xreg xn).toNat / 2 ^ 64 % 2 ^ 24) (t.reg r2).toNat ctr.toNat rd (t.reg r1) (matAddr (t.xreg xn)) t

theorem execHodMc_eq (xn : XIdx) (ctr : BitVec 4) (rd r1 r2 : Reg) (s : State) :
    exec (.hodMc xn ctr rd r1 r2) s = s.issue { Need.plain [r1, r2] [rd] with xs := [xn] } (hodMcBody xn ctr rd r1 r2) := (rfl)

theorem execHodMc_next {s t : State} {xn : XIdx} {ctr : BitVec 4} {rd r1 r2 : Reg} (hs : s.Clear [r1, r2] [rd] [xn])
    (h : hodMcBody xn ctr rd r1 r2 (s.changed 4 id id) = .ok t) : exec (.hodMc xn ctr rd r1 r2) s = .next (retired s 1 t) := by
  rw [execHodMc_eq]
  exact issue_retired hs rfl rfl rfl h

theorem hodMcBody_changed (s : State) (xn : XIdx) (ctr : BitVec 4) (rd r1 r2 : Reg) :
    hodMcBody xn ctr rd r1 r2 (s.changed 4 id id) =
      mcWords (s.xreg xn).toNat ((s.xreg xn).toNat / 2 ^ 64 % 2 ^ 24) (s.reg r2).toNat ctr.toNat rd (s.reg r1) (matAddr (s.xreg xn))
        (s.changed 4 id id) := by
  rw [hodMcBody, reg_changed, reg_changed, ← begun_eq_changed, xreg_begun]

section
variable {s : State} {rd : Reg} {w src : Word} {d off n ctr : Nat} {cores : List (Nat × Nat)}

theorem coresOf_changed (s : State) (l : List Nat) : (s.changed 4 id id).coresOf l = s.coresOf l := by
  induction l with
  | nil => rfl
  | cons r l ih =>
    have hport : (s.changed 4 id id).rankPort (s.changed 4 id id).cur.core r = s.rankPort s.cur.core r := (sendsAlike_begun s 4).rankPort _ _
    rw [coresOf, coresOf, ih, hport]

/-- The words of a multicast pass, and its rectangle names cores. -/
theorem mcWords_pass (hd1 : d / 2 ^ 56 % 256 = 0) (hd2 : d / 2 ^ 96 = 0) (hw : fld w 32 32 = 0) (hcols : 1 ≤ fld w 16 8)
    (hrows : 1 ≤ fld w 24 8) (hperm : isServiceRank (fld w 0 16) = true → s.me.sup = true)
    (hn8 : n % 8 = 0) (hlo : 8 ≤ n) (hhi : n ≤ 16777216)
    (hlen : off + n ≤ if d / 2 ^ 88 % 2 == 1 then 16777216 else 262144)
    (hcores : (s.rectangleRanks (fld w 0 16) (fld w 16 8) (fld w 24 8)).bind s.coresOf = some cores) :
    mcWords d off n ctr rd w src (s.changed 4 id id) = mcCores d off n ctr rd src cores (s.changed 4 id id) := by
  have hsup : (!isServiceRank (fld w 0 16) || (s.changed 4 id id).me.sup) = true := by
    rw [me_changed, Bool.or_eq_true, Bool.not_eq_true', ← Bool.not_eq_true]
    exact (em _).symm.imp id hperm
  have hrect : ((s.changed 4 id id).rectangleRanks (fld w 0 16) (fld w 16 8) (fld w 24 8)).bind (s.changed 4 id id).coresOf = some cores :=
    (congrArg _ (funext (coresOf_changed s))).trans hcores
  rw [mcWords, require_of_true (by simp only [hd1, hd2, hw, hcols, hrows, decide_true, beq_self_eq_true, Bool.and_self]), ok_bind,
    require_of_true hsup, ok_bind,
    require_of_true (by simp only [hn8, hlo, hhi, hlen, decide_true, beq_self_eq_true, Bool.and_self]), ok_bind, hrect]

/-- A multicast whose source and destinations pass enters its operation, counted in its free counter. -/
theorem mcCores_ok {ps : Pages} {g : Home} {no : Nat} {t1 t2 : State} (hself : ∀ c ∈ cores, c.2 ≠ s.cur.core)
    (hc : (s.changed 4 id id).checkLocal .load .engine src n 8 = .ok (ps, g, t1)) (hoff : off % 8 = 0)
    (hap : ∀ q ∈ mcDests d off n cores, State.apart ps src n q.pages q.va n = true)
    (hst : t1.startHod rd ((mcDests d off n cores).flatMap fun q => (s.changed 4 id id).scopesOf q.pages)
      [⟨ps, src, n, false⟩] = .ok (no, t2)) :
    mcCores d off n ctr rd src cores (s.changed 4 id id) =
      .ok ((t2.onMyCore (countFree ctr)).addHod (mcOp n s no rd ps src ctr (mcDests d off n cores))) := by
  have hop : mcOp n (s.changed 4 id id) no rd ps src ctr (mcDests d off n cores) = mcOp n s no rd ps src ctr (mcDests d off n cores) := by
    unfold mcOp
    rw [issued_changed]
  rw [mcCores, changed_cur, require_of_true (List.all_eq_true.mpr fun c hc => bne_iff_ne.mpr (hself c hc)), ok_bind, hc, ok_bind]
  dsimp only
  rw [require_of_true (beq_iff_eq.mpr hoff), ok_bind, require_of_true (List.all_eq_true.mpr hap), ok_bind, hst, ok_bind, hop]

/-- A change of the issuing core after an engine instruction has begun. -/
theorem engineBegun_onMyCore (g h : Core → Core) (cl : Tab Cluster) (hh : ∀ c n x, h (Core.setSlot c n x) = (h c).setSlot n x) :
    (s.engineBegun rd g cl).onMyCore h = s.engineBegun rd (fun c => h (g c)) cl :=
  congrArg (fun u : State => { u with clusters := cl }) (changed_onMyCore s 4 (fun f => f.markPending rd .engine) g h hh)

end

end State

namespace State

/-! ### MBPASS (R223) -/

section
variable (b : XWord) (scaled : Bool)

/-- The bytes of a block's rows, and of its scales. -/
def blockSpan : Nat := rowSpan (matRows b) (matStride b) 64

def scaleSpan : Nat := if scaled then matRows b * rowScales (matFmt b) else 0

/-- What a block's push copies: its rows, and then its scales. -/
def blockTodo (scales : Word) : List (Word × Nat × Nat) :=
  ((List.range (matRows b)).map fun i => (matAddr b + Word.ofNat (i * matStride b), 64, 64 * i)) ++
    if scaled then [(scales, scaleSpan b scaled, 64 * matRows b)] else []

/-- The locks of a block's push. -/
def blockLocks (bp sp : Pages) (scales : Word) : List LockAsk :=
  ⟨bp, matAddr b, blockSpan b, false⟩ :: if scaled then [⟨sp, scales, scaleSpan b scaled, false⟩] else []

/-- The operation of an MBPASS. -/
def blockOp (s : State) (no : Nat) (rd : Reg) (bp sp : Pages) (scales : Word) (rank : Nat) : HodOp :=
  { HodOp.issued s no .block rd (bp ++ sp) (blockTodo b scaled scales) (64 * matRows b + scaleSpan b scaled) [.fresh 0 [] []]
      (64 * matRows b + scaleSpan b scaled) with
    block := some { fmt := matFmt b, rows := matRows b, data := [], scales := [] }, rank := rank }

end

/-- The core to which an MBPASS pushes. -/
def blockTarget (t : State) (rank : Nat) : Nat :=
  match t.rankPort t.cur.core rank with
  | some (.core p) => p
  | _ => 0

/-- MBPASS with the words of its header (R215, R223). -/
def mbpassScales (b : XWord) (rd : Reg) (rank : Nat) (scales : Word) (t t1 : State) : Except Stop State := do
  let pad := some (Home.scratchpad (t.cur.core / 8))
  let (bp, t2) ← t1.operand .load pad (matAddr b) (blockSpan b) 8
  let (sp, t3) ← t2.operand .load pad scales (scaleSpan b (scales != 0)) 1
  let (no, t4) ← t3.startHod rd [scopeOfCore t.cur.core (t.blockTarget rank)] (blockLocks b (scales != 0) bp sp scales)
  .ok (t4.addHod (blockOp b (scales != 0) t no rd bp sp scales rank))

/-- What a block's format says of its scales is met (R223). -/
def blockRuleMet (rule : Option Bool) (scaled : Bool) : Bool :=
  match rule with
  | some r => scaled == r
  | none => true

/-- MBPASS with the words of its operands. -/
def mbpassWords (b : XWord) (rd : Reg) (w : Word) (r2 : Reg) (t : State) : Except Stop State := do
  require (matReserved b && matK b == 0 && decide (1 ≤ matRows b) && decide (matRows b ≤ 256) && matStrideOk b 64) .illegal .engine 0
  match blockScales (matFmt b) with
  | none => trap .illegal .engine
  | some rule =>
    require (fld w 16 48 == 0 && t.dCoreOfTask (fld w 0 16)) .illegal .engine 0
    let (h, t1) ← t.scaleHeader r2
    require (blockRuleMet rule (h.2.1 != 0)) .illegal .engine 0
    mbpassScales b rd (fld w 0 16) h.2.1 t t1

/-- MBPASS once its registers are up. -/
def mbpassBody (xn : XIdx) (rd r1 r2 : Reg) (t : State) : Except Stop State := mbpassWords (t.xreg xn) rd (t.reg r1) r2 t

theorem execMbpass_eq (xn : XIdx) (rd r1 r2 : Reg) (s : State) :
    exec (.mbpass xn rd r1 r2) s = s.issue { Need.plain [r1, r2] [rd] with xs := [xn], engine := some .matrixFull } (mbpassBody xn rd r1 r2) :=
  (rfl)

theorem execMbpass_next {s t : State} {xn : XIdx} {rd r1 r2 : Reg} (hs : s.Clear [r1, r2] [rd] [xn])
    (heng : engineHere s.cur.core .matrixFull = true) (h : mbpassBody xn rd r1 r2 (s.changed 4 id id) = .ok t) :
    exec (.mbpass xn rd r1 r2) s = .next (retired s 1 t) := by
  rw [execMbpass_eq]
  exact issue_next s _ _ t hs rfl nofun (fun e he => by obtain rfl := Option.some.inj he; exact heng) h

theorem mbpassBody_changed (s : State) (xn : XIdx) (rd r1 r2 : Reg) :
    mbpassBody xn rd r1 r2 (s.changed 4 id id) = mbpassWords (s.xreg xn) rd (s.reg r1) r2 (s.changed 4 id id) := by
  rw [mbpassBody, reg_changed, ← begun_eq_changed, xreg_begun]

section
variable {s t u : State}

/-! ### Operands in the cluster's scratchpad (R215, R216) -/

theorem checkLocal_keeps {a : Access} {kind : FaultKind} {va : Word} {n al : Nat} {ps : Pages} {h : Home} (ht : Reordered s t)
    (hc : t.checkLocal a kind va n al = .ok (ps, h, u)) : Reordered s u := by
  unfold checkLocal at hc
  obtain ⟨-, -, hc⟩ := bind_eq_ok hc
  obtain ⟨-, -, hc⟩ := bind_eq_ok hc
  obtain ⟨⟨ps', t'⟩, hrange, hc⟩ := bind_eq_ok hc
  rw [ht.cur] at hrange
  have ht' := translateRange_reordered ht hrange
  dsimp only at hc
  split at hc
  · split_ifs at hc
    · cases hc
      exact ht'
    · cases hc
  · cases hc

theorem operand_reordered {a : Access} {home : Option Home} {va : Word} {n al : Nat} {ps : Pages} (ht : Reordered s t)
    (h : t.operand a home va n al = .ok (ps, u)) : Reordered s u := by
  unfold operand at h
  split_ifs at h
  · cases h
    exact ht
  · obtain ⟨⟨ps', g, t'⟩, hc, h⟩ := bind_eq_ok h
    obtain ⟨-, -, h⟩ := bind_eq_ok h
    cases h
    exact checkLocal_keeps ht hc

theorem scaleHeader_reordered {r : Reg} {x : Word × Word × Nat × Nat} (ht : Reordered s t) (h : t.scaleHeader r = .ok (x, u)) :
    Reordered s u := by
  unfold scaleHeader at h
  dsimp only at h
  split_ifs at h
  · cases h
    exact ht
  · obtain ⟨⟨ps', g, t'⟩, hc, h⟩ := bind_eq_ok h
    obtain ⟨v, -, h⟩ := bind_eq_ok h
    obtain ⟨-, -, h⟩ := bind_eq_ok h
    cases h
    exact checkLocal_keeps ht hc

end

section
variable {s : State} {b : XWord} {rd r2 : Reg} {w : Word}

theorem dCoreOfTask_changed (s : State) (rank : Nat) : (s.changed 4 id id).dCoreOfTask rank = s.dCoreOfTask rank := by
  have halike := sendsAlike_begun s 4
  rw [begun_eq_changed] at halike
  unfold dCoreOfTask entryState
  rw [changed_cur, halike.rankPort]
  simp only [halike.entryTask, halike.entryWord]

/-- An MBPASS whose words and header pass. -/
theorem mbpassWords_pass {rule : Option Bool} {h : Word × Word × Nat × Nat} {t1 : State} (hres : matReserved b = true) (hk : matK b = 0)
    (hlo : 1 ≤ matRows b) (hhi : matRows b ≤ 256) (hstride : matStrideOk b 64 = true) (hrule : blockScales (matFmt b) = some rule)
    (hw : fld w 16 48 = 0) (htask : s.dCoreOfTask (fld w 0 16) = true) (hh : (s.changed 4 id id).scaleHeader r2 = .ok (h, t1))
    (hscaled : ∀ r, rule = some r → (h.2.1 != 0) = r) :
    mbpassWords b rd w r2 (s.changed 4 id id) = mbpassScales b rd (fld w 0 16) h.2.1 (s.changed 4 id id) t1 := by
  have hmatch : blockRuleMet rule (h.2.1 != 0) = true := by
    cases rule with
    | none => rfl
    | some r => exact beq_iff_eq.mpr (hscaled r rfl)
  rw [mbpassWords, require_of_true (by simp only [hres, hk, hlo, hhi, hstride, decide_true, beq_self_eq_true, Bool.and_self]), ok_bind, hrule]
  dsimp only
  rw [dCoreOfTask_changed, require_of_true (by simp only [hw, htask, beq_self_eq_true, Bool.and_self]), ok_bind, hh, ok_bind]
  dsimp only
  rw [require_of_true hmatch, ok_bind]

/-- An MBPASS whose ranges and locks pass enters its operation. -/
theorem mbpassScales_ok {rank q no : Nat} {scales : Word} {bp sp : Pages} {t1 t2 t3 t4 : State}
    (hb : t1.operand .load (some (.scratchpad (s.cur.core / 8))) (matAddr b) (blockSpan b) 8 = .ok (bp, t2))
    (hsc : t2.operand .load (some (.scratchpad (s.cur.core / 8))) scales (scaleSpan b (scales != 0)) 1 = .ok (sp, t3))
    (hq : s.rankPort s.cur.core rank = some (.core q))
    (hst : t3.startHod rd [scopeOfCore s.cur.core q] (blockLocks b (scales != 0) bp sp scales) = .ok (no, t4)) :
    mbpassScales b rd rank scales (s.changed 4 id id) t1 = .ok (t4.addHod (blockOp b (scales != 0) s no rd bp sp scales rank)) := by
  have htarget : (s.changed 4 id id).blockTarget rank = q := by
    have hport : (s.changed 4 id id).rankPort (s.changed 4 id id).cur.core rank = some (.core q) :=
      ((sendsAlike_begun s 4).rankPort _ _).trans hq
    rw [blockTarget, hport]
  have hop : blockOp b (scales != 0) (s.changed 4 id id) no rd bp sp scales rank = blockOp b (scales != 0) s no rd bp sp scales rank := by
    unfold blockOp
    rw [issued_changed]
  rw [mbpassScales, htarget, changed_cur, hb, ok_bind]
  dsimp only
  rw [hsc, ok_bind]
  dsimp only
  rw [hst, ok_bind, hop]

end

end State

theorem hodMulticasts : Piece.HodMulticasts := by
  intro s xn ctr rd r1 r2 u d w n src off pads noted hs
  refine ⟨fun cores ps g no t1 t2 hd1 hd2 hw hcols hrows hperm hn8 hlo hhi hpad htcm hcores hself hc hoff => ?_,
    fun rule h bp sp no t1 t2 t3 t4 => ?_⟩
  · intro dests hap hst
    have hdests : dests = mcDests d off n cores := by
      simp only [mcDests, mcNotes, beq_iff_eq]
      rfl
    have hlen : off + n ≤ if d / 2 ^ 88 % 2 == 1 then 16777216 else 262144 := by
      by_cases hp : d / 2 ^ 88 % 2 = 1
      · rw [if_pos (beq_iff_eq.mpr hp)]
        exact hpad hp
      · rw [if_neg fun h => hp (beq_iff_eq.mp h)]
        exact htcm hp
    rw [hdests] at hap hst ⊢
    obtain ⟨rfl, cl, l, o, rfl⟩ := startHod_ok (checkLocal_reordered hc) hst
    let q := mcOp n s s.myCore.opNo rd ps src ctr.toNat (mcDests d off n cores)
    have hok := mcCores_ok (ctr := ctr.toNat) hself hc hoff hap hst
    rw [engineBegun_onMyCore _ (countFree ctr.toNat) cl fun _ _ _ => rfl] at hok
    have hexec := execHodMc_next hs ((hodMcBody_changed s xn ctr rd r1 r2).trans
      ((mcWords_pass hd1 hd2 hw hcols hrows hperm hn8 hlo hhi hlen hcores).trans hok))
    rw [retired_addHod hs.live] at hexec
    have hcore := congrArg Core.freeCtr (myCore_hodIssued (s := s) (rd := rd) (fun c => countFree ctr.toNat (Core.opStarted l o c)) cl q)
    refine ⟨_, hexec, hodIssued_started (q := q) ⟨rfl, rfl, rfl, rfl, rfl, rfl, rfl, rfl, rfl, rfl⟩ cl rfl rfl, ?_, fun c hc => ?_⟩
    · rw [hcore]
      exact Tab.read_put_same ..
    · rw [hcore]
      exact Tab.read_put_other _ _ _ _ _ hc
  · intro b rank rows heng hres hk hlo hhi hstride hrule hw htask hh hscaled bytes sbytes pad hbp hsp q hq hst
    have hif : ∀ {α : Type} (x y : α), (if h.2.1 ≠ 0 then x else y) = if h.2.1 != 0 then x else y := fun x y =>
      if_congr bne_iff_ne.symm rfl rfl
    have hspan : sbytes = scaleSpan b (h.2.1 != 0) := hif _ _
    rw [hspan] at hsp
    rw [hif, hspan] at hst
    have hr := operand_reordered (operand_reordered (scaleHeader_reordered ⟨s.myCore.utlb, (changed_withUtlb_self s).symm⟩ hh) hbp) hsp
    obtain ⟨rfl, cl, l, o, rfl⟩ := startHod_ok hr hst
    let x := blockOp b (h.2.1 != 0) s s.myCore.opNo rd bp sp h.2.1 rank
    have hexec := execMbpass_next hs heng ((mbpassBody_changed s xn rd r1 r2).trans
      ((mbpassWords_pass hres hk hlo hhi hstride hrule hw htask hh hscaled).trans (mbpassScales_ok hbp hsp hq hst)))
    rw [retired_addHod hs.live] at hexec
    rw [hif, hspan]
    exact ⟨_, hexec, hodIssued_started (q := x) ⟨rfl, rfl, rfl, rfl, rfl, rfl, rfl, rfl, rfl, rfl⟩ cl rfl rfl, x,
      (congrArg List.getLast? (hods_hodIssued (Core.opStarted l o) cl x)).trans List.getLast?_concat, rfl⟩

end Sys2Proof.Machine
end

section
/-!
PROOF. Completions at a core that holds its context, and the frees of a multicast (O47).
-/

namespace Sys2Proof.Machine

open State

/-! ### Completions (R107, R132) -/

/-- A core whose context stands on it in state SAVED, or is being saved. -/
def Core.isSaved (c : Core) : Bool := fld c.entry[0] 0 2 == 3 || c.saving.isSome

theorem State.savedNow_eq (s : State) (pid : Nat) : s.savedNow pid = (s.core pid).isSaved := rfl

/-- A core that takes a completion for one of its fibres. -/
def Core.completed (ac slot : Nat) (gen : BitVec 8) (reg : Reg) (src : PSrc) (v : Word) (c : Core) : Core :=
  c.onFibre ac slot gen fun f => if f.mark[reg] == some src then f.arrive reg v else f

section
variable {c : Core} {ac slot : Nat} {gen : BitVec 8} {reg : Reg} {src : PSrc} {v : Word}

theorem Core.completed_eq : ∃ sl, c.completed ac slot gen reg src v = { c with slots := sl } := by
  unfold Core.completed Core.onFibre
  split
  · exact ⟨_, rfl⟩
  · exact ⟨c.slots, rfl⟩

/-- A register that waits for the completion receives its value. -/
theorem Core.completed_reg (hlive : (c.slot slot).live = true) (hgen : (c.slot slot).gen = gen) (hmark : (c.slot slot).mark[reg] = some src) :
    ((c.completed ac slot gen reg src v).slot slot).g[reg] = v ∧ ((c.completed ac slot gen reg src v).slot slot).mark[reg] = none := by
  rw [Core.completed, Core.onFibre, if_pos (by rw [hlive, hgen, beq_self_eq_true]; rfl), Core.slot_setSlot,
    if_pos (beq_iff_eq.mpr hmark)]
  exact ⟨Vector.getElem_set_self _, Vector.getElem_set_self _⟩

end

/-- A core takes its completions: it holds its own context, is not fenced, and is not saved. -/
structure Core.Takes (c : Core) (pid : Nat) : Prop where
  fenced : c.fenced = false
  here : c.went.getD pid = pid
  saved : c.isSaved = false

namespace State

section
variable {s : State} {pid : Nat} {F : Core → Core}

theorem complete_onCore (h : (F (s.core pid)).Takes pid) (slot : Nat) (gen : BitVec 8) (reg : Reg) (src : PSrc) (v : Word) :
    (s.onCore pid F).complete pid slot gen reg src v = s.onCore pid fun c => (F c).completed (s.coreAc pid) slot gen reg src v := by
  have hcore : (s.onCore pid F).core pid = F (s.core pid) := core_onCore ..
  have hholder : (s.onCore pid F).holder pid = pid := by
    rw [holder, hcore]
    exact h.here
  rw [complete, hholder, savedNow_eq, hcore, h.fenced, h.saved]
  exact onCore_onCore s pid F (Core.completed (s.coreAc pid) slot gen reg src v)

theorem takes_completed {c : Core} (h : c.Takes pid) (ac slot : Nat) (gen : BitVec 8) (reg : Reg) (src : PSrc) (v : Word) :
    (c.completed ac slot gen reg src v).Takes pid := by
  obtain ⟨sl, heq⟩ := c.completed_eq (ac := ac) (slot := slot) (gen := gen) (reg := reg) (src := src) (v := v)
  rw [heq]
  exact ⟨h.fenced, h.here, h.saved⟩

/-! ### Free counters (R137, R139) -/

/-- The waits in HOD.WT that a value of a free counter meets. -/
def meets (counter v : Nat) (w : HodWait) : Bool := w.counter == counter && decide (v ≤ w.threshold)

/-- A core whose free counter has a value, without the waits that it meets. -/
def counterAt (counter v : Nat) (c : Core) : Core :=
  { c with freeCtr := Tab.put c.freeCtr counter v, hwaits := c.hwaits.filter fun w => !meets counter v w }

/-- A core that has answered waits in HOD.WT. -/
def answered (ac v : Nat) (ws : List HodWait) (c : Core) : Core :=
  ws.foldl (fun c w => c.completed ac w.slot w.gen w.reg .engine (Word.ofNat v)) c

theorem answered_eq (ac v : Nat) (ws : List HodWait) (c : Core) : ∃ sl, answered ac v ws c = { c with slots := sl } := by
  induction ws generalizing c with
  | nil => exact ⟨c.slots, rfl⟩
  | cons w ws ih =>
    obtain ⟨sl, h⟩ := ih (c.completed ac w.slot w.gen w.reg .engine (Word.ofNat v))
    obtain ⟨sl', h'⟩ := c.completed_eq (ac := ac) (slot := w.slot) (gen := w.gen) (reg := w.reg) (src := .engine) (v := Word.ofNat v)
    exact ⟨sl, h.trans (by rw [h'])⟩

theorem completes_onCore (h : (F (s.core pid)).Takes pid) (v : Nat) (ws : List HodWait) :
    ws.foldl (fun u w => u.complete pid w.slot w.gen w.reg .engine (Word.ofNat v)) (s.onCore pid F) =
      s.onCore pid fun c => answered (s.coreAc pid) v ws (F c) := by
  induction ws generalizing F with
  | nil => rfl
  | cons w ws ih =>
    rw [List.foldl_cons, complete_onCore h]
    exact ih (takes_completed h _ _ _ _ _ _)

theorem setFree_eq (h : (s.core pid).Takes pid) (counter v : Nat) :
    s.setFree pid counter v =
      s.onCore pid fun c => answered (s.coreAc pid) v ((s.core pid).hwaits.filter (meets counter v)) (counterAt counter v c) :=
  completes_onCore (F := counterAt counter v) ⟨h.fenced, h.here, h.saved⟩ v _

theorem core_setFree (h : (s.core pid).Takes pid) (counter v : Nat) :
    (s.setFree pid counter v).core pid =
      answered (s.coreAc pid) v ((s.core pid).hwaits.filter (meets counter v)) (counterAt counter v (s.core pid)) := by
  rw [setFree_eq h, core_onCore]

/-- The counter has its value, and the waits that it does not meet stay. -/
theorem counter_setFree (h : (s.core pid).Takes pid) (counter v : Nat) :
    Tab.read ((s.setFree pid counter v).core pid).freeCtr 0 counter = v ∧
      ((s.setFree pid counter v).core pid).hwaits = (s.core pid).hwaits.filter fun w => !meets counter v w := by
  obtain ⟨sl, hsl⟩ := answered_eq (s.coreAc pid) v ((s.core pid).hwaits.filter (meets counter v)) (counterAt counter v (s.core pid))
  rw [core_setFree h, hsl]
  exact ⟨Tab.read_put_same .., rfl⟩

/-- The one wait of a core, where the counter meets it, is answered. -/
theorem slot_setFree (h : (s.core pid).Takes pid) {counter v : Nat} {w : HodWait} (hone : (s.core pid).hwaits = [w])
    (hmet : meets counter v w = true) :
    (s.setFree pid counter v).slot pid w.slot =
      ((counterAt counter v (s.core pid)).completed (s.coreAc pid) w.slot w.gen w.reg .engine (Word.ofNat v)).slot w.slot := by
  rw [State.slot, core_setFree h, hone, List.filter_cons_of_pos hmet]
  rfl

end

end State

end Sys2Proof.Machine
end

section
/-!
PROOF. HOD.FREE, HOD.WT, HOD.CNT, and the combining of frees (O47).
-/

namespace Sys2Proof.Machine

open State

namespace State

/-! ### HOD.FREE, HOD.WT and HOD.CNT (R138, R139) -/

/-- HOD.FREE once its register is up. -/
def hodFreeBody (r1 : Reg) (t : State) : Except Stop State := do
  let w := t.reg r1
  require (fld w 20 44 == 0 && !isServiceRank (fld w 0 16) && (t.rankPort t.cur.core (fld w 0 16)).isSome) .illegal .engine 0
  .ok (t.inject (.core t.cur.core) (.router (t.cur.core / 8)) 1 (.free (fld w 0 16) (fld w 16 4)))

theorem execHodFree_eq (r1 : Reg) (s : State) : exec (.hodFree r1) s = s.issue (Need.plain [r1] []) (hodFreeBody r1) := (rfl)

/-- HOD.WT once its register is up. -/
def hodWtBody (ctr : BitVec 4) (rd r1 : Reg) (t : State) : Except Stop State := do
  let w := t.reg r1
  require (fld w 16 48 == 0) .illegal .engine 0
  if Tab.read t.myCore.freeCtr 0 ctr.toNat ≤ fld w 0 16 then .ok (t.setReg rd (Word.ofNat (Tab.read t.myCore.freeCtr 0 ctr.toNat)))
  else
    .ok ((t.setPending rd .engine).onMyCore fun c =>
      { c with
        hwaits := c.hwaits ++ [{ slot := t.cur.slot, gen := t.me.gen, reg := rd, counter := ctr.toNat, threshold := fld w 0 16 }] })

theorem execHodWt_eq (ctr : BitVec 4) (rd r1 : Reg) (s : State) :
    exec (.hodWt ctr rd r1) s = s.issue (Need.plain [r1] [rd]) (hodWtBody ctr rd r1) := (rfl)

section
variable {s : State} {ctr : BitVec 4} {rd r1 : Reg}

theorem hodFreeBody_ok (hw : fld (s.reg r1) 20 44 = 0) (hserv : isServiceRank (fld (s.reg r1) 0 16) = false)
    (hport : (s.rankPort s.cur.core (fld (s.reg r1) 0 16)).isSome = true) :
    hodFreeBody r1 (s.changed 4 id id) =
      .ok ((s.changed 4 id id).inject (.core s.cur.core) (.router (s.cur.core / 8)) 1 (.free (fld (s.reg r1) 0 16) (fld (s.reg r1) 16 4))) := by
  have hport' : ((s.changed 4 id id).rankPort s.cur.core (fld (s.reg r1) 0 16)).isSome = true :=
    (congrArg Option.isSome ((sendsAlike_begun s 4).rankPort _ _)).trans hport
  rw [hodFreeBody, reg_changed, changed_cur, hw, hserv, hport']
  rfl

theorem hodFreeBody_illegal
    (h : fld (s.reg r1) 20 44 ≠ 0 ∨ isServiceRank (fld (s.reg r1) 0 16) = true ∨ s.rankPort s.cur.core (fld (s.reg r1) 0 16) = none) :
    hodFreeBody r1 (s.changed 4 id id) = .error (.trap (trapOf .illegal .engine 0)) := by
  have hport : (s.changed 4 id id).rankPort s.cur.core (fld (s.reg r1) 0 16) = s.rankPort s.cur.core (fld (s.reg r1) 0 16) :=
    (sendsAlike_begun s 4).rankPort _ _
  rw [hodFreeBody, reg_changed, changed_cur, hport, require_of_false]
  · rfl
  · rcases h with h | h | h
    · rw [beq_false_of_ne h]
      rfl
    · rw [h, Bool.not_true, Bool.and_false]
      rfl
    · rw [h, Option.isSome_none, Bool.and_false]

/-- The free that an instruction sends to a router is one packet more in flight. -/
theorem retired_freeSent (hl : s.me.live = true) (rank counter : Nat) :
    retired s 1 ((s.changed 4 id id).inject (.core s.cur.core) (.router (s.cur.core / 8)) 1 (.free rank counter)) =
      (s.after 4 1 id id).enter
        { src := .core s.cur.core, dst := .router (s.cur.core / 8), tc := 1, load := .free rank counter, here := s.cur.core / 8, held := none,
          pasid := none } := by
  have hafter : SendsAlike s (s.after 4 1 id id) := .setCore s _ rfl
  rw [enter, hafter.markHeld, ← (sendsAlike_begun s 4).markHeld]
  exact retired_sent s id _ hl

/-- A word whose high 48 bits are 0 is its low 16. -/
theorem fld_low16 {w : Word} (h : fld w 16 48 = 0) : fld w 0 16 = w.toNat := by
  rw [fld_top_eq_zero w rfl] at h
  rw [fld_low]
  omega

theorem hodWtBody_illegal (h : fld (s.reg r1) 16 48 ≠ 0) :
    hodWtBody ctr rd r1 (s.changed 4 id id) = .error (.trap (trapOf .illegal .engine 0)) := by
  rw [hodWtBody, reg_changed, require_of_false (beq_false_of_ne h)]
  rfl

theorem hodWtBody_met (h : fld (s.reg r1) 16 48 = 0) (hv : Tab.read s.myCore.freeCtr 0 ctr.toNat ≤ (s.reg r1).toNat) :
    hodWtBody ctr rd r1 (s.changed 4 id id) =
      .ok (s.changed 4 (fun f => f.write rd (Word.ofNat (Tab.read s.myCore.freeCtr 0 ctr.toNat))) id) := by
  rw [hodWtBody, reg_changed, require_of_true (beq_iff_eq.mpr h), ok_bind, myCore_changed, fld_low16 h]
  exact (if_pos hv).trans (congrArg Except.ok (changed_setReg s 4 id id rd _))

theorem hodWtBody_waits (h : fld (s.reg r1) 16 48 = 0) (hv : (s.reg r1).toNat < Tab.read s.myCore.freeCtr 0 ctr.toNat) :
    hodWtBody ctr rd r1 (s.changed 4 id id) = .ok (s.changed 4 (fun f => f.markPending rd .engine) fun c =>
      { c with
        hwaits := c.hwaits ++ [{ slot := s.cur.slot, gen := s.me.gen, reg := rd, counter := ctr.toNat, threshold := (s.reg r1).toNat }] }) := by
  rw [hodWtBody, reg_changed, require_of_true (beq_iff_eq.mpr h), ok_bind, myCore_changed, fld_low16 h, me_changed, changed_setPending]
  exact (if_neg (Nat.not_le.mpr hv)).trans (congrArg Except.ok
    (changed_onMyCore s 4 (fun f => f.markPending rd .engine) id (fun c =>
      { c with
        hwaits := c.hwaits ++ [{ slot := s.cur.slot, gen := s.me.gen, reg := rd, counter := ctr.toNat, threshold := (s.reg r1).toNat }] })
      fun _ _ _ => rfl))

end

end State

theorem hodFrees : Piece.HodFrees := by
  intro s ctr rd r1 w v
  refine ⟨fun hs => ⟨fun hw hserv hport => ?_, fun h => ?_⟩, fun hs hw => ⟨fun hv => ?_, fun hv => ?_⟩,
    fun hs hw => ?_, fun hs => ?_⟩
  · rw [execHodFree_eq, issue_retired hs rfl rfl rfl (hodFreeBody_ok hw hserv hport)]
    exact congrArg Host.Outcome.next (retired_freeSent hs.live _ _)
  · rw [execHodFree_eq]
    exact issue_trapped s _ _ _ hs rfl rfl rfl (hodFreeBody_illegal h)
  · rw [execHodWt_eq]
    exact issue_after (f := fun f => f.write rd (BitVec.ofNat 64 v)) (g := id) hs rfl rfl rfl (fun _ => ⟨rfl, rfl⟩) (hodWtBody_met hw hv)
  · rw [execHodWt_eq]
    exact issue_after hs rfl rfl rfl (fun _ => ⟨rfl, rfl⟩) (hodWtBody_waits hw hv)
  · rw [execHodWt_eq]
    exact issue_trapped s _ _ _ hs rfl rfl rfl (hodWtBody_illegal hw)
  · exact compute_plain (len := 4) (passes := 1) (f := fun t : State => Word.ofNat (Tab.read t.myCore.freeCtr 0 ctr.toNat)) hs
      (by rw [begun_eq_changed, myCore_changed]; rfl)

/-! ### Frees on their way to the sender (R137 to R139) -/

namespace State

section
variable {s : State} {cid sender counter : Nat} {b : Branch}

/-- A free that finds no entry is discarded and counted. -/
theorem combineFree_lost (h : ((s.cluster cid).combine.all fun e => !(e.sender == sender && e.counter == counter)) = true) :
    s.combineFree cid b sender counter = s.countError cid := by
  have hnone : (s.cluster cid).combine.find? (fun e => e.sender == sender && e.counter == counter) = none := by
    refine List.find?_eq_none.mpr fun e he => ?_
    have hne := List.all_eq_true.mp h e he
    rw [Bool.not_eq_true'] at hne
    exact Bool.eq_false_iff.mp hne
  rw [combineFree, hnone]

/-- An entry whose one branch is a core, after one more free. -/
theorem raise_single {e : Combine} {f p : Nat} (hb : e.branches = [(.core p, f)]) :
    e.raise (.core p) = some { e with branches := [(.core p, f + 1)] } := by
  simp [Combine.raise, hb]

/-- The entries of a router whose one entry has sent a free on. -/
def entriesAfter (e : Combine) (bs : List (Branch × Nat)) : List Combine :=
  if e.frees + 1 = e.tiles then [] else [{ e with frees := e.frees + 1, branches := bs }]

/-- A router's entries with one of them replaced, or released where F has reached D. -/
def entriesPut (e : Combine) (es : List Combine) : List Combine :=
  if e.frees = e.tiles then es.filter fun x => !(x.sender == e.sender && x.counter == e.counter)
  else es.map fun x => if x.sender = e.sender ∧ x.counter = e.counter then e else x

theorem entriesPut_single (e : Combine) (bs : List (Branch × Nat)) :
    entriesPut { e with frees := e.frees + 1, branches := bs } [e] = entriesAfter e bs := by
  unfold entriesPut entriesAfter
  split <;> simp

theorem onCluster_congr {f g : Cluster → Cluster} (h : f (s.cluster cid) = g (s.cluster cid)) : s.onCluster cid f = s.onCluster cid g :=
  congrArg (s.setCluster cid) h

/-- A free that raises the one branch of an entry past F goes on toward the sender. -/
theorem combineFree_goes {e : Combine} {p : Nat} {q : Port} (hc : (s.cluster cid).combine = [e]) (hs : e.sender = sender)
    (hk : e.counter = counter) (hup : e.up = none) (hb : e.branches = [(.core p, e.frees)]) (hq : s.rankPort (8 * cid) sender = some q) :
    s.combineFree cid (.core p) sender counter =
      (s.onCluster cid fun c => { c with combine := entriesAfter e [(.core p, e.frees + 1)] }).inject (.router cid) q 1
        (.free sender counter) := by
  have hfind : (s.cluster cid).combine.find? (fun e => e.sender == sender && e.counter == counter) = some e := by
    rw [hc, List.find?_cons_of_pos]
    rw [hs, hk, beq_self_eq_true, beq_self_eq_true]
    rfl
  subst hs hk
  have hput : s.onCluster cid (fun c =>
        { c with combine := entriesPut { e with frees := e.frees + 1, branches := [(.core p, e.frees + 1)] } c.combine }) =
      s.onCluster cid fun c => { c with combine := entriesAfter e [(.core p, e.frees + 1)] } :=
    onCluster_congr (by rw [hc, entriesPut_single])
  rw [combineFree, hfind, ← hput]
  dsimp only
  rw [raise_single hb]
  dsimp only
  rw [show Combine.least { e with branches := [(.core p, e.frees + 1)] } = e.frees + 1 from rfl, decide_eq_true (Nat.lt_succ_self e.frees),
    hup, hq]
  rfl

end

end State

theorem freesCombine : Piece.FreesCombine := by
  intro s p sender counter pid hfront hload
  refine ⟨fun cid hdst hsrc hruns => ?_, fun hdst hfenced hport hholder hsaved => ?_⟩
  · have hexec : exec .freeCombine s = .next ((s.taken s.spot.place).combineFree cid (.core pid) sender counter) := by
      change execFreeCombine s = _
      rw [execFreeCombine, hfront]
      dsimp only
      rw [hruns, hload, hdst, hsrc]
      rfl
    rw [hexec]
    refine ⟨fun h => congrArg Host.Outcome.next (combineFree_lost h), fun e f hc hs hk hup hb hle hft hlt q hq => ?_⟩
    obtain rfl : f = e.frees := by omega
    obtain ⟨x, heq, -, hxdst, -, hxload⟩ := ((s.taken s.spot.place).onCluster cid fun c =>
      { c with combine := entriesAfter e [(.core pid, e.frees + 1)] }).inject_eq (.router cid) q 1 (.free sender counter)
    have hcombine : (((s.taken s.spot.place).onCluster cid fun c =>
        { c with combine := entriesAfter e [(.core pid, e.frees + 1)] }).cluster cid).combine = entriesAfter e [(.core pid, e.frees + 1)] := by
      rw [cluster_onCluster]
    refine ⟨_, x, congrArg Host.Outcome.next ((combineFree_goes (s := s.taken s.spot.place) hc hs hk hup hb hq).trans heq), rfl, hxdst, hxload,
      fun h => hcombine.trans (if_pos h), fun h => hcombine.trans (if_neg h)⟩
  · have htakes : (s.core pid).Takes pid := ⟨hfenced, hholder, hsaved⟩
    intro v
    let u := s.taken s.spot.place
    have hexec : exec .freeCounterDecrement s = .next (u.setFree pid counter v) := by
      change execFreeCounterDecrement s = _
      rw [execFreeCounterDecrement, hfront]
      dsimp only
      rw [hload, hdst]
      dsimp only
      rw [hholder, hfenced, hport, hsaved]
      rfl
    obtain ⟨hcounter, hwaits⟩ := u.counter_setFree htakes counter v
    refine ⟨_, hexec, by rw [setFree_eq (s := u) htakes]; rfl, by rw [setFree_eq (s := u) htakes]; rfl, hcounter, fun w hw => ?_,
      fun w hone hk hv hlive hgen hmark => ?_⟩
    · rw [hwaits, List.mem_filter, Bool.not_eq_true', ← Bool.not_eq_true, or_iff_not_imp_left]
      exact fun hmet => ⟨hw, fun h => hmet (by simpa [meets] using h)⟩
    · rw [slot_setFree (s := u) (counter := counter) (v := v) htakes hone (by simp [meets, hk, hv])]
      exact Core.completed_reg hlive hgen hmark

/-- Settles O47: the multicasts and block pushes that issue, the free instructions, and the frees on their way. -/
theorem hodMulticastsAndFrees : Obligations.HodMulticastsAndFrees := ⟨hodMulticasts, hodFrees, freesCombine⟩

end Sys2Proof.Machine
end

section
/-!
PROOF. The beats of a copy: injection (R245; O48).
-/

namespace Sys2Proof.Machine

open State

/-- One element of a list answers, and no other. -/
theorem findSome?_unique {α β : Type} {f : α → Option β} {a : α} {b : β} (l : List α) (ha : a ∈ l) (hb : f a = some b)
    (hother : ∀ x ∈ l, x ≠ a → f x = none) : l.findSome? f = some b := by
  induction l with
  | nil => exact absurd ha List.not_mem_nil
  | cons x l ih =>
    by_cases hx : x = a
    · rw [List.findSome?_cons, hx, hb]
    · rw [List.findSome?_cons, hother x List.mem_cons_self hx]
      exact ih ((List.mem_cons.mp ha).resolve_left (Ne.symm hx)) fun y hy => hother y (List.mem_cons_of_mem _ hy)

namespace State

/-! ### The hod operations of a core -/

section
variable {s : State} {pid no : Nat} {f : HodOp → HodOp}

theorem find?_onHod (l : List HodOp) (hf : ∀ o, (f o).no = o.no) :
    (l.map fun o => if o.no = no then f o else o).find? (fun o => o.no == no) = (l.find? fun o => o.no == no).map f := by
  induction l with
  | nil => rfl
  | cons o l ih =>
    by_cases ho : o.no = no
    · rw [List.map_cons, if_pos ho, List.find?_cons_of_pos (by rw [hf, ho, beq_self_eq_true]),
        List.find?_cons_of_pos (by rw [ho, beq_self_eq_true])]
      rfl
    · rw [List.map_cons, if_neg ho, List.find?_cons_of_neg (by rwa [beq_iff_eq]), List.find?_cons_of_neg (by rwa [beq_iff_eq]), ih]

theorem hodOp_onHod (hf : ∀ o, (f o).no = o.no) : (s.onHod pid no f).hodOp pid no = (s.hodOp pid no).map f := by
  rw [hodOp, onHod, core_onCore]
  exact find?_onHod _ hf

/-- The operations of a core stand in its core. -/
theorem hodOp_congr {t : State} (h : t.cores = s.cores) : t.hodOp pid no = s.hodOp pid no := by
  unfold hodOp core
  rw [h]

end

/-! ### Injection (R245) -/

section
variable {s : State} {cid pid : Nat} {o : HodOp} {d : HodDest}

theorem coreAc_onCluster (f : Cluster → Cluster) (hf : ∀ c, (f c).heldAt = c.heldAt ∧ (f c).lostAc = c.lostAc) (p : Nat) :
    (s.onCluster cid f).coreAc p = s.coreAc p := by
  have hac : (s.onCluster cid f).clusterAc (p / 8) = s.clusterAc (p / 8) := by
    unfold clusterAc
    by_cases hp : p / 8 = cid
    · rw [hp, cluster_onCluster, (hf _).1, (hf _).2]
      rfl
    · rw [cluster_onCluster_other _ _ _ _ hp]
      rfl
  unfold coreAc
  rw [hac]
  rfl

theorem beatSince_congr {t : State} (h : t.coreAc pid = s.coreAc pid) (p : Port) : t.beatSince pid p = s.beatSince pid p := by
  unfold beatSince
  rw [h]

/-- The engine of a cluster that has taken a beat in an ac. -/
def tookBeat (s : State) (cid pid ac : Nat) : State := s.onCluster cid fun c => { c with hodLast := pid % 8, hodAt := some ac }

/-- A source read may count at its home, and changes nothing else. -/
theorem sourceRead_eq (s : State) (o : HodOp) : ∃ late, s.sourceRead o = { s with late := late } := by
  unfold sourceRead
  split
  · exact ⟨s.late, rfl⟩
  · split
    · exact ⟨s.late, rfl⟩
    · split
      · exact ⟨_, rfl⟩
      · exact ⟨s.late, rfl⟩

/-- An operation that is no multicast needs no entry at a router. -/
theorem passInto_unicast (h : o.kind ≠ .multicast) : s.passInto pid o cid = some s := by
  rw [passInto, if_pos]
  rw [bne_iff_ne.mpr h, Bool.true_or]

/-- The engine's turn is the one core's of a cluster that has something to inject. -/
theorem hodTurn_unique (hpid : pid / 8 = cid) (hother : ∀ j < 8, 8 * cid + j ≠ pid → s.hodNext (8 * cid + j) = none) {last : Nat}
    {f : Nat → Option (Nat × HodOp)} (hnone : ∀ p, s.hodNext p = none → f p = none) (hsome : f pid = some (pid, o)) :
    ((List.range 8).map fun i => 8 * cid + (last + 1 + i) % 8).findSome? f = some (pid, o) := by
  refine findSome?_unique _ (a := pid) ?_ hsome fun p hp hne => ?_
  · exact List.mem_map.mpr ⟨(pid % 8 + 8 - (last + 1) % 8) % 8, List.mem_range.mpr (Nat.mod_lt _ (by omega)), by omega⟩
  · obtain ⟨i, -, rfl⟩ := List.mem_map.mp hp
    exact hnone _ (hother _ (Nat.mod_lt _ (by omega)) hne)

/-! ### The beat of a copy to one destination -/

/-- The bytes of a copy's next beat (R245). -/
theorem beatSize_copy {va : Word} {n off : Nat} {rest : List (Word × Nat × Nat)} (hd : o.dests = [d]) (hf : o.kind ≠ .forward)
    (ht : o.todo = (va, n, off) :: rest) :
    o.beatSize = min n (min (256 - (d.va.toNat + off) % 256) (65536 - va.toNat % 65536)) := by
  rw [HodOp.beatSize, ht]
  dsimp only
  rw [hd, if_neg hf]
  rfl

theorem beatBytes_copy {va : Word} {n off : Nat} {rest : List (Word × Nat × Nat)} (hf : o.kind ≠ .forward)
    (ht : o.todo = (va, n, off) :: rest) (m : Nat) : s.beatBytes o m = o.pages.bytes s.mem va m := by
  rw [beatBytes, ht]
  dsimp only
  rw [if_neg hf]

/-- A beat goes to the home of its place in the one destination. -/
theorem sendBeats_copy {h : Home} {off : Nat} (bytes : List Byte) (hd : o.dests = [d]) (hblock : o.kind ≠ .block)
    (hforward : o.kind ≠ .forward) (hrim : o.kind ≠ .rim) (hplace : place (d.pages.phys (d.va + Word.ofNat off)) = some (h, .memory)) :
    s.sendBeats pid o off bytes = s.inject (.cluster (pid / 8)) (.home h) (beatClass (.home h))
      (.beat { core := pid, op := o.no, dest := 0, bytes := bytes, since := s.beatSince pid (.home h),
               pa := d.pages.phys (d.va + Word.ofNat off) }) := by
  have hkind : ¬(o.kind = .block ∨ o.kind = .forward) := not_or.mpr ⟨hblock, hforward⟩
  have hport : s.beatPort pid o d off = some (.home h) := by
    rw [beatPort, if_neg hkind, hplace]
    rfl
  rw [sendBeats, hd]
  change (match s.beatPort pid o d off with | some p => _ | none => _) = _
  rw [hport]
  dsimp only
  rw [if_neg hrim, if_neg hkind]

theorem advance_copy {va : Word} {n off : Nat} {rest : List (Word × Nat × Nat)} (hd : o.dests = [d]) (ht : o.todo = (va, n, off) :: rest)
    (m : Nat) : (o.advance m).dests = [{ d with sent := d.sent + 1 }] ∧
      (o.advance m).todo = if m < n then (va + Word.ofNat m, n - m, off + m) :: rest else rest := by
  unfold HodOp.advance
  rw [hd, ht]
  exact ⟨rfl, rfl⟩

theorem badWord_none {ps : Pages} {va : Word} {n : Nat} (h : s.bad = []) : s.badWord ps va n = none := by
  rw [badWord, h]
  rfl

/-- The state after the engine of a cluster has taken a beat of an operation. -/
def beatTaken (s : State) (cid pid : Nat) (o : HodOp) (off : Nat) : State :=
  let t := (s.tookBeat cid pid (s.coreAc (8 * cid))).sourceRead o
  (t.sendBeats pid o off (s.beatBytes o o.beatSize)).onHod pid o.no fun o' => o'.advance o.beatSize

/-- The engine of a cluster takes the next beat of the one core that has something to inject. -/
theorem hodBeatInject_next {va : Word} {n off : Nat} {rest : List (Word × Nat × Nat)} {cid : Nat} (hspot : s.spot.place = cid)
    (hruns : s.clusterRuns cid = true) (hat : (s.cluster cid).hodAt ≠ some (s.coreAc (8 * cid))) (hpid : pid / 8 = cid)
    (hnext : s.hodNext pid = some o) (hother : ∀ j < 8, 8 * cid + j ≠ pid → s.hodNext (8 * cid + j) = none)
    (hkind : o.kind ≠ .multicast) (ht : o.todo = (va, n, off) :: rest) (hbad : s.bad = []) :
    exec .hodBeatInject s = .next (s.beatTaken cid pid o off) := by
  have hgood : (if o.kind = .forward then none else s.badWord o.pages va o.beatSize) = none := by
    rw [badWord_none hbad, ite_self]
  change execHodBeatInject s = _
  rw [execHodBeatInject, hspot]
  dsimp only
  rw [hruns, bne_iff_ne.mpr hat, Bool.and_self, if_pos rfl, hodTurn_unique (o := o) hpid hother]
  · dsimp only
    rw [ht]
    dsimp only
    rw [hgood]
    dsimp only
    rw [passInto_unicast hkind]
    rfl
  · intro p hp
    rw [hp]
  · rw [hnext]
    dsimp only
    rw [mayInject, passInto_unicast hkind, if_pos (by rfl)]

/-- The engine's turn and the read of the source leave what is in flight, memory, the cores, and each core's ac. -/
theorem sourceRead_tookBeat (s : State) (o : HodOp) (cid pid ac : Nat) :
    let t := (s.tookBeat cid pid ac).sourceRead o
    t.net = s.net ∧ t.mem = s.mem ∧ t.cores = s.cores ∧ t.coreAc pid = s.coreAc pid := by
  obtain ⟨late, h⟩ := (s.tookBeat cid pid ac).sourceRead_eq o
  rw [h]
  exact ⟨rfl, rfl, rfl, coreAc_onCluster (fun c => { c with hodLast := pid % 8, hodAt := some ac }) (fun _ => ⟨rfl, rfl⟩) pid⟩

/-- What the engine's beat leaves: one packet more, and the operation after its beat. -/
theorem beatTaken_copy {va : Word} {n off : Nat} {rest : List (Word × Nat × Nat)} {cid : Nat} {h : Home} (hd : o.dests = [d])
    (hkind : o.kind = .push ∨ o.kind = .tile) (ht : o.todo = (va, n, off) :: rest)
    (hplace : place (d.pages.phys (d.va + Word.ofNat off)) = some (h, .memory)) (hop : s.hodOp pid o.no = some o) :
    ∃ x, (s.beatTaken cid pid o off).net = s.net ++ [x] ∧ x.src = .cluster (pid / 8) ∧ x.dst = .home h ∧ x.tc = beatClass (.home h) ∧
      x.load = .beat { core := pid, op := o.no, dest := 0, pa := d.pages.phys (d.va + Word.ofNat off),
                       bytes := o.pages.bytes s.mem va o.beatSize, since := s.beatSince pid (.home h) } ∧
      (s.beatTaken cid pid o off).mem = s.mem ∧ (s.beatTaken cid pid o off).hodOp pid o.no = some (o.advance o.beatSize) := by
  have hforward : o.kind ≠ .forward := by rcases hkind with h | h <;> rw [h] <;> exact nofun
  have hblock : o.kind ≠ .block := by rcases hkind with h | h <;> rw [h] <;> exact nofun
  have hrim : o.kind ≠ .rim := by rcases hkind with h | h <;> rw [h] <;> exact nofun
  obtain ⟨hnet, hmem, hcores, hac⟩ := s.sourceRead_tookBeat o cid pid (s.coreAc (8 * cid))
  rw [beatTaken, sendBeats_copy _ hd hblock hforward hrim hplace, beatBytes_copy hforward ht, beatSince_congr hac]
  generalize (s.tookBeat cid pid (s.coreAc (8 * cid))).sourceRead o = t at hnet hmem hcores
  obtain ⟨x, heq, hxsrc, hxdst, hxtc, hxload⟩ := t.inject_eq (.cluster (pid / 8)) (.home h) (beatClass (.home h))
    (.beat { core := pid, op := o.no, dest := 0, bytes := o.pages.bytes s.mem va o.beatSize, since := s.beatSince pid (.home h),
             pa := d.pages.phys (d.va + Word.ofNat off) })
  rw [heq]
  refine ⟨x, congrArg (· ++ [x]) hnet, hxsrc, hxdst, hxtc, hxload, hmem, ?_⟩
  rw [hodOp_onHod (f := fun o' => o'.advance o.beatSize) fun _ => rfl]
  exact congrArg (Option.map fun o' => o'.advance o.beatSize)
    ((hodOp_congr (s := s) (t := { t with net := t.net ++ [x] }) hcores).trans hop)

end

end State

end Sys2Proof.Machine
end

section
/-!
PROOF. The beats of a copy at their home (R132, R246; O48).
-/

namespace Sys2Proof.Machine

open State

namespace State

/-! ### What a beat changes at its home -/

section
variable {s : State} {h : Home} {pa : Nat} {b : List Byte}

theorem triggerGather_eq (s : State) (h : Home) (pa n : Nat) :
    ∃ cores, s.triggerGather h pa n = { s with cores := cores } ∧
      ∀ p, (State.core { s with cores := cores } p).hods = (s.core p).hods := by
  unfold triggerGather
  split
  · next p =>
    split
    · exact ⟨s.cores, rfl, fun _ => rfl⟩
    · refine ⟨_, rfl, fun q => ?_⟩
      by_cases hq : q = p
      · rw [hq]
        exact (congrArg Core.hods (core_onCore s p fun c => { c with gk := c.gk.wrote pa n })).trans rfl
      · exact congrArg Core.hods (core_onCore_other s p q (fun c => { c with gk := c.gk.wrote pa n }) hq)
  · exact ⟨s.cores, rfl, fun _ => rfl⟩

theorem traceCount_eq (s : State) (h : Home) : ∃ trseq, s.traceCount h = { s with trseq := trseq } := by
  unfold traceCount
  split
  · split
    · exact ⟨_, rfl⟩
    · exact ⟨s.trseq, rfl⟩
  · exact ⟨s.trseq, rfl⟩

/-- A beat at a home that writes rightly leaves its bytes in memory, and no operation changed. -/
theorem performBeat_eq (hw : s.writesWell h = true) :
    ∃ bad cores trseq late, (s.performBeat h pa b).performed h true =
        { s with mem := Memory.storeBytes s.mem pa b, bad := bad, cores := cores, trseq := trseq, late := late } ∧
      ∀ p, (State.core { s with cores := cores } p).hods = (s.core p).hods := by
  obtain ⟨cores, hgather, hhods⟩ := (s.writeBytes pa b).triggerGather_eq h pa b.length
  obtain ⟨trseq, htrace⟩ := ((s.writeBytes pa b).triggerGather h pa b.length).traceCount_eq h
  have hbeat : s.performBeat h pa b = ((s.writeBytes pa b).triggerGather h pa b.length).traceCount h := by
    rw [performBeat, passedBytes, hw]
    rfl
  rw [hbeat, htrace, hgather]
  exact ⟨_, cores, trseq, _, rfl, hhods⟩

end

/-! ### The end of a beat (R246) -/

section
variable {s : State} {b : Beat} {o : HodOp} {d : HodDest}

theorem releaseLocks_eq (s : State) (t : LockTable) (test : Lock → Bool) :
    ∃ clusters regions, s.releaseLocks t test = { s with clusters := clusters, regions := regions } := by
  cases t <;> exact ⟨_, _, rfl⟩

/-- The release of a destination's lock changes lock tables alone. -/
theorem dropDest_eq (s : State) (pid : Nat) (o : HodOp) (d : HodDest) :
    ∃ clusters regions, s.dropDest pid o d = { s with clusters := clusters, regions := regions } := by
  unfold dropDest
  split
  · exact releaseLocks_eq ..
  · exact ⟨s.clusters, s.regions, rfl⟩

/-- The operation of a beat whose one destination is changed. -/
theorem hodOp_onDest (f : HodDest → HodDest) (hb : b.dest = 0) (hop : s.hodOp b.core b.op = some o) (hd : o.dests = [d]) :
    (s.onDest b f).hodOp b.core b.op = some { o with dests := [f d] } := by
  rw [onDest, hodOp_onHod (f := fun o => { o with dests := o.dests.mapIdx fun i d => if i = b.dest then f d else d }) fun _ => rfl, hop,
    Option.map_some, hd, hb]
  rfl

/-- A beat that is not the last of its destination is counted. -/
theorem beatDone_counts (from_ : Port) (hb : b.dest = 0) (hop : s.hodOp b.core b.op = some o) (hd : o.dests = [d])
    (h : o.todo ≠ [] ∨ d.performed + 1 ≠ d.sent ∨ d.told = true) :
    s.beatDone from_ b = s.onDest b fun d => { d with performed := d.performed + 1 } := by
  have hlast : (o.todo.isEmpty && d.performed + 1 == d.sent && !d.told) = false := by
    rcases h with h | h | h
    · rw [List.isEmpty_eq_false_iff.mpr h]
      rfl
    · rw [beq_false_of_ne h, Bool.and_false]
      rfl
    · rw [h, Bool.not_true, Bool.and_false]
  rw [beatDone, hodOp_onDest (fun d => { d with performed := d.performed + 1 }) hb hop hd, hb]
  dsimp only [List.getElem?_cons_zero]
  rw [hlast]
  rfl

/-- After the last beat of a destination its completion goes back to the engine. -/
theorem beatDone_last (from_ : Port) (hb : b.dest = 0) (hop : s.hodOp b.core b.op = some o) (hd : o.dests = [d]) (htodo : o.todo = [])
    (hall : d.performed + 1 = d.sent) (htold : d.told = false) :
    ∃ x, (s.beatDone from_ b).net = s.net ++ [x] ∧ x.dst = .cluster (b.core / 8) ∧
      x.load = .landed b.core b.op 0 (if b.since = 0 then 0 else s.coreAc b.core + 1) ∧ (s.beatDone from_ b).mem = s.mem ∧
      (s.beatDone from_ b).hodOp b.core b.op = some { o with dests := [{ d with performed := d.performed + 1, told := true }] } := by
  have hlast : (o.todo.isEmpty && d.performed + 1 == d.sent && !d.told) = true := by
    rw [htodo, hall, htold, beq_self_eq_true]
    rfl
  have hop1 := hodOp_onDest (fun d => { d with performed := d.performed + 1 }) hb hop hd
  let t := s.onDest b fun d => { d with performed := d.performed + 1 }
  let d1 : HodDest := { d with performed := d.performed + 1 }
  obtain ⟨clusters, regions, hdrop⟩ := t.dropDest_eq b.core { o with dests := [d1] } d1
  let u := (State.onDest { t with clusters := clusters, regions := regions } b fun d => { d with told := true })
  have hop2 : u.hodOp b.core b.op = some { o with dests := [{ d1 with told := true }] } :=
    hodOp_onDest (o := { o with dests := [d1] }) (d := d1) (fun d => { d with told := true }) hb
      ((hodOp_congr (s := t) rfl).trans hop1) rfl
  have hdone : s.beatDone from_ b = u.inject from_ (.cluster (b.core / 8)) (if o.kind = .rim then 3 else beatClass from_)
      (.landed b.core b.op 0 (if b.since = 0 then 0 else t.coreAc b.core + 1)) := by
    rw [beatDone, hop1, hb]
    dsimp only [List.getElem?_cons_zero]
    rw [hlast, if_pos rfl, hdrop]
  obtain ⟨x, heq, -, hxdst, -, hxload⟩ := u.inject_eq from_ (.cluster (b.core / 8)) (if o.kind = .rim then 3 else beatClass from_)
    (.landed b.core b.op 0 (if b.since = 0 then 0 else t.coreAc b.core + 1))
  rw [hdone, heq]
  exact ⟨x, rfl, hxdst, hxload, rfl, (hodOp_congr (s := u) rfl).trans hop2⟩

/-! ### A beat at a home of memory (R132, R246) -/

/-- A beat at a home that runs and that its copy has locked is performed there. -/
theorem memoryBeat_performed {h : Home} (hrefused : d.refused = none) (hlocked : d.locked = true) (hkind : o.kind = .push ∨ o.kind = .tile)
    (href : s.homeRefuses b.core (s.entryTask b.core == 0 || isService b.core) h b.pa = false) (hruns : s.homeRuns h = true)
    (hbusy : s.rimBusy b.pa = false) (hsince : b.since ≤ s.homeAc h) (hbad : s.bad = []) :
    s.memoryBeat h b o d = some (((s.performBeat h b.pa b.bytes).performed h true).beatDone (.home h) b) := by
  have hrim : o.kind ≠ .rim := by rcases hkind with h | h <;> rw [h] <;> exact nofun
  have hecc : ∀ pa n, s.eccBad pa n = false := fun pa n => by
    rw [eccBad, hbad]
    rfl
  have href' : s.homeRefuses b.core (o.kind != .rim && (s.entryTask b.core == 0 || isService b.core)) h b.pa = false := by
    rw [bne_iff_ne.mpr hrim, Bool.true_and]
    exact href
  have hready : (!s.homeRuns h || s.rimBusy b.pa || decide (s.homeAc h < b.since)) = false := by
    rw [hruns, hbusy, decide_eq_false (Nat.not_lt.mpr hsince)]
    rfl
  rw [memoryBeat, hrefused]
  dsimp only [Option.isSome_none]
  rw [if_neg Bool.false_ne_true, href', if_neg Bool.false_ne_true, hready, if_neg Bool.false_ne_true, hlocked, if_pos rfl]
  dsimp only
  rw [hecc, hecc, Bool.and_false, Bool.and_false, if_neg hrim]
  rfl

/-- A beat that has reached its home is performed there. -/
theorem hodBeatArrival_next {p : Packet} {h : Home} (hp : s.moving s.spot.place = some p) (hload : p.load = .beat b) (hdst : p.dst = .home h)
    (hb : b.dest = 0) (hop : s.hodOp b.core b.op = some o) (hd : o.dests = [d]) (hpod : ∀ m, h ≠ .pod m) {t : State}
    (ht : (s.taken s.spot.place).memoryBeat h b o d = some t) : exec .hodBeatArrival s = .next t := by
  have hbeat : exec .hodBeatArrival s = .next (((s.taken s.spot.place).memoryBeat h b o d).getD s) := by
    change execHodBeatArrival s = _
    rw [execHodBeatArrival, hp]
    dsimp only
    rw [hload]
    dsimp only
    rw [hop]
    dsimp only
    rw [hd, hb]
    dsimp only [List.getElem?_cons_zero]
    rw [hdst]
    cases h with
    | pod m => exact absurd rfl (hpod m)
    | _ => rfl
  rw [hbeat, ht]
  rfl

end

end State

end Sys2Proof.Machine
end

section
/-!
PROOF. What the rings of a core rest on (R111, R115), and a clip record's place (R135; O48).
-/

namespace Sys2Proof.Machine

open State

namespace State

/-! ### States whose rings are alike -/

/-- A state that differs from another in its cores, its clusters and what is in flight, but in nothing that a core's rings rest on. -/
structure RingsAlike (s u : State) : Prop where
  base : u = { s with cores := u.cores, clusters := u.clusters, net := u.net }
  tlb : ∀ c, (u.cluster c).tlb = (s.cluster c).tlb
  fwd : ∀ c, (u.cluster c).fwd = (s.cluster c).fwd
  entry : ∀ p, (u.core p).entry = (s.core p).entry
  clearing : ∀ p, (u.core p).clearing = (s.core p).clearing
  ringLen : ∀ p, (u.core p).ringLen = (s.core p).ringLen

namespace RingsAlike

variable {s u : State}

theorem clusterRuns (h : RingsAlike s u) (c : Nat) : u.clusterRuns c = s.clusterRuns c := by
  unfold State.clusterRuns
  rw [h.fwd]
  rw [h.base]
  rfl

theorem homeRuns (h : RingsAlike s u) (x : Home) : u.homeRuns x = s.homeRuns x := by
  have hrouted : u.routed x = s.routed x := by
    rw [h.base]
    rfl
  have hhost : u.host = s.host := by rw [h.base]
  unfold State.homeRuns portRuns
  simp only [hrouted, hhost, h.clearing, h.clusterRuns]

theorem structReady (h : RingsAlike s u) (pa : Nat) : u.structReady pa = s.structReady pa := by
  have hbusy : u.rimBusy pa = s.rimBusy pa := by
    rw [h.base]
    rfl
  unfold State.structReady
  simp only [hbusy, h.homeRuns]

theorem ringAddr (h : RingsAlike s u) (pid pasid : Nat) (va : Word) : u.ringAddr pid pasid va = s.ringAddr pid pasid va := by
  unfold State.ringAddr tlbLookup
  rw [h.tlb]

theorem word (h : RingsAlike s u) (pa : Nat) : u.word pa = s.word pa := by
  rw [h.base]
  rfl

theorem eccBad (h : RingsAlike s u) (pa n : Nat) : u.eccBad pa n = s.eccBad pa n := by
  rw [h.base]
  rfl

theorem ringAt (h : RingsAlike s u) (pid pasid : Nat) (hdr : Word) : u.ringAt pid pasid hdr = s.ringAt pid pasid hdr := by
  unfold State.ringAt
  simp only [h.ringAddr, h.word, h.structReady, h.eccBad]

theorem entryWord (h : RingsAlike s u) (pid : Nat) (i : Fin 8) : u.entryWord pid i = s.entryWord pid i := by
  rw [State.entryWord, State.entryWord, h.entry]

theorem ringBlocked (h : RingsAlike s u) (pid pasid : Nat) (hdr : Word) : u.ringBlocked pid pasid hdr = s.ringBlocked pid pasid hdr := by
  unfold State.ringBlocked
  simp only [h.ringAddr, h.ringAt, h.structReady, h.eccBad]

theorem ringCount (h : RingsAlike s u) (pid : Nat) : u.ringCount pid = s.ringCount pid := by
  unfold State.ringCount entryPasid entryAddr
  simp only [h.entryWord, h.ringAt, h.ringLen]

end RingsAlike

/-! ### A clip record's place (R116, R135) -/

/-- A core that takes a record of its task into a general entry now. -/
structure TakesRecord (s : State) (pid : Nat) : Prop where
  compute : isService pid = false
  state : s.entryState pid = 2
  saved : s.savedNow pid = false
  admitting : (s.core pid).admitting = true
  empty : s.ringCount pid = 0
  clearing : (s.core pid).clearing = false
  reached : s.ringBlocked pid (s.entryPasid pid) (s.entryAddr pid 3) = false
  general : (s.core pid).hasGeneral = true

section
variable {s : State} {pid : Nat} {f : Slot} {handler : Nat} {data : List Word}

/-- The clip record of a fibre. -/
def clipMsg (s : State) (pid : Nat) (f : Slot) (handler : Nat) (data : List Word) : Msg :=
  { rw := (Routing.mk .run 1 f.ecls f.prio.val true (s.rankOf pid) (s.taskOf pid f) (s.rankOf pid)).word,
    sel := Word.ofNat handler, data := data }

theorem entryTask_lt (s : State) (pid : Nat) : s.entryTask pid < 4096 := by
  unfold entryTask
  split
  · decide
  · exact Nat.mod_lt _ (by decide)

theorem taskOf_lt (s : State) (pid : Nat) (f : Slot) : s.taskOf pid f < 4096 := by
  unfold taskOf
  split
  · decide
  · exact s.entryTask_lt pid

theorem clipMsg_says (hrank : s.rankOf pid < 65536) :
    (s.clipMsg pid f handler data).kind = 0 ∧ (s.clipMsg pid f handler data).isRecord = true ∧
      (s.clipMsg pid f handler data).task = s.taskOf pid f := by
  have hfits : (Routing.mk .run 1 f.ecls f.prio.val true (s.rankOf pid) (s.taskOf pid f) (s.rankOf pid)).Fits :=
    ⟨by change 1 < 4; decide, f.prio.isLt, hrank, s.taskOf_lt pid f, hrank⟩
  obtain ⟨hkind, -, -, -, hsize, -, htask, -⟩ := Msg.fields_of_routing hfits (Word.ofNat handler) data
  exact ⟨hkind, hsize, htask⟩

/-- A record of its task that a core takes now does not wait, and stands in a general entry. -/
theorem TakesRecord.placed (h : s.TakesRecord pid) {m : Msg} (hkind : m.kind = 0) (htask : m.task = s.entryTask pid) :
    s.recordWaits pid m = false ∧ s.placeFor pid m = some ((s.hold pid m false false s.seq).tick) := by
  have hring : s.ringFor pid m = (s.entryPasid pid, s.entryAddr pid 3) := by
    unfold ringFor
    rw [htask, beq_self_eq_true, h.compute, h.saved, h.state]
    rfl
  have hdirectory : s.byDirectory pid m = false := by
    unfold byDirectory
    rw [htask, h.state, h.compute, bne_self_eq_false]
    rfl
  have hgeneral : (s.core pid).part.length < (s.core pid).general := of_decide_eq_true h.general
  refine ⟨?_, (placeFor_running h.compute htask h.state h.saved).trans (placeRecord_general h.empty hgeneral (.inr h.admitting))⟩
  unfold recordWaits
  dsimp only
  rw [hring, h.clearing, h.reached, hdirectory, hkind]
  rfl

/-- The clip record of a fibre of its core's task stands in a general entry. -/
theorem postClip_placed (h : s.TakesRecord pid) (hfw : f.fw = false) (hrank : s.rankOf pid < 65536) :
    s.postClip pid f handler data = some ((s.hold pid (s.clipMsg pid f handler data) false false s.seq).tick) := by
  obtain ⟨hkind, -, htask⟩ := s.clipMsg_says (f := f) (handler := handler) (data := data) hrank
  have hown : s.taskOf pid f = s.entryTask pid := by
    rw [taskOf, ofFlatar, h.compute, hfw]
    rfl
  obtain ⟨hwaits, hplace⟩ := h.placed hkind (htask.trans hown)
  unfold postClip
  exact (if_neg (Bool.eq_false_iff.mp hwaits)).trans hplace

end

end State

end Sys2Proof.Machine
end

section
/-!
PROOF. The end of a copy (R132, R134, R135, R246; O48).
-/

namespace Sys2Proof.Machine

open State

namespace State

/-! ### Notices (R134) -/

section
variable {s u : State} {pid : Nat} {f : Slot} {n : Note}

/-- The notices of a copy are packets more in flight. -/
theorem sendCounts_eq (pid : Nat) (f : Slot) (ns : List Note) (u : State) :
    ∃ ps, ns.foldl (fun w n => w.sendCount pid f n) u = { u with net := u.net ++ ps } := by
  induction ns generalizing u with
  | nil => exact ⟨[], by rw [List.append_nil]; rfl⟩
  | cons n ns ih =>
    obtain ⟨ps, hps⟩ : ∃ ps, u.sendCount pid f n = { u with net := u.net ++ ps } := by
      obtain ⟨ps, -, h⟩ := sendToRank_alike (.refl u) pid n.rank
        { kind := .count, tc := if n.tc0 then 0 else 1, ecls := f.ecls, prio := f.prio.val, size := false, dest := n.rank,
          task := u.taskOf pid f, src := u.rankOf pid } (Word.ofNat (n.index * 2 ^ 32 + 1)) [0]
      exact ⟨ps, h⟩
    obtain ⟨qs, hqs⟩ := ih { u with net := u.net ++ ps }
    refine ⟨ps ++ qs, ?_⟩
    rw [List.foldl_cons, hps, hqs, List.append_assoc]

/-- The notice of a copy is a COUNT of 1 for the rank that it names (R134). -/
theorem sendCount_says {q : Port} (hport : u.rankPort pid n.rank = some q) (hrank : n.rank < 65536) (hindex : n.index < 64)
    (hsrc : u.rankOf pid < 65536) :
    ∃ (x : Packet) (m : Msg), u.sendCount pid f n = { u with net := u.net ++ [x] } ∧ x.dst = q ∧ x.load = .msg m false ∧ m.kind = 1 ∧
      m.dest = n.rank ∧ m.tc = (if n.tc0 then 0 else 1) ∧ fld m.sel 0 32 = 1 ∧ fld m.sel 32 6 = n.index := by
  have hfits : (Routing.mk .count (if n.tc0 then 0 else 1) f.ecls f.prio.val false n.rank (u.taskOf pid f) (u.rankOf pid)).Fits :=
    ⟨by change (if n.tc0 then 0 else 1) < 4; split <;> decide, f.prio.isLt, hrank, u.taskOf_lt pid f, hsrc⟩
  obtain ⟨hkind, htc, -, -, -, hdest, -, -⟩ := Msg.fields_of_routing hfits (Word.ofNat (n.index * 2 ^ 32 + 1)) [0]
  obtain ⟨x, heq, -, hxdst, -, hxload⟩ := u.send_eq_net (.core pid) q
    (Routing.mk .count (if n.tc0 then 0 else 1) f.ecls f.prio.val false n.rank (u.taskOf pid f) (u.rankOf pid))
    (Word.ofNat (n.index * 2 ^ 32 + 1)) [0]
  have hsend : u.sendCount pid f n = { u with net := u.net ++ [x] } := by
    rw [sendCount, sendToRank, hport]
    exact heq
  have hsel : (Word.ofNat (n.index * 2 ^ 32 + 1)).toNat = n.index * 2 ^ 32 + 1 := by
    rw [Word.ofNat, BitVec.toNat_ofNat]
    omega
  refine ⟨x, _, hsend, hxdst, hxload, hkind, hdest, htc, ?_, ?_⟩
  · rw [fld_low, hsel]
    omega
  · rw [fld, hsel]
    omega

end

/-! ### An operation leaves its core (R132) -/

/-- A core without an operation. -/
def withoutOp (no : Nat) (c : Core) : Core :=
  { c with ops := c.ops.filter fun o => o.no != no, hods := c.hods.filter fun x => x.no != no }

section
variable {s : State} {pid : Nat} {F : Core → Core}

theorem onCluster_onCluster (s : State) (c : Nat) (f g : Cluster → Cluster) :
    (s.onCluster c f).onCluster c g = s.onCluster c fun x => g (f x) := by
  rw [onCluster, cluster_onCluster]
  exact congrArg (fun t => { s with clusters := t }) (Tab.put_put ..)

/-- A test of the locks of an operation. -/
def lockOf (owner eng op : Nat) (x : Nat × Lock) : Bool := x.2.owner == owner && x.2.eng == eng && x.2.op == op

/-- The release of an operation's locks in a cluster's table changes lock entries alone. -/
theorem dropLocks_cluster (s : State) (c owner eng op : Nat) :
    ∃ g, s.dropLocks (some (.cluster c)) owner eng op = s.onCluster c g ∧
      ∀ x, ∃ locks freed, g x = { x with locks := locks, freed := freed } :=
  ⟨_, onCluster_onCluster s c (fun x => { x with locks := (s.cluster c).locks.filter fun x => !lockOf owner eng op x })
    (fun x =>
      { x with
        freed := (x.freed.filter fun y => y.1 == s.clusterAc c) ++
          ((s.cluster c).locks.filter (lockOf owner eng op)).map fun y => (s.clusterAc c, y.2) }), fun _ => ⟨_, _, rfl⟩⟩

/-- An operation leaves its core, and its locks the table of the core's cluster. -/
theorem endHod_onCore (o : HodOp) (hhere : (F (s.core pid)).went.getD pid = pid) :
    (s.onCore pid F).endHod pid o =
      (s.dropLocks (some (.cluster (pid / 8))) pid 1 o.no).onCore pid fun c => withoutOp o.no (F c) := by
  let t := s.dropLocks (some (.cluster (pid / 8))) pid 1 o.no
  have hdrop : (s.onCore pid F).dropLocks (some (.cluster (pid / 8))) pid 1 o.no = t.onCore pid F := rfl
  have hcore : (t.onCore pid F).core pid = F (s.core pid) := core_onCore t pid F
  have hholder : (t.onCore pid F).holder pid = pid := by
    rw [holder, hcore]
    exact hhere
  rw [endHod, hdrop, endOp, hholder, onCore_onCore, onCore_onCore]
  rfl

/-! ### The end of an operation (R132, R135) -/

theorem core_dropLocks (s : State) (c owner eng op p : Nat) : (s.dropLocks (some (.cluster c)) owner eng op).core p = s.core p := by
  obtain ⟨g, h, -⟩ := s.dropLocks_cluster c owner eng op
  rw [h]
  rfl

theorem core_tick (s : State) (p : Nat) : s.tick.core p = s.core p := rfl

/-- A core with one more record in its general entries. -/
def withRecord (k : Held) (c : Core) : Core := { c with part := c.part ++ [k] }

theorem takes_withoutOp {c : Core} (h : c.Takes pid) (no : Nat) : (withoutOp no c).Takes pid := ⟨h.fenced, h.here, h.saved⟩

theorem takes_withRecord {c : Core} (h : c.Takes pid) (k : Held) : (withRecord k c).Takes pid := ⟨h.fenced, h.here, h.saved⟩

/-- An operation without a clip record ends with its token register. -/
theorem finishHod_plain {o : HodOp} (h : (F (s.core pid)).Takes pid) (hkind : o.kind ≠ .forward) (hcode : o.code = none)
    (hclip : o.clip = none) :
    ∃ ac, (s.onCore pid F).finishHod pid o = (s.dropLocks (some (.cluster (pid / 8))) pid 1 o.no).onCore pid fun c =>
      (withoutOp o.no (F c)).completed ac o.slot o.gen o.reg .engine (Word.ofNat o.bytes) := by
  refine ⟨(s.dropLocks (some (.cluster (pid / 8))) pid 1 o.no).coreAc pid, ?_⟩
  rw [finishHod, hcode, hclip, endHod_onCore o h.here]
  dsimp only
  rw [if_neg hkind]
  exact complete_onCore (F := fun c => withoutOp o.no (F c)) (by rw [core_dropLocks]; exact takes_withoutOp h o.no) o.slot o.gen o.reg
    .engine (Word.ofNat o.bytes)

/-- An operation with a clip record ends with its record and its token register. -/
theorem finishHod_clip {o : HodOp} {handler : Nat} {data : List Word} (h : (F (s.core pid)).Takes pid) (hkind : o.kind ≠ .forward)
    (hcode : o.code = none) (hclip : o.clip = some (handler, data)) (hfw : ((F (s.core pid)).slot o.slot).fw = false)
    (hrank : s.rankOf pid < 65536)
    (htakes : ((s.dropLocks (some (.cluster (pid / 8))) pid 1 o.no).onCore pid fun c => withoutOp o.no (F c)).TakesRecord pid) :
    ∃ ac k, k.msg.kind = 0 ∧ k.msg.isRecord = true ∧ k.msg.sel = Word.ofNat handler ∧ k.msg.data = data ∧
      (s.onCore pid F).finishHod pid o = ((s.dropLocks (some (.cluster (pid / 8))) pid 1 o.no).tick).onCore pid fun c =>
        (withRecord k (withoutOp o.no (F c))).completed ac o.slot o.gen o.reg .engine (Word.ofNat o.bytes) := by
  let t := (s.dropLocks (some (.cluster (pid / 8))) pid 1 o.no).onCore pid fun c => withoutOp o.no (F c)
  have hholder : (s.onCore pid F).holder pid = pid := by
    rw [holder, core_onCore]
    exact h.here
  have hslot : (s.onCore pid F).slot pid o.slot = (F (s.core pid)).slot o.slot := by rw [slot, core_onCore]
  let m := t.clipMsg pid ((F (s.core pid)).slot o.slot) handler data
  obtain ⟨hmkind, hmsize, -⟩ := t.clipMsg_says (f := (F (s.core pid)).slot o.slot) (handler := handler) (data := data) hrank
  have hpost : t.postClip pid ((F (s.core pid)).slot o.slot) handler data = some ((t.hold pid m false false t.seq).tick) :=
    postClip_placed htakes hfw hrank
  have hheld : (t.hold pid m false false t.seq).tick = ((s.dropLocks (some (.cluster (pid / 8))) pid 1 o.no).tick).onCore pid fun c =>
      withRecord (t.heldNow pid m) (withoutOp o.no (F c)) :=
    onCore_onCore ((s.dropLocks (some (.cluster (pid / 8))) pid 1 o.no).tick) pid (fun c => withoutOp o.no (F c))
      (withRecord (t.heldNow pid m))
  refine ⟨((s.dropLocks (some (.cluster (pid / 8))) pid 1 o.no).tick).coreAc pid, t.heldNow pid m, hmkind, hmsize, rfl, rfl, ?_⟩
  rw [finishHod, hcode, hclip, endHod_onCore o h.here, hholder, hslot]
  dsimp only
  rw [if_neg hkind, hpost, Option.getD_some, hheld]
  exact complete_onCore (F := fun c => withRecord (t.heldNow pid m) (withoutOp o.no (F c)))
    (takes_withRecord (by rw [core_tick, core_dropLocks]; exact takes_withoutOp h o.no) _) o.slot o.gen o.reg .engine (Word.ofNat o.bytes)

end

/-! ### The completion of a copy to one destination (R246) -/

section
variable {s : State} {pid : Nat} {o : HodOp} {d : HodDest}

/-- A copy to one destination, which has completed. -/
def doneOp (o : HodOp) (d : HodDest) : HodOp := { o with code := none, dests := [{ d with done := true }] }

/-- The completion of a copy sends its notices, and ends the operation. -/
theorem hodDestCompletion_next {p : Packet} {since : Nat} (hp : s.moving s.spot.place = some p) (hload : p.load = .landed pid o.no 0 since)
    (hsince : since ≤ s.coreAc pid) (hop : s.hodOp pid o.no = some o) (hd : o.dests = [d]) (htodo : o.todo = []) (hfailed : o.failed = none)
    (hcode : o.code = none) (hrefused : d.refused = none) (hruns : s.portRuns pid = true) (hrim : o.kind ≠ .rim)
    (hmay : s.hodMayEnd pid (doneOp o d) = true) :
    exec .hodDestCompletion s = .next ((d.notes.foldl (fun w n => w.sendCount pid (s.slot (s.holder pid) o.slot) n)
      ((s.taken s.spot.place).onHod pid o.no fun _ => doneOp o d)).finishHod pid (doneOp o d)) := by
  have hready : (!s.clusterRuns (pid / 8) || decide (s.coreAc pid < since)) = false := by
    rw [show s.clusterRuns (pid / 8) = true from hruns, decide_eq_false (Nat.not_lt.mpr hsince)]
    rfl
  have hdone : ({ o with
      code := o.code.or (d.refused.map fun c => (c, d.va))
      dests := o.dests.mapIdx fun i x => if i = 0 then { x with done := true } else x } : HodOp) = doneOp o d := by
    rw [hcode, hrefused, hd]
    rfl
  have hover : hodOver (doneOp o d) = true := by
    rw [hodOver, doneOp, htodo]
    rfl
  change execHodDestCompletion s = _
  rw [execHodDestCompletion, hp]
  dsimp only
  rw [hload]
  dsimp only
  rw [hop]
  dsimp only
  rw [show o.dests[0]? = some d by rw [hd]; rfl]
  dsimp only
  rw [hready, if_neg Bool.false_ne_true, hdone, hover, hrefused, hfailed,
    if_neg hrim, hmay]
  rfl

theorem hodMayEnd_plain (hforward : o.kind ≠ .forward) (hcode : o.code = none) (hclip : o.clip = none) (hruns : s.portRuns pid = true)
    (hholder : s.holder pid = pid) (hsaved : s.savedNow pid = false) : s.hodMayEnd pid o = true := by
  rw [hodMayEnd, hcode, hclip, beq_false_of_ne hforward]
  change s.takesCompletions pid 1 = true
  rw [takesCompletions, hholder, hruns, hsaved]
  rfl

theorem hodMayEnd_clip {handler : Nat} {data : List Word} (hforward : o.kind ≠ .forward) (hcode : o.code = none)
    (hclip : o.clip = some (handler, data)) (hruns : s.portRuns pid = true) (hholder : s.holder pid = pid) (htakes : s.TakesRecord pid)
    (hfw : (s.slot pid o.slot).fw = false) (hrank : s.rankOf pid < 65536) : s.hodMayEnd pid o = true := by
  let m := s.clipMsg pid (s.slot pid o.slot) handler data
  let t := (s.hold pid m false false s.seq).tick
  have hpost : s.postClip pid (s.slot pid o.slot) handler data = some t := postClip_placed htakes hfw hrank
  have hcore : t.core pid = Core.holding false (s.heldNow pid m) (s.core pid) := core_held s pid m false
  have hholder' : t.holder pid = pid := by
    rw [holder, hcore]
    exact hholder
  have hsaved : t.savedNow pid = false := by
    rw [savedNow_eq, hcore]
    exact htakes.saved
  rw [hodMayEnd, hcode, hclip, beq_false_of_ne hforward, hholder]
  refine (if_neg Bool.false_ne_true).trans ?_
  dsimp only
  rw [hpost]
  change t.takesCompletions pid 1 = true
  rw [takesCompletions, hholder', hsaved, show t.portRuns pid = true from hruns]
  rfl

/-- What a completion leaves at its core. -/
theorem completed_ended {B : State} {H : Core → Core} {ac no : Nat} {slot : Nat} {gen : BitVec 8} {reg : Reg} {v : Word}
    (hcore : B.core pid = s.core pid) (hslots : (H (s.core pid)).slots = (s.core pid).slots)
    (hhods : ∀ x ∈ (H (s.core pid)).hods, x.no ≠ no)
    (hf : ∀ f, f = s.slot pid slot → f.live = true ∧ f.gen = gen ∧ f.mark[reg] = some .engine) {t : State}
    (ht : t = B.onCore pid fun c => (H c).completed ac slot gen reg .engine v) :
    (t.slot pid slot).g[reg] = v ∧ (t.slot pid slot).mark[reg] = none ∧ (∀ x ∈ (t.core pid).hods, x.no ≠ no) ∧
      (t.core pid).part = (H (s.core pid)).part := by
  have htcore : t.core pid = (H (s.core pid)).completed ac slot gen reg .engine v := by
    rw [ht, core_onCore, hcore]
  have hslot : (H (s.core pid)).slot slot = s.slot pid slot := by
    rw [Core.slot, hslots]
    rfl
  obtain ⟨hlive, hgen, hmark⟩ := hf _ hslot
  obtain ⟨hg, hm⟩ := Core.completed_reg (v := v) (ac := ac) hlive hgen hmark
  obtain ⟨sl, heq⟩ := (H (s.core pid)).completed_eq (ac := ac) (slot := slot) (gen := gen) (reg := reg) (src := .engine) (v := v)
  refine ⟨?_, ?_, ?_, ?_⟩
  · rw [State.slot, htcore]
    exact hg
  · rw [State.slot, htcore]
    exact hm
  · rw [htcore, heq]
    exact hhods
  · rw [htcore, heq]

/-- A state whose lock entries, operations and what is in flight have changed has its rings as they were, and its core its entries. -/
theorem takesRecord_ended (h : s.TakesRecord pid) (ps : List Packet) {c owner eng op : Nat} {G : Core → Core}
    (hG : ∃ ops hods, G (s.core pid) = { s.core pid with ops := ops, hods := hods }) :
    ((State.dropLocks { s with net := ps } (some (.cluster c)) owner eng op).onCore pid G).TakesRecord pid := by
  obtain ⟨g, hdrop, hg⟩ := State.dropLocks_cluster { s with net := ps } c owner eng op
  obtain ⟨ops, hods, hG⟩ := hG
  rw [hdrop]
  let B := State.onCluster { s with net := ps } c g
  have hcore : (B.onCore pid G).core pid = { s.core pid with ops := ops, hods := hods } := (core_onCore B pid G).trans hG
  have hother : ∀ q, q ≠ pid → (B.onCore pid G).core q = s.core q := fun q hq => core_onCore_other B pid q G hq
  have hcores : ∀ {α : Type} (k : Core → α), (∀ x : Core, k { x with ops := ops, hods := hods } = k x) →
      ∀ q, k ((B.onCore pid G).core q) = k (s.core q) := fun k hk q => by
    by_cases hq : q = pid
    · rw [hq, hcore, hk]
    · rw [hother q hq]
  have hclusters : ∀ {α : Type} (k : Cluster → α), (∀ x locks freed, k { x with locks := locks, freed := freed } = k x) →
      ∀ q, k ((B.onCore pid G).cluster q) = k (s.cluster q) := fun k hk q => by
    change k (B.cluster q) = _
    by_cases hq : q = c
    · obtain ⟨locks, freed, hx⟩ := hg (s.cluster c)
      rw [hq, cluster_onCluster]
      exact (congrArg k hx).trans (hk _ _ _)
    · rw [cluster_onCluster_other _ _ _ _ hq]
      rfl
  have halike : RingsAlike s (B.onCore pid G) :=
    ⟨rfl, hclusters Cluster.tlb fun _ _ _ => rfl, hclusters Cluster.fwd fun _ _ _ => rfl, hcores Core.entry fun _ => rfl,
      hcores Core.clearing fun _ => rfl, hcores Core.ringLen fun _ => rfl⟩
  refine ⟨h.compute, ?_, ?_, ?_, (halike.ringCount pid).trans h.empty, (halike.clearing pid).trans h.clearing, ?_, ?_⟩
  · rw [entryState, halike.entryWord]
    exact h.state
  · rw [savedNow_eq, hcore]
    exact h.saved
  · rw [hcore]
    exact h.admitting
  · unfold entryPasid entryAddr
    rw [halike.entryWord, halike.entryWord, halike.ringBlocked]
    exact h.reached
  · rw [hcore]
    exact h.general

/-! ### The two ends of a copy -/

/-- A core whose copy to one destination has completed. -/
def copyDone (o : HodOp) (d : HodDest) (c : Core) : Core := { c with hods := c.hods.map fun x => if x.no = o.no then doneOp o d else x }

/-- The completion of a copy to one destination stands at its cluster, and the copy's core takes what it brings (R246). -/
structure CopyLanded (s : State) (o : HodOp) (d : HodDest) (p : Packet) (since pid : Nat) : Prop where
  dests : o.dests = [d]
  kind : o.kind = .push ∨ o.kind = .tile
  packet : s.moving s.spot.place = some p
  load : p.load = .landed pid o.no 0 since
  since_le : since ≤ s.coreAc pid
  op : s.hodOp pid o.no = some o
  todo : o.todo = []
  failed : o.failed = none
  code : o.code = none
  refused : d.refused = none
  runs : s.portRuns pid = true
  here : s.holder pid = pid
  saved : s.savedNow pid = false
  fenced : (s.core pid).fenced = false
  slot : ∀ f, f = s.slot pid o.slot → f.live = true ∧ f.gen = o.gen ∧ f.mark[o.reg] = some .engine

/-- A copy has ended: rd holds its byte count, and the core holds the copy no more. -/
def CopyEnded (s : State) (o : HodOp) (pid : Nat) (t : State) : Prop :=
  t.mem = s.mem ∧ (t.slot pid o.slot).g[o.reg] = BitVec.ofNat 64 o.bytes ∧ (t.slot pid o.slot).mark[o.reg] = none ∧
    ∀ x ∈ (t.core pid).hods, x.no ≠ o.no

section
variable {p : Packet} {since : Nat}

theorem withoutOp_gone (no : Nat) (c : Core) : ∀ x ∈ (withoutOp no c).hods, x.no ≠ no := fun _ hx =>
  bne_iff_ne.mp (List.mem_filter.mp hx).2

theorem slots_copyDone (o : HodOp) (d : HodDest) (k : Held) (c : Core) :
    (withRecord k (withoutOp o.no (copyDone o d c))).slots = c.slots := rfl

theorem not_forward_of_copy (h : o.kind = .push ∨ o.kind = .tile) : o.kind ≠ .forward := by
  rcases h with h | h <;> rw [h] <;> exact nofun

theorem not_rim_of_copy (h : o.kind = .push ∨ o.kind = .tile) : o.kind ≠ .rim := by
  rcases h with h | h <;> rw [h] <;> exact nofun

theorem CopyLanded.takes (h : s.CopyLanded o d p since pid) : (copyDone o d (s.core pid)).Takes pid := ⟨h.fenced, h.here, h.saved⟩

theorem CopyLanded.next (h : s.CopyLanded o d p since pid) (hmay : s.hodMayEnd pid (doneOp o d) = true) :
    exec .hodDestCompletion s = .next ((d.notes.foldl (fun w n => w.sendCount pid (s.slot (s.holder pid) o.slot) n)
      ((s.taken s.spot.place).onCore pid (copyDone o d))).finishHod pid (doneOp o d)) :=
  hodDestCompletion_next h.packet h.load h.since_le h.op h.dests h.todo h.failed h.code h.refused h.runs (not_rim_of_copy h.kind) hmay

/-- A copy without a clip record ends with its notices and its byte count. -/
theorem CopyLanded.ends_plain (h : s.CopyLanded o d p since pid) (hclip : o.clip = none) :
    ∃ t, exec .hodDestCompletion s = .next t ∧ s.CopyEnded o pid t ∧
      t.net = (d.notes.foldl (fun w n => w.sendCount pid (s.slot (s.holder pid) o.slot) n)
        ((s.taken s.spot.place).onCore pid (copyDone o d))).net := by
  have hforward := not_forward_of_copy h.kind
  have hnext := h.next (hodMayEnd_plain (o := doneOp o d) hforward rfl hclip h.runs h.here h.saved)
  obtain ⟨ps, hps⟩ := sendCounts_eq pid (s.slot (s.holder pid) o.slot) d.notes ((s.taken s.spot.place).onCore pid (copyDone o d))
  let B : State := { s with net := (s.taken s.spot.place).net ++ ps }
  have hsent : (d.notes.foldl (fun w n => w.sendCount pid (s.slot (s.holder pid) o.slot) n)
      ((s.taken s.spot.place).onCore pid (copyDone o d))) = B.onCore pid (copyDone o d) := hps
  obtain ⟨ac, hfinish⟩ := finishHod_plain (s := B) (o := doneOp o d) h.takes hforward rfl hclip
  obtain ⟨hg, hmark, hhods, -⟩ := completed_ended (B := B.dropLocks (some (.cluster (pid / 8))) pid 1 o.no)
    (H := fun c => withoutOp o.no (copyDone o d c)) (core_dropLocks B _ _ _ _ _) rfl (withoutOp_gone o.no _) h.slot hfinish
  rw [hsent] at hnext ⊢
  exact ⟨(B.onCore pid (copyDone o d)).finishHod pid (doneOp o d), hnext, ⟨(congrArg State.mem hfinish).trans rfl, hg, hmark, hhods⟩,
    (congrArg State.net hfinish).trans rfl⟩

/-- A copy with a clip record leaves the record in a general entry of its core. -/
theorem CopyLanded.ends_clip (h : s.CopyLanded o d p since pid) {handler : Nat} {data : List Word} (hclip : o.clip = some (handler, data))
    (hnotes : d.notes = []) (htakes : s.TakesRecord pid) (hfw : (s.slot pid o.slot).fw = false) (hrank : s.rankOf pid < 65536) :
    ∃ (t : State) (k : Held), exec .hodDestCompletion s = .next t ∧ s.CopyEnded o pid t ∧ t.net = (s.taken s.spot.place).net ∧
      (t.core pid).part = (s.core pid).part ++ [k] ∧ k.msg.kind = 0 ∧ k.msg.isRecord = true ∧ k.msg.sel = Word.ofNat handler ∧
      k.msg.data = data := by
  have hforward := not_forward_of_copy h.kind
  have hnext := h.next (hodMayEnd_clip (o := doneOp o d) hforward rfl hclip h.runs h.here htakes hfw hrank)
  rw [hnotes] at hnext
  let B := s.taken s.spot.place
  have hended : ((B.dropLocks (some (.cluster (pid / 8))) pid 1 o.no).onCore pid fun c => withoutOp o.no (copyDone o d c)).TakesRecord pid :=
    takesRecord_ended htakes B.net ⟨_, _, rfl⟩
  have hslot : ((copyDone o d (B.core pid)).slot (doneOp o d).slot).fw = false := hfw
  obtain ⟨ac, k, hkind, hrecord, hsel, hdata, hfinish⟩ := finishHod_clip (s := B) (F := copyDone o d) (o := doneOp o d) h.takes hforward
    rfl hclip hslot hrank hended
  have hcore : (B.dropLocks (some (.cluster (pid / 8))) pid 1 o.no).tick.core pid = s.core pid :=
    (core_tick _ _).trans (core_dropLocks B _ _ _ _ _)
  obtain ⟨hg, hmark, hhods, hpart⟩ := completed_ended (H := fun c => withRecord k (withoutOp o.no (copyDone o d c))) hcore
    (slots_copyDone o d k _) (withoutOp_gone o.no _) h.slot hfinish
  exact ⟨(B.onCore pid (copyDone o d)).finishHod pid (doneOp o d), k, hnext, ⟨(congrArg State.mem hfinish).trans rfl, hg, hmark, hhods⟩,
    (congrArg State.net hfinish).trans rfl, hpart, hkind, hrecord, hsel, hdata⟩

end

end

end State

/-- A beat performed at its home leaves its bytes in memory, and is counted for its destination. -/
theorem beatPerformed {s : State} {o : HodOp} {d : HodDest} {b : Beat} {h : Home} (hb : b.dest = 0) (hop : s.hodOp b.core b.op = some o)
    (hd : o.dests = [d]) (hrefused : d.refused = none) (hwell : s.writesWell h = true) :
    let t := ((s.performBeat h b.pa b.bytes).performed h true).beatDone (.home h) b
    t.mem = Memory.storeBytes s.mem b.pa b.bytes ∧
      (∃ q e, t.hodOp b.core b.op = some q ∧ q.dests = [e] ∧ e.performed = d.performed + 1 ∧ e.refused = none) ∧
      ((o.todo ≠ [] ∨ d.performed + 1 ≠ d.sent ∨ d.told = true) → t.net = s.net) ∧
      (o.todo = [] → d.performed + 1 = d.sent → d.told = false →
        ∃ x, t.net = s.net ++ [x] ∧ x.dst = .cluster (b.core / 8) ∧
          x.load = .landed b.core b.op 0 (if b.since = 0 then 0 else s.coreAc b.core + 1)) := by
  obtain ⟨bad, cores, trseq, late, heq, hhods⟩ := performBeat_eq (pa := b.pa) (b := b.bytes) hwell
  rw [heq]
  let v : State := { s with mem := Memory.storeBytes s.mem b.pa b.bytes, bad := bad, cores := cores, trseq := trseq, late := late }
  have hop' : v.hodOp b.core b.op = some o := (congrArg (fun l : List HodOp => l.find? fun x : HodOp => x.no == b.op) (hhods b.core)).trans hop
  by_cases hlast : o.todo = [] ∧ d.performed + 1 = d.sent ∧ d.told = false
  · obtain ⟨htodo, hall, htold⟩ := hlast
    obtain ⟨x, hnet, hxdst, hxload, hmem, hq⟩ := v.beatDone_last (.home h) hb hop' hd htodo hall htold
    refine ⟨hmem, ⟨_, _, hq, rfl, rfl, hrefused⟩, fun hnot => ?_, fun _ _ _ => ⟨x, hnet, hxdst, hxload⟩⟩
    rcases hnot with h | h | h
    · exact absurd htodo h
    · exact absurd hall h
    · rw [htold] at h
      exact absurd h Bool.false_ne_true
  · have hnot : o.todo ≠ [] ∨ d.performed + 1 ≠ d.sent ∨ d.told = true := by
      rw [not_and_or, not_and_or, Bool.not_eq_false] at hlast
      exact hlast
    have hcount := v.beatDone_counts (.home h) hb hop' hd hnot
    have hq := v.hodOp_onDest (fun d => { d with performed := d.performed + 1 }) hb hop' hd
    have hcounted := (congrArg (fun t : State => t.hodOp b.core b.op) hcount).trans hq
    refine ⟨(congrArg State.mem hcount).trans rfl, ⟨_, _, hcounted, rfl, rfl, hrefused⟩,
      fun _ => (congrArg State.net hcount).trans rfl, fun htodo hall htold => absurd ⟨htodo, hall, htold⟩ hlast⟩

/-- Settles O48: a beat is taken at its source, performed at its home, and the last one ends the copy. -/
theorem hodBeats : Obligations.HodBeats := by
  intro s o d p b h va n off pid rest hd hkind
  have hmulticast : o.kind ≠ .multicast := by rcases hkind with h | h <;> rw [h] <;> exact nofun
  refine ⟨?_, ?_, ?_⟩
  · intro cid hruns hat hpid hnext hop hother ht hbad hplace m
    have hm : o.beatSize = m := beatSize_copy hd (not_forward_of_copy hkind) ht
    obtain ⟨x, hnet, hsrc, hdst, htc, hload, hmem, hop'⟩ := beatTaken_copy (cid := cid) hd hkind ht hplace hop
    obtain ⟨hdests, htodo⟩ := advance_copy hd ht o.beatSize
    rw [hpid] at hsrc
    rw [hm] at hload
    exact ⟨_, x, hodBeatInject_next rfl hruns hat hpid hnext hother hmulticast ht hbad, hnet, hsrc, hdst, htc, hload, by omega, hmem, _, hop',
      hdests, htodo.trans (by rw [hm]; rfl)⟩
  · intro hp hload hdst hb hop hrefused hlocked hpod href hruns hbusy hsince hwell hbad hwf
    let u := s.taken s.spot.place
    obtain ⟨hmem, hq, hcounts, hlast⟩ := beatPerformed (s := u) hb hop hd hrefused hwell
    refine ⟨_, hodBeatArrival_next hp hload hdst hb hop hd hpod
      (memoryBeat_performed (s := u) hrefused hlocked hkind href hruns hbusy hsince hbad), fun i hi => ?_, fun x hx => ?_, hq, hcounts, hlast⟩
    · rw [hmem, Memory.byte_storeBytes (m := u.mem) hwf, if_pos ⟨Nat.le_add_right _ _, Nat.add_lt_add_left hi _⟩, Nat.add_sub_cancel_left]
    · rw [hmem, Memory.byte_storeBytes (m := u.mem) hwf, if_neg (by omega)]
      rfl
  · intro since hp hload hsince hop ht hfailed hcode hrefused hruns hholder hsaved hfenced hf ended
    have hland : s.CopyLanded o d p since pid :=
      ⟨hd, hkind, hp, hload, hsince, hop, ht, hfailed, hcode, hrefused, hruns, hholder, hsaved, hfenced, hf⟩
    refine ⟨fun hclip => ?_, fun handler data hclip hnotes hhandler hcompute hstate hrank hfw hadm hring hclear hblocked hgeneral => ?_⟩
    · obtain ⟨t, hnext, hended, hnet⟩ := hland.ends_plain hclip
      refine ⟨t, hnext, hended, fun hnotes => ?_, fun k q hnotes hport hkrank hindex hrank => ?_⟩
      · rw [hnotes] at hnet
        exact hnet
      · rw [hnotes] at hnet
        obtain ⟨x, m, hsend, hcount⟩ := sendCount_says (u := (s.taken s.spot.place).onCore pid (copyDone o d))
          (f := s.slot (s.holder pid) o.slot) hport hkrank hindex hrank
        exact ⟨x, m, hnet.trans (congrArg State.net hsend), hcount⟩
    · obtain ⟨t, k, hnext, hended, hnet, hpart, hrecord, hsize, hsel, hdata⟩ := hland.ends_clip hclip hnotes
        ⟨hcompute, hstate, hsaved, hadm, hring, hclear, hblocked, hgeneral⟩ hfw hrank
      refine ⟨t, k, hnext, hended, hnet, hpart, hrecord, hsize, ?_, hdata⟩
      rw [hsel, fld_low, Word.ofNat, BitVec.toNat_ofNat]
      omega

end Sys2Proof.Machine
end
